-- ==== Sys2Proof/Word.lean ====
section
/-!
DEFINITION. Word.lean: the word types of the X9 and their plainest arithmetic. Numbers, bit order and byte order
follow R1, R4 and R5.
-/

namespace Sys2Proof

/-- One byte. -/
abbrev Byte := BitVec 8
/-- One 32-bit word: a register of one lane, an instruction word, a literal. -/
abbrev Word := BitVec 32
/-- A 64-bit value: a pair of registers, an address, a program counter. -/
abbrev Dword := BitVec 64
/-- A set of lanes, one bit for each (R4: bit l is lane l). -/
abbrev Mask := BitVec 32

/-- A register number, or any other eight-bit field of an instruction word. -/
abbrev Reg := BitVec 8

/-- The bits [hi:lo] of a number (R4). -/
def bits (x hi lo : Nat) : Nat := x / 2 ^ lo % 2 ^ (hi + 1 - lo)

/-- Bit n of a number. -/
def bit (x n : Nat) : Bool := x.testBit n

/-- A truth value as a word: 1 or 0. -/
def Word.ofBool (b : Bool) : Word := if b then 1 else 0

/-- The signed value of the low n bits of a number (R14, sext). -/
def sext (x n : Nat) : Int :=
  if x % 2 ^ n < 2 ^ (n - 1) then (x % 2 ^ n : Nat) else ((x % 2 ^ n : Nat) : Int) - 2 ^ n

/-- The low n bits of an integer (R14, wrap). -/
def wrap (x : Int) (n : Nat) : Nat := (x % (2 ^ n : Nat)).toNat

/-- x clamped to lo..hi (R14, sat). -/
def sat (x lo hi : Int) : Int := max lo (min x hi)

/-- The lanes of a mask, in ascending order. -/
def lanesOf (m : Mask) : List Nat := (List.range 32).filter (fun l => m.getLsbD l)

/-- The mask that holds the lanes of a list. -/
def maskOf (ls : List Nat) : Mask := ls.foldl (fun m l => m ||| (1#32 <<< l)) 0#32

/-- The mask of lanes 0 to w - 1. -/
def lowMask (w : Nat) : Mask := BitVec.ofNat 32 (2 ^ w - 1)

/-- The bytes of the low n bytes of a value, lowest address first (R5). -/
def bytesOf : (n : Nat) → (x : Nat) → List Byte
  | 0, _ => []
  | n + 1, x => BitVec.ofNat 8 x :: bytesOf n (x / 256)

/-- The value of bytes given lowest address first (R5). -/
def ofBytes : List Byte → Nat
  | [] => 0
  | b :: bs => b.toNat + 256 * ofBytes bs

end Sys2Proof
end

