-- ==== Sys2Proof/Config.lean ====
section
/-!
DEFINITION. Config.lean: what an implementation fixes and the values the spec leaves open. Each free value is an opaque
constant: nothing can evaluate it or prove a value of it (log entries 1 to 4).
-/

namespace Sys2Proof.Config

/-- A byte the spec leaves undefined, drawn anew for each step and address: HBM4 never written (R487), host and peer
memory (R239), image bytes with no stated layout (R234). Log entry 1. -/
opaque freeByte : Nat → Nat → Byte

/-- The outcome taken where the spec allows several (R10): step counter, place of the choice, an index of an allowed
outcome after reduction modulo their number. Log entry 2. -/
opaque choice : Nat → Nat → Nat

/-- A candidate for a value that the spec bounds but does not fix (R178, R179): step counter, place. Log entry 3. -/
opaque freeWord : Nat → Nat → Nat

/-- SOCKCAP.STEP of a socket: fused in the passenger, not fixed for the DVX-9 (R19). Log entry 4. -/
opaque socketStep : Nat → BitVec 8

/-- MXCAP.MAXM as fixed in test (R133), before it is brought to a multiple of 8 from 8 to 128. Log entry 4. -/
opaque testedMaxM : Nat → Nat

/-- Whether the root complex supports an AtomicOp of so many bytes: its PCIe capability says so (R294). Log entry 4. -/
opaque rootSupports : Nat → Bool

/-- The security version that I/O die 12's fuses count (R463). Log entry 4. -/
opaque fusedVersion : Nat

/-- What the device answers SPDM requests with (R464): the boot ROM's measurement, that of a firmware block in place, the fused secret, the
identity key derived from it, the certificate chain that vouches for the key, the hash of a transcript, and the two signatures over it.
Log entry 4. -/
opaque bootRom : Nat
opaque measured : Nat → List Nat → Nat
opaque fusedSecret : Nat
opaque identityKey : Nat → Nat → Nat
opaque certificates : Nat → List Nat
opaque transcript : Nat → Nat → Nat → Nat
opaque ecdsaP384 : Nat → Nat → Nat
opaque lmsSign : Nat → Nat → Nat

/-- How many records the ring of a replay log holds (R330); log entry 84. -/
opaque replayRecords : Nat

/-- MXCAP.MAXM of a core: a multiple of 8 from 8 to 128 (R133). -/
def coreMaxM (core : Nat) : Nat := 8 * (testedMaxM core % 16 + 1)

end Sys2Proof.Config
end

