-- ==== Sys2Proof/Syntax.lean ====
section
/-!
DEFINITION. Syntax.lean: the instructions of Smiroth and the events of the package, one constructor for each row of the
opcode table. Instruction rows carry their operand fields as encoded (R72 to R77); event rows carry what names the agent
or the datum of the event (log entry 5).
-/

namespace Sys2Proof

/-- The b operand of a form-A instruction: a register, or the literal that stands for it (R73). -/
inductive Src where
  | reg (n : Reg)
  | lit32 (w : Word)
  | lit64 (w : Dword)
  deriving DecidableEq, Repr

/-- The access word of a memory instruction, field by field (R76). -/
structure Access where
  offset : BitVec 16
  label : BitVec 3
  scope : BitVec 3
  size : BitVec 3
  hint : BitVec 2
  op : BitVec 5
  deriving DecidableEq, Repr

/-- The literal of a slot: none, 32 bits or 64 bits (R66). -/
inductive Lit where
  | none
  | l32 (w : Word)
  | l64 (w : Dword)
  deriving DecidableEq, Repr

/-- An entry of an I/O die's route table (R454): the ports towards the peer, numbered 0 to 17 over the package, and the destination
address of its frames. -/
structure Route where
  ports : List Nat
  address : Nat
  deriving DecidableEq, Repr

/-- One constructor for each row of the opcode table: instructions with operands, events that happen of themselves, then what has
no field and what comes from outside. -/
inductive Instr where
  | add (d a : Reg) (b : Src)
  | sub (d a : Reg) (b : Src)
  | mul (d a : Reg) (b : Src)
  | mulhiI32 (d a : Reg) (b : Src)
  | mulhiN32 (d a : Reg) (b : Src)
  | mad (d a : Reg) (b : Src)
  | addI64 (d a : Reg) (b : Src)
  | subI64 (d a : Reg) (b : Src)
  | mulwI32 (d a : Reg) (b : Src)
  | mulwN32 (d a : Reg) (b : Src)
  | minI32 (d a : Reg) (b : Src)
  | maxI32 (d a : Reg) (b : Src)
  | minN32 (d a : Reg) (b : Src)
  | maxN32 (d a : Reg) (b : Src)
  | addi (d : Reg) (imm : BitVec 16)
  | ldi (d : Reg) (imm : BitVec 16)
  | and (d a : Reg) (b : Src)
  | or (d a : Reg) (b : Src)
  | xor (d a : Reg) (b : Src)
  | andn (d a : Reg) (b : Src)
  | shl (d a : Reg) (b : Src)
  | shrN32 (d a : Reg) (b : Src)
  | shrI32 (d a : Reg) (b : Src)
  | shli (d a imm : Reg)
  | shriN32 (d a imm : Reg)
  | shriI32 (d a imm : Reg)
  | bfeN32 (d a : Reg) (b : Src)
  | bfeI32 (d a : Reg) (b : Src)
  | bfi (d a : Reg) (b : Src)
  | popc (d a : Reg)
  | clz (d a : Reg)
  | brev (d a : Reg)
  | uAdd (d a : Reg) (b : Src)
  | uSub (d a : Reg) (b : Src)
  | uMul (d a : Reg) (b : Src)
  | uMulhiI32 (d a : Reg) (b : Src)
  | uMulhiN32 (d a : Reg) (b : Src)
  | uMad (d a : Reg) (b : Src)
  | uAddI64 (d a : Reg) (b : Src)
  | uSubI64 (d a : Reg) (b : Src)
  | uMulwI32 (d a : Reg) (b : Src)
  | uMulwN32 (d a : Reg) (b : Src)
  | uMinI32 (d a : Reg) (b : Src)
  | uMaxI32 (d a : Reg) (b : Src)
  | uMinN32 (d a : Reg) (b : Src)
  | uMaxN32 (d a : Reg) (b : Src)
  | uAddi (d : Reg) (imm : BitVec 16)
  | uLdi (d : Reg) (imm : BitVec 16)
  | uAnd (d a : Reg) (b : Src)
  | uOr (d a : Reg) (b : Src)
  | uXor (d a : Reg) (b : Src)
  | uAndn (d a : Reg) (b : Src)
  | uShl (d a : Reg) (b : Src)
  | uShrN32 (d a : Reg) (b : Src)
  | uShrI32 (d a : Reg) (b : Src)
  | uShli (d a imm : Reg)
  | uShriN32 (d a imm : Reg)
  | uShriI32 (d a imm : Reg)
  | uBfeN32 (d a : Reg) (b : Src)
  | uBfeI32 (d a : Reg) (b : Src)
  | uBfi (d a : Reg) (b : Src)
  | uPopc (d a : Reg)
  | uClz (d a : Reg)
  | uBrev (d a : Reg)
  | seteq (d a : Reg) (b : Src)
  | setne (d a : Reg) (b : Src)
  | setltI32 (d a : Reg) (b : Src)
  | setleI32 (d a : Reg) (b : Src)
  | setltN32 (d a : Reg) (b : Src)
  | setleN32 (d a : Reg) (b : Src)
  | setltI64 (d a : Reg) (b : Src)
  | seteqI64 (d a : Reg) (b : Src)
  | xchAt (d a : Reg) (b : Src)
  | xchBelow (d a : Reg) (b : Src)
  | xchAbove (d a : Reg) (b : Src)
  | xchMirror (d a : Reg) (b : Src)
  | vmask (d a : Reg)
  | vgroup (d a : Reg)
  | lred (d a imm : Reg)
  | faddF32 (d a : Reg) (b : Src)
  | fsubF32 (d a : Reg) (b : Src)
  | fmulF32 (d a : Reg) (b : Src)
  | ffmaF32 (d a : Reg) (b : Src)
  | fminF32 (d a : Reg) (b : Src)
  | fmaxF32 (d a : Reg) (b : Src)
  | fdivF32 (d a : Reg) (b : Src)
  | fsqrtF32 (d a : Reg)
  | fseteqF32 (d a : Reg) (b : Src)
  | fsetltF32 (d a : Reg) (b : Src)
  | fsetleF32 (d a : Reg) (b : Src)
  | fsetunF32 (d a : Reg) (b : Src)
  | faddiF32 (d : Reg) (imm : BitVec 16)
  | fmuliF32 (d : Reg) (imm : BitVec 16)
  | fclassF32 (d a : Reg)
  | fnmaF32 (d a : Reg) (b : Src)
  | faddF64 (d a : Reg) (b : Src)
  | fsubF64 (d a : Reg) (b : Src)
  | fmulF64 (d a : Reg) (b : Src)
  | ffmaF64 (d a : Reg) (b : Src)
  | fminF64 (d a : Reg) (b : Src)
  | fmaxF64 (d a : Reg) (b : Src)
  | fdivF64 (d a : Reg) (b : Src)
  | fsqrtF64 (d a : Reg)
  | fseteqF64 (d a : Reg) (b : Src)
  | fsetltF64 (d a : Reg) (b : Src)
  | fsetleF64 (d a : Reg) (b : Src)
  | fsetunF64 (d a : Reg) (b : Src)
  | faddiF64 (d : Reg) (imm : BitVec 16)
  | fmuliF64 (d : Reg) (imm : BitVec 16)
  | fclassF64 (d a : Reg)
  | fnmaF64 (d a : Reg) (b : Src)
  | haddF16x2 (d a : Reg) (b : Src)
  | hmulF16x2 (d a : Reg) (b : Src)
  | hfmaF16x2 (d a : Reg) (b : Src)
  | haddBf16x2 (d a : Reg) (b : Src)
  | hmulBf16x2 (d a : Reg) (b : Src)
  | hfmaBf16x2 (d a : Reg) (b : Src)
  | cvt (d a : Reg) (ovr : Bool) (rm : BitVec 2) (conv : BitVec 5)
  | qbx (d a : Reg) (ovr : Bool) (rm : BitVec 2) (len16 bx4 : Bool)
  | frcpF32 (d a : Reg)
  | frsqF32 (d a : Reg)
  | fexp2F32 (d a : Reg)
  | flog2F32 (d a : Reg)
  | fsinF32 (d a : Reg)
  | fcosF32 (d a : Reg)
  | frcpF64 (d a : Reg)
  | frsqF64 (d a : Reg)
  | ld (d a : Reg) (acc : Access)
  | st (d a : Reg) (acc : Access)
  | lda (d a b : Reg) (acc : Access)
  | atom (d a b : Reg) (acc : Access)
  | cas (d a b : Reg) (acc : Access)
  | cas2 (d a b : Reg) (acc : Access)
  | pf (a : Reg) (acc : Access)
  | evict (a : Reg) (acc : Access)
  | mov (d : Reg) (b : Src)
  | movI64 (d : Reg) (b : Src)
  | movx (d a : Reg) (b : Src)
  | movxr (d a b : Reg)
  | sel (d a : Reg) (b : Src)
  | sread (d : Reg) (imm : BitVec 16)
  | swrite (d : Reg) (imm : BitVec 16)
  | movh (d : Reg) (imm : BitVec 16)
  | bra (t j : BitVec 12)
  | brx (x : Bool) (a : Reg) (b : Src)
  | call (t : BitVec 12) (l : Reg)
  | ret (a : Reg)
  | joinw (d : Reg) (imm : BitVec 16)
  | trap (imm : BitVec 16)
  | brk (imm : BitVec 16)
  | emsave (d : Reg)
  | emset (a : Reg)
  | barInit (d a : Reg) (b : Src)
  | barArrive (d a : Reg) (b : Src)
  | barWait (d a : Reg) (b : Src)
  | fence (scope : BitVec 3)
  | waitc (d : Reg) (imm : BitVec 16)
  | uWaitring (d a : Reg) (b : Src)
  | barSync (d a : Reg) (b : Src)
  | uRecruit (d a : Reg)
  | uHloop (d a : Reg) (b : Src)
  | uHjoin (d a b : Reg)
  | setshape (d a : Reg)
  | mma (d a b : Reg)
  | mgath (d a : Reg)
  | mdrain (d a : Reg) (clear recomp : Bool)
  | mzero (d a b : Reg)
  | tld (d a : Reg) (acc : Access)
  | tst (d a b : Reg) (acc : Access)
  | cksum (d : Reg) (b : Src)
  | ckchk (d : Reg)
  | ckinj (d a : Reg) (b : Src)
  | copy (d a b : Reg)
  | copyTile (d a b : Reg)
  | copyGath (d a b : Reg)
  | copyScat (d a b : Reg)
  | copyRed (d a b : Reg)
  | copyConv (d a b : Reg)
  | launch (d a : Reg) (b : Src)
  | amsend (d a : Reg) (b : Src)
  | trctl (on : Bool)
  | trmark (imm : BitVec 16)
  | uLd (d a : Reg) (acc : Access)
  | uSt (d a : Reg) (acc : Access)
  | uAtom (d a b : Reg) (acc : Access)
  | smap (a b : Reg) (acc : Access)
  | sunmap (acc : Access)
  | sflush (acc : Access)
  | uCas (d a b : Reg) (acc : Access)
  | locq (d a : Reg)
  | tlbinvPage (a b : Reg)
  | tlbinvAsid (b : Reg)
  | asidset (d a b : Reg)
  | mgate (d a : Reg)
  | cntrd (d : Reg) (imm : BitVec 16)
  | cntset (d : Reg) (imm : BitVec 16)
  | sleep (imm : BitVec 16)
  | trapEntry (bid : Nat) (g : Nat)
  | joinwTimeout (bid : Nat) (g : Nat) (place : Nat)
  | starvationLimit (core : Nat) (quad : Nat)
  | issueSelect (core : Nat) (quad : Nat)
  | sleepExpiry (bid : Nat) (g : Nat) (place : Nat)
  | barrierWaitWake (bid : Nat) (g : Nat) (place : Nat)
  | waitcWake (bid : Nat) (g : Nat) (place : Nat)
  | waitringWake (bid : Nat) (g : Nat) (place : Nat)
  | resourceWake (bid : Nat) (g : Nat) (place : Nat)
  | firstTouchFill (bid : Nat) (line : Nat)
  | ldaReply (bid : Nat) (g : Nat) (id : Nat) (lane : Nat) (word : Nat)
  | helperForcedRelease (bid : Nat) (g : Nat)
  | matrixOpStart (core : Nat)
  | matrixSourceRelease (core : Nat) (range : Nat)
  | matrixOpComplete (core : Nat)
  | copyStart (bid : Nat) (opid : Nat)
  | copySourceRelease (bid : Nat) (opid : Nat)
  | copyLineArrival (bid : Nat) (opid : Nat)
  | copyComplete (bid : Nat) (opid : Nat)
  | copyFault (bid : Nat) (opid : Nat)
  | blockPlace (team : Nat)
  | contextStage (core : Nat) (bid : Nat)
  | blockStart (bid : Nat)
  | blockEnd (bid : Nat)
  | teamAbort (team : Nat)
  | handlerSpawn (core : Nat)
  | messageArrival (id : Nat)
  | teamDiscard (team : Nat)
  | teamSave (team : Nat)
  | teamRestore (team : Nat)
  | closeRequest (span : Nat) (slice : Nat)
  | implicitSplit (bid : Nat)
  | slotRenewal (bid : Nat)
  | slotPurge (bid : Nat)
  | atticSweep (line : Nat)
  | migrationFiller (entry : Nat)
  | inboundRouteAck (id : Nat) (span : Nat)
  | tracePeriodicSync (core : Nat)
  | remoteAtomicRetry (bid : Nat) (g : Nat) (place : Nat) (expired : Bool)
  | clockChange (die : Nat)
  | retrainingDeferralExpiry (stack : Nat)
  | join
  | yield
  | exit
  | uIsplit
  | uHrel
  | tretRetry
  | tretSkip
  | tretEnd
  | tlbinvAll
  | nop
  | gangStateError (bid : Nat) (g : Nat)
  | scoreboardSquash (bid : Nat) (g : Nat) (place : Nat)
  | boundaryDrain (core : Nat)
  | schedulerTake
  | tokenEvict (asid : Nat) (token : Nat)
  | launchPortWrite (queue : Nat) (offset : Nat) (data : List Byte)
  | qcmdNop (queue : Nat) (value : Nat)
  | qcmdBind (queue : Nat) (value : Nat)
  | qcmdUnbind (queue : Nat) (value : Nat)
  | qcmdEnable (queue : Nat) (value : Nat)
  | qcmdDisable (queue : Nat) (value : Nat)
  | qstatWrite (queue : Nat) (value : Nat)
  | qspillWrite (queue : Nat) (value : Nat)
  | preemptRequest (team : Nat) (deadline : Nat) (area : Nat) (nodrain : Bool) (nodiscard : Bool)
  | restoreRequest (team : Nat) (area : Nat)
  | endRequest (team : Nat)
  | preemptDiscardedOp (team : Nat)
  | resumeRetry (asid : Nat) (ticket : Nat)
  | resumeRefuse (asid : Nat) (ticket : Nat)
  | resumeEnd (asid : Nat) (ticket : Nat)
  | resumeDiscarded (asid : Nat) (ticket : Nat)
  | lineEvict (line : Nat)
  | inboundWrite (offset : Nat) (relaxed : Bool) (data : List Byte)
  | hostBar2Read (offset : Nat) (n : Nat)
  | hostSnoop (pa : Nat) (n : Nat) (data : Option (List Byte))
  | linkUp (coherent : Bool)
  | linkDown
  | errstatWrite (value : Nat)
  | trrpWrite (core : Nat) (value : Nat)
  | registerWrite (offset : Nat) (value : Nat)
  | traceLossWrite (core : Nat)
  | remoteWriteArrival (peer : Nat) (pa : Nat) (data : List Byte)
  | remoteAtomicArrival (peer : Nat) (seq : Nat) (replay : Bool) (pa : Nat) (n : Nat) (op : Nat) (x : Nat) (y : Nat)
  | frameResend (id : Nat) (port : Nat)
  | routeTableWrite (iodie : Nat) (peer : Nat) (route : Option Route) (acked : Nat)
  | mgmtQueueDisable (queue : Nat)
  | mgmtQueueEnable (queue : Nat)
  | mgmtDieReset (die : Nat) (disable : Bool)
  | mgmtDieEnable (die : Nat)
  | mgmtFaultQueueRead (asid : Nat)
  | mgmtControllerReset
  | ballastWrite (value : Nat)
  | hbmRateChange (stack : Nat) (rate : Nat)
  | hbmRetrainDone (stack : Nat) (outcome : Nat)
  | hbmStackReset (stack : Nat)
  | sensorSample (sensor : Nat) (temp : Int) (valid : Bool)
  | thermalDecision (die : Nat)
  | governorTest (power : Nat)
  | powerUp
  | firmwareImageLoad (target : Nat) (version : Nat) (ecdsa : Bool) (lms : Bool)
  | spdmRequest (request : Nat)
  | memoryPoison (pa : Nat)
  | ioParityError (id : Nat) (offset : Nat)
  | mgmtControllerResetRelease
  | recordingControl (queues : List Nat) (windows : List (Nat × Nat)) (on : Bool)
  deriving DecidableEq, Repr

/-- Whether a row is an event of the package: no instruction word stands for it. -/
def Instr.isEvent : Instr → Bool
  | .gangStateError _ _ => true
  | .scoreboardSquash _ _ _ => true
  | .trapEntry _ _ => true
  | .joinwTimeout _ _ _ => true
  | .starvationLimit _ _ => true
  | .issueSelect _ _ => true
  | .sleepExpiry _ _ _ => true
  | .barrierWaitWake _ _ _ => true
  | .waitcWake _ _ _ => true
  | .waitringWake _ _ _ => true
  | .resourceWake _ _ _ => true
  | .firstTouchFill _ _ => true
  | .ldaReply _ _ _ _ _ => true
  | .helperForcedRelease _ _ => true
  | .matrixOpStart _ => true
  | .matrixSourceRelease _ _ => true
  | .matrixOpComplete _ => true
  | .copyStart _ _ => true
  | .copySourceRelease _ _ => true
  | .copyLineArrival _ _ => true
  | .copyComplete _ _ => true
  | .copyFault _ _ => true
  | .blockPlace _ => true
  | .boundaryDrain _ => true
  | .contextStage _ _ => true
  | .blockStart _ => true
  | .blockEnd _ => true
  | .teamAbort _ => true
  | .schedulerTake => true
  | .tokenEvict _ _ => true
  | .handlerSpawn _ => true
  | .messageArrival _ => true
  | .launchPortWrite _ _ _ => true
  | .qcmdNop _ _ => true
  | .qcmdBind _ _ => true
  | .qcmdUnbind _ _ => true
  | .qcmdEnable _ _ => true
  | .qcmdDisable _ _ => true
  | .qstatWrite _ _ => true
  | .qspillWrite _ _ => true
  | .preemptRequest _ _ _ _ _ => true
  | .restoreRequest _ _ => true
  | .endRequest _ => true
  | .preemptDiscardedOp _ => true
  | .teamDiscard _ => true
  | .teamSave _ => true
  | .teamRestore _ => true
  | .resumeRetry _ _ => true
  | .resumeRefuse _ _ => true
  | .resumeEnd _ _ => true
  | .resumeDiscarded _ _ => true
  | .closeRequest _ _ => true
  | .implicitSplit _ => true
  | .lineEvict _ => true
  | .slotRenewal _ => true
  | .slotPurge _ => true
  | .atticSweep _ => true
  | .migrationFiller _ => true
  | .inboundWrite _ _ _ => true
  | .inboundRouteAck _ _ => true
  | .hostBar2Read _ _ => true
  | .hostSnoop _ _ _ => true
  | .linkUp _ => true
  | .linkDown => true
  | .errstatWrite _ => true
  | .trrpWrite _ _ => true
  | .registerWrite _ _ => true
  | .tracePeriodicSync _ => true
  | .traceLossWrite _ => true
  | .remoteWriteArrival _ _ _ => true
  | .remoteAtomicArrival _ _ _ _ _ _ _ _ => true
  | .remoteAtomicRetry _ _ _ _ => true
  | .frameResend _ _ => true
  | .routeTableWrite _ _ _ _ => true
  | .mgmtQueueDisable _ => true
  | .mgmtQueueEnable _ => true
  | .mgmtDieReset _ _ => true
  | .mgmtDieEnable _ => true
  | .mgmtFaultQueueRead _ => true
  | .mgmtControllerReset => true
  | .ballastWrite _ => true
  | .hbmRateChange _ _ => true
  | .hbmRetrainDone _ _ => true
  | .hbmStackReset _ => true
  | .sensorSample _ _ _ => true
  | .thermalDecision _ => true
  | .clockChange _ => true
  | .governorTest _ => true
  | .powerUp => true
  | .firmwareImageLoad _ _ _ _ => true
  | .spdmRequest _ => true
  | .memoryPoison _ => true
  | .ioParityError _ _ => true
  | .mgmtControllerResetRelease => true
  | .retrainingDeferralExpiry _ => true
  | .recordingControl _ _ _ => true
  | .add _ _ _ => false
  | .sub _ _ _ => false
  | .mul _ _ _ => false
  | .mulhiI32 _ _ _ => false
  | .mulhiN32 _ _ _ => false
  | .mad _ _ _ => false
  | .addI64 _ _ _ => false
  | .subI64 _ _ _ => false
  | .mulwI32 _ _ _ => false
  | .mulwN32 _ _ _ => false
  | .minI32 _ _ _ => false
  | .maxI32 _ _ _ => false
  | .minN32 _ _ _ => false
  | .maxN32 _ _ _ => false
  | .addi _ _ => false
  | .ldi _ _ => false
  | .and _ _ _ => false
  | .or _ _ _ => false
  | .xor _ _ _ => false
  | .andn _ _ _ => false
  | .shl _ _ _ => false
  | .shrN32 _ _ _ => false
  | .shrI32 _ _ _ => false
  | .shli _ _ _ => false
  | .shriN32 _ _ _ => false
  | .shriI32 _ _ _ => false
  | .bfeN32 _ _ _ => false
  | .bfeI32 _ _ _ => false
  | .bfi _ _ _ => false
  | .popc _ _ => false
  | .clz _ _ => false
  | .brev _ _ => false
  | .uAdd _ _ _ => false
  | .uSub _ _ _ => false
  | .uMul _ _ _ => false
  | .uMulhiI32 _ _ _ => false
  | .uMulhiN32 _ _ _ => false
  | .uMad _ _ _ => false
  | .uAddI64 _ _ _ => false
  | .uSubI64 _ _ _ => false
  | .uMulwI32 _ _ _ => false
  | .uMulwN32 _ _ _ => false
  | .uMinI32 _ _ _ => false
  | .uMaxI32 _ _ _ => false
  | .uMinN32 _ _ _ => false
  | .uMaxN32 _ _ _ => false
  | .uAddi _ _ => false
  | .uLdi _ _ => false
  | .uAnd _ _ _ => false
  | .uOr _ _ _ => false
  | .uXor _ _ _ => false
  | .uAndn _ _ _ => false
  | .uShl _ _ _ => false
  | .uShrN32 _ _ _ => false
  | .uShrI32 _ _ _ => false
  | .uShli _ _ _ => false
  | .uShriN32 _ _ _ => false
  | .uShriI32 _ _ _ => false
  | .uBfeN32 _ _ _ => false
  | .uBfeI32 _ _ _ => false
  | .uBfi _ _ _ => false
  | .uPopc _ _ => false
  | .uClz _ _ => false
  | .uBrev _ _ => false
  | .seteq _ _ _ => false
  | .setne _ _ _ => false
  | .setltI32 _ _ _ => false
  | .setleI32 _ _ _ => false
  | .setltN32 _ _ _ => false
  | .setleN32 _ _ _ => false
  | .setltI64 _ _ _ => false
  | .seteqI64 _ _ _ => false
  | .xchAt _ _ _ => false
  | .xchBelow _ _ _ => false
  | .xchAbove _ _ _ => false
  | .xchMirror _ _ _ => false
  | .vmask _ _ => false
  | .vgroup _ _ => false
  | .lred _ _ _ => false
  | .faddF32 _ _ _ => false
  | .fsubF32 _ _ _ => false
  | .fmulF32 _ _ _ => false
  | .ffmaF32 _ _ _ => false
  | .fminF32 _ _ _ => false
  | .fmaxF32 _ _ _ => false
  | .fdivF32 _ _ _ => false
  | .fsqrtF32 _ _ => false
  | .fseteqF32 _ _ _ => false
  | .fsetltF32 _ _ _ => false
  | .fsetleF32 _ _ _ => false
  | .fsetunF32 _ _ _ => false
  | .faddiF32 _ _ => false
  | .fmuliF32 _ _ => false
  | .fclassF32 _ _ => false
  | .fnmaF32 _ _ _ => false
  | .faddF64 _ _ _ => false
  | .fsubF64 _ _ _ => false
  | .fmulF64 _ _ _ => false
  | .ffmaF64 _ _ _ => false
  | .fminF64 _ _ _ => false
  | .fmaxF64 _ _ _ => false
  | .fdivF64 _ _ _ => false
  | .fsqrtF64 _ _ => false
  | .fseteqF64 _ _ _ => false
  | .fsetltF64 _ _ _ => false
  | .fsetleF64 _ _ _ => false
  | .fsetunF64 _ _ _ => false
  | .faddiF64 _ _ => false
  | .fmuliF64 _ _ => false
  | .fclassF64 _ _ => false
  | .fnmaF64 _ _ _ => false
  | .haddF16x2 _ _ _ => false
  | .hmulF16x2 _ _ _ => false
  | .hfmaF16x2 _ _ _ => false
  | .haddBf16x2 _ _ _ => false
  | .hmulBf16x2 _ _ _ => false
  | .hfmaBf16x2 _ _ _ => false
  | .cvt _ _ _ _ _ => false
  | .qbx _ _ _ _ _ _ => false
  | .frcpF32 _ _ => false
  | .frsqF32 _ _ => false
  | .fexp2F32 _ _ => false
  | .flog2F32 _ _ => false
  | .fsinF32 _ _ => false
  | .fcosF32 _ _ => false
  | .frcpF64 _ _ => false
  | .frsqF64 _ _ => false
  | .ld _ _ _ => false
  | .st _ _ _ => false
  | .lda _ _ _ _ => false
  | .atom _ _ _ _ => false
  | .cas _ _ _ _ => false
  | .cas2 _ _ _ _ => false
  | .pf _ _ => false
  | .evict _ _ => false
  | .mov _ _ => false
  | .movI64 _ _ => false
  | .movx _ _ _ => false
  | .movxr _ _ _ => false
  | .sel _ _ _ => false
  | .sread _ _ => false
  | .swrite _ _ => false
  | .movh _ _ => false
  | .bra _ _ => false
  | .brx _ _ _ => false
  | .call _ _ => false
  | .ret _ => false
  | .join => false
  | .joinw _ _ => false
  | .yield => false
  | .exit => false
  | .trap _ => false
  | .brk _ => false
  | .emsave _ => false
  | .emset _ => false
  | .barInit _ _ _ => false
  | .barArrive _ _ _ => false
  | .barWait _ _ _ => false
  | .fence _ => false
  | .uIsplit => false
  | .waitc _ _ => false
  | .uWaitring _ _ _ => false
  | .barSync _ _ _ => false
  | .uRecruit _ _ => false
  | .uHloop _ _ _ => false
  | .uHjoin _ _ _ => false
  | .uHrel => false
  | .setshape _ _ => false
  | .mma _ _ _ => false
  | .mgath _ _ => false
  | .mdrain _ _ _ _ => false
  | .mzero _ _ _ => false
  | .tld _ _ _ => false
  | .tst _ _ _ _ => false
  | .cksum _ _ => false
  | .ckchk _ => false
  | .ckinj _ _ _ => false
  | .copy _ _ _ => false
  | .copyTile _ _ _ => false
  | .copyGath _ _ _ => false
  | .copyScat _ _ _ => false
  | .copyRed _ _ _ => false
  | .copyConv _ _ _ => false
  | .launch _ _ _ => false
  | .amsend _ _ _ => false
  | .trctl _ => false
  | .trmark _ => false
  | .uLd _ _ _ => false
  | .uSt _ _ _ => false
  | .uAtom _ _ _ _ => false
  | .smap _ _ _ => false
  | .sunmap _ => false
  | .sflush _ => false
  | .uCas _ _ _ _ => false
  | .tretRetry => false
  | .tretSkip => false
  | .tretEnd => false
  | .locq _ _ => false
  | .tlbinvPage _ _ => false
  | .tlbinvAsid _ => false
  | .tlbinvAll => false
  | .asidset _ _ _ => false
  | .mgate _ _ => false
  | .cntrd _ _ => false
  | .cntset _ _ => false
  | .nop => false
  | .sleep _ => false

end Sys2Proof
end

