-- ==== Sys2Proof/Machine/State.lean ====
section
/-!
DEFINITION. Machine/State.lean: everything the spec gives the machine, as plain data, and the machine right after reset.
INVENTORY.md, heading State, lists each piece with the rule that names it.
-/

namespace Sys2Proof.Machine

open Sys2Proof

/-- A table keyed by numbers: pairs with strictly rising keys (Machine/Maps.lean keeps the form). -/
abbrev Tab (α : Type) := List (Nat × α)

/-- Why the machine stops with a fault. -/
inductive Fault where
  /-- Raised by an instruction row given to exec while no split is issuing: exec then has no packet, predicate or lane to
  work with. The step never does this. Safe: nothing is claimed of such a state. -/
  | noIssuingSplit
  deriving DecidableEq, Repr

/-- Why the machine refuses an instruction. -/
inductive Refusal where
  /-- Raised by an arm of exec whose instruction has no meaning yet. Safe: nothing follows from it. -/
  | notModelled (mnemonic : String)
  deriving DecidableEq, Repr

/-! ### Splits and join records (R401 to R405) -/

/-- An issue packet that a split has entered: its address and its four words (R64). -/
structure Packet where
  base : Dword
  w0 : Word
  w1 : Word
  w2 : Word
  w3 : Word
  deriving DecidableEq, Repr

/-- One lane's request to a peer: visible lane, address, sequence id and peer; its answer, once it has one: the old value, or
none where it has expired (R295). -/
structure RemoteReq where
  lane : Nat
  va : Nat
  seq : Nat
  peer : Nat
  answer : Option (Option Nat)
  deriving DecidableEq, Repr

/-- What a split waits for. The STATE code of R405 is read off it. -/
inductive Park where
  /-- Code 0. -/
  | ready
  /-- Code 1: bar.wait or bar.sync, past phase p of the object at va, with the scope of the acquire (R303). -/
  | barrier (va : Nat) (phase : Nat) (scope : Nat)
  /-- Code 1: u.waitring on the word at va (R305). -/
  | ring (va : Nat) (past : Nat) (scope : Nat)
  /-- Code 1: waitc (R400). -/
  | counter (n : Nat) (past : Nat)
  /-- Code 1: sleep, until the clock reaches a time (R446). -/
  | sleep (until_ : Nat)
  /-- Code 2: an absent line, a range lock, a full queue, a closed gate or a slice without room (R405). -/
  | resource
  /-- Code 3: a posting instruction at its rendezvous: its opcode, its C or B base, its b field, and the values of its
  register operands (R361, R362). -/
  | rendezvous (op d b : Nat) (vals : List Nat)
  /-- Code 4: an access that does not translate: the record it joined (R428), its address and its lanes. -/
  | translation (ticket : Nat) (va : Nat) (lanes : Mask)
  /-- Code 4: system software has refused the access; the split raises cause 0x09 as soon as it can (R429). -/
  | refused (va : Nat) (lanes : Mask)
  /-- Code 5: the recruiter at its last u.hjoin (R203). -/
  | loop
  /-- Code 2: a remote atomic of which requests got an error response and are sent again (R295): its destination registers,
  whether one result goes to every active lane, whether it counts as a release (R225), and its lanes' requests. -/
  | remote (d width : Nat) (uniform counts : Bool) (reqs : List RemoteReq)
  deriving DecidableEq, Repr

structure Split where
  rec_ : Nat
  mask : Mask
  pc : Dword
  park : Park
  /-- The cycle of the die at which the split last became ready (R345). -/
  since : Nat
  starve : Nat
  /-- The first cycle in which the split may issue (R69). -/
  readyAt : Nat
  packet : Option Packet
  lastIssue : Nat
  /-- The instruction at pc has been issued already and is tried again: it is not counted a second time (R417). -/
  again : Bool
  /-- Consecutive squashes of the instruction at pc (R222). -/
  squash : Nat
  /-- Made by a fusion and not issued yet: results in flight are written before it issues (R85). -/
  fused : Bool
  deriving DecidableEq, Repr

structure JoinRec where
  id : Nat
  outer : Nat
  jpc : Dword
  expect_ : Mask
  arrived : Mask
  aside : Mask
  wmask : Mask
  /-- The lanes that arrived through joinw, with the register each named (R411). -/
  wregs : List (Nat × Nat)
  armed : Bool
  /-- Cycles left before the timeout, 16 for each unit of TIMER, counted from armedAt. -/
  timer : Nat
  /-- Cycle of the die at which the timer was armed or last resumed. -/
  armedAt : Nat
  /-- A joinw of the record has timed out (R411). -/
  late : Bool
  deriving DecidableEq, Repr

/-- A gang's splits and records by place, places 0 to 7 on chip and the rest on the spill stack (R401), with the root
record's lanes (R402). -/
structure Tree where
  splits : Tab Split
  recs : Tab JoinRec
  rootExpect : Mask
  rootAside : Mask
  deriving DecidableEq, Repr

/-- One frozen layer of a gang: the tree a trap froze, the place that faulted, and the level held before (R209, R213). -/
structure Layer where
  tree : Tree
  place : Nat
  system : Bool
  deriving DecidableEq, Repr

/-! ### Faults on their way -/

/-- A fault as the trap registers will take it (R210). -/
structure Trap where
  cause : Nat
  mask : Mask
  pc : Dword
  addr : Dword
  info : Dword
  place : Nat
  deriving DecidableEq, Repr

/-- A fault held after issue, for a later instruction to take (R288, R377, R397); for a matrix fault, the register blocks of
the failed operations, as first register and count. -/
structure Held where
  cause : Nat
  mask : Mask
  addr : Dword
  info : Dword
  ranges : List (Nat × Nat)
  deriving DecidableEq, Repr

/-- Where a piece of an access lies. -/
inductive Place where
  /-- A byte of a core's stash, in the direct region of a block; own tells whether it is the accessor's. -/
  | stash (core off : Nat) (bid : Nat) (own : Bool)
  /-- A mapped line of the accessor's own stash, and the virtual address behind it (R306). -/
  | mapped (core off : Nat) (bid : Nat) (back : Nat)
  | hbm (pa attr : Nat)
  | cellar (pa attr : Nat)
  | peer (pa : Nat)
  deriving DecidableEq, Repr

/-- A piece of an access: its first byte, its length, and where it lies. -/
structure Piece where
  va : Nat
  n : Nat
  place : Place
  deriving DecidableEq, Repr

/-- A split-phase load in flight: destination, size, sign extension, and the lanes and register words still to come
(R287); a lane's held fault (R288); the values a reply has captured. -/
structure Lda where
  id : Nat
  counter : Nat
  acc : Access
  /-- The key of the first destination register, by physical lane. -/
  keys : Tab Nat
  /-- Address and places of each access, by the physical lane that makes it. -/
  addrs : Tab (Nat × List Piece)
  pending : List (Nat × Nat)
  captured : Tab (List Word)
  dropped : List (Nat × Nat)
  held : Tab Held
  interval : Nat
  counted : Bool
  /-- Its held fault has been taken by the trap of this many layers, whose tret decides what becomes of the held lanes
  (R288). -/
  taken : Option Nat
  deriving DecidableEq, Repr

/-- The half of a 16-byte read that the host has returned first (R468): the reader's place, recruiting lane and index, or, of a
split-phase load, its number; its physical lane; the address; and the bytes. -/
structure HalfRead where
  reader : Nat × Nat × Nat
  lane : Nat
  va : Nat
  bytes : List Byte
  deriving DecidableEq, Repr

/-! ### Helpers (R191 to R208) -/

/-- A helper: the gang and the physical lane that serve, and where its iteration stands. -/
structure Helper where
  index : Nat
  gang : Nat
  lane : Nat
  iter : Option Nat
  pc : Dword
  packet : Option Packet
  readyAt : Nat
  released : Bool
  /-- As for a split. -/
  again : Bool
  starve : Nat
  /-- Untrapped exceptions of its iteration, united into the recruiter's fflags at u.hjoin (R190). -/
  flags : Nat
  deriving DecidableEq, Repr

/-- A faulted iteration of a helper, kept in the helper area (R205). -/
structure HeldIter where
  iter : Nat
  index : Nat
  trap : Trap
  frame : Tab Word
  flags : Nat
  deriving DecidableEq, Repr

structure Loop where
  start : Word
  stride : Word
  count : Nat
  taken : Nat
  done : Nat
  acc : List Word
  op : Nat
  accReg : Nat
  first : Dword
  jpc : Dword
  iter0 : Option Nat
  fmode : Nat
  ftrap : Nat
  /-- Exceptions that a faulted helper had raised in the iteration that is now the recruiter's (R190, R205). -/
  flags : Nat
  stopped : Bool
  heldIters : List HeldIter
  /-- The recruiter's registers as they stood at u.hloop, where the accumulator starts (R202). -/
  snap : Tab Word
  /-- Handlers the recruiter was in at u.hloop (R197). -/
  depth : Nat
  deriving DecidableEq, Repr

/-- A recruitment: the recruiting lane's helpers and, while it runs, its loop. -/
structure Recruit where
  helpers : List Helper
  loop : Option Loop
  deriving DecidableEq, Repr

/-! ### Tiles and matrix records -/

/-- An entry of the tile tag table (R317). The table is a list, newest first, of entries in use. -/
structure Tag where
  base : Nat
  geom : Word
  scoff : Nat
  stale : Bool
  deriving DecidableEq, Repr

/-- An accumulation record (R366). -/
structure AccRec where
  base : Nat
  geom : Word
  kdepth : Nat
  clampRows : List Nat
  clampCols : List Nat
  deriving DecidableEq, Repr

/-- A fixed-latency result in flight: its register key, the value before it and the cycle it is due (R82, R83). -/
structure Fly where
  key : Nat
  old : Word
  due : Nat
  deriving DecidableEq, Repr

structure Gang where
  bid : Nat
  num : Nat
  role : Nat
  budget : Nat
  prot : Bool
  check : Bool
  /-- Registers by key: lane * 512 + n for vn, + 256 + n for kn; helper frames above 16384 (Machine/Regs.lean). -/
  regs : Tab Word
  fly : List Fly
  bad : List Nat
  dmask : Mask
  exited : Mask
  dsf : Mask
  fflags : Tab Nat
  tmask : Mask
  tpc : Dword
  tcause : Nat
  taddr : Dword
  tinfo : Dword
  tvec : Dword
  tdeleg : Dword
  fmode : Nat
  ftrap : Nat
  shape : Word
  acs : Tab Word
  tree : Tree
  layers : List Layer
  system : Bool
  ended : Bool
  tags : List Tag
  accs : List AccRec
  ldas : List Lda
  /-- First halves of 16-byte reads of the cellar on the fallback mapping (R468). -/
  halves : List HalfRead
  nextLda : Nat
  heldMatrix : List Held
  heldCopy : List Held
  recruits : Tab Recruit
  pending : Option Trap
  trace : Bool
  posts : Nat
  deriving DecidableEq, Repr

/-! ### Blocks and teams -/

/-- An entry of a block's stash map (R432). -/
structure MapEntry where
  hint : Nat
  g : Nat
  s : Nat
  l : Nat
  deriving DecidableEq, Repr

structure Block where
  bid : Nat
  slot : Nat
  core : Nat
  index : Nat
  team : Nat
  asid : Nat
  handler : Bool
  /-- Gang numbers of the block. -/
  gangs : List Nat
  regBytes : Nat
  stashBase : Nat
  stashNeed : Nat
  window : Bool
  started : Bool
  impSplits : Nat
  closeReq : Bool
  closeSeen : Bool
  /-- A wrap or a renewal has opened the new interval for a boundary that waits (R271). -/
  opened : Bool
  /-- A boundary waits for a wrap or a renewal (R271). -/
  wrapping : Bool
  /-- Stash lines of the block whose presence bit is clear, by offset / 128 (R241). -/
  absent : List Nat
  /-- Absent mapped lines whose first-touch fill has started (R242). -/
  fills : List Nat
  smap : Tab MapEntry
  /-- Dirty words of mapped lines, by offset / 4 (R307). -/
  dirty : List Nat
  opid : Nat
  /-- Copies whose completion is still to come, and matrix posts likewise (R47). -/
  copies : Nat
  mops : Nat
  deriving DecidableEq, Repr

/-- How far a team has come. -/
inductive TeamState where
  | live
  | draining
  | discarding
  | saving
  | saved
  | restoring
  | ending
  deriving DecidableEq, Repr

/-- A gang as a save keeps it, with its block (R230). -/
structure SavedBlock where
  block : Block
  gangs : List Gang
  stash : List Host.Cell
  /-- The image that was written to AREA, and its address. -/
  image : List Byte
  at_ : Nat
  deriving DecidableEq, Repr

structure Team where
  tid : Nat
  asid : Nat
  queue : Nat
  /-- The sixteen words of the launch packet (R336). -/
  packet : List Word
  taken : Nat
  state : TeamState
  nextBlock : Nat
  /-- Indices of blocks that a save found placed and not yet started (R230). -/
  requeued : List Nat
  ended : Nat
  releases : Nat
  tstart : Nat
  dlmiss : Nat
  frozen : Bool
  /-- A co-residency launch that waits at the head of its queue, and the cores chosen for it (R51). -/
  waited : Bool
  chosen : List Nat
  area : Nat
  savedBlocks : List SavedBlock
  /-- Whether an accepted pre-empt request still owes its record, and whether its deadline was missed. -/
  request : Option Bool
  /-- The clock by which the team's cores must be free (R224). -/
  deadline : Nat
  /-- For its record of kind 0x02: block slot, gang and trap registers (R34, R351). -/
  endTrap : Option (Nat × Nat × Trap)
  /-- The choice of a save or discard that has begun, for its record (R353). -/
  choice : Nat
  /-- Its first block has started. -/
  begun : Bool
  deriving DecidableEq, Repr

/-! ### Marks (R257, R258) -/

/-- The thread a stamp names: one, several of a slot, or none known after a spill (R268). -/
inductive Who where
  | thread (gang : Nat) (lane : Nat)
  | several
  | unknown
  deriving DecidableEq, Repr

structure Stamp where
  slot : Nat
  who : Who
  interval : Nat
  cls : Nat
  born : Nat
  deriving DecidableEq, Repr

/-- The marks of one word. -/
structure Mark where
  w : Option Stamp
  r : Option Stamp
  /-- PEND, with the core whose L1 holds the data. -/
  pend : Option Nat
  poison : Bool
  deriving DecidableEq, Repr

/-- A data entry of a home slice: its line, and what its secondary tag holds (R245). -/
structure SliceEntry where
  line : Nat
  second : Option Nat
  shelf : Bool
  deriving DecidableEq, Repr

/-- An interval-board entry (R267). STATE: 0 free, 1 live, 2 purging, 3 retired. -/
structure Board where
  interval : Nat
  state : Nat
  attic : Nat
  deriving DecidableEq, Repr

/-! ### Core -/

/-- An L1 line: its bytes by offset, and masks of its valid, dirty and stale words (R244, R266). -/
structure L1Line where
  line : Nat
  bytes : List Host.Cell
  valid : Mask
  dirty : Mask
  stale : Mask
  /-- Blocks, intervals and words already touched (R266). -/
  seen : List (Nat × Nat × Nat)
  deriving DecidableEq, Repr

/-- A range-lock entry (R430). -/
structure RangeLock where
  dest : Bool
  stash : Bool
  matrix : Bool
  owner : Nat
  base : Nat
  rowBytes : Nat
  rows : Nat
  stride : Int
  opid : Nat
  deriving DecidableEq, Repr

structure TlbEntry where
  asid : Nat
  level : Nat
  page : Nat
  pte : Nat
  deriving DecidableEq, Repr

/-- A copy in the queue (R379, R382). -/
structure Copy where
  bid : Nat
  opid : Nat
  pb : List Word
  pbAddr : Nat
  slot : Nat
  bar : Nat
  lane : Nat
  interval : Nat
  system : Bool
  /-- 0 queued, 1 moving, 2 ended. -/
  phase : Nat
  row : Nat
  col : Nat
  indices : List Nat
  bytes : Nat
  aux : Nat
  /-- STATUS and FAULT of the record, once the copy has ended. -/
  status : Nat
  cause : Nat
  /-- A fault met and not yet held in the gang (R396, R397). -/
  fault : Option Held
  /-- Range-lock entries of sources and of destinations. -/
  srcLocks : List Nat
  dstLocks : List Nat
  /-- The two header words of a source frame, as read at issue, and what is still to be written of its destination (R387). -/
  header : List Nat
  work : List (Nat × List Byte)
  /-- Ticket of a translation record the copy waits on, the steps of R395 already made, and whether ring steps are left out. -/
  ticket : Option Nat
  done : Nat
  ringOff : Bool
  deriving DecidableEq, Repr

/-- A matrix operation in the FIFO, named by its opcode, with what was read at post (R359, R364). -/
structure MatOp where
  kind : Nat
  bid : Nat
  quartet : Nat
  m : Nat
  n : Nat
  k : Nat
  /-- Base of C, or of B for mgath, and B base, of each gang. -/
  cbase : List Nat
  bbase : List Nat
  /-- Registers that each gang's destination block and its B block span (R311). -/
  cregs : Nat
  bregs : Nat
  block : List Word
  blockAddr : Nat
  bar : Nat
  cfmt : Nat
  flagA : Bool
  flagB : Bool
  intervals : List Nat
  lanes : List Nat
  /-- What each gang's block was at post: 0 new, 1 record, 2 valid tag, 3 stale or absent, 4 to be cleared, 5 untouched. -/
  before : List Nat
  records : List AccRec
  cancelled : Bool
  started : Bool
  /-- The posting instruction of each gang (R223). -/
  pcs : List Dword
  /-- Slot of the block and cycle of the post (R364). -/
  slot : Nat
  cyc : Nat
  /-- Range-lock entries: of sources, and of the destination. -/
  srcLocks : List Nat
  dstLocks : List Nat
  /-- What the engine has read of its sources, and the translation record it waits on. -/
  image : List (List Byte)
  ticket : Option Nat
  fail : Option Held
  deriving DecidableEq, Repr

/-- An active message (R342). -/
structure Message where
  id : Nat
  dest : Nat
  fromHandler : Bool
  payload : List Word
  handler : Nat
  core : Nat
  peer : Option Nat
  slot : Nat
  asid : Nat
  system : Bool
  deriving DecidableEq, Repr

/-- A trace unit (R346 to R348, R480). -/
structure Trace where
  base : Nat
  size : Nat
  wp : Nat
  rp : Nat
  lastCycle : Nat
  syncCycle : Nat
  sinceSync : Nat
  dropped : Nat
  losing : Bool
  synced : List Nat
  /-- The splits of the traced gangs at the start of this cycle: gang, and the two words of its sync packet (R478). -/
  snap : List (Nat × Nat × Nat)
  /-- The packets of this cycle: gang, number of the gang, whether DT is to be filled in, and the rest of the packet (R478). -/
  pending : List (Nat × Nat × Bool × Nat)
  deriving DecidableEq, Repr

structure Core where
  bndreg : Nat
  bndstash : Nat
  bndcache : Nat
  l1 : List L1Line
  locks : Tab RangeLock
  tlb : List TlbEntry
  copies : List Copy
  fifo : List MatOp
  msgs : List Message
  /-- The block staged in the cupboard, and its image (R235). -/
  cupboard : Option (Nat × List Byte)
  trace : Trace
  cycleBase : Nat
  issued : Nat
  /-- The cycle in which the core last issued, and its slots of that cycle (R444). -/
  slotCycle : Nat
  slots : Nat
  ckcorr : Nat
  ckrecomp : Nat
  ckinj : Nat
  laneDeath : Nat
  squash : Nat
  /-- What these five counters held when the cycle began, by counter number (R444). -/
  starts : Tab Nat
  /-- Peer-window writes not yet acknowledged (peer, address), and the first dropped one a release must report (R455). -/
  peerWrites : List (Nat × Nat)
  peerDropped : Option Nat
  /-- The stager's parameter-block cache: block, address and words, newest first (R385). -/
  pbcache : List (Nat × Nat × List Word)
  /-- Cycles that a handler block has been free to start without starting (R54). -/
  spawnWait : Tab Nat
  deriving DecidableEq, Repr

/-! ### Package -/

structure Queue where
  en : Bool
  ovr : Bool
  bound : Option Nat
  /-- QSTAT.ASID keeps its value after an unbind. -/
  asid : Nat
  mhold : Bool
  cmderr : Bool
  qdrop : Nat
  qspill : Nat
  qseq : Nat
  /-- Packets with their team identifiers, head first. -/
  packets : List (Nat × List Word)
  deriving DecidableEq, Repr

structure Descriptor where
  root : Nat
  sysentry : Dword
  fqbase : Nat
  fqsize : Nat
  htab : Nat
  deriving DecidableEq, Repr

/-- An unresolved translation record (R428). -/
structure TransRec where
  ticket : Nat
  asid : Nat
  write : Bool
  exec_ : Bool
  level : Nat
  va : Nat
  /-- Words 1 to 7 of its record while the fault queue has no room for it (R351). -/
  unwritten : List Nat
  deriving DecidableEq, Repr

/-- A migration entry in use (R433): gating or pulling. -/
structure Migration where
  asid : Nat
  size : Nat
  va : Nat
  newPa : Nat
  oldPa : Nat
  bitmap : Nat
  done : Nat
  pulling : Bool
  deriving DecidableEq, Repr

structure Die where
  /-- SOCKCAP.STATE of the die's socket. -/
  state : Nat
  /-- The arithmetic clock in units of 250 MHz, and a change decided (R460). -/
  clock : Nat
  pendingClock : Option Nat
  /-- Twelfths of a cycle run since the last whole cycle, and cycles since power-up. -/
  phase : Nat
  cycle : Nat
  renew : Nat
  /-- What RENEW held when the cycle began (R444). -/
  renewStart : Nat
  perf : Tab Nat
  /-- The cycle in which a performance counter last counted, and what each counted in it (R444). -/
  countCycle : Nat
  recent : Tab Nat
  deriving DecidableEq, Repr

structure Stack where
  state : Nat
  rate : Nat
  pendingRate : Option Nat
  retraining : Bool
  /-- The clock when a change began to wait for a save (R466). -/
  deferred : Option Nat
  rtdefer : Nat
  /-- What RTDEFER held a third of a nanosecond ago (R444). -/
  rtdeferStart : Nat
  /-- Row of R461, 0 to 3. -/
  refresh : Nat
  deriving DecidableEq, Repr

structure Sensor where
  temp : Int
  valid : Bool
  level : Nat
  deriving DecidableEq, Repr

/-- An inbound write at the I/O die: from the host link or from a peer; its first address, the pieces that are still to be performed,
spans still to be acknowledged, and words that a parity error has spoiled (R451, R452, R455, R458, R473). -/
structure Inbound where
  id : Nat
  source : Option Nat
  base : Nat
  parts : List (Nat × List Byte)
  spans : List Nat
  relaxed : Bool
  sent : Bool
  spoiled : List Nat
  deriving DecidableEq, Repr

inductive LinkMode where
  | down
  | coherent
  | fallback
  deriving DecidableEq, Repr

/-- The replay window of one source device (R295). -/
structure ReplayWindow where
  window : List (Nat × Nat)
  older : List Nat
  deriving DecidableEq, Repr

/-- A record of the replay log (R350). -/
inductive LogEntry where
  | launch (time tid : Nat) (packet : List Word)
  | inbound (time pa : Nat) (data : List Byte)
  | message (time : Nat) (m : Message)
  | clock (time value : Nat)
  deriving DecidableEq, Repr

/-- The replay log of a set of recorded queues (R330, R350). -/
structure ReplayRing where
  queues : List Nat
  entries : List LogEntry
  deriving DecidableEq, Repr

/-- A signed answer to a request for a measurement block (R464): a measurement of firmware, or of block 4 the link mode, the HBM4 rates
and BALLAST; the certificate chain; the ECDSA P-384 signature over the transcript; and block 0xF0, the LMS signature over it. -/
structure SpdmReport where
  block : Nat
  measurement : Nat
  config : Option (LinkMode × List Nat × Nat)
  certificates : List Nat
  signature : Nat
  lms : Nat
  deriving DecidableEq, Repr

/-- A write that the host may not post yet, or a read of BAR2 that waits: for the host's writes numbered below `after`, and for a home. -/
inductive HostRequest where
  | write (offset : Nat) (relaxed : Bool) (data : List Byte)
  | read (after offset n : Nat)
  deriving DecidableEq, Repr

/-- A line that finds no room in its set: the set, as slice * 1024 + set, and the block whose access waits (R269, R270). -/
structure Want where
  set : Nat
  line : Nat
  bid : Nat
  deriving DecidableEq, Repr

/-- A re-run of a replay log: the clock values still to be returned, and the branch and target packets still to be compared,
by core (R350). -/
structure Rerun where
  clocks : List Nat
  packets : Tab (List Nat)
  /-- Team, block index and core of every recorded placement; 2 ^ 40 more than its new identifier once the team's launch has been
  injected. -/
  places : List (Nat × Nat × Nat)
  /-- Launches and inbound events still to be injected, in log order. -/
  inputs : List LogEntry
  deriving DecidableEq, Repr

/-- Which split, or which helper of a recruiter's loop, issues in this cycle. -/
inductive Issuer where
  | split (place : Nat)
  | helper (lane : Nat) (index : Nat)
  deriving DecidableEq, Repr

structure Issue where
  bid : Nat
  gang : Nat
  who : Issuer
  deriving DecidableEq, Repr

/-- What reaches the package from outside that no row of the opcode table stands for. -/
inductive Stimulus where
  /-- An uncorrectable error strikes a register of a gang (R219). -/
  | registerError (gid key : Nat)
  /-- An active message arrives from a peer (R344, R456). -/
  | peerMessage (m : Message)
  /-- The management controller resets a queue (R29, R330). -/
  | queueReset (queue : Nat)
  /-- A posted write to the pre-emption port (R353). -/
  | preemptPort (data : List Byte)
  /-- A re-run of a replay log begins (R350). -/
  | rerun (r : Rerun)
  /-- System software reads eight bytes of the control aperture (R331, R449). -/
  | bar0Read (offset : Nat)
  /-- A fundamental reset of the host link (R447). -/
  | linkReset
  deriving DecidableEq, Repr

structure State where
  /-- Steps taken: the counter that every free value is applied to (log entries 1 to 3). The model's own. -/
  serial : Nat
  /-- Thirds of a nanosecond since power-up completed (R445, R460). -/
  time : Nat
  /-- What issues next; and the events that other agents bring, in order, each with the time before which it does not come
  (log entry 6). The model's own. -/
  issue : Option Issue
  agenda : List (Nat × Instr)
  /-- Likewise what no row of the table stands for. -/
  stimuli : List (Nat × Stimulus)
  /-- Quads (core * 5 + quad, 4 the stager) still to select in this cycle. The model's own. -/
  turns : List Nat
  nextBid : Nat
  nextId : Nat
  mem : List Host.Cell
  /-- Packets by address that have been written while a team was live: the clock and the packet before it (R86). -/
  rewritten : Tab (List (Nat × List Byte))
  /-- Writes of the device itself that wait for a stack which is being retrained, oldest first (R465). -/
  heldWrites : List (Nat × List Byte)
  /-- Cellar words that an atomic of a narrower scope than system has written in this third of a nanosecond (R293). -/
  narrow : List Nat
  /-- Lines whose tag stands in their slice without their data: lines that it does not cache, whose marks it keeps (R247), and lines whose
  copy the host has snooped out while marks of them are open (R467). -/
  hollow : List Nat
  /-- Lines for which an access has found no room in its slice, each with its set and the block that waits (R270). -/
  wants : List Want
  side : Tab (BitVec 128)
  marks : Tab Mark
  slices : Tab (List SliceEntry)
  selectors : Tab Nat
  boards : Tab Board
  cores : Tab Core
  gangs : Tab Gang
  blocks : Tab Block
  teams : Tab Team
  clusterTlbs : Tab (List TlbEntry)
  queues : Tab Queue
  /-- The queue served last at each PRIO (R335). -/
  lastQueue : Tab Nat
  /-- Packets that wait at their queue's port for a token entry (R338), oldest first. -/
  ports : List (Nat × List Word)
  tokens : Tab Bool
  identifiers : Tab Descriptor
  fqdrop : Tab Nat
  /-- What FQDROP held a third of a nanosecond ago (R444). -/
  fqdropStart : Tab Nat
  tickets : Tab Nat
  transRecs : List TransRec
  migrations : Tab Migration
  flying : List Message
  /-- Messages that the I/O dies have accepted for a peer, oldest first (R342, R456). -/
  outbox : List (Nat × Message)
  /-- Writes of the device itself to peers, not yet acknowledged: peer, address and bytes (R286, R339, R455). -/
  peerPosted : List (Nat × Nat × List Byte)
  /-- The port on which a frame of the transport was last sent again, by the frame's number (R454). -/
  framePorts : Tab Nat
  dies : Tab Die
  /-- SOCKCAP.STATE of sockets 12 and 13, the I/O dies (R19). -/
  ioStates : Tab Nat
  hbm : Tab Stack
  ioRateHalved : List Nat
  sensors : Tab Sensor
  errstat : Nat
  msix0 : Nat
  msix1 : Nat
  link : LinkMode
  /-- The mode that the link holds until the next fundamental reset, once it has trained (R447). -/
  linkMode : Option LinkMode
  inbound : List Inbound
  /-- What the host still holds on its side of the link: writes for which it has no posted-write credit, and reads of BAR2 that wait
  for earlier writes or for a home (R452, R474, R475), oldest first. -/
  hostHeld : List HostRequest
  /-- Writes reported as Unsupported Requests through PCI Express advanced error reporting (R472). -/
  unsupported : Nat
  /-- A parity error has met the next device read from the cellar (R458). -/
  parityRead : Bool
  /-- The route tables of I/O dies 12 and 13, one after the other, by peer number: ports and address (R454). -/
  routes : Tab Route
  peerSeq : Tab Nat
  replayWindows : Tab ReplayWindow
  ballast : Nat
  /-- What the governor's last test found: 0 admits, 1 holds, 2 throttles (R462). -/
  governor : Nat
  mgmtReset : Bool
  firmware : Tab Nat
  spdmAnswered : Nat
  /-- The last signed response to an SPDM request (R464). -/
  spdmReport : Option SpdmReport
  bar2Read : List Byte
  faultsRead : List (Nat × List Byte)
  recQueues : List Nat
  recWindows : List (Nat × Nat)
  recording : Bool
  /-- The replay logs, one ring for each set of queues that has been recorded; that of the set recorded last comes first (R330,
  R350). -/
  replayRings : List ReplayRing
  rerun : Option Rerun
  deriving DecidableEq, Repr

/-- A trace unit after power-up: disabled (R346). -/
def Trace.reset : Trace := ⟨0, 0, 0, 0, 0, 0, 0, 0, false, [], [], []⟩

/-- A core after power-up: the whole pool serves as L1 (R248). -/
def Core.reset : Core where
  bndreg := 0
  bndstash := 0
  bndcache := 0x40000
  l1 := []
  locks := []
  tlb := []
  copies := []
  fifo := []
  msgs := []
  cupboard := none
  trace := Trace.reset
  cycleBase := 0
  issued := 0
  slotCycle := 0
  slots := 0
  ckcorr := 0
  ckrecomp := 0
  ckinj := 0
  laneDeath := 0
  squash := 0
  starts := []
  peerWrites := []
  peerDropped := none
  pbcache := []
  spawnWait := []

/-- A compute die after power-up: online (R19); its clock, 3.0 GHz, is a design choice (log entry 10). -/
def Die.reset : Die := ⟨0, 12, none, 0, 0, 0, 0, [], 0, []⟩

/-- A stack after power-up: online; its rate is a design choice (log entry 7). -/
def Stack.reset : Stack := ⟨0, 1, none, false, none, 0, 0, 0⟩

def Queue.reset : Queue := ⟨false, false, none, 0, false, false, 0, 0, 0, []⟩
def Board.reset : Board := ⟨0, 0, 0⟩
def Sensor.reset : Sensor := ⟨0, false, 0⟩
def Mark.empty : Mark := ⟨none, none, none, false⟩

/-- The package when power-up completes: no identifier bound, no team, memory with nothing written. The link, the queue
order, the governor's finding and the firmware are design choices (log entry 10). -/
def State.reset : State where
  serial := 0
  time := 0
  issue := none
  agenda := []
  stimuli := []
  turns := []
  nextBid := 0
  nextId := 0
  mem := []
  rewritten := []
  heldWrites := []
  narrow := []
  hollow := []
  wants := []
  side := []
  marks := []
  slices := []
  selectors := []
  boards := []
  cores := []
  gangs := []
  blocks := []
  teams := []
  clusterTlbs := []
  queues := []
  lastQueue := []
  ports := []
  tokens := []
  identifiers := []
  fqdrop := []
  fqdropStart := []
  tickets := []
  transRecs := []
  migrations := []
  flying := []
  outbox := []
  peerPosted := []
  framePorts := []
  dies := []
  ioStates := []
  hbm := []
  ioRateHalved := []
  sensors := []
  errstat := 0
  msix0 := 0
  msix1 := 0
  link := .down
  linkMode := none
  inbound := []
  hostHeld := []
  unsupported := 0
  parityRead := false
  routes := []
  peerSeq := []
  replayWindows := []
  ballast := 80
  governor := 0
  mgmtReset := false
  firmware := []
  spdmAnswered := 0
  spdmReport := none
  bar2Read := []
  faultsRead := []
  recQueues := []
  recWindows := []
  recording := false
  replayRings := []
  rerun := none

end Sys2Proof.Machine
end

