-- ==== Sys2Proof/Machine/Maps.lean ====
section
/-!
DEFINITION. Machine/Maps.lean: tables keyed by numbers, kept with strictly rising keys, and the bytes of memory over them.
-/

namespace Sys2Proof.Machine

open Sys2Proof

/-- The entry at a key. -/
def Tab.look {α : Type} : Tab α → Nat → Option α
  | [], _ => none
  | (k, v) :: t, x => if k = x then some v else Tab.look t x

def Tab.getD {α : Type} (t : Tab α) (x : Nat) (d : α) : α := (Tab.look t x).getD d

/-- Enters a value at its place in the order, replacing what the key held. -/
def Tab.put {α : Type} : Tab α → Nat → α → Tab α
  | [], x, v => [(x, v)]
  | (k, u) :: t, x, v => if x < k then (x, v) :: (k, u) :: t else if x = k then (x, v) :: t else (k, u) :: Tab.put t x v

def Tab.del {α : Type} : Tab α → Nat → Tab α
  | [], _ => []
  | (k, u) :: t, x => if k = x then Tab.del t x else (k, u) :: Tab.del t x

/-- Enters a value that differs from what an absent key reads as; removes the key otherwise. -/
def Tab.set {α : Type} [DecidableEq α] (t : Tab α) (x : Nat) (v d : α) : Tab α :=
  if v = d then Tab.del t x else Tab.put t x v

/-- Changes an entry that exists. -/
def Tab.modify {α : Type} (t : Tab α) (x : Nat) (f : α → α) : Tab α :=
  match Tab.look t x with
  | none => t
  | some v => Tab.put t x (f v)

/-- Changes an entry, or the default where there is none. -/
def Tab.upd {α : Type} (t : Tab α) (x : Nat) (d : α) (f : α → α) : Tab α := Tab.put t x (f (Tab.getD t x d))

/-- The keys rise strictly. -/
def Tab.wf {α : Type} (t : Tab α) : Prop := (t.map Prod.fst).Pairwise (· < ·)

/-! ### Memory

Global memory is keyed by physical address (R237); stash byte o of core c's pool by 2^60 + c * 2^18 + o (R239). A stash
byte that is not listed reads as zero, the state of a direct region at block start (R239); any other byte that is not
listed holds no defined value (R487), and reading it draws a free value. -/

/-- The key of a byte of a core's pool. -/
def stashKey (core off : Nat) : Nat := 2 ^ 60 + core * 2 ^ 18 + off

def isStashKey (a : Nat) : Bool := 2 ^ 60 ≤ a

/-- Memory in its one form: rising addresses, and no stash byte listed as zero. -/
def Memory.wf (m : List Host.Cell) : Prop :=
  (m.map Prod.fst).Pairwise (· < ·) ∧ ∀ c ∈ m, isStashKey c.1 = true → c.2 ≠ 0

/-- The byte that memory defines at an address, if it defines one. -/
def Memory.byte? (m : List Host.Cell) (a : Nat) : Option Byte :=
  match Tab.look m a with
  | some b => some b
  | none => if isStashKey a then some 0 else none

def Memory.write (m : List Host.Cell) (a : Nat) (b : Byte) : List Host.Cell :=
  if isStashKey a && b = 0 then Tab.del m a else Tab.put m a b

def Memory.writes : List Host.Cell → Nat → List Byte → List Host.Cell
  | m, _, [] => m
  | m, a, b :: bs => Memory.writes (Memory.write m a b) (a + 1) bs

/-- Leaves a byte with no defined value, or a stash byte zero. -/
def Memory.erase (m : List Host.Cell) (a : Nat) : List Host.Cell := Tab.del m a

/-- A byte as one read of it returns it; salt tells several reads of one step apart (R487). -/
def State.readByte (s : State) (salt a : Nat) : Byte :=
  (Memory.byte? s.mem a).getD (Config.freeByte s.serial (a * 64 + salt))

def State.readBytes (s : State) (salt a n : Nat) : List Byte := (List.range n).map (fun i => s.readByte salt (a + i))

/-- A little-endian value (R5). -/
def State.readNat (s : State) (salt a n : Nat) : Nat := ofBytes (s.readBytes salt a n)

/-- The packets of n bytes from a global address, by address / 16, each with the step and what it holds now (R86). -/
def State.noteRewrites (s : State) (a n : Nat) : Tab (List (Nat × List Byte)) :=
  (List.range ((a % 16 + n + 15) / 16)).foldl (fun t i => Tab.upd t (a / 16 + i) [] (fun l =>
    l ++ [(s.serial, s.readBytes 52 ((a / 16 + i) * 16) 16)])) s.rewritten

/-- Bytes written where memory keeps them. While a team is live, what packets held before is kept for its fetches (R86). -/
def State.writeBytes (s : State) (a : Nat) (bs : List Byte) : State :=
  { s with
    mem := Memory.writes s.mem a bs,
    narrow := s.narrow.filter (fun w => 4 * w + 4 ≤ a || a + bs.length ≤ 4 * w),
    rewritten := if s.teams.isEmpty || isStashKey a || bs.isEmpty then s.rewritten else s.noteRewrites a bs.length }

def State.writeNat (s : State) (a n x : Nat) : State := s.writeBytes a (bytesOf n x)

/-- An outcome taken among n allowed ones, numbered from 0 (R10). -/
def State.pick (s : State) (place n : Nat) : Nat := Config.choice s.serial place % n

/-! ### Parts of the state by name -/

def gangId (bid g : Nat) : Nat := bid * 32 + g
def State.gang? (s : State) (gid : Nat) : Option Gang := Tab.look s.gangs gid
def State.block? (s : State) (bid : Nat) : Option Block := Tab.look s.blocks bid
def State.team? (s : State) (tid : Nat) : Option Team := Tab.look s.teams tid
def State.core (s : State) (c : Nat) : Core := Tab.getD s.cores c Core.reset
def State.die (s : State) (k : Nat) : Die := Tab.getD s.dies k Die.reset
def State.stack (s : State) (k : Nat) : Stack := Tab.getD s.hbm k Stack.reset
def State.queue (s : State) (q : Nat) : Queue := Tab.getD s.queues q Queue.reset
def State.board (s : State) (slot : Nat) : Board := Tab.getD s.boards slot Board.reset
def State.mark (s : State) (w : Nat) : Mark := Tab.getD s.marks w Mark.empty

def State.setGang (s : State) (gid : Nat) (g : Gang) : State := { s with gangs := Tab.put s.gangs gid g }
def State.modGang (s : State) (gid : Nat) (f : Gang → Gang) : State := { s with gangs := Tab.modify s.gangs gid f }
def State.modBlock (s : State) (bid : Nat) (f : Block → Block) : State := { s with blocks := Tab.modify s.blocks bid f }
def State.modTeam (s : State) (tid : Nat) (f : Team → Team) : State := { s with teams := Tab.modify s.teams tid f }
def State.modCore (s : State) (c : Nat) (f : Core → Core) : State := { s with cores := Tab.upd s.cores c Core.reset f }
def State.modDie (s : State) (k : Nat) (f : Die → Die) : State := { s with dies := Tab.upd s.dies k Die.reset f }
def State.modStack (s : State) (k : Nat) (f : Stack → Stack) : State := { s with hbm := Tab.upd s.hbm k Stack.reset f }
def State.modQueue (s : State) (q : Nat) (f : Queue → Queue) : State := { s with queues := Tab.upd s.queues q Queue.reset f }
def State.modBoard (s : State) (slot : Nat) (f : Board → Board) : State :=
  { s with boards := Tab.set s.boards slot (f (s.board slot)) Board.reset }
def State.setMark (s : State) (w : Nat) (m : Mark) : State := { s with marks := Tab.set s.marks w m Mark.empty }

/-- The die of a core, its cluster and its span (R20, R21). -/
def dieOf (core : Nat) : Nat := core / 384
def clusterOf (core : Nat) : Nat := core / 96
def spanOf (core : Nat) : Nat := core / 192

/-- The cycle of the main arithmetic clock of a core's die (R3). -/
def State.cycle (s : State) (core : Nat) : Nat := (s.die (dieOf core)).cycle

/-- The clock register in nanoseconds (R445). -/
def State.clock (s : State) : Nat := s.time / 3 % 2 ^ 64

/-- Performance event e of die k counts n more (R440). -/
def State.perf (s : State) (k e n : Nat) : State :=
  s.modDie k (fun d => { d with
    perf := Tab.upd d.perf e 0 (fun x => (x + n) % 2 ^ 64),
    countCycle := d.cycle,
    recent := Tab.upd (if d.countCycle = d.cycle then d.recent else []) e 0 (fun x => x + n) })

/-- A counter that saturates at 2^width - 1 (R439). -/
def satAdd (width x n : Nat) : Nat := min (x + n) (2 ^ width - 1)

/-- One more release of a block's team (R225). -/
def State.countRelease (s : State) (bid : Nat) : State :=
  match s.block? bid with
  | none => s
  | some b => s.modTeam b.team (fun t => { t with releases := satAdd 32 t.releases 1 })

/-- An error interrupt: a bit of ERRSTAT, with MSI-X vector 0 when it goes from 0 to 1 (R450). -/
def State.raiseErr (s : State) (n : Nat) : State :=
  if s.errstat.testBit n then s else { s with errstat := s.errstat + 2 ^ n, msix0 := s.msix0 + 1 }

/-- A recorded event is appended to the log of the set of queues that is recorded: a ring, which keeps its newest records (R330, R350). -/
def State.logReplay (s : State) (e : LogEntry) : State :=
  { s with replayRings := match s.replayRings with
      | [] => []
      | x :: xs => { x with entries := (x.entries ++ [e]).drop (x.entries.length + 1 - Config.replayRecords) } :: xs }

end Sys2Proof.Machine
end

