-- ==== Sys2Proof/WellFormed.lean ====
section
/-!
DEFINITION. WellFormed.lean: which field values an entry admits (R8, R73, R76, R77, R80 and the entries).
-/

namespace Sys2Proof

/-- A source that carries no 64-bit literal. -/
def Src.narrow : Src → Bool
  | .lit64 _ => false
  | _ => true

/-- The literal rule of R73, for an instruction built by hand: a 64-bit literal only where the form admits one. -/
def Instr.literalOk : Instr → Bool
  | .add _ _ b => b.narrow
  | .sub _ _ b => b.narrow
  | .mul _ _ b => b.narrow
  | .mulhiI32 _ _ b => b.narrow
  | .mulhiN32 _ _ b => b.narrow
  | .mad _ _ b => b.narrow
  | .addI64 _ _ _ => true
  | .subI64 _ _ _ => true
  | .mulwI32 _ _ b => b.narrow
  | .mulwN32 _ _ b => b.narrow
  | .minI32 _ _ b => b.narrow
  | .maxI32 _ _ b => b.narrow
  | .minN32 _ _ b => b.narrow
  | .maxN32 _ _ b => b.narrow
  | .addi _ _ => true
  | .ldi _ _ => true
  | .and _ _ b => b.narrow
  | .or _ _ b => b.narrow
  | .xor _ _ b => b.narrow
  | .andn _ _ b => b.narrow
  | .shl _ _ b => b.narrow
  | .shrN32 _ _ b => b.narrow
  | .shrI32 _ _ b => b.narrow
  | .shli _ _ _ => true
  | .shriN32 _ _ _ => true
  | .shriI32 _ _ _ => true
  | .bfeN32 _ _ b => b.narrow
  | .bfeI32 _ _ b => b.narrow
  | .bfi _ _ b => b.narrow
  | .popc _ _ => true
  | .clz _ _ => true
  | .brev _ _ => true
  | .uAdd _ _ b => b.narrow
  | .uSub _ _ b => b.narrow
  | .uMul _ _ b => b.narrow
  | .uMulhiI32 _ _ b => b.narrow
  | .uMulhiN32 _ _ b => b.narrow
  | .uMad _ _ b => b.narrow
  | .uAddI64 _ _ _ => true
  | .uSubI64 _ _ _ => true
  | .uMulwI32 _ _ b => b.narrow
  | .uMulwN32 _ _ b => b.narrow
  | .uMinI32 _ _ b => b.narrow
  | .uMaxI32 _ _ b => b.narrow
  | .uMinN32 _ _ b => b.narrow
  | .uMaxN32 _ _ b => b.narrow
  | .uAddi _ _ => true
  | .uLdi _ _ => true
  | .uAnd _ _ b => b.narrow
  | .uOr _ _ b => b.narrow
  | .uXor _ _ b => b.narrow
  | .uAndn _ _ b => b.narrow
  | .uShl _ _ b => b.narrow
  | .uShrN32 _ _ b => b.narrow
  | .uShrI32 _ _ b => b.narrow
  | .uShli _ _ _ => true
  | .uShriN32 _ _ _ => true
  | .uShriI32 _ _ _ => true
  | .uBfeN32 _ _ b => b.narrow
  | .uBfeI32 _ _ b => b.narrow
  | .uBfi _ _ b => b.narrow
  | .uPopc _ _ => true
  | .uClz _ _ => true
  | .uBrev _ _ => true
  | .seteq _ _ b => b.narrow
  | .setne _ _ b => b.narrow
  | .setltI32 _ _ b => b.narrow
  | .setleI32 _ _ b => b.narrow
  | .setltN32 _ _ b => b.narrow
  | .setleN32 _ _ b => b.narrow
  | .setltI64 _ _ _ => true
  | .seteqI64 _ _ _ => true
  | .xchAt _ _ b => b.narrow
  | .xchBelow _ _ b => b.narrow
  | .xchAbove _ _ b => b.narrow
  | .xchMirror _ _ b => b.narrow
  | .vmask _ _ => true
  | .vgroup _ _ => true
  | .lred _ _ _ => true
  | .faddF32 _ _ b => b.narrow
  | .fsubF32 _ _ b => b.narrow
  | .fmulF32 _ _ b => b.narrow
  | .ffmaF32 _ _ b => b.narrow
  | .fminF32 _ _ b => b.narrow
  | .fmaxF32 _ _ b => b.narrow
  | .fdivF32 _ _ b => b.narrow
  | .fsqrtF32 _ _ => true
  | .fseteqF32 _ _ b => b.narrow
  | .fsetltF32 _ _ b => b.narrow
  | .fsetleF32 _ _ b => b.narrow
  | .fsetunF32 _ _ b => b.narrow
  | .faddiF32 _ _ => true
  | .fmuliF32 _ _ => true
  | .fclassF32 _ _ => true
  | .fnmaF32 _ _ b => b.narrow
  | .faddF64 _ _ _ => true
  | .fsubF64 _ _ _ => true
  | .fmulF64 _ _ _ => true
  | .ffmaF64 _ _ _ => true
  | .fminF64 _ _ _ => true
  | .fmaxF64 _ _ _ => true
  | .fdivF64 _ _ _ => true
  | .fsqrtF64 _ _ => true
  | .fseteqF64 _ _ _ => true
  | .fsetltF64 _ _ _ => true
  | .fsetleF64 _ _ _ => true
  | .fsetunF64 _ _ _ => true
  | .faddiF64 _ _ => true
  | .fmuliF64 _ _ => true
  | .fclassF64 _ _ => true
  | .fnmaF64 _ _ _ => true
  | .haddF16x2 _ _ b => b.narrow
  | .hmulF16x2 _ _ b => b.narrow
  | .hfmaF16x2 _ _ b => b.narrow
  | .haddBf16x2 _ _ b => b.narrow
  | .hmulBf16x2 _ _ b => b.narrow
  | .hfmaBf16x2 _ _ b => b.narrow
  | .cvt _ _ _ _ _ => true
  | .qbx _ _ _ _ _ _ => true
  | .frcpF32 _ _ => true
  | .frsqF32 _ _ => true
  | .fexp2F32 _ _ => true
  | .flog2F32 _ _ => true
  | .fsinF32 _ _ => true
  | .fcosF32 _ _ => true
  | .frcpF64 _ _ => true
  | .frsqF64 _ _ => true
  | .ld _ _ _ => true
  | .st _ _ _ => true
  | .lda _ _ _ _ => true
  | .atom _ _ _ _ => true
  | .cas _ _ _ _ => true
  | .cas2 _ _ _ _ => true
  | .pf _ _ => true
  | .evict _ _ => true
  | .mov _ b => b.narrow
  | .movI64 _ _ => true
  | .movx _ _ b => b.narrow
  | .movxr _ _ _ => true
  | .sel _ _ b => b.narrow
  | .sread _ _ => true
  | .swrite _ _ => true
  | .movh _ _ => true
  | .bra _ _ => true
  | .brx x _ b => if x then b.narrow else b = .reg 0
  | .call _ _ => true
  | .ret _ => true
  | .join => true
  | .joinw _ _ => true
  | .yield => true
  | .exit => true
  | .trap _ => true
  | .brk _ => true
  | .emsave _ => true
  | .emset _ => true
  | .barInit _ _ b => b.narrow
  | .barArrive _ _ b => b.narrow
  | .barWait _ _ b => b.narrow
  | .fence _ => true
  | .uIsplit => true
  | .waitc _ _ => true
  | .uWaitring _ _ b => b.narrow
  | .barSync _ _ b => b.narrow
  | .uRecruit _ _ => true
  | .uHloop _ _ b => b.narrow
  | .uHjoin _ _ _ => true
  | .uHrel => true
  | .setshape _ _ => true
  | .mma _ _ _ => true
  | .mgath _ _ => true
  | .mdrain _ _ _ _ => true
  | .mzero _ _ _ => true
  | .tld _ _ _ => true
  | .tst _ _ _ _ => true
  | .cksum _ b => b.narrow
  | .ckchk _ => true
  | .ckinj _ _ b => b.narrow
  | .copy _ _ _ => true
  | .copyTile _ _ _ => true
  | .copyGath _ _ _ => true
  | .copyScat _ _ _ => true
  | .copyRed _ _ _ => true
  | .copyConv _ _ _ => true
  | .launch _ _ b => b.narrow
  | .amsend _ _ b => b.narrow
  | .trctl _ => true
  | .trmark _ => true
  | .uLd _ _ _ => true
  | .uSt _ _ _ => true
  | .uAtom _ _ _ _ => true
  | .smap _ _ _ => true
  | .sunmap _ => true
  | .sflush _ => true
  | .uCas _ _ _ _ => true
  | .tretRetry => true
  | .tretSkip => true
  | .tretEnd => true
  | .locq _ _ => true
  | .tlbinvPage _ _ => true
  | .tlbinvAsid _ => true
  | .tlbinvAll => true
  | .asidset _ _ _ => true
  | .mgate _ _ => true
  | .cntrd _ _ => true
  | .cntset _ _ => true
  | .nop => true
  | .sleep _ => true
  | .gangStateError _ _ => true
  | .scoreboardSquash _ _ _ => true
  | .trapEntry _ _ => true
  | .joinwTimeout _ _ _ => true
  | .starvationLimit _ _ => true
  | .issueSelect _ _ => true
  | .sleepExpiry _ _ _ => true
  | .barrierWaitWake _ _ _ => true
  | .waitcWake _ _ _ => true
  | .waitringWake _ _ _ => true
  | .resourceWake _ _ _ => true
  | .firstTouchFill _ _ => true
  | .ldaReply _ _ _ _ _ => true
  | .helperForcedRelease _ _ => true
  | .matrixOpStart _ => true
  | .matrixSourceRelease _ _ => true
  | .matrixOpComplete _ => true
  | .copyStart _ _ => true
  | .copySourceRelease _ _ => true
  | .copyLineArrival _ _ => true
  | .copyComplete _ _ => true
  | .copyFault _ _ => true
  | .blockPlace _ => true
  | .boundaryDrain _ => true
  | .contextStage _ _ => true
  | .blockStart _ => true
  | .blockEnd _ => true
  | .teamAbort _ => true
  | .schedulerTake => true
  | .tokenEvict _ _ => true
  | .handlerSpawn _ => true
  | .messageArrival _ => true
  | .launchPortWrite _ _ _ => true
  | .qcmdNop _ _ => true
  | .qcmdBind _ _ => true
  | .qcmdUnbind _ _ => true
  | .qcmdEnable _ _ => true
  | .qcmdDisable _ _ => true
  | .qstatWrite _ _ => true
  | .qspillWrite _ _ => true
  | .preemptRequest _ _ _ _ _ => true
  | .restoreRequest _ _ => true
  | .endRequest _ => true
  | .preemptDiscardedOp _ => true
  | .teamDiscard _ => true
  | .teamSave _ => true
  | .teamRestore _ => true
  | .resumeRetry _ _ => true
  | .resumeRefuse _ _ => true
  | .resumeEnd _ _ => true
  | .resumeDiscarded _ _ => true
  | .closeRequest _ _ => true
  | .implicitSplit _ => true
  | .lineEvict _ => true
  | .slotRenewal _ => true
  | .slotPurge _ => true
  | .atticSweep _ => true
  | .migrationFiller _ => true
  | .inboundWrite _ _ _ => true
  | .inboundRouteAck _ _ => true
  | .hostBar2Read _ _ => true
  | .hostSnoop _ _ _ => true
  | .linkUp _ => true
  | .linkDown => true
  | .errstatWrite _ => true
  | .trrpWrite _ _ => true
  | .registerWrite _ _ => true
  | .tracePeriodicSync _ => true
  | .traceLossWrite _ => true
  | .remoteWriteArrival _ _ _ => true
  | .remoteAtomicArrival _ _ _ _ _ _ _ _ => true
  | .remoteAtomicRetry _ _ _ _ => true
  | .frameResend _ _ => true
  | .routeTableWrite _ _ _ _ => true
  | .mgmtQueueDisable _ => true
  | .mgmtQueueEnable _ => true
  | .mgmtDieReset _ _ => true
  | .mgmtDieEnable _ => true
  | .mgmtFaultQueueRead _ => true
  | .mgmtControllerReset => true
  | .ballastWrite _ => true
  | .hbmRateChange _ _ => true
  | .hbmRetrainDone _ _ => true
  | .hbmStackReset _ => true
  | .sensorSample _ _ _ => true
  | .thermalDecision _ => true
  | .clockChange _ => true
  | .governorTest _ => true
  | .powerUp => true
  | .firmwareImageLoad _ _ _ _ => true
  | .spdmRequest _ => true
  | .memoryPoison _ => true
  | .ioParityError _ _ => true
  | .mgmtControllerResetRelease => true
  | .retrainingDeferralExpiry _ => true
  | .recordingControl _ _ _ => true

/-- Whether a special-register number is in R127. -/
def specialListed (n : Nat) : Bool :=
  n ≤ 5 || (0x10 ≤ n && n ≤ 0x16) || (0x20 ≤ n && n ≤ 0x22) || (0x30 ≤ n && n ≤ 0x33) || n = 0x40 || n = 0x41 ||
    (0x100 ≤ n && n ≤ 0x111)

/-- Class R of R126: a register that no swrite may name. -/
def specialReadOnly (n : Nat) : Bool :=
  !(n = 0 || n = 0x11 || n = 0x15 || n = 0x16 || n = 0x20 || n = 0x21 || n = 0x22)

/-- Whether a writable special register is held per lane (R127): fflags. -/
def specialPerLane (n : Nat) : Bool := n = 0x21

/-- Whether a counter number is in R438. -/
def counterListed (n : Nat) : Bool :=
  n ≤ 0x11 || n = 0x20 || (0x30 ≤ n && n ≤ 0x33) || (0x40 ≤ n && n ≤ 0x44) || (0x50 ≤ n && n ≤ 0x53) ||
    (0x100 ≤ n && n ≤ 0x13F)

/-- Whether R438 lets cntset set a counter at some level. -/
def counterSettable (n : Nat) : Bool :=
  n ≤ 0x11 || (0x40 ≤ n && n ≤ 0x44) || (0x51 ≤ n && n ≤ 0x53) || (0x100 ≤ n && n ≤ 0x13F)

/-- SCOPE 0 to 4 and SIZE 0 to 4 (R76). -/
def Access.ranges (x : Access) : Bool := x.scope.toNat ≤ 4 && x.size.toNat ≤ 4

/-- The class of an atom operation, as the label it admits besides acqrel (R290). -/
def atomClass (op : Nat) : Nat := if op ≤ 1 then 4 else if op ≤ 7 then 5 else if op ≤ 10 then 6 else 7

def Access.loadOk (x : Access) (acq : Bool) : Bool :=
  x.ranges && (x.label = 0 || (acq && x.label = 1) || x.label.toNat ≥ 4) && x.op.toNat ≤ 1 &&
    (x.op = 0 || x.size.toNat ≤ 1)

def Access.storeOk (x : Access) : Bool :=
  x.ranges && (x.label = 0 || x.label = 2 || x.label.toNat ≥ 4) && x.op = 0

def Access.atomOk (x : Access) : Bool :=
  x.ranges && (x.size = 2 || x.size = 3) && x.op.toNat ≤ 11 && (x.label = 3 || x.label.toNat = atomClass x.op.toNat)

def Access.casOk (x : Access) (four eight sixteen : Bool) : Bool :=
  x.ranges && ((four && x.size = 2) || (eight && x.size = 3) || (sixteen && x.size = 4)) && x.op = 0 &&
    (x.label = 1 || x.label = 2 || x.label = 3 || x.label = 7)

/-- pf, evict and the stash-map instructions: LABEL, SCOPE and SIZE are 0 (R279). OFFSET and HINT of sunmap and sflush, which use
neither, may hold anything: DESIGN CHOICE (R80 speaks of a non-zero unused field, and R279 names neither; log entry 115). -/
def Access.plain (x : Access) : Bool := x.label = 0 && x.scope = 0 && x.size = 0

/-- tld and tst: OP[0] NOSTRIP and OP[1] RECOMP, not both (R325). -/
def Access.tileOk (x : Access) : Bool := x.plain && x.hint = 0 && x.op.toNat ≤ 2

/-- The field values that the entries admit (R8, R76, R77, R80). -/
def Instr.fieldsOk : Instr → Bool
  | .shli _ _ n | .shriN32 _ _ n | .shriI32 _ _ n | .uShli _ _ n | .uShriN32 _ _ n | .uShriI32 _ _ n => n.toNat < 32
  | .lred _ a n => n.toNat < 8 || (n = 8 && a = 0)
  | .cvt _ _ ovr rm conv => conv.toNat ≤ 27 && (ovr || rm = 0)
  | .qbx _ _ ovr rm _ _ => ovr || rm = 0
  | .sread _ n => specialListed n.toNat
  | .swrite _ n => specialListed n.toNat && !specialReadOnly n.toNat
  | .ld _ _ x | .uLd _ _ x => x.loadOk true
  | .lda _ _ c x => x.loadOk false && c.toNat < 16
  | .st _ _ x | .uSt _ _ x => x.storeOk
  | .atom _ _ _ x | .uAtom _ _ _ x => x.atomOk
  | .cas _ _ _ x => x.casOk true true false
  | .cas2 _ _ _ x => x.casOk false false true
  | .uCas _ _ _ x => x.casOk true true true
  | .pf _ x => x.plain && x.op = 0
  | .evict _ x => x.plain && x.hint = 0 && x.op.toNat ≤ 1
  | .smap _ _ x | .sunmap x | .sflush x => x.plain && x.op.toNat < 16
  | .tld _ _ x | .tst _ _ _ x => x.tileOk
  | .barInit s _ _ | .barArrive s _ _ | .barWait s _ _ | .barSync s _ _ | .uWaitring s _ _ => s.toNat ≤ 4
  | .fence s => s.toNat ≤ 4
  | .waitc c _ => c.toNat < 16
  | .uHloop j _ _ => j ≠ 0
  | .uHjoin d a c => c.toNat ≤ 10 && (c ≠ 0 || (d = 0 && a = 0))
  | .mzero _ _ f => f.toNat ≤ 3 || f = 0x0E
  | .cntrd _ n => counterListed n.toNat
  | .cntset _ n => counterListed n.toNat && counterSettable n.toNat
  | _ => true

/-- An instruction that an encoding can hold and that no entry calls invalid. -/
def Instr.wellFormed (i : Instr) : Bool := i.literalOk && i.fieldsOk

end Sys2Proof
end

