-- ==== Sys2Proof/Machine/Operands.lean ====
section
/-!
DEFINITION. Machine/Operands.lean: every operand form: which registers an instruction names and how (R75, R138, R167,
R182, R279), its result latency (R81), the roles that may execute it (R43), and what a helper body admits (R201).
-/

namespace Sys2Proof

/-- One register operand: its number, how many registers it names, and whether it is read or written. -/
structure RegUse where
  n : Reg
  width : Nat
  reads : Bool
  writes : Bool
  deriving DecidableEq, Repr

/-- The registers that one operand of an access takes: one, a pair or a quad (R280). -/
def Access.regs (x : Access) : Nat := if x.size = 3 then 2 else if x.size = 4 then 4 else 1

/-- Labels acq, rel and acqrel make an interval boundary (R252). -/
def Access.syncs (x : Access) : Bool := x.label = 1 || x.label = 2 || x.label = 3

/-- A source operand: its register, or none where a literal stands for it. -/
def srcUse : Src → Nat → List RegUse
  | .reg n, w => [⟨n, w, true, false⟩]
  | _, _ => []

/-- The operands of u.hjoin: none for operation 0 (R202). -/
def hjoinUse (d a c : Reg) : List RegUse :=
  if c = 0 then [] else [⟨d, 1, false, true⟩, ⟨a, 1, true, false⟩]

/-- How many registers a conversion reads and writes (R182). -/
def cvtRegs (conv : Nat) : Nat × Nat :=
  match conv with
  | 0 => (1, 2) | 1 => (2, 1) | 2 => (2, 1) | 3 => (2, 1) | 4 => (1, 2) | 5 => (1, 2)
  | 6 => (4, 1) | 7 => (4, 1) | 8 => (4, 1) | 9 => (4, 1) | 10 => (1, 4) | 11 => (1, 4)
  | 16 => (2, 1) | 17 => (2, 1) | 18 => (1, 2) | 19 => (1, 2)
  | 20 => (2, 2) | 21 => (2, 2) | 22 => (2, 2) | 23 => (2, 2) | 25 => (2, 2)
  | _ => (1, 1)

/-- Counters that only system level may read, and those that only it may set: all that can be set but the arrival counters
(R438). -/
def counterSystem (n : Nat) : Bool := 0x50 ≤ n && n ≤ 0x53
def counterSetSystem (n : Nat) : Bool := 0x10 ≤ n
/-- How many entries an indexed counter has (R438). -/
def counterIndexes (n : Nat) : Nat := if n = 0x50 then 16384 else if n = 0x51 then 4 else if n = 0x52 then 2048 else 8

/-- The special registers of R127 that are 64 bits wide. -/
def wideSpecial (n : Nat) : Bool :=
  n = 0x11 || n = 0x13 || n = 0x14 || n = 0x15 || n = 0x16 || n = 0x40 || (0x100 ≤ n && n ≤ 0x10F)

/-- The register operands of an instruction, in the order d, a, b. -/
def Instr.regs : Instr → List RegUse
  | .add d a b => [⟨d, 1, false, true⟩] ++ [⟨a, 1, true, false⟩] ++ (srcUse b 1)
  | .sub d a b => [⟨d, 1, false, true⟩] ++ [⟨a, 1, true, false⟩] ++ (srcUse b 1)
  | .mul d a b => [⟨d, 1, false, true⟩] ++ [⟨a, 1, true, false⟩] ++ (srcUse b 1)
  | .mulhiI32 d a b => [⟨d, 1, false, true⟩] ++ [⟨a, 1, true, false⟩] ++ (srcUse b 1)
  | .mulhiN32 d a b => [⟨d, 1, false, true⟩] ++ [⟨a, 1, true, false⟩] ++ (srcUse b 1)
  | .mad d a b => [⟨d, 1, true, true⟩] ++ [⟨a, 1, true, false⟩] ++ (srcUse b 1)
  | .addI64 d a b => [⟨d, 2, false, true⟩] ++ [⟨a, 2, true, false⟩] ++ (srcUse b 2)
  | .subI64 d a b => [⟨d, 2, false, true⟩] ++ [⟨a, 2, true, false⟩] ++ (srcUse b 2)
  | .mulwI32 d a b => [⟨d, 2, false, true⟩] ++ [⟨a, 1, true, false⟩] ++ (srcUse b 1)
  | .mulwN32 d a b => [⟨d, 2, false, true⟩] ++ [⟨a, 1, true, false⟩] ++ (srcUse b 1)
  | .minI32 d a b => [⟨d, 1, false, true⟩] ++ [⟨a, 1, true, false⟩] ++ (srcUse b 1)
  | .maxI32 d a b => [⟨d, 1, false, true⟩] ++ [⟨a, 1, true, false⟩] ++ (srcUse b 1)
  | .minN32 d a b => [⟨d, 1, false, true⟩] ++ [⟨a, 1, true, false⟩] ++ (srcUse b 1)
  | .maxN32 d a b => [⟨d, 1, false, true⟩] ++ [⟨a, 1, true, false⟩] ++ (srcUse b 1)
  | .addi d _ => [⟨d, 1, true, true⟩]
  | .ldi d _ => [⟨d, 1, false, true⟩]
  | .and d a b => [⟨d, 1, false, true⟩] ++ [⟨a, 1, true, false⟩] ++ (srcUse b 1)
  | .or d a b => [⟨d, 1, false, true⟩] ++ [⟨a, 1, true, false⟩] ++ (srcUse b 1)
  | .xor d a b => [⟨d, 1, false, true⟩] ++ [⟨a, 1, true, false⟩] ++ (srcUse b 1)
  | .andn d a b => [⟨d, 1, false, true⟩] ++ [⟨a, 1, true, false⟩] ++ (srcUse b 1)
  | .shl d a b => [⟨d, 1, false, true⟩] ++ [⟨a, 1, true, false⟩] ++ (srcUse b 1)
  | .shrN32 d a b => [⟨d, 1, false, true⟩] ++ [⟨a, 1, true, false⟩] ++ (srcUse b 1)
  | .shrI32 d a b => [⟨d, 1, false, true⟩] ++ [⟨a, 1, true, false⟩] ++ (srcUse b 1)
  | .shli d a _ => [⟨d, 1, false, true⟩] ++ [⟨a, 1, true, false⟩]
  | .shriN32 d a _ => [⟨d, 1, false, true⟩] ++ [⟨a, 1, true, false⟩]
  | .shriI32 d a _ => [⟨d, 1, false, true⟩] ++ [⟨a, 1, true, false⟩]
  | .bfeN32 d a b => [⟨d, 1, false, true⟩] ++ [⟨a, 1, true, false⟩] ++ (srcUse b 1)
  | .bfeI32 d a b => [⟨d, 1, false, true⟩] ++ [⟨a, 1, true, false⟩] ++ (srcUse b 1)
  | .bfi d a b => [⟨d, 1, true, true⟩] ++ [⟨a, 1, true, false⟩] ++ (srcUse b 1)
  | .popc d a => [⟨d, 1, false, true⟩] ++ [⟨a, 1, true, false⟩]
  | .clz d a => [⟨d, 1, false, true⟩] ++ [⟨a, 1, true, false⟩]
  | .brev d a => [⟨d, 1, false, true⟩] ++ [⟨a, 1, true, false⟩]
  | .uAdd d a b => [⟨d, 1, false, true⟩] ++ [⟨a, 1, true, false⟩] ++ (srcUse b 1)
  | .uSub d a b => [⟨d, 1, false, true⟩] ++ [⟨a, 1, true, false⟩] ++ (srcUse b 1)
  | .uMul d a b => [⟨d, 1, false, true⟩] ++ [⟨a, 1, true, false⟩] ++ (srcUse b 1)
  | .uMulhiI32 d a b => [⟨d, 1, false, true⟩] ++ [⟨a, 1, true, false⟩] ++ (srcUse b 1)
  | .uMulhiN32 d a b => [⟨d, 1, false, true⟩] ++ [⟨a, 1, true, false⟩] ++ (srcUse b 1)
  | .uMad d a b => [⟨d, 1, true, true⟩] ++ [⟨a, 1, true, false⟩] ++ (srcUse b 1)
  | .uAddI64 d a b => [⟨d, 2, false, true⟩] ++ [⟨a, 2, true, false⟩] ++ (srcUse b 2)
  | .uSubI64 d a b => [⟨d, 2, false, true⟩] ++ [⟨a, 2, true, false⟩] ++ (srcUse b 2)
  | .uMulwI32 d a b => [⟨d, 2, false, true⟩] ++ [⟨a, 1, true, false⟩] ++ (srcUse b 1)
  | .uMulwN32 d a b => [⟨d, 2, false, true⟩] ++ [⟨a, 1, true, false⟩] ++ (srcUse b 1)
  | .uMinI32 d a b => [⟨d, 1, false, true⟩] ++ [⟨a, 1, true, false⟩] ++ (srcUse b 1)
  | .uMaxI32 d a b => [⟨d, 1, false, true⟩] ++ [⟨a, 1, true, false⟩] ++ (srcUse b 1)
  | .uMinN32 d a b => [⟨d, 1, false, true⟩] ++ [⟨a, 1, true, false⟩] ++ (srcUse b 1)
  | .uMaxN32 d a b => [⟨d, 1, false, true⟩] ++ [⟨a, 1, true, false⟩] ++ (srcUse b 1)
  | .uAddi d _ => [⟨d, 1, true, true⟩]
  | .uLdi d _ => [⟨d, 1, false, true⟩]
  | .uAnd d a b => [⟨d, 1, false, true⟩] ++ [⟨a, 1, true, false⟩] ++ (srcUse b 1)
  | .uOr d a b => [⟨d, 1, false, true⟩] ++ [⟨a, 1, true, false⟩] ++ (srcUse b 1)
  | .uXor d a b => [⟨d, 1, false, true⟩] ++ [⟨a, 1, true, false⟩] ++ (srcUse b 1)
  | .uAndn d a b => [⟨d, 1, false, true⟩] ++ [⟨a, 1, true, false⟩] ++ (srcUse b 1)
  | .uShl d a b => [⟨d, 1, false, true⟩] ++ [⟨a, 1, true, false⟩] ++ (srcUse b 1)
  | .uShrN32 d a b => [⟨d, 1, false, true⟩] ++ [⟨a, 1, true, false⟩] ++ (srcUse b 1)
  | .uShrI32 d a b => [⟨d, 1, false, true⟩] ++ [⟨a, 1, true, false⟩] ++ (srcUse b 1)
  | .uShli d a _ => [⟨d, 1, false, true⟩] ++ [⟨a, 1, true, false⟩]
  | .uShriN32 d a _ => [⟨d, 1, false, true⟩] ++ [⟨a, 1, true, false⟩]
  | .uShriI32 d a _ => [⟨d, 1, false, true⟩] ++ [⟨a, 1, true, false⟩]
  | .uBfeN32 d a b => [⟨d, 1, false, true⟩] ++ [⟨a, 1, true, false⟩] ++ (srcUse b 1)
  | .uBfeI32 d a b => [⟨d, 1, false, true⟩] ++ [⟨a, 1, true, false⟩] ++ (srcUse b 1)
  | .uBfi d a b => [⟨d, 1, true, true⟩] ++ [⟨a, 1, true, false⟩] ++ (srcUse b 1)
  | .uPopc d a => [⟨d, 1, false, true⟩] ++ [⟨a, 1, true, false⟩]
  | .uClz d a => [⟨d, 1, false, true⟩] ++ [⟨a, 1, true, false⟩]
  | .uBrev d a => [⟨d, 1, false, true⟩] ++ [⟨a, 1, true, false⟩]
  | .seteq d a b => [⟨d, 1, false, true⟩] ++ [⟨a, 1, true, false⟩] ++ (srcUse b 1)
  | .setne d a b => [⟨d, 1, false, true⟩] ++ [⟨a, 1, true, false⟩] ++ (srcUse b 1)
  | .setltI32 d a b => [⟨d, 1, false, true⟩] ++ [⟨a, 1, true, false⟩] ++ (srcUse b 1)
  | .setleI32 d a b => [⟨d, 1, false, true⟩] ++ [⟨a, 1, true, false⟩] ++ (srcUse b 1)
  | .setltN32 d a b => [⟨d, 1, false, true⟩] ++ [⟨a, 1, true, false⟩] ++ (srcUse b 1)
  | .setleN32 d a b => [⟨d, 1, false, true⟩] ++ [⟨a, 1, true, false⟩] ++ (srcUse b 1)
  | .setltI64 d a b => [⟨d, 1, false, true⟩] ++ [⟨a, 2, true, false⟩] ++ (srcUse b 2)
  | .seteqI64 d a b => [⟨d, 1, false, true⟩] ++ [⟨a, 2, true, false⟩] ++ (srcUse b 2)
  | .xchAt d a b => [⟨d, 1, false, true⟩] ++ [⟨a, 1, true, false⟩] ++ (srcUse b 1)
  | .xchBelow d a b => [⟨d, 1, false, true⟩] ++ [⟨a, 1, true, false⟩] ++ (srcUse b 1)
  | .xchAbove d a b => [⟨d, 1, false, true⟩] ++ [⟨a, 1, true, false⟩] ++ (srcUse b 1)
  | .xchMirror d a b => [⟨d, 1, false, true⟩] ++ [⟨a, 1, true, false⟩] ++ (srcUse b 1)
  | .vmask d a => [⟨d, 1, false, true⟩] ++ [⟨a, 1, true, false⟩]
  | .vgroup d a => [⟨d, 1, false, true⟩] ++ [⟨a, 1, true, false⟩]
  | .lred d a imm8 => [⟨d, 1, false, true⟩] ++ (if imm8 = 8 then [] else [⟨a, 1, true, false⟩])
  | .faddF32 d a b => [⟨d, 1, false, true⟩] ++ [⟨a, 1, true, false⟩] ++ (srcUse b 1)
  | .fsubF32 d a b => [⟨d, 1, false, true⟩] ++ [⟨a, 1, true, false⟩] ++ (srcUse b 1)
  | .fmulF32 d a b => [⟨d, 1, false, true⟩] ++ [⟨a, 1, true, false⟩] ++ (srcUse b 1)
  | .ffmaF32 d a b => [⟨d, 1, true, true⟩] ++ [⟨a, 1, true, false⟩] ++ (srcUse b 1)
  | .fminF32 d a b => [⟨d, 1, false, true⟩] ++ [⟨a, 1, true, false⟩] ++ (srcUse b 1)
  | .fmaxF32 d a b => [⟨d, 1, false, true⟩] ++ [⟨a, 1, true, false⟩] ++ (srcUse b 1)
  | .fdivF32 d a b => [⟨d, 1, false, true⟩] ++ [⟨a, 1, true, false⟩] ++ (srcUse b 1)
  | .fsqrtF32 d a => [⟨d, 1, false, true⟩] ++ [⟨a, 1, true, false⟩]
  | .fseteqF32 d a b => [⟨d, 1, false, true⟩] ++ [⟨a, 1, true, false⟩] ++ (srcUse b 1)
  | .fsetltF32 d a b => [⟨d, 1, false, true⟩] ++ [⟨a, 1, true, false⟩] ++ (srcUse b 1)
  | .fsetleF32 d a b => [⟨d, 1, false, true⟩] ++ [⟨a, 1, true, false⟩] ++ (srcUse b 1)
  | .fsetunF32 d a b => [⟨d, 1, false, true⟩] ++ [⟨a, 1, true, false⟩] ++ (srcUse b 1)
  | .faddiF32 d _ => [⟨d, 1, true, true⟩]
  | .fmuliF32 d _ => [⟨d, 1, true, true⟩]
  | .fclassF32 d a => [⟨d, 1, false, true⟩] ++ [⟨a, 1, true, false⟩]
  | .fnmaF32 d a b => [⟨d, 1, true, true⟩] ++ [⟨a, 1, true, false⟩] ++ (srcUse b 1)
  | .faddF64 d a b => [⟨d, 2, false, true⟩] ++ [⟨a, 2, true, false⟩] ++ (srcUse b 2)
  | .fsubF64 d a b => [⟨d, 2, false, true⟩] ++ [⟨a, 2, true, false⟩] ++ (srcUse b 2)
  | .fmulF64 d a b => [⟨d, 2, false, true⟩] ++ [⟨a, 2, true, false⟩] ++ (srcUse b 2)
  | .ffmaF64 d a b => [⟨d, 2, true, true⟩] ++ [⟨a, 2, true, false⟩] ++ (srcUse b 2)
  | .fminF64 d a b => [⟨d, 2, false, true⟩] ++ [⟨a, 2, true, false⟩] ++ (srcUse b 2)
  | .fmaxF64 d a b => [⟨d, 2, false, true⟩] ++ [⟨a, 2, true, false⟩] ++ (srcUse b 2)
  | .fdivF64 d a b => [⟨d, 2, false, true⟩] ++ [⟨a, 2, true, false⟩] ++ (srcUse b 2)
  | .fsqrtF64 d a => [⟨d, 2, false, true⟩] ++ [⟨a, 2, true, false⟩]
  | .fseteqF64 d a b => [⟨d, 1, false, true⟩] ++ [⟨a, 2, true, false⟩] ++ (srcUse b 2)
  | .fsetltF64 d a b => [⟨d, 1, false, true⟩] ++ [⟨a, 2, true, false⟩] ++ (srcUse b 2)
  | .fsetleF64 d a b => [⟨d, 1, false, true⟩] ++ [⟨a, 2, true, false⟩] ++ (srcUse b 2)
  | .fsetunF64 d a b => [⟨d, 1, false, true⟩] ++ [⟨a, 2, true, false⟩] ++ (srcUse b 2)
  | .faddiF64 d _ => [⟨d, 2, true, true⟩]
  | .fmuliF64 d _ => [⟨d, 2, true, true⟩]
  | .fclassF64 d a => [⟨d, 1, false, true⟩] ++ [⟨a, 2, true, false⟩]
  | .fnmaF64 d a b => [⟨d, 2, true, true⟩] ++ [⟨a, 2, true, false⟩] ++ (srcUse b 2)
  | .haddF16x2 d a b => [⟨d, 1, false, true⟩] ++ [⟨a, 1, true, false⟩] ++ (srcUse b 1)
  | .hmulF16x2 d a b => [⟨d, 1, false, true⟩] ++ [⟨a, 1, true, false⟩] ++ (srcUse b 1)
  | .hfmaF16x2 d a b => [⟨d, 1, true, true⟩] ++ [⟨a, 1, true, false⟩] ++ (srcUse b 1)
  | .haddBf16x2 d a b => [⟨d, 1, false, true⟩] ++ [⟨a, 1, true, false⟩] ++ (srcUse b 1)
  | .hmulBf16x2 d a b => [⟨d, 1, false, true⟩] ++ [⟨a, 1, true, false⟩] ++ (srcUse b 1)
  | .hfmaBf16x2 d a b => [⟨d, 1, true, true⟩] ++ [⟨a, 1, true, false⟩] ++ (srcUse b 1)
  | .cvt d a _ _ conv => [⟨d, (cvtRegs conv.toNat).2, false, true⟩, ⟨a, (cvtRegs conv.toNat).1, true, false⟩]
  | .qbx d a _ _ _ _ => [⟨d, 1, false, true⟩] ++ [⟨a, 1, true, false⟩]
  | .frcpF32 d a => [⟨d, 1, false, true⟩] ++ [⟨a, 1, true, false⟩]
  | .frsqF32 d a => [⟨d, 1, false, true⟩] ++ [⟨a, 1, true, false⟩]
  | .fexp2F32 d a => [⟨d, 1, false, true⟩] ++ [⟨a, 1, true, false⟩]
  | .flog2F32 d a => [⟨d, 1, false, true⟩] ++ [⟨a, 1, true, false⟩]
  | .fsinF32 d a => [⟨d, 1, false, true⟩] ++ [⟨a, 1, true, false⟩]
  | .fcosF32 d a => [⟨d, 1, false, true⟩] ++ [⟨a, 1, true, false⟩]
  | .frcpF64 d a => [⟨d, 2, false, true⟩] ++ [⟨a, 2, true, false⟩]
  | .frsqF64 d a => [⟨d, 2, false, true⟩] ++ [⟨a, 2, true, false⟩]
  | .ld d a acc => [⟨d, acc.regs, false, true⟩] ++ [⟨a, 2, true, false⟩]
  | .st d a acc => [⟨d, acc.regs, true, false⟩] ++ [⟨a, 2, true, false⟩]
  | .lda d a _ acc => [⟨d, acc.regs, false, true⟩] ++ [⟨a, 2, true, false⟩]
  | .atom d a b acc => [⟨d, acc.regs, false, true⟩] ++ [⟨a, 2, true, false⟩] ++ [⟨b, acc.regs, true, false⟩]
  | .cas d a b acc => [⟨d, acc.regs, true, true⟩] ++ [⟨a, 2, true, false⟩] ++ [⟨b, acc.regs, true, false⟩]
  | .cas2 d a b acc => [⟨d, acc.regs, true, true⟩] ++ [⟨a, 2, true, false⟩] ++ [⟨b, acc.regs, true, false⟩]
  | .pf a _ => [⟨a, 2, true, false⟩]
  | .evict a _ => [⟨a, 2, true, false⟩]
  | .mov d b => [⟨d, 1, false, true⟩] ++ (srcUse b 1)
  | .movI64 d b => [⟨d, 2, false, true⟩] ++ (srcUse b 2)
  | .movx _ a b => [⟨a, 1, true, false⟩] ++ (srcUse b 1)
  | .movxr d a _ => [⟨d, 1, false, true⟩] ++ [⟨a, 1, true, false⟩]
  | .sel d a b => [⟨d, 1, true, true⟩] ++ [⟨a, 1, true, false⟩] ++ (srcUse b 1)
  | .sread d imm => [⟨d, if wideSpecial imm.toNat then 2 else 1, false, true⟩]
  | .swrite d imm => [⟨d, if wideSpecial imm.toNat then 2 else 1, true, false⟩]
  | .movh d _ => [⟨d, 1, true, true⟩]
  | .bra _ _ => []
  | .brx x a b => [⟨a, 2, true, false⟩] ++ (if x then srcUse b 2 else [])
  | .call _ l => [⟨l, 2, false, true⟩]
  | .ret a => [⟨a, 2, true, false⟩]
  | .join => []
  | .joinw d _ => [⟨d, 1, false, true⟩]
  | .yield => []
  | .exit => []
  | .trap _ => []
  | .brk _ => []
  | .emsave d => [⟨d, 1, false, true⟩]
  | .emset a => [⟨a, 1, true, false⟩]
  | .barInit _ a b => [⟨a, 2, true, false⟩] ++ (srcUse b 1)
  | .barArrive _ a b => [⟨a, 2, true, false⟩] ++ (srcUse b 1)
  | .barWait _ a b => [⟨a, 2, true, false⟩] ++ (srcUse b 1)
  | .fence _ => []
  | .uIsplit => []
  | .waitc _ _ => []
  | .uWaitring _ a b => [⟨a, 2, true, false⟩] ++ (srcUse b 1)
  | .barSync _ a b => [⟨a, 2, true, false⟩] ++ (srcUse b 1)
  | .uRecruit d a => [⟨d, 1, false, true⟩] ++ [⟨a, 1, true, false⟩]
  | .uHloop _ a b => [⟨a, 2, true, false⟩] ++ (srcUse b 1)
  | .uHjoin d a b => (hjoinUse d a b)
  | .uHrel => []
  | .setshape d a => [⟨d, 1, false, true⟩] ++ [⟨a, 1, true, false⟩]
  | .mma _ a _ => [⟨a, 2, true, false⟩]
  | .mgath _ a => [⟨a, 2, true, false⟩]
  | .mdrain _ a _ _ => [⟨a, 2, true, false⟩]
  | .mzero _ a _ => [⟨a, 1, true, false⟩]
  | .tld _ a _ => [⟨a, 2, true, false⟩]
  | .tst _ a b _ => [⟨a, 2, true, false⟩] ++ [⟨b, 1, true, false⟩]
  | .cksum _ b => (srcUse b 1)
  | .ckchk _ => []
  | .ckinj _ a b => [⟨a, 1, true, false⟩] ++ (srcUse b 1)
  | .copy d a b => [⟨d, 1, false, true⟩] ++ [⟨a, 2, true, false⟩] ++ [⟨b, 2, true, false⟩]
  | .copyTile d a b => [⟨d, 1, false, true⟩] ++ [⟨a, 2, true, false⟩] ++ [⟨b, 2, true, false⟩]
  | .copyGath d a b => [⟨d, 1, false, true⟩] ++ [⟨a, 2, true, false⟩] ++ [⟨b, 2, true, false⟩]
  | .copyScat d a b => [⟨d, 1, false, true⟩] ++ [⟨a, 2, true, false⟩] ++ [⟨b, 2, true, false⟩]
  | .copyRed d a b => [⟨d, 1, false, true⟩] ++ [⟨a, 2, true, false⟩] ++ [⟨b, 2, true, false⟩]
  | .copyConv d a b => [⟨d, 1, false, true⟩] ++ [⟨a, 2, true, false⟩] ++ [⟨b, 2, true, false⟩]
  | .launch d a b => [⟨d, 1, false, true⟩] ++ [⟨a, 2, true, false⟩] ++ (srcUse b 1)
  | .amsend d a b => [⟨d, 1, true, false⟩] ++ [⟨a, 1, true, false⟩] ++ (srcUse b 1)
  | .trctl _ => []
  | .trmark _ => []
  | .uLd d a acc => [⟨d, acc.regs, false, true⟩] ++ [⟨a, 2, true, false⟩]
  | .uSt d a acc => [⟨d, acc.regs, true, false⟩] ++ [⟨a, 2, true, false⟩]
  | .uAtom d a b acc => [⟨d, acc.regs, false, true⟩] ++ [⟨a, 2, true, false⟩] ++ [⟨b, acc.regs, true, false⟩]
  | .smap a b _ => [⟨a, 2, true, false⟩] ++ [⟨b, 2, true, false⟩]
  | .sunmap _ => []
  | .sflush _ => []
  | .uCas d a b acc => [⟨d, acc.regs, true, true⟩] ++ [⟨a, 2, true, false⟩] ++ [⟨b, acc.regs, true, false⟩]
  | .tretRetry => []
  | .tretSkip => []
  | .tretEnd => []
  | .locq d a => [⟨d, 1, false, true⟩] ++ [⟨a, 2, true, false⟩]
  | .tlbinvPage a b => [⟨a, 2, true, false⟩] ++ [⟨b, 1, true, false⟩]
  | .tlbinvAsid b => [⟨b, 1, true, false⟩]
  | .tlbinvAll => []
  | .asidset d a b => [⟨d, 1, false, true⟩] ++ [⟨a, 2, true, false⟩] ++ [⟨b, 1, true, false⟩]
  | .mgate d a => [⟨d, 1, false, true⟩] ++ [⟨a, 2, true, false⟩]
  | .cntrd d n => ⟨d, 2, false, true⟩ :: (if 0x50 ≤ n.toNat && n.toNat ≤ 0x53 then [⟨d, 1, true, false⟩] else [])
  | .cntset d _ => [⟨d, 2, true, false⟩]
  | .nop => []
  | .sleep _ => []
  | .gangStateError _ _ => []
  | .scoreboardSquash _ _ _ => []
  | .trapEntry _ _ => []
  | .joinwTimeout _ _ _ => []
  | .starvationLimit _ _ => []
  | .issueSelect _ _ => []
  | .sleepExpiry _ _ _ => []
  | .barrierWaitWake _ _ _ => []
  | .waitcWake _ _ _ => []
  | .waitringWake _ _ _ => []
  | .resourceWake _ _ _ => []
  | .firstTouchFill _ _ => []
  | .ldaReply _ _ _ _ _ => []
  | .helperForcedRelease _ _ => []
  | .matrixOpStart _ => []
  | .matrixSourceRelease _ _ => []
  | .matrixOpComplete _ => []
  | .copyStart _ _ => []
  | .copySourceRelease _ _ => []
  | .copyLineArrival _ _ => []
  | .copyComplete _ _ => []
  | .copyFault _ _ => []
  | .blockPlace _ => []
  | .boundaryDrain _ => []
  | .contextStage _ _ => []
  | .blockStart _ => []
  | .blockEnd _ => []
  | .teamAbort _ => []
  | .schedulerTake => []
  | .tokenEvict _ _ => []
  | .handlerSpawn _ => []
  | .messageArrival _ => []
  | .launchPortWrite _ _ _ => []
  | .qcmdNop _ _ => []
  | .qcmdBind _ _ => []
  | .qcmdUnbind _ _ => []
  | .qcmdEnable _ _ => []
  | .qcmdDisable _ _ => []
  | .qstatWrite _ _ => []
  | .qspillWrite _ _ => []
  | .preemptRequest _ _ _ _ _ => []
  | .restoreRequest _ _ => []
  | .endRequest _ => []
  | .preemptDiscardedOp _ => []
  | .teamDiscard _ => []
  | .teamSave _ => []
  | .teamRestore _ => []
  | .resumeRetry _ _ => []
  | .resumeRefuse _ _ => []
  | .resumeEnd _ _ => []
  | .resumeDiscarded _ _ => []
  | .closeRequest _ _ => []
  | .implicitSplit _ => []
  | .lineEvict _ => []
  | .slotRenewal _ => []
  | .slotPurge _ => []
  | .atticSweep _ => []
  | .migrationFiller _ => []
  | .inboundWrite _ _ _ => []
  | .inboundRouteAck _ _ => []
  | .hostBar2Read _ _ => []
  | .hostSnoop _ _ _ => []
  | .linkUp _ => []
  | .linkDown => []
  | .errstatWrite _ => []
  | .trrpWrite _ _ => []
  | .registerWrite _ _ => []
  | .tracePeriodicSync _ => []
  | .traceLossWrite _ => []
  | .remoteWriteArrival _ _ _ => []
  | .remoteAtomicArrival _ _ _ _ _ _ _ _ => []
  | .remoteAtomicRetry _ _ _ _ => []
  | .frameResend _ _ => []
  | .routeTableWrite _ _ _ _ => []
  | .mgmtQueueDisable _ => []
  | .mgmtQueueEnable _ => []
  | .mgmtDieReset _ _ => []
  | .mgmtDieEnable _ => []
  | .mgmtFaultQueueRead _ => []
  | .mgmtControllerReset => []
  | .ballastWrite _ => []
  | .hbmRateChange _ _ => []
  | .hbmRetrainDone _ _ => []
  | .hbmStackReset _ => []
  | .sensorSample _ _ _ => []
  | .thermalDecision _ => []
  | .clockChange _ => []
  | .governorTest _ => []
  | .powerUp => []
  | .firmwareImageLoad _ _ _ _ => []
  | .spdmRequest _ => []
  | .memoryPoison _ => []
  | .ioParityError _ _ => []
  | .mgmtControllerResetRelease => []
  | .retrainingDeferralExpiry _ => []
  | .recordingControl _ _ _ => []

/-- The result latency λ of R81; none where it is variable and interlocked. -/
def Instr.latency : Instr → Option Nat
  | .add _ _ _ => some 2
  | .sub _ _ _ => some 2
  | .mul _ _ _ => some 2
  | .mulhiI32 _ _ _ => some 2
  | .mulhiN32 _ _ _ => some 2
  | .mad _ _ _ => some 2
  | .addI64 _ _ _ => some 2
  | .subI64 _ _ _ => some 2
  | .mulwI32 _ _ _ => some 2
  | .mulwN32 _ _ _ => some 2
  | .minI32 _ _ _ => some 2
  | .maxI32 _ _ _ => some 2
  | .minN32 _ _ _ => some 2
  | .maxN32 _ _ _ => some 2
  | .addi _ _ => some 2
  | .ldi _ _ => some 2
  | .and _ _ _ => some 2
  | .or _ _ _ => some 2
  | .xor _ _ _ => some 2
  | .andn _ _ _ => some 2
  | .shl _ _ _ => some 2
  | .shrN32 _ _ _ => some 2
  | .shrI32 _ _ _ => some 2
  | .shli _ _ _ => some 2
  | .shriN32 _ _ _ => some 2
  | .shriI32 _ _ _ => some 2
  | .bfeN32 _ _ _ => some 2
  | .bfeI32 _ _ _ => some 2
  | .bfi _ _ _ => some 2
  | .popc _ _ => some 2
  | .clz _ _ => some 2
  | .brev _ _ => some 2
  | .uAdd _ _ _ => some 2
  | .uSub _ _ _ => some 2
  | .uMul _ _ _ => some 2
  | .uMulhiI32 _ _ _ => some 2
  | .uMulhiN32 _ _ _ => some 2
  | .uMad _ _ _ => some 2
  | .uAddI64 _ _ _ => some 2
  | .uSubI64 _ _ _ => some 2
  | .uMulwI32 _ _ _ => some 2
  | .uMulwN32 _ _ _ => some 2
  | .uMinI32 _ _ _ => some 2
  | .uMaxI32 _ _ _ => some 2
  | .uMinN32 _ _ _ => some 2
  | .uMaxN32 _ _ _ => some 2
  | .uAddi _ _ => some 2
  | .uLdi _ _ => some 2
  | .uAnd _ _ _ => some 2
  | .uOr _ _ _ => some 2
  | .uXor _ _ _ => some 2
  | .uAndn _ _ _ => some 2
  | .uShl _ _ _ => some 2
  | .uShrN32 _ _ _ => some 2
  | .uShrI32 _ _ _ => some 2
  | .uShli _ _ _ => some 2
  | .uShriN32 _ _ _ => some 2
  | .uShriI32 _ _ _ => some 2
  | .uBfeN32 _ _ _ => some 2
  | .uBfeI32 _ _ _ => some 2
  | .uBfi _ _ _ => some 2
  | .uPopc _ _ => some 2
  | .uClz _ _ => some 2
  | .uBrev _ _ => some 2
  | .seteq _ _ _ => some 2
  | .setne _ _ _ => some 2
  | .setltI32 _ _ _ => some 2
  | .setleI32 _ _ _ => some 2
  | .setltN32 _ _ _ => some 2
  | .setleN32 _ _ _ => some 2
  | .setltI64 _ _ _ => some 2
  | .seteqI64 _ _ _ => some 2
  | .xchAt _ _ _ => some 6
  | .xchBelow _ _ _ => some 6
  | .xchAbove _ _ _ => some 6
  | .xchMirror _ _ _ => some 6
  | .vmask _ _ => some 6
  | .vgroup _ _ => some 6
  | .lred _ _ _ => some 6
  | .faddF32 _ _ _ => some 4
  | .fsubF32 _ _ _ => some 4
  | .fmulF32 _ _ _ => some 4
  | .ffmaF32 _ _ _ => some 4
  | .fminF32 _ _ _ => some 4
  | .fmaxF32 _ _ _ => some 4
  | .fdivF32 _ _ _ => none
  | .fsqrtF32 _ _ => none
  | .fseteqF32 _ _ _ => some 4
  | .fsetltF32 _ _ _ => some 4
  | .fsetleF32 _ _ _ => some 4
  | .fsetunF32 _ _ _ => some 4
  | .faddiF32 _ _ => some 4
  | .fmuliF32 _ _ => some 4
  | .fclassF32 _ _ => some 4
  | .fnmaF32 _ _ _ => some 4
  | .faddF64 _ _ _ => some 10
  | .fsubF64 _ _ _ => some 10
  | .fmulF64 _ _ _ => some 10
  | .ffmaF64 _ _ _ => some 10
  | .fminF64 _ _ _ => some 10
  | .fmaxF64 _ _ _ => some 10
  | .fdivF64 _ _ _ => none
  | .fsqrtF64 _ _ => none
  | .fseteqF64 _ _ _ => some 10
  | .fsetltF64 _ _ _ => some 10
  | .fsetleF64 _ _ _ => some 10
  | .fsetunF64 _ _ _ => some 10
  | .faddiF64 _ _ => some 10
  | .fmuliF64 _ _ => some 10
  | .fclassF64 _ _ => some 10
  | .fnmaF64 _ _ _ => some 10
  | .haddF16x2 _ _ _ => some 4
  | .hmulF16x2 _ _ _ => some 4
  | .hfmaF16x2 _ _ _ => some 4
  | .haddBf16x2 _ _ _ => some 4
  | .hmulBf16x2 _ _ _ => some 4
  | .hfmaBf16x2 _ _ _ => some 4
  | .cvt _ _ _ _ _ => some 4
  | .qbx _ _ _ _ _ _ => none
  | .frcpF32 _ _ => none
  | .frsqF32 _ _ => none
  | .fexp2F32 _ _ => none
  | .flog2F32 _ _ => none
  | .fsinF32 _ _ => none
  | .fcosF32 _ _ => none
  | .frcpF64 _ _ => none
  | .frsqF64 _ _ => none
  | .ld _ _ _ => none
  | .st _ _ _ => none
  | .lda _ _ _ _ => none
  | .atom _ _ _ _ => none
  | .cas _ _ _ _ => none
  | .cas2 _ _ _ _ => none
  | .pf _ _ => none
  | .evict _ _ => none
  | .mov _ _ => some 2
  | .movI64 _ _ => some 2
  | .movx _ _ _ => some 6
  | .movxr _ _ _ => some 6
  | .sel _ _ _ => some 2
  | .sread _ _ => none
  | .swrite _ _ => none
  | .movh _ _ => some 2
  | .bra _ _ => none
  | .brx _ _ _ => none
  | .call _ _ => none
  | .ret _ => none
  | .join => none
  | .joinw _ _ => none
  | .yield => none
  | .exit => none
  | .trap _ => none
  | .brk _ => none
  | .emsave _ => none
  | .emset _ => none
  | .barInit _ _ _ => none
  | .barArrive _ _ _ => none
  | .barWait _ _ _ => none
  | .fence _ => none
  | .uIsplit => none
  | .waitc _ _ => none
  | .uWaitring _ _ _ => none
  | .barSync _ _ _ => none
  | .uRecruit _ _ => none
  | .uHloop _ _ _ => none
  | .uHjoin _ _ _ => none
  | .uHrel => none
  | .setshape _ _ => none
  | .mma _ _ _ => none
  | .mgath _ _ => none
  | .mdrain _ _ _ _ => none
  | .mzero _ _ _ => none
  | .tld _ _ _ => none
  | .tst _ _ _ _ => none
  | .cksum _ _ => none
  | .ckchk _ => none
  | .ckinj _ _ _ => none
  | .copy _ _ _ => none
  | .copyTile _ _ _ => none
  | .copyGath _ _ _ => none
  | .copyScat _ _ _ => none
  | .copyRed _ _ _ => none
  | .copyConv _ _ _ => none
  | .launch _ _ _ => none
  | .amsend _ _ _ => none
  | .trctl _ => none
  | .trmark _ => none
  | .uLd _ _ _ => none
  | .uSt _ _ _ => none
  | .uAtom _ _ _ _ => none
  | .smap _ _ _ => none
  | .sunmap _ => none
  | .sflush _ => none
  | .uCas _ _ _ _ => none
  | .tretRetry => none
  | .tretSkip => none
  | .tretEnd => none
  | .locq _ _ => none
  | .tlbinvPage _ _ => none
  | .tlbinvAsid _ => none
  | .tlbinvAll => none
  | .asidset _ _ _ => none
  | .mgate _ _ => none
  | .cntrd _ _ => none
  | .cntset _ _ => none
  | .nop => none
  | .sleep _ => none
  | .gangStateError _ _ => none
  | .scoreboardSquash _ _ _ => none
  | .trapEntry _ _ => none
  | .joinwTimeout _ _ _ => none
  | .starvationLimit _ _ => none
  | .issueSelect _ _ => none
  | .sleepExpiry _ _ _ => none
  | .barrierWaitWake _ _ _ => none
  | .waitcWake _ _ _ => none
  | .waitringWake _ _ _ => none
  | .resourceWake _ _ _ => none
  | .firstTouchFill _ _ => none
  | .ldaReply _ _ _ _ _ => none
  | .helperForcedRelease _ _ => none
  | .matrixOpStart _ => none
  | .matrixSourceRelease _ _ => none
  | .matrixOpComplete _ => none
  | .copyStart _ _ => none
  | .copySourceRelease _ _ => none
  | .copyLineArrival _ _ => none
  | .copyComplete _ _ => none
  | .copyFault _ _ => none
  | .blockPlace _ => none
  | .boundaryDrain _ => none
  | .contextStage _ _ => none
  | .blockStart _ => none
  | .blockEnd _ => none
  | .teamAbort _ => none
  | .schedulerTake => none
  | .tokenEvict _ _ => none
  | .handlerSpawn _ => none
  | .messageArrival _ => none
  | .launchPortWrite _ _ _ => none
  | .qcmdNop _ _ => none
  | .qcmdBind _ _ => none
  | .qcmdUnbind _ _ => none
  | .qcmdEnable _ _ => none
  | .qcmdDisable _ _ => none
  | .qstatWrite _ _ => none
  | .qspillWrite _ _ => none
  | .preemptRequest _ _ _ _ _ => none
  | .restoreRequest _ _ => none
  | .endRequest _ => none
  | .preemptDiscardedOp _ => none
  | .teamDiscard _ => none
  | .teamSave _ => none
  | .teamRestore _ => none
  | .resumeRetry _ _ => none
  | .resumeRefuse _ _ => none
  | .resumeEnd _ _ => none
  | .resumeDiscarded _ _ => none
  | .closeRequest _ _ => none
  | .implicitSplit _ => none
  | .lineEvict _ => none
  | .slotRenewal _ => none
  | .slotPurge _ => none
  | .atticSweep _ => none
  | .migrationFiller _ => none
  | .inboundWrite _ _ _ => none
  | .inboundRouteAck _ _ => none
  | .hostBar2Read _ _ => none
  | .hostSnoop _ _ _ => none
  | .linkUp _ => none
  | .linkDown => none
  | .errstatWrite _ => none
  | .trrpWrite _ _ => none
  | .registerWrite _ _ => none
  | .tracePeriodicSync _ => none
  | .traceLossWrite _ => none
  | .remoteWriteArrival _ _ _ => none
  | .remoteAtomicArrival _ _ _ _ _ _ _ _ => none
  | .remoteAtomicRetry _ _ _ _ => none
  | .frameResend _ _ => none
  | .routeTableWrite _ _ _ _ => none
  | .mgmtQueueDisable _ => none
  | .mgmtQueueEnable _ => none
  | .mgmtDieReset _ _ => none
  | .mgmtDieEnable _ => none
  | .mgmtFaultQueueRead _ => none
  | .mgmtControllerReset => none
  | .ballastWrite _ => none
  | .hbmRateChange _ _ => none
  | .hbmRetrainDone _ _ => none
  | .hbmStackReset _ => none
  | .sensorSample _ _ _ => none
  | .thermalDecision _ => none
  | .clockChange _ => none
  | .governorTest _ => none
  | .powerUp => none
  | .firmwareImageLoad _ _ _ _ => none
  | .spdmRequest _ => none
  | .memoryPoison _ => none
  | .ioParityError _ _ => none
  | .mgmtControllerResetRelease => none
  | .retrainingDeferralExpiry _ => none
  | .recordingControl _ _ _ => none

/-- Whether the instruction is of the U set (R72): bit 31 of its word. -/
def Instr.uniform : Instr → Bool
  | .add _ _ _ => false
  | .sub _ _ _ => false
  | .mul _ _ _ => false
  | .mulhiI32 _ _ _ => false
  | .mulhiN32 _ _ _ => false
  | .mad _ _ _ => false
  | .addI64 _ _ _ => false
  | .subI64 _ _ _ => false
  | .mulwI32 _ _ _ => false
  | .mulwN32 _ _ _ => false
  | .minI32 _ _ _ => false
  | .maxI32 _ _ _ => false
  | .minN32 _ _ _ => false
  | .maxN32 _ _ _ => false
  | .addi _ _ => false
  | .ldi _ _ => false
  | .and _ _ _ => false
  | .or _ _ _ => false
  | .xor _ _ _ => false
  | .andn _ _ _ => false
  | .shl _ _ _ => false
  | .shrN32 _ _ _ => false
  | .shrI32 _ _ _ => false
  | .shli _ _ _ => false
  | .shriN32 _ _ _ => false
  | .shriI32 _ _ _ => false
  | .bfeN32 _ _ _ => false
  | .bfeI32 _ _ _ => false
  | .bfi _ _ _ => false
  | .popc _ _ => false
  | .clz _ _ => false
  | .brev _ _ => false
  | .uAdd _ _ _ => true
  | .uSub _ _ _ => true
  | .uMul _ _ _ => true
  | .uMulhiI32 _ _ _ => true
  | .uMulhiN32 _ _ _ => true
  | .uMad _ _ _ => true
  | .uAddI64 _ _ _ => true
  | .uSubI64 _ _ _ => true
  | .uMulwI32 _ _ _ => true
  | .uMulwN32 _ _ _ => true
  | .uMinI32 _ _ _ => true
  | .uMaxI32 _ _ _ => true
  | .uMinN32 _ _ _ => true
  | .uMaxN32 _ _ _ => true
  | .uAddi _ _ => true
  | .uLdi _ _ => true
  | .uAnd _ _ _ => true
  | .uOr _ _ _ => true
  | .uXor _ _ _ => true
  | .uAndn _ _ _ => true
  | .uShl _ _ _ => true
  | .uShrN32 _ _ _ => true
  | .uShrI32 _ _ _ => true
  | .uShli _ _ _ => true
  | .uShriN32 _ _ _ => true
  | .uShriI32 _ _ _ => true
  | .uBfeN32 _ _ _ => true
  | .uBfeI32 _ _ _ => true
  | .uBfi _ _ _ => true
  | .uPopc _ _ => true
  | .uClz _ _ => true
  | .uBrev _ _ => true
  | .seteq _ _ _ => false
  | .setne _ _ _ => false
  | .setltI32 _ _ _ => false
  | .setleI32 _ _ _ => false
  | .setltN32 _ _ _ => false
  | .setleN32 _ _ _ => false
  | .setltI64 _ _ _ => false
  | .seteqI64 _ _ _ => false
  | .xchAt _ _ _ => false
  | .xchBelow _ _ _ => false
  | .xchAbove _ _ _ => false
  | .xchMirror _ _ _ => false
  | .vmask _ _ => false
  | .vgroup _ _ => false
  | .lred _ _ _ => false
  | .faddF32 _ _ _ => false
  | .fsubF32 _ _ _ => false
  | .fmulF32 _ _ _ => false
  | .ffmaF32 _ _ _ => false
  | .fminF32 _ _ _ => false
  | .fmaxF32 _ _ _ => false
  | .fdivF32 _ _ _ => false
  | .fsqrtF32 _ _ => false
  | .fseteqF32 _ _ _ => false
  | .fsetltF32 _ _ _ => false
  | .fsetleF32 _ _ _ => false
  | .fsetunF32 _ _ _ => false
  | .faddiF32 _ _ => false
  | .fmuliF32 _ _ => false
  | .fclassF32 _ _ => false
  | .fnmaF32 _ _ _ => false
  | .faddF64 _ _ _ => false
  | .fsubF64 _ _ _ => false
  | .fmulF64 _ _ _ => false
  | .ffmaF64 _ _ _ => false
  | .fminF64 _ _ _ => false
  | .fmaxF64 _ _ _ => false
  | .fdivF64 _ _ _ => false
  | .fsqrtF64 _ _ => false
  | .fseteqF64 _ _ _ => false
  | .fsetltF64 _ _ _ => false
  | .fsetleF64 _ _ _ => false
  | .fsetunF64 _ _ _ => false
  | .faddiF64 _ _ => false
  | .fmuliF64 _ _ => false
  | .fclassF64 _ _ => false
  | .fnmaF64 _ _ _ => false
  | .haddF16x2 _ _ _ => false
  | .hmulF16x2 _ _ _ => false
  | .hfmaF16x2 _ _ _ => false
  | .haddBf16x2 _ _ _ => false
  | .hmulBf16x2 _ _ _ => false
  | .hfmaBf16x2 _ _ _ => false
  | .cvt _ _ _ _ _ => false
  | .qbx _ _ _ _ _ _ => false
  | .frcpF32 _ _ => false
  | .frsqF32 _ _ => false
  | .fexp2F32 _ _ => false
  | .flog2F32 _ _ => false
  | .fsinF32 _ _ => false
  | .fcosF32 _ _ => false
  | .frcpF64 _ _ => false
  | .frsqF64 _ _ => false
  | .ld _ _ _ => false
  | .st _ _ _ => false
  | .lda _ _ _ _ => false
  | .atom _ _ _ _ => false
  | .cas _ _ _ _ => false
  | .cas2 _ _ _ _ => false
  | .pf _ _ => false
  | .evict _ _ => false
  | .mov _ _ => false
  | .movI64 _ _ => false
  | .movx _ _ _ => false
  | .movxr _ _ _ => false
  | .sel _ _ _ => false
  | .sread _ _ => false
  | .swrite _ _ => false
  | .movh _ _ => false
  | .bra _ _ => true
  | .brx _ _ _ => true
  | .call _ _ => true
  | .ret _ => true
  | .join => true
  | .joinw _ _ => true
  | .yield => true
  | .exit => true
  | .trap _ => true
  | .brk _ => true
  | .emsave _ => true
  | .emset _ => true
  | .barInit _ _ _ => true
  | .barArrive _ _ _ => true
  | .barWait _ _ _ => true
  | .fence _ => true
  | .uIsplit => true
  | .waitc _ _ => true
  | .uWaitring _ _ _ => true
  | .barSync _ _ _ => true
  | .uRecruit _ _ => true
  | .uHloop _ _ _ => true
  | .uHjoin _ _ _ => true
  | .uHrel => true
  | .setshape _ _ => true
  | .mma _ _ _ => true
  | .mgath _ _ => true
  | .mdrain _ _ _ _ => true
  | .mzero _ _ _ => true
  | .tld _ _ _ => true
  | .tst _ _ _ _ => true
  | .cksum _ _ => true
  | .ckchk _ => true
  | .ckinj _ _ _ => true
  | .copy _ _ _ => true
  | .copyTile _ _ _ => true
  | .copyGath _ _ _ => true
  | .copyScat _ _ _ => true
  | .copyRed _ _ _ => true
  | .copyConv _ _ _ => true
  | .launch _ _ _ => true
  | .amsend _ _ _ => true
  | .trctl _ => true
  | .trmark _ => true
  | .uLd _ _ _ => true
  | .uSt _ _ _ => true
  | .uAtom _ _ _ _ => true
  | .smap _ _ _ => true
  | .sunmap _ => true
  | .sflush _ => true
  | .uCas _ _ _ _ => true
  | .tretRetry => true
  | .tretSkip => true
  | .tretEnd => true
  | .locq _ _ => true
  | .tlbinvPage _ _ => true
  | .tlbinvAsid _ => true
  | .tlbinvAll => true
  | .asidset _ _ _ => true
  | .mgate _ _ => true
  | .cntrd _ _ => true
  | .cntset _ _ => true
  | .nop => true
  | .sleep _ => true
  | .gangStateError _ _ => false
  | .scoreboardSquash _ _ _ => false
  | .trapEntry _ _ => false
  | .joinwTimeout _ _ _ => false
  | .starvationLimit _ _ => false
  | .issueSelect _ _ => false
  | .sleepExpiry _ _ _ => false
  | .barrierWaitWake _ _ _ => false
  | .waitcWake _ _ _ => false
  | .waitringWake _ _ _ => false
  | .resourceWake _ _ _ => false
  | .firstTouchFill _ _ => false
  | .ldaReply _ _ _ _ _ => false
  | .helperForcedRelease _ _ => false
  | .matrixOpStart _ => false
  | .matrixSourceRelease _ _ => false
  | .matrixOpComplete _ => false
  | .copyStart _ _ => false
  | .copySourceRelease _ _ => false
  | .copyLineArrival _ _ => false
  | .copyComplete _ _ => false
  | .copyFault _ _ => false
  | .blockPlace _ => false
  | .boundaryDrain _ => false
  | .contextStage _ _ => false
  | .blockStart _ => false
  | .blockEnd _ => false
  | .teamAbort _ => false
  | .schedulerTake => false
  | .tokenEvict _ _ => false
  | .handlerSpawn _ => false
  | .messageArrival _ => false
  | .launchPortWrite _ _ _ => false
  | .qcmdNop _ _ => false
  | .qcmdBind _ _ => false
  | .qcmdUnbind _ _ => false
  | .qcmdEnable _ _ => false
  | .qcmdDisable _ _ => false
  | .qstatWrite _ _ => false
  | .qspillWrite _ _ => false
  | .preemptRequest _ _ _ _ _ => false
  | .restoreRequest _ _ => false
  | .endRequest _ => false
  | .preemptDiscardedOp _ => false
  | .teamDiscard _ => false
  | .teamSave _ => false
  | .teamRestore _ => false
  | .resumeRetry _ _ => false
  | .resumeRefuse _ _ => false
  | .resumeEnd _ _ => false
  | .resumeDiscarded _ _ => false
  | .closeRequest _ _ => false
  | .implicitSplit _ => false
  | .lineEvict _ => false
  | .slotRenewal _ => false
  | .slotPurge _ => false
  | .atticSweep _ => false
  | .migrationFiller _ => false
  | .inboundWrite _ _ _ => false
  | .inboundRouteAck _ _ => false
  | .hostBar2Read _ _ => false
  | .hostSnoop _ _ _ => false
  | .linkUp _ => false
  | .linkDown => false
  | .errstatWrite _ => false
  | .trrpWrite _ _ => false
  | .registerWrite _ _ => false
  | .tracePeriodicSync _ => false
  | .traceLossWrite _ => false
  | .remoteWriteArrival _ _ _ => false
  | .remoteAtomicArrival _ _ _ _ _ _ _ _ => false
  | .remoteAtomicRetry _ _ _ _ => false
  | .frameResend _ _ => false
  | .routeTableWrite _ _ _ _ => false
  | .mgmtQueueDisable _ => false
  | .mgmtQueueEnable _ => false
  | .mgmtDieReset _ _ => false
  | .mgmtDieEnable _ => false
  | .mgmtFaultQueueRead _ => false
  | .mgmtControllerReset => false
  | .ballastWrite _ => false
  | .hbmRateChange _ _ => false
  | .hbmRetrainDone _ _ => false
  | .hbmStackReset _ => false
  | .sensorSample _ _ _ => false
  | .thermalDecision _ => false
  | .clockChange _ => false
  | .governorTest _ => false
  | .powerUp => false
  | .firmwareImageLoad _ _ _ _ => false
  | .spdmRequest _ => false
  | .memoryPoison _ => false
  | .ioParityError _ _ => false
  | .mgmtControllerResetRelease => false
  | .retrainingDeferralExpiry _ => false
  | .recordingControl _ _ _ => false

/-- Which roles may execute an instruction (R43, R324, R354, R381). -/
inductive Admits where
  | every
  | copyOnly
  | matrixOnly
  | notCopy
  deriving DecidableEq, Repr

/-- Role 0 is vector, 1 matrix, 2 copy (R42). -/
def Admits.role : Admits → Nat → Bool
  | .every, _ => true
  | .copyOnly, r => r = 2
  | .matrixOnly, r => r = 1
  | .notCopy, r => r ≠ 2

def Instr.admits : Instr → Admits
  | .add _ _ _ => .every
  | .sub _ _ _ => .every
  | .mul _ _ _ => .every
  | .mulhiI32 _ _ _ => .every
  | .mulhiN32 _ _ _ => .every
  | .mad _ _ _ => .every
  | .addI64 _ _ _ => .every
  | .subI64 _ _ _ => .every
  | .mulwI32 _ _ _ => .every
  | .mulwN32 _ _ _ => .every
  | .minI32 _ _ _ => .every
  | .maxI32 _ _ _ => .every
  | .minN32 _ _ _ => .every
  | .maxN32 _ _ _ => .every
  | .addi _ _ => .every
  | .ldi _ _ => .every
  | .and _ _ _ => .every
  | .or _ _ _ => .every
  | .xor _ _ _ => .every
  | .andn _ _ _ => .every
  | .shl _ _ _ => .every
  | .shrN32 _ _ _ => .every
  | .shrI32 _ _ _ => .every
  | .shli _ _ _ => .every
  | .shriN32 _ _ _ => .every
  | .shriI32 _ _ _ => .every
  | .bfeN32 _ _ _ => .every
  | .bfeI32 _ _ _ => .every
  | .bfi _ _ _ => .every
  | .popc _ _ => .every
  | .clz _ _ => .every
  | .brev _ _ => .every
  | .uAdd _ _ _ => .every
  | .uSub _ _ _ => .every
  | .uMul _ _ _ => .every
  | .uMulhiI32 _ _ _ => .every
  | .uMulhiN32 _ _ _ => .every
  | .uMad _ _ _ => .every
  | .uAddI64 _ _ _ => .every
  | .uSubI64 _ _ _ => .every
  | .uMulwI32 _ _ _ => .every
  | .uMulwN32 _ _ _ => .every
  | .uMinI32 _ _ _ => .every
  | .uMaxI32 _ _ _ => .every
  | .uMinN32 _ _ _ => .every
  | .uMaxN32 _ _ _ => .every
  | .uAddi _ _ => .every
  | .uLdi _ _ => .every
  | .uAnd _ _ _ => .every
  | .uOr _ _ _ => .every
  | .uXor _ _ _ => .every
  | .uAndn _ _ _ => .every
  | .uShl _ _ _ => .every
  | .uShrN32 _ _ _ => .every
  | .uShrI32 _ _ _ => .every
  | .uShli _ _ _ => .every
  | .uShriN32 _ _ _ => .every
  | .uShriI32 _ _ _ => .every
  | .uBfeN32 _ _ _ => .every
  | .uBfeI32 _ _ _ => .every
  | .uBfi _ _ _ => .every
  | .uPopc _ _ => .every
  | .uClz _ _ => .every
  | .uBrev _ _ => .every
  | .seteq _ _ _ => .every
  | .setne _ _ _ => .every
  | .setltI32 _ _ _ => .every
  | .setleI32 _ _ _ => .every
  | .setltN32 _ _ _ => .every
  | .setleN32 _ _ _ => .every
  | .setltI64 _ _ _ => .every
  | .seteqI64 _ _ _ => .every
  | .xchAt _ _ _ => .every
  | .xchBelow _ _ _ => .every
  | .xchAbove _ _ _ => .every
  | .xchMirror _ _ _ => .every
  | .vmask _ _ => .every
  | .vgroup _ _ => .every
  | .lred _ _ _ => .every
  | .faddF32 _ _ _ => .every
  | .fsubF32 _ _ _ => .every
  | .fmulF32 _ _ _ => .every
  | .ffmaF32 _ _ _ => .every
  | .fminF32 _ _ _ => .every
  | .fmaxF32 _ _ _ => .every
  | .fdivF32 _ _ _ => .every
  | .fsqrtF32 _ _ => .every
  | .fseteqF32 _ _ _ => .every
  | .fsetltF32 _ _ _ => .every
  | .fsetleF32 _ _ _ => .every
  | .fsetunF32 _ _ _ => .every
  | .faddiF32 _ _ => .every
  | .fmuliF32 _ _ => .every
  | .fclassF32 _ _ => .every
  | .fnmaF32 _ _ _ => .every
  | .faddF64 _ _ _ => .every
  | .fsubF64 _ _ _ => .every
  | .fmulF64 _ _ _ => .every
  | .ffmaF64 _ _ _ => .every
  | .fminF64 _ _ _ => .every
  | .fmaxF64 _ _ _ => .every
  | .fdivF64 _ _ _ => .every
  | .fsqrtF64 _ _ => .every
  | .fseteqF64 _ _ _ => .every
  | .fsetltF64 _ _ _ => .every
  | .fsetleF64 _ _ _ => .every
  | .fsetunF64 _ _ _ => .every
  | .faddiF64 _ _ => .every
  | .fmuliF64 _ _ => .every
  | .fclassF64 _ _ => .every
  | .fnmaF64 _ _ _ => .every
  | .haddF16x2 _ _ _ => .every
  | .hmulF16x2 _ _ _ => .every
  | .hfmaF16x2 _ _ _ => .every
  | .haddBf16x2 _ _ _ => .every
  | .hmulBf16x2 _ _ _ => .every
  | .hfmaBf16x2 _ _ _ => .every
  | .cvt _ _ _ _ _ => .every
  | .qbx _ _ _ _ _ _ => .every
  | .frcpF32 _ _ => .every
  | .frsqF32 _ _ => .every
  | .fexp2F32 _ _ => .every
  | .flog2F32 _ _ => .every
  | .fsinF32 _ _ => .every
  | .fcosF32 _ _ => .every
  | .frcpF64 _ _ => .every
  | .frsqF64 _ _ => .every
  | .ld _ _ _ => .every
  | .st _ _ _ => .every
  | .lda _ _ _ _ => .every
  | .atom _ _ _ _ => .every
  | .cas _ _ _ _ => .every
  | .cas2 _ _ _ _ => .every
  | .pf _ _ => .every
  | .evict _ _ => .every
  | .mov _ _ => .every
  | .movI64 _ _ => .every
  | .movx _ _ _ => .every
  | .movxr _ _ _ => .every
  | .sel _ _ _ => .every
  | .sread _ _ => .every
  | .swrite _ _ => .every
  | .movh _ _ => .every
  | .bra _ _ => .every
  | .brx _ _ _ => .every
  | .call _ _ => .every
  | .ret _ => .every
  | .join => .every
  | .joinw _ _ => .every
  | .yield => .every
  | .exit => .every
  | .trap _ => .every
  | .brk _ => .every
  | .emsave _ => .every
  | .emset _ => .every
  | .barInit _ _ _ => .every
  | .barArrive _ _ _ => .every
  | .barWait _ _ _ => .every
  | .fence _ => .every
  | .uIsplit => .every
  | .waitc _ _ => .every
  | .uWaitring _ _ _ => .every
  | .barSync _ _ _ => .every
  | .uRecruit _ _ => .every
  | .uHloop _ _ _ => .every
  | .uHjoin _ _ _ => .every
  | .uHrel => .every
  | .setshape _ _ => .notCopy
  | .mma _ _ _ => .matrixOnly
  | .mgath _ _ => .matrixOnly
  | .mdrain _ _ _ _ => .matrixOnly
  | .mzero _ _ _ => .matrixOnly
  | .tld _ _ _ => .notCopy
  | .tst _ _ _ _ => .notCopy
  | .cksum _ _ => .notCopy
  | .ckchk _ => .notCopy
  | .ckinj _ _ _ => .notCopy
  | .copy _ _ _ => .copyOnly
  | .copyTile _ _ _ => .copyOnly
  | .copyGath _ _ _ => .copyOnly
  | .copyScat _ _ _ => .copyOnly
  | .copyRed _ _ _ => .copyOnly
  | .copyConv _ _ _ => .copyOnly
  | .launch _ _ _ => .every
  | .amsend _ _ _ => .every
  | .trctl _ => .every
  | .trmark _ => .every
  | .uLd _ _ _ => .every
  | .uSt _ _ _ => .every
  | .uAtom _ _ _ _ => .every
  | .smap _ _ _ => .every
  | .sunmap _ => .every
  | .sflush _ => .every
  | .uCas _ _ _ _ => .every
  | .tretRetry => .every
  | .tretSkip => .every
  | .tretEnd => .every
  | .locq _ _ => .every
  | .tlbinvPage _ _ => .every
  | .tlbinvAsid _ => .every
  | .tlbinvAll => .every
  | .asidset _ _ _ => .every
  | .mgate _ _ => .every
  | .cntrd _ _ => .every
  | .cntset _ _ => .every
  | .nop => .every
  | .sleep _ => .every
  | .gangStateError _ _ => .every
  | .scoreboardSquash _ _ _ => .every
  | .trapEntry _ _ => .every
  | .joinwTimeout _ _ _ => .every
  | .starvationLimit _ _ => .every
  | .issueSelect _ _ => .every
  | .sleepExpiry _ _ _ => .every
  | .barrierWaitWake _ _ _ => .every
  | .waitcWake _ _ _ => .every
  | .waitringWake _ _ _ => .every
  | .resourceWake _ _ _ => .every
  | .firstTouchFill _ _ => .every
  | .ldaReply _ _ _ _ _ => .every
  | .helperForcedRelease _ _ => .every
  | .matrixOpStart _ => .every
  | .matrixSourceRelease _ _ => .every
  | .matrixOpComplete _ => .every
  | .copyStart _ _ => .every
  | .copySourceRelease _ _ => .every
  | .copyLineArrival _ _ => .every
  | .copyComplete _ _ => .every
  | .copyFault _ _ => .every
  | .blockPlace _ => .every
  | .boundaryDrain _ => .every
  | .contextStage _ _ => .every
  | .blockStart _ => .every
  | .blockEnd _ => .every
  | .teamAbort _ => .every
  | .schedulerTake => .every
  | .tokenEvict _ _ => .every
  | .handlerSpawn _ => .every
  | .messageArrival _ => .every
  | .launchPortWrite _ _ _ => .every
  | .qcmdNop _ _ => .every
  | .qcmdBind _ _ => .every
  | .qcmdUnbind _ _ => .every
  | .qcmdEnable _ _ => .every
  | .qcmdDisable _ _ => .every
  | .qstatWrite _ _ => .every
  | .qspillWrite _ _ => .every
  | .preemptRequest _ _ _ _ _ => .every
  | .restoreRequest _ _ => .every
  | .endRequest _ => .every
  | .preemptDiscardedOp _ => .every
  | .teamDiscard _ => .every
  | .teamSave _ => .every
  | .teamRestore _ => .every
  | .resumeRetry _ _ => .every
  | .resumeRefuse _ _ => .every
  | .resumeEnd _ _ => .every
  | .resumeDiscarded _ _ => .every
  | .closeRequest _ _ => .every
  | .implicitSplit _ => .every
  | .lineEvict _ => .every
  | .slotRenewal _ => .every
  | .slotPurge _ => .every
  | .atticSweep _ => .every
  | .migrationFiller _ => .every
  | .inboundWrite _ _ _ => .every
  | .inboundRouteAck _ _ => .every
  | .hostBar2Read _ _ => .every
  | .hostSnoop _ _ _ => .every
  | .linkUp _ => .every
  | .linkDown => .every
  | .errstatWrite _ => .every
  | .trrpWrite _ _ => .every
  | .registerWrite _ _ => .every
  | .tracePeriodicSync _ => .every
  | .traceLossWrite _ => .every
  | .remoteWriteArrival _ _ _ => .every
  | .remoteAtomicArrival _ _ _ _ _ _ _ _ => .every
  | .remoteAtomicRetry _ _ _ _ => .every
  | .frameResend _ _ => .every
  | .routeTableWrite _ _ _ _ => .every
  | .mgmtQueueDisable _ => .every
  | .mgmtQueueEnable _ => .every
  | .mgmtDieReset _ _ => .every
  | .mgmtDieEnable _ => .every
  | .mgmtFaultQueueRead _ => .every
  | .mgmtControllerReset => .every
  | .ballastWrite _ => .every
  | .hbmRateChange _ _ => .every
  | .hbmRetrainDone _ _ => .every
  | .hbmStackReset _ => .every
  | .sensorSample _ _ _ => .every
  | .thermalDecision _ => .every
  | .clockChange _ => .every
  | .governorTest _ => .every
  | .powerUp => .every
  | .firmwareImageLoad _ _ _ _ => .every
  | .spdmRequest _ => .every
  | .memoryPoison _ => .every
  | .ioParityError _ _ => .every
  | .mgmtControllerResetRelease => .every
  | .retrainingDeferralExpiry _ => .every
  | .recordingControl _ _ _ => .every

/-- Whether a helper body admits the instruction, its destination aside (R201). -/
def Instr.bodyOk : Instr → Bool
  | .add _ _ _ => true
  | .sub _ _ _ => true
  | .mul _ _ _ => true
  | .mulhiI32 _ _ _ => true
  | .mulhiN32 _ _ _ => true
  | .mad _ _ _ => true
  | .addI64 _ _ _ => true
  | .subI64 _ _ _ => true
  | .mulwI32 _ _ _ => true
  | .mulwN32 _ _ _ => true
  | .minI32 _ _ _ => true
  | .maxI32 _ _ _ => true
  | .minN32 _ _ _ => true
  | .maxN32 _ _ _ => true
  | .addi _ _ => true
  | .ldi _ _ => true
  | .and _ _ _ => true
  | .or _ _ _ => true
  | .xor _ _ _ => true
  | .andn _ _ _ => true
  | .shl _ _ _ => true
  | .shrN32 _ _ _ => true
  | .shrI32 _ _ _ => true
  | .shli _ _ _ => true
  | .shriN32 _ _ _ => true
  | .shriI32 _ _ _ => true
  | .bfeN32 _ _ _ => true
  | .bfeI32 _ _ _ => true
  | .bfi _ _ _ => true
  | .popc _ _ => true
  | .clz _ _ => true
  | .brev _ _ => true
  | .uAdd _ _ _ => true
  | .uSub _ _ _ => true
  | .uMul _ _ _ => true
  | .uMulhiI32 _ _ _ => true
  | .uMulhiN32 _ _ _ => true
  | .uMad _ _ _ => true
  | .uAddI64 _ _ _ => true
  | .uSubI64 _ _ _ => true
  | .uMulwI32 _ _ _ => true
  | .uMulwN32 _ _ _ => true
  | .uMinI32 _ _ _ => true
  | .uMaxI32 _ _ _ => true
  | .uMinN32 _ _ _ => true
  | .uMaxN32 _ _ _ => true
  | .uAddi _ _ => true
  | .uLdi _ _ => true
  | .uAnd _ _ _ => true
  | .uOr _ _ _ => true
  | .uXor _ _ _ => true
  | .uAndn _ _ _ => true
  | .uShl _ _ _ => true
  | .uShrN32 _ _ _ => true
  | .uShrI32 _ _ _ => true
  | .uShli _ _ _ => true
  | .uShriN32 _ _ _ => true
  | .uShriI32 _ _ _ => true
  | .uBfeN32 _ _ _ => true
  | .uBfeI32 _ _ _ => true
  | .uBfi _ _ _ => true
  | .uPopc _ _ => true
  | .uClz _ _ => true
  | .uBrev _ _ => true
  | .seteq _ _ _ => true
  | .setne _ _ _ => true
  | .setltI32 _ _ _ => true
  | .setleI32 _ _ _ => true
  | .setltN32 _ _ _ => true
  | .setleN32 _ _ _ => true
  | .setltI64 _ _ _ => true
  | .seteqI64 _ _ _ => true
  | .xchAt _ _ _ => false
  | .xchBelow _ _ _ => false
  | .xchAbove _ _ _ => false
  | .xchMirror _ _ _ => false
  | .vmask _ _ => false
  | .vgroup _ _ => false
  | .lred _ _ _ => false
  | .faddF32 _ _ _ => true
  | .fsubF32 _ _ _ => true
  | .fmulF32 _ _ _ => true
  | .ffmaF32 _ _ _ => true
  | .fminF32 _ _ _ => true
  | .fmaxF32 _ _ _ => true
  | .fdivF32 _ _ _ => true
  | .fsqrtF32 _ _ => true
  | .fseteqF32 _ _ _ => true
  | .fsetltF32 _ _ _ => true
  | .fsetleF32 _ _ _ => true
  | .fsetunF32 _ _ _ => true
  | .faddiF32 _ _ => true
  | .fmuliF32 _ _ => true
  | .fclassF32 _ _ => true
  | .fnmaF32 _ _ _ => true
  | .faddF64 _ _ _ => true
  | .fsubF64 _ _ _ => true
  | .fmulF64 _ _ _ => true
  | .ffmaF64 _ _ _ => true
  | .fminF64 _ _ _ => true
  | .fmaxF64 _ _ _ => true
  | .fdivF64 _ _ _ => true
  | .fsqrtF64 _ _ => true
  | .fseteqF64 _ _ _ => true
  | .fsetltF64 _ _ _ => true
  | .fsetleF64 _ _ _ => true
  | .fsetunF64 _ _ _ => true
  | .faddiF64 _ _ => true
  | .fmuliF64 _ _ => true
  | .fclassF64 _ _ => true
  | .fnmaF64 _ _ _ => true
  | .haddF16x2 _ _ _ => true
  | .hmulF16x2 _ _ _ => true
  | .hfmaF16x2 _ _ _ => true
  | .haddBf16x2 _ _ _ => true
  | .hmulBf16x2 _ _ _ => true
  | .hfmaBf16x2 _ _ _ => true
  | .cvt _ _ _ _ _ => true
  | .qbx _ _ _ _ _ _ => false
  | .frcpF32 _ _ => true
  | .frsqF32 _ _ => true
  | .fexp2F32 _ _ => true
  | .flog2F32 _ _ => true
  | .fsinF32 _ _ => true
  | .fcosF32 _ _ => true
  | .frcpF64 _ _ => true
  | .frsqF64 _ _ => true
  | .ld _ _ acc => !acc.syncs
  | .st _ _ acc => !acc.syncs
  | .lda _ _ _ acc => !acc.syncs
  | .atom _ _ _ acc => !acc.syncs
  | .cas _ _ _ acc => !acc.syncs
  | .cas2 _ _ _ acc => !acc.syncs
  | .pf _ _ => true
  | .evict _ _ => true
  | .mov _ _ => true
  | .movI64 _ _ => true
  | .movx _ _ _ => false
  | .movxr _ _ _ => true
  | .sel _ _ _ => true
  | .sread _ _ => true
  | .swrite _ _ => false
  | .movh _ _ => true
  | .bra _ _ => true
  | .brx _ _ _ => false
  | .call _ _ => false
  | .ret _ => false
  | .join => true
  | .joinw _ _ => false
  | .yield => false
  | .exit => false
  | .trap _ => true
  | .brk _ => true
  | .emsave _ => false
  | .emset _ => false
  | .barInit _ _ _ => false
  | .barArrive _ _ _ => false
  | .barWait _ _ _ => false
  | .fence _ => false
  | .uIsplit => false
  | .waitc _ _ => false
  | .uWaitring _ _ _ => false
  | .barSync _ _ _ => false
  | .uRecruit _ _ => true
  | .uHloop _ _ _ => false
  | .uHjoin _ _ _ => true
  | .uHrel => false
  | .setshape _ _ => false
  | .mma _ _ _ => false
  | .mgath _ _ => false
  | .mdrain _ _ _ _ => false
  | .mzero _ _ _ => false
  | .tld _ _ _ => false
  | .tst _ _ _ _ => false
  | .cksum _ _ => false
  | .ckchk _ => false
  | .ckinj _ _ _ => false
  | .copy _ _ _ => false
  | .copyTile _ _ _ => false
  | .copyGath _ _ _ => false
  | .copyScat _ _ _ => false
  | .copyRed _ _ _ => false
  | .copyConv _ _ _ => false
  | .launch _ _ _ => false
  | .amsend _ _ _ => false
  | .trctl _ => false
  | .trmark _ => false
  | .uLd _ _ acc => !acc.syncs
  | .uSt _ _ acc => !acc.syncs
  | .uAtom _ _ _ acc => !acc.syncs
  | .smap _ _ _ => false
  | .sunmap _ => false
  | .sflush _ => false
  | .uCas _ _ _ acc => !acc.syncs
  | .tretRetry => false
  | .tretSkip => false
  | .tretEnd => false
  | .locq _ _ => true
  | .tlbinvPage _ _ => false
  | .tlbinvAsid _ => false
  | .tlbinvAll => false
  | .asidset _ _ _ => false
  | .mgate _ _ => false
  | .cntrd _ _ => true
  | .cntset _ _ => false
  | .nop => true
  | .sleep _ => false
  | .gangStateError _ _ => true
  | .scoreboardSquash _ _ _ => true
  | .trapEntry _ _ => true
  | .joinwTimeout _ _ _ => true
  | .starvationLimit _ _ => true
  | .issueSelect _ _ => true
  | .sleepExpiry _ _ _ => true
  | .barrierWaitWake _ _ _ => true
  | .waitcWake _ _ _ => true
  | .waitringWake _ _ _ => true
  | .resourceWake _ _ _ => true
  | .firstTouchFill _ _ => true
  | .ldaReply _ _ _ _ _ => true
  | .helperForcedRelease _ _ => true
  | .matrixOpStart _ => true
  | .matrixSourceRelease _ _ => true
  | .matrixOpComplete _ => true
  | .copyStart _ _ => true
  | .copySourceRelease _ _ => true
  | .copyLineArrival _ _ => true
  | .copyComplete _ _ => true
  | .copyFault _ _ => true
  | .blockPlace _ => true
  | .boundaryDrain _ => true
  | .contextStage _ _ => true
  | .blockStart _ => true
  | .blockEnd _ => true
  | .teamAbort _ => true
  | .schedulerTake => true
  | .tokenEvict _ _ => true
  | .handlerSpawn _ => true
  | .messageArrival _ => true
  | .launchPortWrite _ _ _ => true
  | .qcmdNop _ _ => true
  | .qcmdBind _ _ => true
  | .qcmdUnbind _ _ => true
  | .qcmdEnable _ _ => true
  | .qcmdDisable _ _ => true
  | .qstatWrite _ _ => true
  | .qspillWrite _ _ => true
  | .preemptRequest _ _ _ _ _ => true
  | .restoreRequest _ _ => true
  | .endRequest _ => true
  | .preemptDiscardedOp _ => true
  | .teamDiscard _ => true
  | .teamSave _ => true
  | .teamRestore _ => true
  | .resumeRetry _ _ => true
  | .resumeRefuse _ _ => true
  | .resumeEnd _ _ => true
  | .resumeDiscarded _ _ => true
  | .closeRequest _ _ => true
  | .implicitSplit _ => true
  | .lineEvict _ => true
  | .slotRenewal _ => true
  | .slotPurge _ => true
  | .atticSweep _ => true
  | .migrationFiller _ => true
  | .inboundWrite _ _ _ => true
  | .inboundRouteAck _ _ => true
  | .hostBar2Read _ _ => true
  | .hostSnoop _ _ _ => true
  | .linkUp _ => true
  | .linkDown => true
  | .errstatWrite _ => true
  | .trrpWrite _ _ => true
  | .registerWrite _ _ => true
  | .tracePeriodicSync _ => true
  | .traceLossWrite _ => true
  | .remoteWriteArrival _ _ _ => true
  | .remoteAtomicArrival _ _ _ _ _ _ _ _ => true
  | .remoteAtomicRetry _ _ _ _ => true
  | .frameResend _ _ => true
  | .routeTableWrite _ _ _ _ => true
  | .mgmtQueueDisable _ => true
  | .mgmtQueueEnable _ => true
  | .mgmtDieReset _ _ => true
  | .mgmtDieEnable _ => true
  | .mgmtFaultQueueRead _ => true
  | .mgmtControllerReset => true
  | .ballastWrite _ => true
  | .hbmRateChange _ _ => true
  | .hbmRetrainDone _ _ => true
  | .hbmStackReset _ => true
  | .sensorSample _ _ _ => true
  | .thermalDecision _ => true
  | .clockChange _ => true
  | .governorTest _ => true
  | .powerUp => true
  | .firmwareImageLoad _ _ _ _ => true
  | .spdmRequest _ => true
  | .memoryPoison _ => true
  | .ioParityError _ _ => true
  | .mgmtControllerResetRelease => true
  | .retrainingDeferralExpiry _ => true
  | .recordingControl _ _ _ => true

end Sys2Proof
end

