-- ==== Sys2Proof/Machine/Regs.lean ====
section
/-!
DEFINITION. Machine/Regs.lean: the registers of a gang by key, reading and writing them with results in flight (R82,
R83), what a write does to tile tags, accumulation records and pending split-phase loads (R289, R318, R367), and the
packet of a split (R64 to R69).
-/

namespace Sys2Proof.Machine

open Sys2Proof

/-! ### Register keys -/

/-- Register vn of a physical lane. -/
def vKey (lane n : Nat) : Nat := lane * 512 + n
/-- Trap scratch register kn of a physical lane (R124). -/
def kKey (lane n : Nat) : Nat := lane * 512 + 256 + n
/-- Frame register hn of a participant of the loop of a recruiting lane, primary or shadow (R199). -/
def hKey (lane index copy n : Nat) : Nat := 16384 + ((lane * 32 + index) * 2 + copy) * 16 + n

/-- The number by which an instruction names the register of a key (R75). -/
def keyCode (key : Nat) : Nat :=
  if 16384 ≤ key then 240 + key % 16 else if key % 512 < 256 then key % 512 else key % 512 - 8

/-- IDs of the records of the gang's frozen trees (R404). -/
def Gang.heldIds (g : Gang) : List Nat := g.layers.flatMap (fun l => l.tree.recs.map (fun p => p.2.id))

/-- The visible width of a gang (R141). -/
def Gang.width (g : Gang) : Nat := if g.role = 2 then 1 else if g.prot then 16 else 32

/-- The physical lanes that carry a visible lane (R59). -/
def Gang.phys (g : Gang) (l : Nat) : List Nat := if g.prot && g.role ≠ 2 then [2 * l, 2 * l + 1] else [l]
/-- The lowest physical lane of a visible lane. -/
def Gang.prime (g : Gang) (l : Nat) : Nat := (g.phys l).headD 0
/-- The visible lane of a physical lane. -/
def Gang.vis (g : Gang) (p : Nat) : Nat := if g.prot && g.role ≠ 2 then p / 2 else p
/-- Whether a physical lane is a shadow. -/
def Gang.copy (g : Gang) (p : Nat) : Nat := if g.prot && g.role ≠ 2 then p % 2 else 0

/-- The physical lanes of a visible mask, in ascending order. -/
def Gang.expand (g : Gang) (m : Mask) : List Nat := (lanesOf m).flatMap g.phys

/-- The dead visible lanes; dmask holds physical lanes (R56, R61). -/
def Gang.dead (g : Gang) : Mask := maskOf ((List.range g.width).filter (fun l => (g.phys l).any (fun p => g.dmask.getLsbD p)))

/-- The live visible lanes: neither dead nor exited (R488). -/
def Gang.live (g : Gang) : Mask := lowMask g.width &&& ~~~g.dead &&& ~~~g.exited

/-- Whether the gang is between trap entry and tret. -/
def Gang.inHandler (g : Gang) : Bool := !g.layers.isEmpty

/-! ### Tile geometry (R309 to R311) -/

/-- Element width in bits of a format code (R94). -/
def fmtBits (f : Nat) : Nat :=
  if f = 0 then 64 else if f = 1 then 32 else if f ≤ 3 then 16 else if f ≤ 6 then 8 else if f ≤ 9 then 4
  else if f ≤ 0xB then 8 else if f ≤ 0xD then 16 else if f ≤ 0xF then 32 else 64

def geomRows (g : Word) : Nat := bits g.toNat 7 0
def geomCols (g : Word) : Nat := bits g.toNat 15 8
def geomFmt (g : Word) : Nat := bits g.toNat 20 16
def geomLen (g : Word) : Nat := if g.getLsbD 21 then 16 else 32
def ceilDiv (a b : Nat) : Nat := (a + b - 1) / b

/-- Registers of one column group (R310). -/
def groupRegs (g : Word) : Nat := ceilDiv (geomRows g * fmtBits (geomFmt g)) 32
/-- Column groups, and row groups of the strip, for a visible width. -/
def colGroups (w : Nat) (g : Word) : Nat := ceilDiv (geomCols g) w
def rowGroups (w : Nat) (g : Word) : Nat := ceilDiv (geomRows g) w
/-- Registers of one strip entry: two for an FP64 strip (R311). -/
def stripRegs (g : Word) : Nat := if geomFmt g = 0 then 2 else 1
/-- T: the registers a tile register block spans (R311). -/
def blockRegs (w : Nat) (g : Word) : Nat :=
  colGroups w g * groupRegs g + 2 * stripRegs g * (colGroups w g + rowGroups w g)

/-! ### Geometry words (R309) -/

/-- Whether a format code names a BX format, and the length of its blocks. -/
def fmtBx (f : Nat) : Bool := f = 6 || f = 7

/-- Whether a geometry word with SHP zero is valid (R309). -/
def geomValid (g : Word) : Bool :=
  let m := geomRows g
  let n := geomCols g
  let f := geomFmt g
  let b := fmtBits f
  1 ≤ m && m ≤ 128 && 1 ≤ n && n ≤ 128 && f < 0x10 && (!g.getLsbD 21 || fmtBx f) && (!fmtBx f || n % geomLen g = 0) &&
    (32 ≤ b || m % (32 / b) = 0) && g.toNat < 2 ^ 22

/-- A geometry word of m, n, format and LEN16. -/
def geomWord (m n f : Nat) (len16 : Bool) : Word := BitVec.ofNat 32 (m + n * 2 ^ 8 + f * 2 ^ 16 + (if len16 then 2 ^ 21 else 0))

/-- A geometry word in a register, with SHP resolved by the grant held in shape; none where it is invalid (R309). -/
def geomResolve (shape g : Word) : Option Word :=
  if !g.getLsbD 22 then (if geomValid g then some g else none)
  else
    let r := geomWord (bits shape.toNat 7 0 / 4) (bits shape.toNat 15 8) (geomFmt g) (g.getLsbD 21)
    if shape = 0 || bits shape.toNat 7 0 / 4 = 0 || geomRows g ≠ 0 || geomCols g ≠ 0 || bits g.toNat 31 23 ≠ 0 || !geomValid r then none
    else some r

/-- The first register of T from d that lies past v255 or a budget (R311). -/
def pastBudget (d count budget : Nat) : Option Nat := if d + count ≤ min budget 256 then none else some (max d (min budget 256))

/-- The first strip register of a block. -/
def stripBase (w d : Nat) (g : Word) : Nat := d + colGroups w g * groupRegs g

/-- The register and lane of the strip entry kind (0 column sum, 1 column magnitude, 2 row sum, 3 row magnitude) number k. -/
def stripSlot (w d : Nat) (g : Word) (kind k : Nat) : Nat × Nat :=
  let q := stripRegs g
  let first := stripBase w d g + (if 2 ≤ kind then 2 * q * colGroups w g else 0)
  (first + 2 * q * (k / w) + q * (kind % 2), k % w)

/-- The register, the lane and the shift of an injection's target, and how many of the mask's bits apply. -/
def injectAt (w d : Nat) (g : Word) (target i j : Nat) : Nat × Nat × Nat × Nat :=
  let b := fmtBits (geomFmt g)
  if target = 1 then ((stripSlot w d g 0 j).1, j % w, 0, 32 * stripRegs g)
  else if target = 2 then ((stripSlot w d g 2 i).1, i % w, 0, 32 * stripRegs g)
  else if b = 64 then (d + j / w * groupRegs g + 2 * i, j % w, 0, 64)
  else (d + j / w * groupRegs g + i * b / 32, j % w, i % (32 / b) * b, b)

/-- The visible lanes that a tile of a geometry uses in a gang of a width (R324). -/
def tileMask (w : Nat) (g : Word) : Mask := lowMask (min (max (geomRows g) (geomCols g)) w)

/-! ### Reading and writing -/

/-- The results of a register that are still in flight at a cycle. -/
def Gang.flying (g : Gang) (cyc key : Nat) : List Fly := g.fly.filter (fun f => f.key = key && cyc < f.due)

/-- A register as an instruction issued at a cycle reads it: its value, or, while fixed-latency results of it are in
flight, that value or one from before them, for each register and lane on its own (R83). -/
def Gang.read (g : Gang) (s : State) (cyc key : Nat) : Word :=
  match g.flying cyc key with
  | [] => Tab.getD g.regs key 0
  | f :: fs =>
    let all := Tab.getD g.regs key 0 :: f.old :: fs.map Fly.old
    all.getD (s.pick key all.length) (Tab.getD g.regs key 0)

/-- The number of the v register a key names, if it names one. -/
def keyReg (key : Nat) : Option Nat := if key < 16384 ∧ key % 512 < 256 then some (key % 512) else none

/-- The register that a word of a load's reply in a physical lane goes to. -/
def Lda.key (x : Lda) (lw : Nat × Nat) : Nat := Tab.getD x.keys lw.1 0 + lw.2

/-- The words of a pending load for which a reply has still to come: those of a held lane stay pending, but come only after a
tret.retry (R288, R289). -/
def Gang.awaiting (g : Gang) (x : Lda) : List (Nat × Nat) :=
  x.pending.filter (fun lw => (Tab.look x.held (g.prime (g.vis lw.1))).isNone)

/-- A lane's register of a pending split-phase load that a later write discards (R289). -/
def Lda.overwrite (x : Lda) (key : Nat) : Lda :=
  let hit := x.pending.filter (fun lw => x.key lw = key)
  if hit.isEmpty then x else { x with dropped := x.dropped ++ hit }

/-- Whether register n lies in a block of T registers from a base. -/
def inRange (n base count : Nat) : Bool := base ≤ n && n < base + count

/-- A register written: the value, the result in flight when its latency is fixed, the later write's value kept over an
earlier one's (R83), and what rests on the register made stale. -/
def Gang.write (g : Gang) (cyc : Nat) (lat : Option Nat) (key : Nat) (v : Word) : Gang :=
  let older := g.fly.filter (fun f => cyc < f.due)
  let fly := match lat with
    | none => older.filter (fun f => f.key ≠ key)
    | some l => ⟨key, Tab.getD g.regs key 0, cyc + l⟩ ::
        older.map (fun f => if f.key = key then { f with due := min f.due (cyc + l) } else f)
  let regs := Tab.set g.regs key v 0
  let bad := g.bad.filter (fun k => k ≠ key)
  let ldas := g.ldas.map (fun x => x.overwrite key)
  match keyReg key with
  | none => { g with regs := regs, fly := fly, bad := bad, ldas := ldas }
  | some n =>
    { g with
      regs := regs, fly := fly, bad := bad, ldas := ldas,
      tags := g.tags.map (fun t => if inRange n t.base (blockRegs g.width t.geom) then { t with stale := true } else t),
      accs := g.accs.filter (fun a => !inRange n a.base (blockRegs g.width a.geom)) }

/-- Writes in the order given. -/
def Gang.writes (g : Gang) (cyc : Nat) (lat : Option Nat) : List (Nat × Word) → Gang
  | [] => g
  | (k, v) :: ws => Gang.writes (g.write cyc lat k v) cyc lat ws

/-- An arrival counter counts one more (R287, R439). -/
def Gang.bump (g : Gang) (n : Nat) : Gang := { g with acs := Tab.set g.acs n (Tab.getD g.acs n 0 + 1) 0 }

/-- Changes a pending load of a gang. -/
def Gang.modLda (g : Gang) (id : Nat) (f : Lda → Lda) : Gang := { g with ldas := g.ldas.map (fun x => if x.id = id then f x else x) }

/-- A load whose last word has come counts, once; it stays while it holds faults (R287, R288). -/
def Gang.closeLda (g : Gang) (id : Nat) : Gang :=
  match g.ldas.find? (fun x => x.id = id) with
  | none => g
  | some x =>
    if !(g.awaiting x).isEmpty then g
    else
      let g1 := if x.counted then g else g.bump x.counter
      if x.held.isEmpty then { g1 with ldas := g1.ldas.filter (fun y => y.id ≠ id) }
      else g1.modLda id (fun y => { y with counted := true })

/-- Dead lanes' accesses of pending loads that have not been performed never are, and their replies and held faults go (R56). -/
def Gang.dropLoads (g : Gang) (phys : List Nat) : Gang :=
  g.ldas.foldl (fun x l => (x.modLda l.id (fun y => { y with
    pending := y.pending.filter (fun lw => !phys.contains lw.1),
    held := y.held.filter (fun e => !phys.contains e.1) })).closeLda l.id) g

/-- Consecutive keys of an operand of several registers. -/
def keysFrom (key n : Nat) : List Nat := (List.range n).map (fun i => key + i)

/-- A pair or a quad as one number (R122). -/
def wordsToNat (ws : List Word) : Nat := (ws.zipIdx).foldl (fun x p => x + p.1.toNat * 2 ^ (32 * p.2)) 0
/-- A number as n words, lowest first. -/
def natToWords (n x : Nat) : List Word := (List.range n).map (fun i => BitVec.ofNat 32 (x / 2 ^ (32 * i)))

/-! ### Packets (R64 to R69) -/

def Packet.kind (p : Packet) : Nat := p.w0.toNat / 2 ^ 30
def Packet.word (p : Packet) (slot : Nat) : Word := if slot = 1 then p.w1 else if slot = 2 then p.w2 else p.w3
/-- The control field of a slot. -/
def Packet.ctl (p : Packet) (slot : Nat) : Nat :=
  if slot = 1 then bits p.w0.toNat 29 20 else if slot = 2 then bits p.w0.toNat 19 10 else bits p.w0.toNat 9 0
/-- Whether a packet of a kind holds a literal in a slot (R66). -/
def literalSlot (kind slot : Nat) : Bool :=
  (kind = 1 && slot = 2) || (kind = 2 && slot = 3) || (kind = 3 && (slot = 2 || slot = 3))
/-- The literal that belongs to a slot. -/
def Packet.lit (p : Packet) (slot : Nat) : Lit :=
  if p.kind = 1 && slot = 1 then .l32 p.w2
  else if p.kind = 2 && slot = 2 then .l32 p.w3
  else if p.kind = 3 && slot = 1 then .l64 (p.w3 ++ p.w2)
  else .none

def ctlStall (c : Nat) : Nat := bits c 9 7
def ctlNeg (c : Nat) : Bool := bit c 6
def ctlPred (c : Nat) : Nat := bits c 5 0

/-- The slot a PC names and the address of its packet (R67). -/
def pcSlot (pc : Dword) : Nat := bits pc.toNat 3 2
def pcBase (pc : Dword) : Dword := BitVec.ofNat 64 (pc.toNat / 16 * 16)

/-- The first slot of the packet whose control breaks R68. -/
def Packet.badSlot (p : Packet) : Option Nat :=
  [1, 2, 3].find? (fun k => if literalSlot p.kind k then p.ctl k ≠ 0 else 50 ≤ ctlPred (p.ctl k))

/-- The next PC in issue order after a slot of a packet (R69). -/
def nextPc (kind : Nat) (pc : Dword) : Dword :=
  let base := pcBase pc
  let slot := pcSlot pc
  if slot = 1 && !literalSlot kind 2 then base + 8
  else if slot ≤ 2 && !literalSlot kind 3 then base + 12
  else base + 20

/-- A PC that bits [3:0] alone make invalid (R67). -/
def pcBadBits (pc : Dword) : Bool := bits pc.toNat 1 0 ≠ 0 || pcSlot pc = 0

/-- The PC a J-form field names, taken from the packet of the instruction (R74). -/
def jTarget (pc : Dword) (f : BitVec 12) : Dword := pcBase pc + f.signExtend 64 * 16 + 4

end Sys2Proof.Machine
end

