-- ==== Sys2Proof/Machine/SplitTable.lean ====
section
/-!
DEFINITION. Machine/SplitTable.lean: places, join records, fusion, dissolution and the lanes that leave (R401 to R416).
-/

namespace Sys2Proof.Machine

open Sys2Proof

/-- The STATE code of a split (R405). -/
def Park.code : Park → Nat
  | .ready => 0
  | .barrier _ _ _ => 1
  | .ring _ _ _ => 1
  | .counter _ _ => 1
  | .sleep _ => 1
  | .resource => 2
  | .rendezvous _ _ _ _ => 3
  | .translation _ _ _ => 4
  | .refused _ _ => 4
  | .loop => 5
  | .remote _ _ _ _ _ => 2

/-- STATE of a split: 6 in a tree that a trap or a save has frozen (R405). -/
def Split.state (x : Split) (frozen : Bool) : Nat := if frozen then 6 else x.park.code

/-- Whether a split waits at a rendezvous. -/
def Park.meets (p : Park) : Bool := p.code = 3

/-- A split that has just been made, ready from a cycle on. -/
def Split.new (r : Nat) (m : Mask) (pc : Dword) (cyc : Nat) : Split := ⟨r, m, pc, .ready, cyc, 0, cyc, none, cyc, false, 0, false⟩

def Tree.placeFree (t : Tree) (p : Nat) : Bool := (Tab.look t.splits p).isNone && (Tab.look t.recs p).isNone

/-- The lowest free place among the first n. -/
def Tree.lowestFree (t : Tree) (n : Nat) : Option Nat := (List.range n).find? t.placeFree

/-- The first free place of the spill stack (R401). -/
def Tree.spillPlace (t : Tree) : Nat := ((List.range 136).find? (fun p => 8 ≤ p && t.placeFree p)).getD 136

/-- What to spill for a place on chip: parked splits first, then records, then the ready split that has gone longest
without issuing (R401). The split at keep stays. -/
def Tree.victim (t : Tree) (keep : Nat) : Option Nat :=
  let onChip := t.splits.filter (fun p => p.1 < 8 && p.1 ≠ keep)
  match onChip.find? (fun p => p.2.park.code ≠ 0) with
  | some p => some p.1
  | none =>
    match t.recs.find? (fun p => p.1 < 8) with
    | some p => some p.1
    | none => (onChip.foldl (fun (a : Option (Nat × Split)) p => match a with
        | none => some p
        | some b => if p.2.lastIssue < b.2.lastIssue then some p else some b) none).map Prod.fst

/-- Moves whatever holds a place to another. -/
def Tree.move (t : Tree) (src dst : Nat) : Tree :=
  match Tab.look t.splits src with
  | some x => { t with splits := Tab.put (Tab.del t.splits src) dst x }
  | none =>
    match Tab.look t.recs src with
    | some r => { t with recs := Tab.put (Tab.del t.recs src) dst r }
    | none => t

/-- A place for something new: the lowest free one on chip, or one made free by spilling (R401, R477). -/
def Tree.claim (t : Tree) (keep : Nat) : Nat × Tree :=
  match t.lowestFree 8 with
  | some p => (p, t)
  | none =>
    match t.victim keep with
    | some v => (v, t.move v t.spillPlace)
    | none => (t.spillPlace, t)

/-- Brings a spilled split back on chip before it issues (R477). -/
def Tree.refill (t : Tree) (place : Nat) : Nat × Tree :=
  if place < 8 then (place, t)
  else
    let (p, t') := t.claim place
    (p, t'.move place p)

/-- The record with an ID, and its place. -/
def Tree.record? (t : Tree) (id : Nat) : Option (Nat × JoinRec) := t.recs.find? (fun p => p.2.id = id)

/-- The lanes set aside under a record; 0 is the root (R402). -/
def Tree.asideOf (t : Tree) (id : Nat) : Mask := if id = 0 then t.rootAside else ((t.record? id).map (fun r => r.2.aside)).getD 0

def Tree.modRec (t : Tree) (id : Nat) (f : JoinRec → JoinRec) : Tree :=
  { t with recs := t.recs.map (fun p => if p.2.id = id then (p.1, f p.2) else p) }

def Tree.modSplit (t : Tree) (place : Nat) (f : Split → Split) : Tree := { t with splits := Tab.modify t.splits place f }

/-- The lowest ID free in the gang (R404), some being held by records of its frozen trees. -/
def Tree.freeId (t : Tree) (held : List Nat) : Nat :=
  ((List.range 64).find? (fun i => i ≠ 0 && (t.record? i).isNone && !held.contains i)).getD 63

/-- Adds a record for a divergence and returns its ID (R407). -/
def Tree.addRec (t : Tree) (held : List Nat) (keep : Nat) (jpc : Dword) (m : Mask) (outer : Nat) : Nat × Tree :=
  let id := t.freeId held
  let (p, t') := t.claim keep
  (id, { t' with recs := Tab.put t'.recs p ⟨id, outer, jpc, m, 0, 0, 0, [], false, 0, 0, false⟩ })

/-- Adds a split in a new place. -/
def Tree.addSplit (t : Tree) (keep : Nat) (x : Split) : Tree :=
  let (p, t') := t.claim keep
  { t' with splits := Tab.put t'.splits p x }

/-- What is to be done with a record (R404). -/
inductive RecFate where
  | wait
  | fuse
  | dissolve
  | free
  deriving DecidableEq, Repr

/-- What R404 asks of a record; one that has timed out stays for the rest to fuse among themselves (R411, log entry 63). -/
def Tree.fate (t : Tree) (r : JoinRec) : RecFate :=
  if r.expect_ = 0 then .free
  else if r.arrived ||| r.aside = r.expect_ ∧ r.arrived ≠ 0 then .fuse
  else if !r.late ∧ r.arrived = 0 ∧ r.aside = 0 ∧ t.splits.any (fun p => p.2.rec_ = r.id && p.2.mask = r.expect_) then .dissolve
  else .wait

/-- A join's flag registers of a fused record: 0 in the register each joinw lane named (R404). -/
abbrev FlagWrites := List (Nat × Nat × Bool)

/-- Applies one record's fate. -/
def Tree.apply (t : Tree) (cyc : Nat) (place : Nat) (r : JoinRec) (f : RecFate) : Tree × FlagWrites :=
  match f with
  | .wait => (t, [])
  | .free => ({ t with recs := Tab.del t.recs place }, [])
  | .dissolve =>
    ({ t with
        recs := Tab.del t.recs place,
        splits := t.splits.map (fun p => if p.2.rec_ = r.id then (p.1, { p.2 with rec_ := r.outer }) else p) }, [])
  | .fuse =>
    (Tree.addSplit { t with recs := Tab.del t.recs place } 64
        { (Split.new r.outer r.expect_ (r.jpc + 4) (cyc + 1)) with fused := true },
      (r.wregs.filter (fun w => r.wmask.getLsbD w.1)).map (fun w => (w.1, w.2, false)))

/-- Tests every record until none fuses, dissolves or is freed (R404, R412). -/
def Tree.settle (cyc : Nat) : Nat → Tree → Tree × FlagWrites
  | 0, t => (t, [])
  | fuel + 1, t =>
    match t.recs.find? (fun p => t.fate p.2 ≠ .wait) with
    | none => (t, [])
    | some p =>
      let (t1, w1) := t.apply cyc p.1 p.2 (t.fate p.2)
      let (t2, w2) := Tree.settle cyc fuel t1
      (t2, w1 ++ w2)

def Tree.settleAll (t : Tree) (cyc : Nat) : Tree × FlagWrites := t.settle cyc 64

/-- Takes lanes out of a record (R412, R416). -/
def JoinRec.drop (r : JoinRec) (x : Mask) : JoinRec :=
  { r with expect_ := r.expect_ &&& ~~~x, arrived := r.arrived &&& ~~~x, aside := r.aside &&& ~~~x, wmask := r.wmask &&& ~~~x }

/-- Lanes that exit or die leave every mask and record; splits left empty are freed; records are settled (R412, R416). -/
def Tree.leave (t : Tree) (cyc : Nat) (x : Mask) : Tree × FlagWrites :=
  let splits := (t.splits.map (fun p => (p.1, { p.2 with mask := p.2.mask &&& ~~~x }))).filter (fun p => p.2.mask ≠ 0)
  let recs := t.recs.map (fun p => (p.1, p.2.drop x))
  Tree.settleAll { t with splits := splits, recs := recs, rootExpect := t.rootExpect &&& ~~~x, rootAside := t.rootAside &&& ~~~x } cyc

/-- Every lane of the root record's EXPECT is set aside, from the root or from a record inside it: those lanes are treated as having
exited (R402). -/
def Tree.allAside (t : Tree) : Bool :=
  t.splits.isEmpty && t.rootExpect ≠ 0 && t.recs.all (fun r => r.2.arrived = 0) &&
    t.recs.foldl (fun m r => m ||| r.2.aside) t.rootAside = t.rootExpect

/-- An arrival of a split at its record (R410, R411). -/
def Tree.arrive (t : Tree) (place : Nat) (x : Split) (cyc : Nat) (wait : Option (Nat × Nat)) : Tree :=
  let t' := { t with splits := Tab.del t.splits place }
  t'.modRec x.rec_ (fun r =>
    let r1 := { r with arrived := r.arrived ||| x.mask }
    match wait with
    | none => r1
    | some (reg, units) =>
      let r2 := { r1 with wmask := r1.wmask ||| x.mask, wregs := r1.wregs ++ (lanesOf x.mask).map (fun l => (l, reg)) }
      if r2.armed then r2 else { r2 with armed := true, timer := units * 16, armedAt := cyc })

/-- The joinw timeout of a record (R411). -/
def Tree.timeout (t : Tree) (cyc : Nat) (r : JoinRec) : Tree × FlagWrites :=
  let t1 := t.modRec r.id (fun q =>
    { q with expect_ := q.expect_ &&& ~~~q.arrived, arrived := 0, wmask := 0, wregs := [], armed := false, late := true })
  ((Tree.addSplit t1 64 (Split.new r.outer r.arrived (r.jpc + 4) cyc)),
    (r.wregs.filter (fun w => r.wmask.getLsbD w.1)).map (fun w => (w.1, w.2, true)))

/-- Timers keep what is left of them at a cycle. -/
def Tree.holdTimers (t : Tree) (cyc : Nat) : Tree :=
  { t with recs := t.recs.map (fun p => (p.1, if p.2.armed then
      { p.2 with timer := p.2.timer - (cyc - p.2.armedAt), armedAt := cyc } else p.2)) }

/-- A tree stopped by a trap: timers stand, a split at a rendezvous becomes ready at its posting instruction (R417). -/
def Tree.freeze (t : Tree) (cyc : Nat) : Tree :=
  { t.holdTimers cyc with splits := t.splits.map (fun p => (p.1, if p.2.park.meets then { p.2 with park := .ready } else p.2)) }

/-- A tree that a save keeps, its timers standing since the team was frozen (R411, R418). -/
def Tree.kept (t : Tree) : Tree := { t with splits := t.splits.map (fun p => (p.1, if p.2.park.meets then { p.2 with park := .ready } else p.2)) }

/-- A tree that goes on at a cycle. -/
def Tree.thaw (t : Tree) (cyc : Nat) : Tree :=
  { t with
    splits := t.splits.map (fun p => (p.1, { p.2 with readyAt := cyc + 1 })),
    recs := t.recs.map (fun p => (p.1, { p.2 with armedAt := cyc })) }

/-- The tree of a gang at its start: one split of every live lane (R46, R403). -/
def Tree.start (m : Mask) (pc : Dword) (cyc : Nat) : Tree := ⟨[(0, Split.new 0 m pc cyc)], [], m, 0⟩

/-- Which lanes a divergent bra sends where, and the splits and the record it makes (R407). -/
def Tree.diverge (t : Tree) (held : List Nat) (place : Nat) (x : Split) (cyc : Nat) (join : Option Dword) (groups : List (Mask × Dword)) : Tree :=
  match groups with
  | [] => t
  | (m0, pc0) :: rest =>
    let (n, t1) := match join with
      | none => (x.rec_, t)
      | some j =>
        match t.record? x.rec_ with
        | some (_, r) => if r.jpc = j then (x.rec_, t) else t.addRec held place j x.mask x.rec_
        | none => t.addRec held place j x.mask x.rec_
    let t2 := t1.modSplit place (fun y => { y with mask := m0, pc := pc0, rec_ := n })
    rest.foldl (fun a g => a.addSplit place { (Split.new n g.1 g.2 (cyc + 1)) with readyAt := x.readyAt }) t2

end Sys2Proof.Machine
end

