-- ==== Sys2Proof/Machine/Translate.lean ====
section
/-!
DEFINITION. Machine/Translate.lean: virtual addresses, the stash apertures, the four-level tables, the TLBs and the
places an address can name (R22, R236 to R240, R420 to R423).
-/

namespace Sys2Proof.Machine

open Sys2Proof

/-! ### Physical addresses (R22, R237) -/

def isHbm (pa : Nat) : Bool := pa < 2 ^ 39
def isCellar (pa : Nat) : Bool := 0x10000000000 ≤ pa && pa < 0x90000000000
def isPeer (pa : Nat) : Bool := 2 ^ 51 ≤ pa && pa < 2 ^ 52
def peerOf (pa : Nat) : Nat := bits pa 50 39

/-- Whether a peer number is bound to a route of an I/O die (R237, R454). -/
def State.routed (s : State) (peer : Nat) : Bool :=
  [peer, 4096 + peer].any (fun k => (Tab.look s.routes k).any (fun r => !r.ports.isEmpty))

def spanOfPa (pa : Nat) : Nat := bits pa 12 11 * 2 + bits pa 13 13
def sliceOfPa (pa : Nat) : Nat := bits pa 10 7 ^^^ bits pa 17 14
def setOfPa (pa : Nat) : Nat := bits pa 23 14 ^^^ bits pa 33 24
def dieOfPa (pa : Nat) : Nat := bits pa 12 11

/-! ### The stash apertures (R238) -/

def localBase : Nat := 0x01FFFFFFFFFC0000
def localSize : Nat := 0x40000
def windowBase : Nat := 0x01FFFFFFFE000000
def windowSize : Nat := 0x1800000

def inLocal (va : Nat) : Bool := localBase ≤ va && va < localBase + localSize
def inWindow (va : Nat) : Bool := windowBase ≤ va && va < windowBase + windowSize

/-! ### Table entries (R421) -/

def pteValid (e : Nat) : Bool := bit e 0
def pteLeaf (e : Nat) : Bool := bit e 1
def pteR (e : Nat) : Bool := bit e 2
def pteW (e : Nat) : Bool := bit e 3
def pteX (e : Nat) : Bool := bit e 4
def pteU (e : Nat) : Bool := bit e 5
def pteAttr (e : Nat) : Nat := bits e 7 6
def pteAddr (e : Nat) : Nat := bits e 51 8 * 256
def pteMig (e : Nat) : Nat := bits e 59 52
def ptePull (e : Nat) : Bool := bit e 60

/-- The lowest virtual-address bit that a level's entry covers (R420). -/
def levelShift (level : Nat) : Nat := if level = 0 then 43 else if level = 1 then 30 else if level = 2 then 21 else 16
/-- The index of an address at a level. -/
def levelIndex (level va : Nat) : Nat :=
  if level = 0 then bits va 56 43 else if level = 1 then bits va 42 30 else if level = 2 then bits va 29 21 else bits va 20 16
/-- The alignment of the table that an entry of a level points to (R420). -/
def nextAlign (level : Nat) : Nat := if level = 0 then 65536 else if level = 1 then 4096 else 256

/-- Whether a leaf's page lies in a reserved range of R237. -/
def leafReserved (e : Nat) : Bool := pteLeaf e && !(isHbm (pteAddr e) || isCellar (pteAddr e) || isPeer (pteAddr e))

/-- Whether a valid entry of a level breaks R421, its page's range apart. -/
def badFields (level e : Nat) : Bool :=
  bits e 63 61 ≠ 0 ||
    (if pteLeaf e then
      level = 0 || pteAttr e = 3 || (!ptePull e && pteMig e ≠ 0) || pteAddr e % 2 ^ levelShift level ≠ 0
    else
      level = 3 || bits e 7 2 ≠ 0 || pteMig e ≠ 0 || ptePull e || !isHbm (pteAddr e) || pteAddr e % nextAlign level ≠ 0)

/-- Whether a valid entry of a level is malformed (R421). -/
def malformed (level e : Nat) : Bool := badFields level e || leafReserved e

/-! ### Pages that migrate (R433 to R435) -/

def migSize (size : Nat) : Nat := if size = 0 then 2 ^ 16 else if size = 1 then 2 ^ 21 else 2 ^ 30

/-- The pulling entry whose new page holds a line, and the line's number in the page. -/
def State.migrationOf (s : State) (line : Nat) : Option (Migration × Nat) :=
  (s.migrations.find? (fun p => p.2.pulling && p.2.newPa ≤ line * 128 && line * 128 < p.2.newPa + migSize p.2.size)).map
    (fun p => (p.2, line - p.2.newPa / 128))

/-- Reads of bits in the bitmap (R433). -/
def State.pulled (s : State) (m : Migration) (i : Nat) : Bool := (s.readByte 61 (m.bitmap + i / 8)).getLsbD (i % 8)

/-- Where the data of a physical address stands: in the old page while its line has still to be pulled (R435). -/
def State.homePa (s : State) (pa : Nat) : Nat :=
  match s.migrationOf (pa / 128) with
  | some (m, i) => if s.pulled m i then pa else m.oldPa + (pa - m.newPa)
  | none => pa

/-- An unmarked read at the home, within one line (R86, R422, R435). -/
def State.readHome (s : State) (salt pa n : Nat) : Nat := s.readNat salt (s.homePa pa) n

/-- How a walk ends: a leaf and its level, or the level of the failing entry and the reason of R428. -/
inductive Walk where
  | leaf (pte : Nat) (level : Nat)
  | fail (level : Nat) (reason : Nat)
  deriving DecidableEq, Repr

/-- The walk from a table of a level on, reading entries at their homes (R420, R422). -/
def State.walkFrom (s : State) (va : Nat) : Nat → Nat → Nat → Walk
  | 0, level, _ => .fail level 1
  | fuel + 1, level, table =>
    let e := s.readHome 63 (table + 8 * levelIndex level va) 8
    if !pteValid e then .fail level 0
    else if malformed level e then .fail level 1
    else if pteLeaf e then .leaf e level
    else s.walkFrom va fuel (level + 1) (pteAddr e)

/-- The entry at which a walk ends, and its level. -/
def State.lastEntry (s : State) (va : Nat) : Nat → Nat → Nat → Nat × Nat
  | 0, level, _ => (level, 0)
  | fuel + 1, level, table =>
    let e := s.readHome 63 (table + 8 * levelIndex level va) 8
    if !pteValid e || malformed level e || pteLeaf e then (level, e) else s.lastEntry va fuel (level + 1) (pteAddr e)

/-- The table entries that a walk reads. -/
def State.walkReads (s : State) (va : Nat) : Nat → Nat → Nat → List Nat
  | 0, _, _ => []
  | fuel + 1, level, table =>
    let a := table + 8 * levelIndex level va
    let e := s.readHome 63 a 8
    a :: (if !pteValid e || malformed level e || pteLeaf e then [] else s.walkReads va fuel (level + 1) (pteAddr e))

/-- Whether an address does not translate only because its leaf names a reserved range (R135). -/
def State.landsReserved (s : State) (asid va : Nat) : Bool :=
  match Tab.look s.identifiers asid with
  | none => false
  | some d =>
    let x := s.lastEntry va 4 0 d.root
    pteValid x.2 && leafReserved x.2 && !badFields x.1 x.2

def State.walk (s : State) (asid va : Nat) : Walk :=
  match Tab.look s.identifiers asid with
  | none => .fail 0 0
  | some d => s.walkFrom va 4 0 d.root

def TlbEntry.covers (t : TlbEntry) (asid va : Nat) : Bool := t.asid = asid && t.page = va / 2 ^ levelShift t.level

/-- The cached entry of an address, in the core's TLB or its cluster's (R427). -/
def State.cached (s : State) (core asid va : Nat) : Option TlbEntry :=
  match (s.core core).tlb.find? (fun t => t.covers asid va) with
  | some t => some t
  | none => (Tab.getD s.clusterTlbs (clusterOf core) []).find? (fun t => t.covers asid va)

/-- A translation: the cached entry and a fresh walk give one answer, or either of their answers where system software
has changed the entry and no tlbinv has covered it (R422). -/
def State.translate (s : State) (core asid va : Nat) : Walk :=
  let fresh := s.walk asid va
  match s.cached core asid va with
  | none => fresh
  | some t =>
    if fresh = .leaf t.pte t.level then fresh
    else if s.pick (va * 4 + 1) 2 = 0 then .leaf t.pte t.level else fresh

/-- Keeps a translation in both TLBs: 64 entries in the core's, 4,096 in the cluster's. -/
def State.install (s : State) (core asid va : Nat) (w : Walk) : State :=
  match w with
  | .fail _ _ => s
  | .leaf pte level =>
    let t : TlbEntry := ⟨asid, level, va / 2 ^ levelShift level, pte⟩
    let keep := fun (n : Nat) (l : List TlbEntry) => (t :: l.filter (fun u => !u.covers asid va)).take n
    let s1 := s.modCore core (fun c => { c with tlb := keep 64 c.tlb })
    { s1 with clusterTlbs := Tab.upd s1.clusterTlbs (clusterOf core) [] (keep 4096) }

/-- The physical address a leaf gives an address. -/
def leafPa (pte level va : Nat) : Nat := pteAddr pte + va % 2 ^ levelShift level

/-! ### Places -/

/-- Who makes an access, for translation: identifier, core, block, and whether at system level. -/
structure Viewer where
  asid : Nat
  core : Nat
  bid : Nat
  system : Bool
  deriving DecidableEq, Repr

/-- What an access needs of a page. -/
structure Need where
  r : Bool
  w : Bool
  x : Bool
  deriving DecidableEq, Repr

/-- Where one piece lies, or why it cannot be reached. -/
inductive Reach where
  | at_ (p : Place) (attr : Nat) (denied : Bool)
  | denied
  | untranslated (level reason : Nat)
  deriving DecidableEq, Repr

/-- The stash-map entry of a block that covers an offset. -/
def Block.mapEntry (b : Block) (off : Nat) : Option MapEntry :=
  (b.smap.find? (fun e => e.2.s ≤ off && off < e.2.s + e.2.l)).map Prod.snd

/-- A byte of the block's own allocation (R240). -/
def ownPlace (b : Block) (off : Nat) : Place :=
  match b.mapEntry off with
  | some e => .mapped b.core (b.stashBase + off) b.bid (e.g + (off - e.s))
  | none => .stash b.core (b.stashBase + off) b.bid true

/-- The resident block of a core whose window-enabled allocation holds a pool offset. -/
def State.windowBlock (s : State) (core off : Nat) : Option Block :=
  (s.blocks.find? (fun p => p.2.core = core && p.2.window && p.2.stashBase ≤ off && off < p.2.stashBase + p.2.stashNeed)).map
    Prod.snd

/-- A piece of an access that lies in an aperture (R238, R240); n bytes that cross no line. -/
def State.reachStash (s : State) (v : Viewer) (va n : Nat) : Reach :=
  match s.block? v.bid with
  | none => .denied
  | some b =>
    if inLocal va then
      let off := va - localBase
      if off + n ≤ b.stashNeed then .at_ (ownPlace b off) 0 false else .denied
    else
      let core := clusterOf v.core * 96 + (va - windowBase) / 0x40000
      let off := (va - windowBase) % 0x40000
      match s.windowBlock core off with
      | none => .denied
      | some w =>
        if w.stashBase + w.stashNeed < off + n || w.asid ≠ v.asid then .denied
        else if w.bid = v.bid then .at_ (ownPlace b (off - w.stashBase)) 0 false
        else if (w.mapEntry (off - w.stashBase)).isSome then .denied
        else .at_ (.stash core off w.bid false) 0 false

/-- A piece of an access below the apertures: translated and checked against the page (R423, R237, R247). Its attribute is the one in
effect, uncached for a peer window and for the cellar on the fallback mapping whatever the page's ATTR says; cause 0x06 compares
these: DESIGN CHOICE (R251 says only that the pages' attributes differ; log entry 112). -/
def State.reachGlobal (s : State) (v : Viewer) (need : Need) (va : Nat) : Reach :=
  match s.translate v.core v.asid va with
  | .fail l r => .untranslated l r
  | .leaf pte level =>
    let pa := leafPa pte level va
    let denied := (need.r && !pteR pte) || (need.w && !pteW pte) || (need.x && !pteX pte) || (!v.system && !pteU pte)
    let attr := if isPeer pa || (isCellar pa && s.link = .fallback) then 2 else pteAttr pte
    if isHbm pa then .at_ (.hbm pa attr) attr denied
    else if isCellar pa then .at_ (.cellar pa attr) attr denied
    else if isPeer pa then .at_ (.peer pa) 2 (denied || !s.routed (peerOf pa))
    else .denied

/-- The page behind a mapped stash line: an address that R236 rules out, or one in an aperture, which is not translated (R238),
names none. -/
def State.reachBack (s : State) (v : Viewer) (need : Need) (g : Nat) : Reach :=
  if 2 ^ 57 ≤ g || inLocal g || inWindow g then .denied else s.reachGlobal v need g

def State.reach (s : State) (v : Viewer) (need : Need) (va n : Nat) : Reach :=
  if inLocal va || inWindow va then s.reachStash v va n else s.reachGlobal v need va

/-- The pieces of an access by line: first bytes and lengths (R250). -/
def linePieces (va n : Nat) : List (Nat × Nat) :=
  if va % 128 + n ≤ 128 then [(va, n)] else [(va, 128 - va % 128), (va + (128 - va % 128), n - (128 - va % 128))]

/-- What the address checks make of an access (R236, R238, R251, R423): its pieces, or a fault or park. -/
inductive Address where
  | pieces (ps : List Piece)
  | split (second : Nat)
  | untranslated (va level reason : Nat)
  | denied (va : Nat)
  deriving DecidableEq, Repr

/-- Whether a range lies partly in an aperture and partly outside it (R238). -/
def straddles (va n : Nat) : Bool :=
  inLocal va != inLocal (va + n - 1) || inWindow va != inWindow (va + n - 1)

def State.address (s : State) (v : Viewer) (need : Need) (va n : Nat) : Address :=
  if 2 ^ 57 ≤ va || 2 ^ 57 < va + n then .denied va
  else if straddles va n then .denied va
  else
    let ps := (linePieces va n).map (fun p => (p, s.reach v need p.1 p.2))
    match ps.find? (fun p => match p.2 with
      | .untranslated _ _ => true
      | _ => false) with
    | some (p, .untranslated l r) => .untranslated p.1 l r
    | _ =>
      match ps with
      | [(_, .at_ _ a _), (q, .at_ _ b _)] =>
        if a ≠ b ∧ va / 65536 ≠ (va + n - 1) / 65536 ∧ !(inLocal va || inWindow va) then .split q.1
        else
          match ps.find? (fun p => match p.2 with
            | .at_ _ _ d => d
            | _ => true) with
          | some (p, _) => .denied p.1
          | none => .pieces (ps.filterMap (fun p => match p.2 with
              | .at_ pl _ _ => some ⟨p.1.1, p.1.2, pl⟩
              | _ => none))
      | _ =>
        match ps.find? (fun p => match p.2 with
          | .at_ _ _ d => d
          | _ => true) with
        | some (p, _) => .denied p.1
        | none => .pieces (ps.filterMap (fun p => match p.2 with
            | .at_ pl _ _ => some ⟨p.1.1, p.1.2, pl⟩
            | _ => none))

/-- The lines of the table entries that are read to translate an address, where no TLB holds it (R422); an aperture is not translated
(R238). -/
def State.tableLines (s : State) (v : Viewer) (va : Nat) : List Nat :=
  if 2 ^ 57 ≤ va || inLocal va || inWindow va || (s.cached v.core v.asid va).isSome then []
  else match Tab.look s.identifiers v.asid with
    | none => []
    | some d => (s.walkReads va 4 0 d.root).map (· / 128)

/-- The same of an access: of each part of it, or of the page behind a mapped stash line. -/
def State.tablesOf (s : State) (v : Viewer) (va n : Nat) : List Nat :=
  (linePieces va n).flatMap (fun p =>
    if !(inLocal p.1 || inWindow p.1) then s.tableLines v p.1
    else match s.reachStash v p.1 p.2 with
      | .at_ (.mapped _ _ _ back) _ _ => s.tableLines v back
      | _ => [])

/-- Keeps the translations an access used. -/
def State.installAll (s : State) (v : Viewer) (va n : Nat) : State :=
  if inLocal va || inWindow va then s
  else (linePieces va n).foldl (fun t p => t.install v.core v.asid p.1 (s.translate v.core v.asid p.1)) s

/-- What a packet may still read as for a block: what it held when the block's team was launched, where it has been written since,
or what it holds now, whole either way (R86, log entry 2). -/
def State.packetBytes (s : State) (v : Viewer) (pa : Nat) : List Byte :=
  let now := s.readBytes 62 (s.homePa pa) 16
  let since := (((s.block? v.bid).bind (fun b => s.team? b.team)).map Team.taken).getD 0
  match (Tab.getD s.rewritten (s.homePa pa / 16) []).find? (fun e => since ≤ e.1) with
  | none => now
  | some e => if s.pick (pa * 4 + 3) 2 = 1 then e.2 else now

/-- The packet that sixteen bytes make. -/
def packetOf (base : Dword) (bs : List Byte) : Packet :=
  let w := fun i => BitVec.ofNat 32 (ofBytes ((bs.drop (4 * i)).take 4))
  ⟨base, w 0, w 1, w 2, w 3⟩

/-- The instruction packet at an address, or why it cannot be fetched: 0x08 with level and reason, or 0x09 (R86, R423). -/
inductive Fetch where
  | packet (p : Packet)
  | untranslated (level reason : Nat)
  | denied
  deriving DecidableEq, Repr

/-- Fetches the packet that holds a PC. The apertures carry no X permission (log entry 14). -/
def State.fetch (s : State) (v : Viewer) (pc : Dword) : Fetch :=
  let base := pcBase pc
  if 2 ^ 57 ≤ base.toNat || inLocal base.toNat || inWindow base.toNat then .denied
  else
    match s.reachGlobal v ⟨false, false, true⟩ base.toNat with
    | .untranslated l r => .untranslated l r
    | .at_ (.hbm pa _) _ false => .packet (packetOf base (s.packetBytes v pa))
    | .at_ (.cellar pa _) _ false => .packet (packetOf base (s.packetBytes v pa))
    | _ => .denied

/-- Whether a PC is invalid under R67. A packet that cannot be fetched does not make it so (log entry 14). -/
def State.pcInvalid (s : State) (v : Viewer) (pc : Dword) : Bool :=
  pcBadBits pc || (match s.fetch v pc with
    | .packet p => literalSlot p.kind (pcSlot pc)
    | _ => false)

end Sys2Proof.Machine
end

