-- ==== Sys2Proof/Machine/Homes.lean ====
section
/-!
DEFINITION. Machine/Homes.lean: the home of every word: marks and conflicts (R256 to R268), home slices with their tags,
side-band records and poison (R245, R246, R268 to R273), and the pull of a migrating line (R435).
-/

namespace Sys2Proof.Machine

open Sys2Proof

/-- A party to an access, as marks see it: its core, its stamp's fields, and what it does to marks (R257, R260). -/
structure Toucher where
  core : Nat
  slot : Nat
  gang : Nat
  lane : Nat
  cls : Nat
  label : Nat
  reads : Bool
  writes : Bool
  /-- The interval of the stamp, where it is not the slot's current one (R375, R393). -/
  interval : Option Nat
  deriving DecidableEq, Repr

/-- The class of a label (R252). -/
def classOf (label : Nat) : Nat := if label = 0 then 0 else if label ≤ 3 then 1 else label - 2

/-! ### Stamps -/

/-- A stamp whose slot is live and whose interval is that slot's current one (R257). -/
def State.stampLive (s : State) (x : Stamp) : Bool := (s.board x.slot).state = 1 && (s.board x.slot).interval = x.interval

/-- A write mark that counts as open for a core: live, or pending in another core's L1 (R266). -/
def State.writeOpen (s : State) (m : Mark) (x : Stamp) (core : Nat) : Bool :=
  s.stampLive x || (match m.pend with
    | some c => c ≠ core
    | none => false)

/-- Whether a stamp names another thread than the toucher; one that has lost its thread, or names several of the toucher's
own block, is not checked (R261). -/
def namesOther (t : Toucher) (x : Stamp) : Bool :=
  x.slot ≠ t.slot || (match x.who with
    | .thread g l => g ≠ t.gang || l ≠ t.lane
    | _ => false)

def sameClass (t : Toucher) (x : Stamp) : Bool := x.cls = t.cls && t.cls ≠ 0

/-- The mark of a word that an access conflicts with, the write mark first (R261, R470). -/
def State.conflict (s : State) (t : Toucher) (w : Nat) : Option (Stamp × Bool) :=
  let m := s.mark w
  let byWrite := match m.w with
    | some x => if s.writeOpen m x t.core && namesOther t x && !sameClass t x then some (x, true) else none
    | none => none
  match byWrite with
  | some r => some r
  | none =>
    match m.r with
    | some x => if t.writes && s.stampLive x && namesOther t x && !sameClass t x then some (x, false) else none
    | none => none

/-- TINFO of a race (R263). -/
def raceInfo (t : Toucher) (x : Stamp) (isWrite : Bool) : Dword :=
  let (g, l, known) := match x.who with
    | .thread g l => (g, l, 0)
    | .several => (30, 0, 1)
    | .unknown => (30, 0, 2)
  BitVec.ofNat 64 (x.slot + g * 2 ^ 14 + l * 2 ^ 19 + x.cls * 2 ^ 24 + (if isWrite then 2 ^ 27 else 0) + known * 2 ^ 28 +
    x.interval * 2 ^ 30 + t.label * 2 ^ 48 + (if t.writes then 2 ^ 51 else 0))

/-- The marks of a word after an access (R260). pend names the core whose L1 keeps the data of a write. -/
def State.marked (s : State) (t : Toucher) (w : Nat) (pend : Option Nat) : Mark :=
  let m := s.mark w
  let x : Stamp := ⟨t.slot, .thread t.gang t.lane, t.interval.getD (s.board t.slot).interval, t.cls, s.serial⟩
  let m1 := if t.writes then { m with w := some x, pend := pend } else m
  if !t.reads then m1
  else
    match m1.r with
    | none => { m1 with r := some x }
    | some y =>
      if !s.stampLive y || y.slot ≠ t.slot then { m1 with r := some x }
      else
        match y.who with
        | .unknown => { m1 with r := some { y with cls := t.cls } }
        | .several => { m1 with r := some { y with cls := t.cls } }
        | .thread g l =>
          if g = t.gang ∧ l = t.lane then { m1 with r := some { y with cls := t.cls } }
          else { m1 with r := some { y with who := .several, cls := t.cls } }

/-- Words that n bytes from an address touch, and those they cover whole. -/
def wordsTouched (a n : Nat) : List Nat := (List.range ((a % 4 + n + 3) / 4)).map (fun i => a / 4 + i)
def coversWord (a n w : Nat) : Bool := a ≤ 4 * w && 4 * w + 4 ≤ a + n

/-! ### Lines of the home slices -/

def isStashLine (line : Nat) : Bool := isStashKey (line * 128)
def lineWords (line : Nat) : List Nat := (List.range 32).map (fun i => line * 32 + i)
/-- The slice of a line, from 0 to 127, and its set's key. -/
def sliceIndex (line : Nat) : Nat := spanOfPa (line * 128) * 16 + sliceOfPa (line * 128)
def setKey (line : Nat) : Nat := sliceIndex line * 1024 + setOfPa (line * 128)
def SliceEntry.holds (e : SliceEntry) (line : Nat) : Bool := e.line = line || e.second = some line

/-- Whether a line lies in its home slice. -/
def State.resident (s : State) (line : Nat) : Bool := (Tab.getD s.slices (setKey line) []).any (fun e => e.holds line)

/-- Whether its data lies there with its tag. -/
def State.holdsLine (s : State) (line : Nat) : Bool := s.resident line && !s.hollow.contains line

/-- Whether a mark is open to anyone: live, or a write not yet at the home. -/
def State.openW (s : State) (m : Mark) : Option Stamp := m.w.filter (fun x => s.stampLive x || m.pend.isSome)
def State.openR (s : State) (m : Mark) : Option Stamp := m.r.filter (fun x => s.stampLive x)

/-- The stamps of a line's open marks, with word index, and whether each marks a write. -/
def State.openMarks (s : State) (line : Nat) : List (Nat × Stamp × Bool) :=
  (lineWords line).flatMap (fun w =>
    ((s.openW (s.mark w)).toList.map (fun x => (w % 32, x, true))) ++
      ((s.openR (s.mark w)).toList.map (fun x => (w % 32, x, false))))

def State.linePoison (s : State) (line : Nat) : List Nat := ((lineWords line).filter (fun w => (s.mark w).poison)).map (· % 32)
def State.linePend (s : State) (line : Nat) : Bool := (lineWords line).any (fun w => (s.mark w).pend.isSome)

def oneSlot (xs : List Stamp) : Bool :=
  match xs with
  | [] => true
  | x :: rest => rest.all (fun y => y.slot = x.slot)

/-- Whether a line's open marks fit the compact form (R268). -/
def State.fits (s : State) (line : Nat) : Bool :=
  let o := s.openMarks line
  o.all (fun p => p.2.1.cls = 0) && oneSlot ((o.filter (fun p => p.2.2)).map (fun p => p.2.1)) &&
    oneSlot ((o.filter (fun p => !p.2.2)).map (fun p => p.2.1)) && !s.linePend line && (s.linePoison line).isEmpty

/-- Whether a line may leave its slice (R269, R273). -/
def State.mayLeave (s : State) (line : Nat) : Bool :=
  if isHbm (line * 128) then s.fits line || (!(s.linePoison line).isEmpty && !s.linePend line)
  else (s.openMarks line).isEmpty && (s.linePoison line).isEmpty

def wordBits (ws : List Nat) : Nat := ws.foldl (fun m i => m ||| 2 ^ i) 0

/-- A 32-bit stamp of the compact record. -/
def shortStamp (xs : List Stamp) : Nat :=
  match xs with
  | [] => 0
  | x :: _ => x.slot + x.interval * 2 ^ 14

/-- The compact record of a line (R268), or the pattern of a poisoned one (R273). -/
def State.record (s : State) (line : Nat) : BitVec 128 :=
  let p := s.linePoison line
  if !p.isEmpty then BitVec.ofNat 128 (0xFFFFFFFF * 2 ^ 32 + wordBits p * 2 ^ 64)
  else
    let o := s.openMarks line
    let ws := o.filter (fun q => q.2.2)
    let rs := o.filter (fun q => !q.2.2)
    BitVec.ofNat 128 (shortStamp (ws.map (fun q => q.2.1)) + shortStamp (rs.map (fun q => q.2.1)) * 2 ^ 32 +
      wordBits (ws.map Prod.fst) * 2 ^ 64 + wordBits (rs.map Prod.fst) * 2 ^ 96)

def isPoisonRecord (r : Nat) : Bool := bits r 63 32 = 0xFFFFFFFF && bits r 127 96 = 0 && bits r 31 0 = 0 && bits r 95 64 ≠ 0

/-- The slots that a record names, each once (R269). -/
def recordSlots (r : Nat) : List Nat :=
  if isPoisonRecord r then []
  else ((if bits r 95 64 ≠ 0 then [bits r 13 0] else []) ++ (if bits r 127 96 ≠ 0 then [bits r 45 32] else [])).dedup

def State.atticAdd (s : State) (slots : List Nat) : State :=
  slots.foldl (fun t k => t.modBoard k (fun b => { b with attic := (b.attic + 1) % 2 ^ 32 })) s
def State.atticSub (s : State) (slots : List Nat) : State :=
  slots.foldl (fun t k => t.modBoard k (fun b =>
    { b with attic := b.attic - 1, state := if b.state = 3 ∧ b.attic ≤ 1 then 0 else b.state })) s

def State.clearMarks (s : State) (line : Nat) : State := (lineWords line).foldl (fun t w => t.setMark w Mark.empty) s

/-- The die of a line's home slice. -/
def homeDie (line : Nat) : Nat := dieOfPa (line * 128)

/-- A line's tag, where it has one, holds no data, or holds it. -/
def State.hollowOut (s : State) (line : Nat) : State := { s with hollow := line :: s.hollow.filter (· ≠ line) }
def State.fillIn (s : State) (line : Nat) : State := { s with hollow := s.hollow.filter (· ≠ line) }

/-- A line leaves its slice: its record goes to the side-band bits, and the slots it names count it (R269). -/
def State.spillLine (s : State) (line : Nat) : State :=
  if isHbm (line * 128) then
    let r := s.record line
    let s1 := ((s.fillIn line).clearMarks line).atticAdd (recordSlots r.toNat)
    ({ s1 with side := Tab.set s1.side line r 0 }).perf (homeDie line) 8 1
  else (s.fillIn line).clearMarks line

/-- A line is filled: its record becomes the slice's marks, closed stamps dropped (R269, R273). -/
def State.unspillLine (s : State) (line : Nat) : State :=
  let r := (Tab.getD s.side line 0).toNat
  let s1 : State := { s with side := Tab.del s.side line }
  if isPoisonRecord r then
    ((List.range 32).filter (fun i => r.testBit (64 + i))).foldl (fun t i => t.setMark (line * 32 + i)
      { t.mark (line * 32 + i) with poison := true }) s1
  else
    let s2 := s1.atticSub (recordSlots r)
    let wx : Stamp := ⟨bits r 13 0, .unknown, bits r 31 14, 0, s.serial⟩
    let rx : Stamp := ⟨bits r 45 32, .unknown, bits r 63 46, 0, s.serial⟩
    let s3 := if s.stampLive wx then ((List.range 32).filter (fun i => r.testBit (64 + i))).foldl (fun t i =>
      t.setMark (line * 32 + i) { t.mark (line * 32 + i) with w := some wx }) s2 else s2
    if s.stampLive rx then ((List.range 32).filter (fun i => r.testBit (96 + i))).foldl (fun t i =>
      t.setMark (line * 32 + i) { t.mark (line * 32 + i) with r := some rx }) s3 else s3

/-- The line's data as far as memory defines it. -/
def State.lineBytes (s : State) (line : Nat) : Option (List Byte) :=
  ((List.range 128).map (fun i => Memory.byte? s.mem (line * 128 + i))).foldr (fun b acc => match b, acc with
    | some x, some xs => some (x :: xs)
    | _, _ => none) (some [])

/-- Whether words are one base plus small signed deltas: some word is the lowest of a run of 2^small that holds them all. -/
def deltas (xs : List Nat) (width small : Nat) : Bool :=
  xs.isEmpty || xs.any (fun x => xs.all (fun y => (y + 2 ^ width - x) % 2 ^ width < 2 ^ small))

/-- Whether a line is compressible (R246). -/
def State.compressible (s : State) (line : Nat) : Bool :=
  match s.lineBytes line with
  | none => false
  | some bs =>
    let word := fun n i => ofBytes ((bs.drop (n * i)).take n)
    bs.all (· = 0) || deltas ((List.range 32).map (word 4)) 32 8 || deltas ((List.range 16).map (word 8)) 64 16

def SliceEntry.lines (e : SliceEntry) : List Nat := e.line :: e.second.toList

/-- Removes an entry of a set; its lines leave. -/
def State.dropEntry (s : State) (key : Nat) (e : SliceEntry) : State :=
  let s1 := e.lines.foldl State.spillLine s
  { s1 with slices := Tab.put s1.slices key ((Tab.getD s1.slices key []).filter (fun x => x.line ≠ e.line)) }

/-- Whether a new line goes to the youngest place of its set (R246, R283). A line that an access with HINT 3 brings in stands, and is
counted by set duelling, as one with HINT 0: DESIGN CHOICE (R246 names hints 0 to 2 only; log entry 113). -/
def State.insertYoung (s : State) (asid hint line : Nat) : Bool :=
  let set := setOfPa (line * 128)
  if hint = 1 then false
  else if hint = 2 then true
  else if set < 32 then true
  else if set < 64 then false
  else Tab.getD s.selectors (asid * 128 + sliceIndex line) 0x200 < 0x200

/-- Set duelling counts a miss (R246). -/
def State.duel (s : State) (asid hint line : Nat) : State :=
  let set := setOfPa (line * 128)
  let key := asid * 128 + sliceIndex line
  let x := Tab.getD s.selectors key 0x200
  if hint = 1 || hint = 2 then s
  else if set < 32 then { s with selectors := Tab.put s.selectors key (min (x + 1) 0x3FF) }
  else if set < 64 then { s with selectors := Tab.put s.selectors key (x - 1) }
  else s

/-- The stack of an HBM4 line. -/
def stackOf (line : Nat) : Nat := spanOfPa (line * 128)

/-- A line that its slice does not hold, and whose stack serves no access while it is retrained (R465). -/
def State.stackWaits (s : State) (line : Nat) : Bool :=
  isHbm (line * 128) && !s.holdsLine line && (s.stack (stackOf line)).retraining

/-- Whether an access to a line must wait for a stack: its own, or the one that it has still to be pulled from (R435, R465). -/
def State.lineWaits (s : State) (line : Nat) : Bool := s.stackWaits line || s.stackWaits (s.homePa (line * 128) / 128)

/-- Whether a line is one that has still to be pulled (R435). -/
def State.unpulled (s : State) (line : Nat) : Bool :=
  match s.migrationOf line with
  | some (m, i) => !s.pulled m i
  | none => false

/-- Brings a line into its home slice: from its stack, but for one that will be pulled (R435). None where it must wait: the set holds
only lines that may not leave (R269), or the stack is being retrained (R465). -/
def State.fillHome (s : State) (asid hint line : Nat) : Option State :=
  let die := homeDie line
  let moved := fun (t : State) => if isHbm (line * 128) && !s.unpulled line then t.perf die 7 1 else t
  if s.holdsLine line then some (s.perf die 5 1)
  else if isHbm (line * 128) && (s.stack (stackOf line)).retraining then none
  else if s.resident line then some ((moved ((s.duel asid hint line).perf die 6 1)).fillIn line)
  else
    let key := setKey line
    let s2 := moved ((((s.duel asid hint line).perf die 6 1).unspillLine line).fillIn line)
    let set := Tab.getD s2.slices key []
    let young := s.insertYoung asid hint line
    let place := fun (t : State) =>
      let l := Tab.getD t.slices key []
      { t with
        slices := Tab.put t.slices key (if young then ⟨line, none, false⟩ :: l else l ++ [⟨line, none, false⟩])
        wants := t.wants.filter (fun x => x.line ≠ line) }
    if set.length < 16 then some (place s2)
    else
      -- a second line goes where the insertion policy places it, to the entry that stands there
      match (if young then set.head? else set.getLast?).filter (fun e =>
          e.second.isNone && !e.shelf && s2.compressible e.line && s2.compressible line) with
      | some e => some { s2 with
          slices := Tab.put s2.slices key (set.map (fun x => if x.line = e.line then { x with second := some line } else x))
          wants := s2.wants.filter (fun x => x.line ≠ line) }
      | none =>
        match set.reverse.find? (fun e => e.lines.all s2.mayLeave) with
        | some e => some (place (s2.dropEntry key e))
        | none => none

/-- A line that its slice does not cache gets a tag there, under which its marks are kept: uncached pages and peer windows (R247).
None where it must wait, as for a line that is cached. -/
def State.tagHome (s : State) (line : Nat) : Option State :=
  if isHbm (line * 128) && (s.stack (stackOf line)).retraining then none
  else if s.resident line then some s
  else
    let key := setKey line
    let s1 := (s.unspillLine line).hollowOut line
    let place := fun (t : State) => { t with
      slices := Tab.put t.slices key (Tab.getD t.slices key [] ++ [⟨line, none, false⟩])
      wants := t.wants.filter (fun x => x.line ≠ line) }
    let set := Tab.getD s1.slices key []
    if set.length < 16 then some (place s1)
    else (set.reverse.find? (fun e => e.lines.all s1.mayLeave)).map (fun e => place (s1.dropEntry key e))

/-- An access of a block waits for those of its lines whose sets hold only lines that may not leave, until they are brought in (R269,
R270). -/
def State.wantRoom (s : State) (bid : Nat) (lines : List (Nat × Bool)) : State :=
  { s with wants := (s.wants ++ (lines.filter (fun l => !s.resident l.1 &&
      (let set := Tab.getD s.slices (setKey l.1) []
      16 ≤ set.length && !set.any (fun e => e.lines.all s.mayLeave)))).map (fun l => (⟨setKey l.1, l.1, bid⟩ : Want))).dedup }

/-- After marks of a line change: it holds a shelf record while any mark has a thread, is pending or is poisoned, and then
shares its entry with no other line (R245, R268). -/
def State.shelve (s : State) (line : Nat) : State :=
  let key := setKey line
  let need := (lineWords line).any (fun w =>
    let m := s.mark w
    m.pend.isSome || m.poison || ([m.w, m.r].any (fun x => match x with
      | some y => y.who ≠ .unknown || y.cls ≠ 0
      | none => false)))
  match (Tab.getD s.slices key []).find? (fun e => e.holds line) with
  | none => s
  | some e =>
    if need && !e.shelf then
      let other := e.lines.filter (· ≠ line)
      let s1 := (other.foldl State.spillLine s).perf (homeDie line) 10 1
      { s1 with slices := Tab.put s1.slices key ((Tab.getD s1.slices key []).map (fun x =>
          if x.line = e.line then ⟨line, none, true⟩ else x)) }
    else s

/-- Marks the words of n bytes from an address at their home and counts the announcements; a store clears poison (R273). -/
def State.announceAs (s : State) (t : Toucher) (a n : Nat) (pend : Option Nat) (stores : Bool) : State :=
  let s1 := (wordsTouched a n).foldl (fun q w =>
    let m := q.marked t w pend
    q.setMark w (if stores && coversWord a n w then { m with poison := false } else m)) s
  if isStashKey a then s1.perf (dieOf t.core) 9 (wordsTouched a n).length
  else ((wordsTouched a n).map (fun w => w / 32)).dedup.foldl State.shelve
    (s1.perf (homeDie (a / 128)) 9 (wordsTouched a n).length)

def State.announce (s : State) (t : Toucher) (a n : Nat) (pend : Option Nat) : State := s.announceAs t a n pend t.writes

/-- The first byte of n bytes from an address at which an access conflicts, with the mark. -/
def State.firstConflict (s : State) (t : Toucher) (a n : Nat) : Option (Nat × Stamp × Bool) :=
  (wordsTouched a n).findSome? (fun w => (s.conflict t w).map (fun c => (max a (4 * w), c.1, c.2)))

def State.poisoned (s : State) (a n : Nat) : Bool := (wordsTouched a n).any (fun w => (s.mark w).poison)

/-! ### Bytes at their home -/

/-- A word written at its home by another party: the copies in L1s are older now (R266). -/
def State.staleCopies (s : State) (but : Option Nat) (a n : Nat) : State :=
  { s with cores := s.cores.map (fun p => if some p.1 = but then p else
      (p.1, { p.2 with l1 := p.2.l1.map (fun x =>
        (wordsTouched a n).foldl (fun y w => if w / 32 = y.line then { y with stale := y.stale ||| (1#32 <<< (w % 32)) } else y) x) })) }

/-- A line that no longer compresses leaves the entry it shared (R246). -/
def State.unshare (s : State) (line : Nat) : State :=
  let key := setKey line
  match (Tab.getD s.slices key []).find? (fun e => e.holds line && e.second.isSome) with
  | none => s
  | some e =>
    if e.lines.all s.compressible then s
    else
      let s1 := e.second.toList.foldl State.spillLine s
      { s1 with slices := Tab.put s1.slices key ((Tab.getD s1.slices key []).map (fun x =>
          if x.line = e.line then { x with second := none } else x)) }

/-- Bytes performed at their home by a core, or by an external agent. -/
def State.homeWrite (s : State) (by_ : Option Nat) (a : Nat) (bs : List Byte) : State :=
  let s1 := (s.staleCopies by_ a bs.length).writeBytes a bs
  if isStashKey a then s1
  else ((wordsTouched a bs.length).map (fun w => w / 32)).dedup.foldl State.unshare s1

/-- The data of a word has reached its home: PEND is cleared (R258). -/
def State.clearPend (s : State) (core w : Nat) : State :=
  let m := s.mark w
  if m.pend = some core then s.setMark w { m with pend := none } else s

/-- A word of dirty data written back to its home; bytes that hold no defined value leave none there. -/
def State.homeBack (s : State) (core w : Nat) (bs : List (Option Byte)) : State :=
  let s1 := (bs.zipIdx).foldl (fun t p => match p.1 with
    | some b => t.writeBytes (4 * w + p.2) [b]
    | none => { t with mem := Memory.erase t.mem (4 * w + p.2) }) (s.staleCopies (some core) (4 * w) 4)
  (s1.clearPend core w).unshare (w / 32)

/-! ### Migration (R433 to R436) -/

/-- Copies bytes as memory holds them; one with no defined value leaves none in global memory, and a free one in a stash. -/
def State.copyBytes (s : State) (src dst n : Nat) : State :=
  (List.range n).foldl (fun t i => match Memory.byte? t.mem (src + i) with
    | some b => { t with mem := Memory.write t.mem (dst + i) b }
    | none => { t with mem := if isStashKey (dst + i) then Memory.write t.mem (dst + i) (Config.freeByte t.serial ((src + i) * 64))
        else Memory.erase t.mem (dst + i) }) s

/-- What the packets of a line may still be fetched as goes with them to their new home (R86, R435). -/
def State.moveRewritten (s : State) (old new : Nat) : State :=
  (List.range 8).foldl (fun (t : State) k => { t with rewritten := match Tab.look t.rewritten (old * 8 + k) with
    | some x => Tab.put t.rewritten (new * 8 + k) x
    | none => Tab.del t.rewritten (new * 8 + k) }) s

/-- The pull of one line, read through the slice of its old home: data, open marks and poison move to the new home, the bit is set and
the old home's copy is invalidated (R435, R440). -/
def State.pull (s : State) (m : Migration) (i : Nat) : State :=
  let old := m.oldPa / 128 + i
  let new := m.newPa / 128 + i
  let missed := let t := s.perf (homeDie old) 6 1; if isHbm (old * 128) then t.perf (homeDie old) 7 1 else t
  let s1 := if s.holdsLine old then s.perf (homeDie old) 5 1 else if s.resident old then missed.fillIn old else missed.unspillLine old
  let s2 := ((s1.moveRewritten old new).copyBytes (old * 128) (new * 128) 128).staleCopies none (new * 128) 128
  let s3 := (List.range 32).foldl (fun t k => (t.setMark (new * 32 + k) (s1.mark (old * 32 + k))).setMark (old * 32 + k) Mark.empty) s2
  let key := setKey old
  let s4 : State := { s3 with slices := Tab.modify s3.slices key (fun l =>
    (l.filter (fun e => e.lines ≠ [old])).map (fun e =>
      if e.line = old then ⟨e.second.getD old, none, false⟩ else if e.second = some old then { e with second := none } else e)) }
  let b := (s4.readByte 61 (m.bitmap + i / 8)) ||| (1#8 <<< (i % 8))
  ((s4.shelve new).homeWrite none (m.bitmap + i / 8) [b]).perf (homeDie new) 15 1

/-- An access that reaches a line of a migrating page first pulls it (R435), once both stacks serve accesses (R465). -/
def State.pullFirst (s : State) (line : Nat) : State :=
  match s.migrationOf line with
  | none => s
  | some (m, i) => if s.pulled m i || s.lineWaits line then s else s.pull m i

/-- The lines that a walk reads are pulled before it reads them, and the translations are kept (R422, R435). -/
def State.useTables (s : State) (v : Viewer) (va n : Nat) : State := ((s.tablesOf v va n).foldl State.pullFirst s).installAll v va n

/-- The lines that a fetch reads: of the tables, and the packet's own. -/
def State.fetchLines (s : State) (v : Viewer) (pc : Dword) : List Nat :=
  s.tableLines v (pcBase pc).toNat ++ (match s.reachGlobal v ⟨false, false, true⟩ (pcBase pc).toNat with
    | .at_ (.hbm pa _) _ false => [pa / 128]
    | _ => [])

/-- They are pulled before the packet is read (R86, R435). -/
def State.pullFetched (s : State) (v : Viewer) (pc : Dword) : State := (s.fetchLines v pc).foldl State.pullFirst s

/-- The lines that n bytes at a physical address touch. -/
def linesTouched (pa n : Nat) : List Nat := (List.range ((pa % 128 + n + 127) / 128)).map (fun i => pa / 128 + i)

/-- Lines that the device itself reaches are pulled before it reads or writes them (R435). -/
def State.pullLines (s : State) (pa n : Nat) : State := (linesTouched pa n).foldl State.pullFirst s

/-- A line leaves its slice, and with it what shares its entry stays. -/
def State.leaveSlice (s : State) (line : Nat) : State :=
  let s1 := s.spillLine line
  { s1 with slices := Tab.modify s1.slices (setKey line) (fun l => l.filterMap (fun e =>
      if e.line = line then e.second.map (fun x => ⟨x, none, false⟩)
      else if e.second = some line then some { e with second := none }
      else some e)) }

/-- The host snoops a slice's copy of a line out: the line leaves, or, while marks of it are open, its tag stays without data (R467). -/
def State.snoopOut (s : State) (line : Nat) : State :=
  if !s.resident line then s else if s.mayLeave line then s.leaveSlice line else s.hollowOut line

/-- The device itself writes at a physical address: held while the stack is retrained (R465); to a peer as a remote write, which
waits for its acknowledgement, or is dropped with ERRSTAT.PEER where the peer has no route (R286, R455); nothing where there is no
memory; and only ERRSTAT.LINK is set in the cellar while the link is down (R237, R448). -/
def State.deviceWrite (s : State) (pa : Nat) (bs : List Byte) : State :=
  if isHbm pa then
    if (linesTouched pa bs.length).any s.lineWaits then { s with heldWrites := s.heldWrites ++ [(pa, bs)] }
    else (s.pullLines pa bs.length).homeWrite none pa bs
  else if isPeer pa then
    if s.routed (peerOf pa) then { s with peerPosted := s.peerPosted ++ [(peerOf pa, pa, bs)] } else s.raiseErr 6
  else if !isCellar pa then s
  else if s.link = .down then s.raiseErr 5
  else s.homeWrite none pa bs

/-- Writes of the device that had to wait for a stack are performed, in their order (R465). -/
def State.flushHeld (s : State) : State := s.heldWrites.foldl (fun t w => t.deviceWrite w.1 w.2) { s with heldWrites := [] }

/-- Bytes as the device itself reads them: its own held writes first. -/
def State.deviceRead (s : State) (salt pa n : Nat) : List Byte :=
  (List.range n).map (fun i => (s.heldWrites.foldl (fun (b : Option Byte) w =>
    if w.1 ≤ pa + i && pa + i < w.1 + w.2.length then some (w.2.getD (pa + i - w.1) 0) else b) none).getD
      (s.readByte salt (s.homePa (pa + i))))
def State.deviceNat (s : State) (salt pa n : Nat) : Nat := ofBytes (s.deviceRead salt pa n)

/-- Whether the device itself can read n bytes: not poisoned, in working stacks, and over the link where they are the cellar's (R273,
R448, R466). -/
def State.canRead (s : State) (pa n : Nat) : Bool :=
  (linesTouched pa n).all (fun l =>
    let home := s.homePa (l * 128) / 128
    (isHbm (home * 128) || (isCellar (home * 128) && s.link ≠ .down)) && !(isHbm (home * 128) && (s.stack (stackOf home)).state = 3) &&
      !((if s.resident home then s else s.unspillLine home).poisoned (s.homePa (max pa (l * 128))) (min (pa + n) (l * 128 + 128) - max pa (l * 128))))

/-- A line made ready at its home: in its slice, and pulled where its page migrates. -/
def State.atHome (s : State) (asid hint line : Nat) : Option State :=
  if s.lineWaits line then none else (s.fillHome asid hint line).map (fun t => t.pullFirst line)

/-- The same of several lines, each with whether the slice caches it (R247). -/
def State.atHomes (s : State) (asid hint : Nat) : List (Nat × Bool) → Option State
  | [] => some s
  | l :: ls => (if l.2 then s.atHome asid hint l.1 else if s.lineWaits l.1 then none else (s.tagHome l.1).map (fun t => t.pullFirst l.1)).bind
      (fun t => t.atHomes asid hint ls)

/-- A mark without the stamps of a slot. -/
def Mark.without (m : Mark) (slot : Nat) : Mark :=
  let w := m.w.filter (fun y => y.slot ≠ slot)
  { w := w, r := m.r.filter (fun y => y.slot ≠ slot), pend := if w.isNone then none else m.pend, poison := m.poison }

/-- A slot whose intervals begin again has no first touch behind it in any L1 (R266). -/
def State.forgetSeen (s : State) (slot : Nat) : State :=
  { s with cores := s.cores.map (fun (c : Nat × Core) => (c.1, { c.2 with
      l1 := c.2.l1.map (fun x => { x with seen := x.seen.filter (fun q => q.1 ≠ slot) }) })) }

/-- Purges the marks of a slot from slices, shelves and stashes (R271, R272). -/
def State.purgeSlot (s : State) (slot : Nat) : State :=
  { s with marks := (s.marks.map (fun p => (p.1, p.2.without slot))).filter (fun p => p.2 ≠ Mark.empty) }

end Sys2Proof.Machine
end

