-- ==== Sys2Proof/Machine/L1.lean ====
section
/-!
DEFINITION. Machine/L1.lean: the L1 of a core (R244, R254, R266, R283), mapped stash lines (R306 to R308), and what an
interval boundary does (R255, R256).
-/

namespace Sys2Proof.Machine

open Sys2Proof

/-! ### Lines -/

/-- How many lines the L1 of a core holds (R239, R248). -/
def State.l1Lines (s : State) (core : Nat) : Nat := ((s.core core).bndcache - (s.core core).bndstash) / 128

def State.l1Line (s : State) (core line : Nat) : Option L1Line := (s.core core).l1.find? (fun x => x.line = line)

def State.setL1 (s : State) (core line : Nat) (f : L1Line → L1Line) : State :=
  s.modCore core (fun c => { c with l1 := c.l1.map (fun x => if x.line = line then f x else x) })

def State.dropL1 (s : State) (core line : Nat) : State :=
  s.modCore core (fun c => { c with l1 := c.l1.filter (fun x => x.line ≠ line) })

/-- A dirty word goes to its home; a cellar word is dropped while the host link is down (R448). -/
def State.backWord (s : State) (core : Nat) (x : L1Line) (i : Nat) : State :=
  if isCellar (x.line * 128) && s.link = .down then (s.clearPend core (x.line * 32 + i)).raiseErr 5
  else s.homeBack core (x.line * 32 + i) ((List.range 4).map (fun j => Tab.look x.bytes (4 * i + j)))

/-- Writes back a line's dirty words; the line stays, clean. -/
def State.backLine (s : State) (core : Nat) (x : L1Line) : State :=
  ((lanesOf x.dirty).foldl (fun t i => t.backWord core x i) s).setL1 core x.line (fun y => { y with dirty := 0 })

/-- Writes back and drops a line. -/
def State.evictL1 (s : State) (core line : Nat) : State :=
  match s.l1Line core line with
  | none => s
  | some x => (s.backLine core x).dropL1 core line

/-- Every dirty word of the core's L1 is written back (R255). -/
def State.writeBackL1 (s : State) (core : Nat) : State :=
  ((s.core core).l1.filter (fun x => x.dirty ≠ 0)).foldl (fun t x => t.backLine core x) s

/-- Clean lines and the clean words of dirty lines are invalidated (R244). -/
def State.invalidateL1 (s : State) (core : Nat) : State :=
  s.modCore core (fun c => { c with l1 := (c.l1.filter (fun x => x.dirty ≠ 0)).map (fun x =>
    { x with valid := x.dirty, stale := x.stale &&& x.dirty, bytes := x.bytes.filter (fun b => x.dirty.getLsbD (b.1 / 4)), seen := [] }) })

/-- The bytes of a line that memory defines, by offset. -/
def State.definedBytes (s : State) (line : Nat) : List Host.Cell :=
  (List.range 128).filterMap (fun i => (Memory.byte? s.mem (line * 128 + i)).map (fun b => (i, b)))

/-- A line as a fill leaves it: dirty words are kept, and all others come from the home at once, so that no doubleword of the home
is seen in parts (R244, R473). -/
def L1Line.merge (x : L1Line) (home : List Host.Cell) : L1Line :=
  { x with
    bytes := (List.range 128).filterMap (fun i =>
      (Tab.look (if x.dirty.getLsbD (i / 4) then x.bytes else home) i).map (fun b => (i, b))),
    stale := x.stale &&& x.dirty,
    valid := BitVec.allOnes 32 }

/-- Whether the L1 serves the words of an access without a fill. -/
def L1Line.serves (x : L1Line) (a n : Nat) : Bool := (wordsTouched a n).all (fun w => x.valid.getLsbD (w % 32))

/-- A line brought into the L1, at the place its hint gives (R283), and the miss or hit counted. -/
def State.fillL1 (s : State) (core hint a n : Nat) : State :=
  let line := a / 128
  match s.l1Line core line with
  | some x =>
    if x.serves a n then s.perf (dieOf core) 3 1
    else (s.perf (dieOf core) 4 1).setL1 core line (fun y => y.merge (s.definedBytes line))
  | none =>
    let s1 := s.perf (dieOf core) 4 1
    let l := (s1.core core).l1
    let s2 := if l.length < s1.l1Lines core then s1 else (l.getLast?.map L1Line.line).elim s1 (fun k => s1.evictL1 core k)
    let x := L1Line.merge ⟨line, [], 0, 0, 0, []⟩ (s2.definedBytes line)
    s2.modCore core (fun c => { c with l1 := if hint = 1 then c.l1 ++ [x] else x :: c.l1 })

/-- A line that holds older clean copies of some words of an access takes its clean words anew from the home: a thread that has read
a word there does not read an older value of it afterwards (R277). -/
def State.refreshL1 (s : State) (core a n : Nat) : State :=
  match s.l1Line core (a / 128) with
  | none => s
  | some x =>
    if (wordsTouched a n).any (fun w => x.stale.getLsbD (w % 32) && !x.dirty.getLsbD (w % 32)) then
      s.setL1 core x.line (fun y => { (y.merge (s.definedBytes y.line)) with valid := y.valid })
    else s

/-- What a read of a word served by the L1 does first: on the first touch in an interval it takes a later value of the
home; after that it may (R264, R266). Dirty words are kept. -/
def State.touchWord (s : State) (core slot w : Nat) : State :=
  match s.l1Line core (w / 32) with
  | none => s
  | some x =>
    let me := (slot, (s.board slot).interval, w % 32)
    let stale := x.stale.getLsbD (w % 32) && !x.dirty.getLsbD (w % 32)
    let s1 := if stale && (!x.seen.contains me || s.pick (w * 4 + 2) 2 = 0) then s.refreshL1 core (4 * w) 4 else s
    if x.seen.contains me then s1
    else s1.setL1 core (w / 32) (fun y => { y with seen := me :: y.seen.filter (fun q => q.1 ≠ slot || q.2.1 = me.2.1) })

/-- Bytes of a line as the L1 holds them; one without a defined value draws a free one (R487). -/
def State.l1Bytes (s : State) (salt core a n : Nat) : List Byte :=
  match s.l1Line core (a / 128) with
  | none => s.readBytes salt a n
  | some x => (List.range n).map (fun i => (Tab.look x.bytes ((a + i) % 128)).getD (Config.freeByte s.serial ((a + i) * 64 + salt)))

/-- The accessing core's L1 gives up a word before it is accessed at its home (R254). -/
def State.yieldL1 (s : State) (core a n : Nat) : State :=
  match s.l1Line core (a / 128) with
  | none => s
  | some x => if (wordsTouched a n).any (fun w => x.dirty.getLsbD (w % 32)) then s.evictL1 core (a / 128) else s

/-- A core that writes a word at its home keeps no older copy of it. -/
def State.forgetL1 (s : State) (core a n : Nat) : State :=
  s.setL1 core (a / 128) (fun x =>
    let gone := (wordsTouched a n).foldl (fun m w => m ||| (1#32 <<< (w % 32))) 0#32
    { x with valid := x.valid &&& ~~~gone, bytes := x.bytes.filter (fun b => !gone.getLsbD (b.1 / 4)) })

/-- A data read by way of the L1 (R254). -/
def State.l1Read (s : State) (salt core slot hint a n : Nat) : State × List Byte :=
  let dirty := match s.l1Line core (a / 128) with
    | some x => (wordsTouched a n).any (fun w => x.dirty.getLsbD (w % 32))
    | none => false
  if hint = 3 && !dirty then (s.refreshL1 core a n, s.readBytes salt a n)
  else
    let s1 := s.fillL1 core hint a n
    let s2 := (wordsTouched a n).foldl (fun t w => t.touchWord core slot w) s1
    (s2, s2.l1Bytes salt core a n)

/-- A data write by way of the L1: whether its data stays there. -/
def State.l1Write (s : State) (core hint a : Nat) (bs : List Byte) : State × Bool :=
  if hint = 3 then
    (((s.yieldL1 core a bs.length).homeWrite (some core) a bs).forgetL1 core a bs.length, false)
  else
    let s1 := s.fillL1 core hint a bs.length
    let words := (wordsTouched a bs.length).foldl (fun m w => m ||| (1#32 <<< (w % 32))) 0#32
    (s1.setL1 core (a / 128) (fun x =>
      { x with
        bytes := (bs.zipIdx).foldl (fun t p => Tab.put t ((a + p.2) % 128) p.1) x.bytes,
        dirty := x.dirty ||| words }), true)

/-! ### Mapped stash lines -/

/-- The physical address behind a byte of a mapped line. -/
def State.backPa (s : State) (v : Viewer) (back : Nat) : Option Nat :=
  match s.reachBack { v with system := true } ⟨false, false, false⟩ back with
  | .at_ (.hbm pa _) _ _ => some pa
  | .at_ (.cellar pa _) _ _ => some pa
  | _ => none

/-- The view of a block, for its write-backs and fills. -/
def Block.viewer (b : Block) (system : Bool) : Viewer := ⟨b.asid, b.core, b.bid, system⟩

/-- The virtual address behind a word of the allocation, by offset / 4. -/
def Block.backing (b : Block) (w : Nat) : Option Nat := (b.mapEntry (4 * w)).map (fun e => e.g + (4 * w - e.s))

/-- Writes one dirty mapped word back; one whose backing page does not translate now stays dirty, and one of the cellar is dropped with
ERRSTAT.LINK while the link is down (R448). -/
def State.backMapped (s : State) (b : Block) (w : Nat) : State :=
  match (b.backing w).bind (fun g => s.backPa (b.viewer true) g) with
  | none => s
  | some pa =>
    let bytes := (List.range 4).map (fun j => Memory.byte? s.mem (stashKey b.core (b.stashBase + 4 * w + j)))
    let s1 := if isCellar pa && s.link = .down then (s.clearPend b.core (pa / 4)).raiseErr 5
      else ((s.atHome b.asid 0 (pa / 128)).getD s).homeBack b.core (pa / 4) bytes
    s1.modBlock b.bid (fun x => { x with dirty := x.dirty.filter (· ≠ w) })

/-- Writes back the dirty mapped words of a block that lie in a range of offsets (R307, R308). -/
def State.writeBackMapped (s : State) (bid from_ upto : Nat) : State :=
  match s.block? bid with
  | none => s
  | some b => (b.dirty.filter (fun w => from_ ≤ 4 * w && 4 * w < upto)).foldl (fun t w => t.backMapped b w) s

/-- Clean mapped lines lose their presence bits (R308). -/
def Block.unmapClean (b : Block) : Block :=
  let lines := (List.range (b.stashNeed / 128)).filter (fun l =>
    (b.mapEntry (128 * l)).isSome && !b.dirty.any (fun w => w / 32 = l) && !b.absent.contains l)
  { b with absent := b.absent ++ lines }

/-! ### Boundaries -/

/-- The write-back half of a boundary (R255, R308). -/
def State.releaseHalf (s : State) (b : Block) : State := (s.writeBackL1 b.core).writeBackMapped b.bid 0 (2 ^ 32)

/-- The invalidating half of a boundary (R255, R308). -/
def State.acquireHalf (s : State) (b : Block) : State := (s.invalidateL1 b.core).modBlock b.bid Block.unmapClean

/-- The block's interval counter advances (R255, R256). -/
def State.advance (s : State) (b : Block) : State :=
  let s1 := if b.opened then s else s.modBoard b.slot (fun x => { x with interval := (x.interval + 1) % 2 ^ 18 })
  s1.modBlock b.bid (fun x => { x with opened := false, wrapping := false, closeReq := false, closeSeen := false })

/-- Whether the block's next boundary waits for a wrap or a renewal (R271). -/
def State.wraps (s : State) (b : Block) : Bool := (s.board b.slot).interval = 0x3FFFF && !b.opened

/-- A boundary that must wait for one asks for it. -/
def State.askWrap (s : State) (b : Block) : State :=
  if s.wraps b then s.modBlock b.bid (fun x => { x with wrapping := true }) else s

/-- Whether a split-phase load of the block has still to count (R287). -/
def State.loadsOut (s : State) (b : Block) : Bool :=
  b.gangs.any (fun g => match s.gang? (gangId b.bid g) with
    | some x => x.ldas.any (fun l => !l.counted)
    | none => false)

/-- Whether a boundary of the block must wait: for a wrap or a renewal (R271), or for a split-phase load (R287). -/
def State.boundaryWaits (s : State) (b : Block) : Bool := s.wraps b || s.loadsOut b

/-- An acquire of a copy-role gang empties its stager's parameter-block cache (R385). -/
def State.emptyParams (s : State) (b : Block) : State :=
  s.modCore b.core (fun c => { c with pbcache := c.pbcache.filter (fun e => e.1 ≠ b.bid) })

/-- Where a piece of a line's bytes at most lies, as one number: a physical address, or the key of a stash byte. None where its page
does not translate; nowhere where no access is permitted. -/
def State.spotOf (s : State) (v : Viewer) (va n : Nat) : Option (Option Nat) :=
  match s.reach v ⟨false, false, false⟩ va n with
  | .untranslated _ _ => none
  | .denied => some none
  | .at_ (.stash c off _ _) _ _ => some (some (stashKey c off))
  | .at_ (.mapped c off _ _) _ _ => some (some (stashKey c off))
  | .at_ (.hbm pa _) _ _ => some (some pa)
  | .at_ (.cellar pa _) _ _ => some (some pa)
  | .at_ (.peer pa) _ _ => some (some pa)

/-- The tag of a parameter block: where its bytes lie, so that every address of them names one entry (R240, R385). -/
def State.paramTag (s : State) (v : Viewer) (pa : Nat) : Nat := ((s.spotOf v pa 64).join).getD pa

/-- The cached blocks of a block with some bytes, from a tag on, stored over (R385). -/
def Core.overwriteParams (c : Core) (bid tag : Nat) (bs : List Byte) : Core :=
  { c with pbcache := c.pbcache.map (fun (e : Nat × Nat × List Word) =>
    if e.1 = bid then (e.1, e.2.1, natToWords 16 (ofBytes ((bytesOf 64 (wordsToNat e.2.2)).zipIdx.map (fun (x : Byte × Nat) =>
      if tag ≤ e.2.1 + x.2 && e.2.1 + x.2 < tag + bs.length then bs.getD (e.2.1 + x.2 - tag) 0 else x.1)))) else e) }

/-- A store by a copy-role gang updates the cached blocks it touches (R385). -/
def State.storeParams (s : State) (b : Block) (v : Viewer) (va : Nat) (bs : List Byte) : State :=
  (linePieces va bs.length).foldl (fun t c => match s.spotOf v c.1 c.2 with
    | some (some a) => t.modCore b.core (fun k => k.overwriteParams b.bid a ((bs.drop (c.1 - va)).take c.2))
    | _ => t) s

/-- A whole boundary that no access makes: fence, u.isplit, an implicit or a save split (R255). -/
def State.split (s : State) (b : Block) : State := (((s.releaseHalf b).advance b).acquireHalf b).emptyParams b

end Sys2Proof.Machine
end

