-- ==== Sys2Proof/Machine/Access.lean ====
section
/-!
DEFINITION. Machine/Access.lean: one memory access of one instruction: the checks of R217 from misalignment to lost data
over all its lanes, and the reads and writes of its pieces where R254 performs them.
-/

namespace Sys2Proof.Machine

open Sys2Proof

/-- What an instruction does at the addresses it names. -/
structure How where
  need : Need
  label : Nat
  /-- What it does to marks (R252, R260). -/
  reads : Bool
  writes : Bool
  /-- Whether it is a load or an atomic, and whether it is an atomic, cas or cas2. -/
  load : Bool
  atomic : Bool
  /-- SIZE, for TINFO, and the alignment it needs, 1 for none (R249). -/
  size : Nat
  align : Nat
  scope : Nat
  hint : Nat
  /-- A phase barrier's object (R301). -/
  object : Bool
  /-- Whether it may name a peer window (R247). -/
  peer : Bool
  deriving DecidableEq, Repr

/-- One lane's access: visible and physical lane, address and bytes. -/
structure Req where
  vis : Nat
  phys : Nat
  va : Nat
  n : Nat
  deriving DecidableEq, Repr

/-- A cause with the lanes that raise it, and TADDR and TINFO of the lowest (R216, R218). -/
structure Found where
  cause : Nat
  lanes : Mask
  addr : Nat
  info : Nat
  deriving DecidableEq, Repr

/-- What the checks make of an instruction's accesses. -/
inductive Checked where
  | go (s : State) (ps : List (Req × List Piece))
  | fault (s : State) (f : Found)
  /-- An address does not translate: its first byte, LEVEL, REASON and AGENT of R428, and the lanes. -/
  | untranslated (s : State) (va level reason agent : Nat) (lanes : Mask)
  /-- The access waits for a line, a lock or a slice. -/
  | wait (s : State)
  deriving DecidableEq, Repr

/-- The lanes for which a check finds something, as one fault. -/
def gather {α : Type} (cause : Nat) (xs : List α) (vis : α → Nat) (f : α → Option (Nat × Nat)) : Option Found :=
  match xs.filterMap (fun x => (f x).map (fun r => (vis x, r))) with
  | [] => none
  | (l, r) :: rest => some ⟨cause, maskOf (l :: rest.map Prod.fst), r.1, r.2⟩

/-! ### Range locks (R431, R242) -/

def RangeLock.hits (r : RangeLock) (a n : Nat) : Bool :=
  (List.range r.rows).any (fun i =>
    let lo : Int := r.base + r.stride * i
    lo < (a + n : Nat) ∧ (a : Int) < lo + r.rowBytes)

/-- The block on a core that holds a slot. -/
def State.slotBlock (s : State) (core slot : Nat) : Option Block :=
  (s.blocks.find? (fun p => p.2.core = core && p.2.slot = slot)).map Prod.snd

/-- The range-lock entries that a piece hits. -/
def State.lockHits (s : State) (v : Viewer) (p : Piece) : Tab RangeLock :=
  match p.place with
  | .stash c off _ _ => (s.core c).locks.filter (fun e => e.2.stash && e.2.hits off p.n) ++
      (if c = v.core then [] else (s.core v.core).locks.filter (fun e => !e.2.stash && e.2.hits p.va p.n))
  | .mapped c off _ _ => (s.core c).locks.filter (fun e => e.2.stash && e.2.hits off p.n)
  | _ => (s.core v.core).locks.filter (fun e => !e.2.stash && e.2.hits p.va p.n &&
      (match s.slotBlock v.core e.2.owner with
        | some b => b.asid = v.asid
        | none => false))

/-- The line of its block's allocation that a stash piece lies in, and whether the line is absent. -/
def State.pieceAbsent (s : State) (p : Piece) : Bool :=
  match p.place with
  | .stash _ off bid _ => (match s.block? bid with
      | some b => b.absent.contains ((off - b.stashBase) / 128)
      | none => false)
  | .mapped _ off bid _ => (match s.block? bid with
      | some b => b.absent.contains ((off - b.stashBase) / 128)
      | none => false)
  | _ => false

/-- Where the bytes of a piece are held, as one number: the same for every address of a byte (R240). -/
def Piece.spot (p : Piece) : Nat :=
  match p.place with
  | .stash c off _ _ => stashKey c off
  | .mapped c off _ _ => stashKey c off
  | .hbm pa _ => pa
  | .cellar pa _ => pa
  | .peer pa => pa

/-- Whether two pieces share a byte. -/
def Piece.meets (p q : Piece) : Bool := p.spot < q.spot + q.n && q.spot < p.spot + p.n

/-- Whether a piece lies in stash. -/
def Piece.inStash (p : Piece) : Bool :=
  match p.place with
  | .stash _ _ _ _ => true
  | .mapped _ _ _ _ => true
  | _ => false

/-- What range locks make of a piece: an entry whose conflict it is, or whether it waits (R242). -/
inductive LockVerdict where
  | pass
  | wait
  | conflict (entry : Nat)
  deriving DecidableEq, Repr

/-- The verdict of some entries that a piece hits. -/
def State.lockOutcome (s : State) (v : Viewer) (store : Bool) (p : Piece) (hits : Tab RangeLock) : LockVerdict :=
  let mine := fun (e : RangeLock) => match s.block? v.bid with
    | some b => b.slot = e.owner && (match p.place with
        | .stash c _ _ _ => c = b.core || !e.stash
        | _ => true)
    | none => false
  match hits.find? (fun e => store || (e.2.dest && !mine e.2)) with
  | some e => .conflict e.1
  | none =>
    if hits.any (fun e => e.2.dest && (!e.2.stash || e.2.matrix || s.pieceAbsent p)) then .wait else .pass

def State.lockVerdict (s : State) (v : Viewer) (store : Bool) (p : Piece) : LockVerdict := s.lockOutcome v store p (s.lockHits v p)

/-! ### Checks -/

/-- The address under which a piece's marks and data are kept at their home. -/
def State.homeOf (s : State) (v : Viewer) (p : Place) : Option Nat :=
  match p with
  | .stash c off _ _ => some (stashKey c off)
  | .mapped _ _ _ back => s.backPa v back
  | .hbm pa _ => some pa
  | .cellar pa _ => some pa
  | .peer pa => some pa

/-- Why a piece is not permitted, beyond its page: a load from a peer window (R247), a barrier object where R301 allows
none, and a mapped line whose backing page R432 rules out. -/
def State.pieceDenied (s : State) (v : Viewer) (h : How) (p : Piece) : Bool :=
  match p.place with
  | .peer _ => !h.peer || h.object
  | .cellar _ _ => h.object
  | .hbm _ attr => h.object && attr = 2
  | .stash _ _ _ _ => false
  | .mapped _ _ _ back => h.object || (match s.reachBack v ⟨true, h.need.w, false⟩ back with
      | .at_ (.hbm _ a) _ d => d || a = 2
      | .at_ (.cellar _ a) _ d => d || a = 2
      | _ => true)

/-- A piece whose page does not translate: the backing page of a mapped line (R432). -/
def State.pieceUntranslated (s : State) (v : Viewer) (p : Piece) : Option (Nat × Nat × Nat) :=
  match p.place with
  | .mapped _ _ _ back => (match s.reachBack v ⟨true, false, false⟩ back with
      | .untranslated l r => some (back, l, r)
      | _ => none)
  | _ => none

def Address.list : Address → List Piece
  | .pieces ps => ps
  | _ => []

/-- Why an access does not translate: address, LEVEL, REASON and AGENT. -/
def State.missing (s : State) (v : Viewer) (a : Address) : Option (Nat × Nat × Nat × Nat) :=
  match a with
  | .untranslated va l r => some (va, l, r, 0)
  | a => a.list.findSome? (fun p => (s.pieceUntranslated v p).map (fun x => (x.1, x.2.1, x.2.2, 3)))

/-- The first address of an access that is not permitted. -/
def State.forbidden (s : State) (v : Viewer) (h : How) (r : Req) (a : Address) : Option (Nat × Nat) :=
  match a with
  | .denied va => some (va, 0)
  | a => if a.list.any (s.pieceDenied v h) then some (r.va, 0) else none

/-- Of two conflicts the one at the lowest byte is reported; there a write mark comes before another lane's write, and both before a read
mark (R282, R470). -/
def firstRace (mark lane : Option (Nat × Nat)) : Option (Nat × Nat) :=
  match mark, lane with
  | some m, some l => if l.1 < m.1 || (l.1 = m.1 && !bit m.2 27) then some l else some m
  | some m, none => some m
  | none, l => l

/-- A conflict of a piece with a mark at its home; a mapped word is checked where it lies in the stash too, where smap and sunmap have
announced their writes (R307). -/
def State.pieceRace (s : State) (v : Viewer) (t : Toucher) (p : Piece) : Option (Nat × Nat) :=
  let found := fun (a : Nat) => (s.firstConflict t a p.n).map (fun c => (p.va + (c.1 - a), (raceInfo t c.2.1 c.2.2).toNat))
  match p.place with
  | .mapped c off _ _ => firstRace ((s.homeOf v p.place).bind found) (found (stashKey c off))
  | _ => (s.homeOf v p.place).bind found

/-- A conflict of a lane's access with a mark, at the lowest byte (R262, R263, R470). -/
def State.raceOf (s : State) (v : Viewer) (t : Toucher) (ps : List Piece) : Option (Nat × Nat) := ps.findSome? (s.pieceRace v t)

/-- The words of an access at their homes, each with the first byte address of the access in it. -/
def State.accessWords (s : State) (v : Viewer) (ps : List Piece) : List (Nat × Nat) :=
  ps.flatMap (fun p => match s.homeOf v p.place with
    | some a => (wordsTouched a p.n).map (fun w => (w, p.va + (max a (4 * w) - a)))
    | none => [])

/-- Data writes of several lanes to one word: each later lane conflicts with the lowest that writes it (R282). -/
def State.laneRace (s : State) (v : Viewer) (tou : Nat → Toucher) (all : List (Req × List Piece)) (r : Req) (ps : List Piece) :
    Option (Nat × Nat) :=
  let earlier := all.filter (fun q => q.1.phys < r.phys)
  (s.accessWords v ps).findSome? (fun w =>
    (earlier.find? (fun q => (s.accessWords v q.2).any (fun x => x.1 = w.1))).map (fun q =>
      let t := tou q.1.phys
      (w.2, (raceInfo (tou r.phys) ⟨t.slot, .thread t.gang t.lane, (s.board t.slot).interval, t.cls, 0⟩ true).toNat)))

/-- The race of one lane of an instruction, with marks and with the other lanes. -/
def State.accessRace (s : State) (v : Viewer) (h : How) (tou : Nat → Toucher) (all : List (Req × List Piece)) (p : Req × List Piece) :
    Option (Nat × Nat) :=
  firstRace (s.raceOf v (tou p.1.phys) p.2) (if h.writes && h.label = 0 then s.laneRace v tou all p.1 p.2 else none)

/-- The lowest byte whose data a load or an atomic finds lost: poison (R273), a cellar load while the link is down (R448) or
after a parity error (R458), a failed stack (R466); log entry 64. -/
def State.lostAt (s : State) (v : Viewer) (h : How) (ps : List Piece) : Option Nat :=
  if !h.load then none
  else ps.findSome? (fun p => match s.homeOf v p.place with
    | none => none
    | some a =>
      if !isStashKey a && ((isCellar a && s.link = .down && !h.atomic) || (isCellar a && s.parityRead) ||
          (isHbm a && (s.stack (stackOf (a / 128))).state = 3)) then some p.va
      else ((s.accessWords v [p]).find? (fun w => (s.mark w.1).poison)).map Prod.snd)

/-- Whether a piece lies in the cellar. -/
def Piece.inCellar (p : Piece) : Bool :=
  match p.place with
  | .cellar _ _ => true
  | _ => false

/-- A parity error of an inbound read is met by the cellar read that raises lost data for it, and by no other (R458). -/
def State.parityMet (s : State) (ps : List Piece) : State := if ps.any Piece.inCellar then { s with parityRead := false } else s

def State.lostData (s : State) (v : Viewer) (h : How) (ps : List Piece) : Bool := (s.lostAt v h ps).isSome

/-- Whether the home slice caches the lines of a place (R247). -/
def Place.cached (p : Place) : Bool :=
  match p with
  | .stash _ _ _ _ => true
  | .mapped _ _ _ _ => true
  | .hbm _ attr => attr ≠ 2
  | .cellar _ attr => attr ≠ 2
  | .peer _ => false

/-- The lines at their homes that the pieces touch, each with whether it is cached there. -/
def State.homeLines (s : State) (v : Viewer) (ps : List Piece) : List (Nat × Bool) :=
  (ps.flatMap (fun p => match s.homeOf v p.place with
    | some a => if isStashKey a then [] else [(a / 128, p.place.cached)]
    | none => [])).dedup

/-- The lines that an instruction's pieces touch: an atomic of system scope on the cellar is performed by the host, and its line is brought
into no slice (R293, R467). -/
def State.linesFor (s : State) (v : Viewer) (h : How) (ps : List Piece) : List (Nat × Bool) :=
  ((s.homeLines v ps).map (fun l => (l.1, l.2 && !(h.atomic && h.scope = 4 && isCellar (l.1 * 128))))).dedup

/-- Whether a copy of the accessing block is on its way to the stash line that a piece lies in (R242). -/
def State.ownCopyComing (s : State) (v : Viewer) (p : Piece) : Bool :=
  match p.place with
  | .stash _ _ _ false => (s.core v.core).locks.any (fun e => e.2.dest && !e.2.stash && e.2.hits (p.va / 128 * 128) 128 &&
      ((s.block? v.bid).map Block.slot) = some e.2.owner)
  | .stash c off bid true => (s.core c).locks.any (fun e => e.2.dest && e.2.stash && e.2.hits (off / 128 * 128) 128 &&
      ((s.block? bid).map Block.slot) = some e.2.owner)
  | _ => false

/-- Starts the first-touch fills of absent mapped lines (R242). -/
def State.startFills (s : State) (ps : List Piece) : State :=
  ps.foldl (fun t p => match p.place with
    | .mapped _ off bid _ =>
      -- a line that is absent because a copy is on its way to it is not filled
      let coming := (t.core (((t.block? bid).map Block.core).getD 0)).locks.any (fun e =>
        e.2.dest && e.2.stash && e.2.hits (off / 128 * 128) 128)
      if t.pieceAbsent p && !coming then
        t.modBlock bid (fun b => { b with fills := (b.fills ++ [(off - b.stashBase) / 128]).dedup })
      else t
    | _ => t) s

/-- The faults of one instruction's accesses, in the order of R217, from misalignment on; own gives the instruction's own
faults, which come last (R284). races is off for an instruction that holds them (R288). -/
def State.check (s : State) (v : Viewer) (h : How) (tou : Nat → Toucher) (races : Bool)
    (own : State → Req → List Piece → Option (Nat × Nat × Nat)) (rs : List Req) : Checked :=
  match gather 0x05 rs Req.vis (fun r => if r.va % h.align ≠ 0 then some (r.va, h.size) else none) with
  | some f => .fault s f
  | none =>
    if rs.any (fun r => (s.tablesOf v r.va r.n).any s.lineWaits) then .wait s
    else
    let as_ := rs.map (fun r => (r, s.address v h.need r.va r.n))
    match gather 0x06 as_ (fun p => p.1.vis) (fun p => match p.2 with
      | .split x => some (x, 0)
      | _ => none) with
    | some f => .fault s f
    | none =>
      match as_.filterMap (fun p => (s.missing v p.2).map (fun m => (p.1.vis, m))) with
      | (l, va, lv, re, ag) :: rest =>
        .untranslated (rs.foldl (fun t r => t.useTables v r.va r.n) s) va lv re ag (maskOf (l :: rest.map Prod.fst))
      | [] =>
        match gather 0x09 as_ (fun p => p.1.vis) (fun p => s.forbidden v h p.1 p.2) with
        | some f => .fault s f
        | none =>
          let ps := as_.map (fun p => (p.1, p.2.list))
          let store := h.need.w
          let s1 := rs.foldl (fun t r => t.useTables v r.va r.n) s
          match gather 0x0A ps (fun p => p.1.vis) (fun p => p.2.findSome? (fun q => match s.lockVerdict v store q with
            | .conflict e => some (q.va, e)
            | _ => none)) with
          | some f => .fault s1 f
          | none =>
            match gather 0x26 ps (fun p => p.1.vis) (fun p => p.2.findSome? (fun q => match q.place with
              | .stash _ _ _ _ =>
                if s.pieceAbsent q && s.lockVerdict v store q ≠ .wait && (store || !s.ownCopyComing v q) then some (q.va, 0) else none
              | _ => none)) with
            | some f => .fault s1 f
            | none =>
              let every := ps.flatMap Prod.snd
              if every.any (fun q => s.pieceAbsent q || s.lockVerdict v store q = .wait) then .wait (s1.startFills every)
              else
                match s1.atHomes v.asid h.hint (s1.linesFor v h every) with
                | none => .wait (s1.wantRoom v.bid (s1.linesFor v h every))
                | some s2 =>
                  match (if races then gather 0x0B ps (fun p => p.1.vis) (s2.accessRace v h tou ps) else none) with
                  | some f => .fault (s2.perf (dieOf v.core) 13 1) f
                  | none =>
                    match (if races then gather 0x0C ps (fun p => p.1.vis) (fun p =>
                        (s2.lostAt v h p.2).map (fun a => (a, 0))) else none) with
                    | some f => .fault (s2.parityMet every) f
                    | none =>
                      match ps.findSome? (fun p => (own s2 p.1 p.2).map Prod.fst) with
                      | some c =>
                        match gather c ps (fun p => p.1.vis) (fun p => (own s2 p.1 p.2).bind (fun o =>
                          if o.1 = c then some o.2 else none)) with
                        | some f => .fault s2 f
                        | none => .go s2 ps
                      | none => .go s2 ps

/-! ### Performing -/

/-- Announces a piece's words at their home. -/
def State.announcePiece (s : State) (v : Viewer) (t : Toucher) (p : Piece) (pend : Option Nat) : State :=
  if !t.reads && !t.writes then s
  else match s.homeOf v p.place with
    | some a => s.announce t a p.n pend
    | none => s

/-- Whether the L1 of the accessing core may serve a piece (R244, R247, R254). -/
def State.byL1 (s : State) (v : Viewer) (h : How) (attr : Nat) : Bool :=
  h.label = 0 && !h.atomic && attr = 0 && s.l1Lines v.core ≠ 0

/-- An access to an uncached HBM4 line is performed at the stack, and counted there (R247, R440). -/
def State.uncachedLine (s : State) (event pa attr : Nat) : State :=
  if attr = 2 && isHbm pa then s.perf (homeDie (pa / 128)) event 1 else s

/-- Reads one piece where it is performed. -/
def State.readPiece (s : State) (v : Viewer) (h : How) (t : Toucher) (p : Piece) : State × List Byte :=
  let s1 := s.announcePiece v t p none
  let far := fun (pa attr : Nat) =>
    if s1.byL1 v h attr then s1.l1Read t.lane v.core t.slot h.hint pa p.n
    else
      let s2 := ((s1.yieldL1 v.core pa p.n).refreshL1 v.core pa p.n).uncachedLine 7 pa attr
      (s2, s2.readBytes t.lane pa p.n)
  match p.place with
  | .stash c off _ _ => (s1, s1.readBytes t.lane (stashKey c off) p.n)
  | .mapped c off _ _ => (s1, s1.readBytes t.lane (stashKey c off) p.n)
  | .hbm pa attr => far pa attr
  | .cellar pa attr => far pa attr
  | .peer pa => (s1, s1.readBytes t.lane pa p.n)

/-- Writes one piece where it is performed. -/
def State.writePiece (s : State) (v : Viewer) (h : How) (t : Toucher) (p : Piece) (bs : List Byte) : State :=
  let far := fun (pa attr : Nat) =>
    if s.byL1 v h attr then
      let r := (s.announcePiece v t p (if h.hint = 3 then none else some v.core)).l1Write v.core h.hint pa bs
      r.1
    else ((((s.announcePiece v t p none).yieldL1 v.core pa p.n).homeWrite (some v.core) pa bs).forgetL1 v.core pa p.n).uncachedLine 8 pa attr
  match p.place with
  | .stash c off _ _ => (s.announcePiece v t p none).homeWrite (some v.core) (stashKey c off) bs
  | .mapped c off bid _ =>
    ((s.announcePiece v t p (some v.core)).writeBytes (stashKey c off) bs).modBlock bid (fun b =>
      { b with dirty := (b.dirty ++ wordsTouched (off - b.stashBase) p.n).dedup })
  | .hbm pa attr => far pa attr
  | .cellar pa attr => if s.link = .down then (s.announcePiece v t p none).raiseErr 5 else far pa attr
  | .peer pa => (s.announcePiece v t p none).modCore v.core (fun c => { c with peerWrites := c.peerWrites ++ [(peerOf pa, pa)] })

/-- The aligned 8-byte halves of a read of up to 16 bytes of the cellar on the fallback mapping, each of which the host returns whole;
none where one holds the whole read (R468). -/
def State.halvesOf (s : State) (p : Piece) : List Piece :=
  match p.place with
  | .cellar pa attr =>
    if s.link = .fallback && 8 < pa % 8 + p.n && p.n ≤ 16 then
      (List.range ((pa % 8 + p.n + 7) / 8)).map (fun i =>
        let lo := max pa (pa / 8 * 8 + 8 * i)
        ⟨p.va + (lo - pa), min (pa + p.n) (pa / 8 * 8 + 8 * i + 8) - lo, .cellar lo attr⟩)
    else []
  | _ => []

/-- Whether a load is returned in halves (R468). -/
def State.tears (s : State) (h : How) (ps : List (Req × List Piece)) : Bool :=
  h.load && !h.atomic && ps.any (fun e => e.2.any (fun p => !(s.halvesOf p).isEmpty))

/-- One half of each piece that is returned in halves, as it is returned first: which one is the host's choice (R468). -/
def State.firstHalves (s : State) (core : Nat) (reader : Nat × Nat × Nat) (ps : List (Req × List Piece)) : State × List HalfRead :=
  (ps.flatMap (fun e => e.2.map (fun p => (e.1, p)))).foldl (fun a e =>
    let hs := a.1.halvesOf e.2
    match hs[s.pick (400 + e.1.phys) hs.length]? with
    | none => a
    | some x =>
      let t := a.1.yieldL1 core x.spot x.n
      (t, a.2 ++ [⟨reader, e.1.phys, x.va, t.readBytes e.1.phys x.spot x.n⟩])) (s, [])

/-- The bytes of a read with those of the halves that came first. -/
def joinHalves (hs : List HalfRead) (r : Req) (bs : List Byte) : List Byte :=
  (hs.filter (fun x => x.lane = r.phys)).foldl (fun q x => q.zipIdx.map (fun (b : Byte × Nat) =>
    if x.va ≤ r.va + b.2 && r.va + b.2 < x.va + x.bytes.length then x.bytes.getD (r.va + b.2 - x.va) 0 else b.1)) bs

/-- Reads an access, lowest address first. -/
def State.readAt (v : Viewer) (h : How) (t : Toucher) : State → List Piece → State × List Byte
  | s, [] => (s, [])
  | s, p :: ps =>
    let r := s.readPiece v h t p
    let q := State.readAt v h t r.1 ps
    (q.1, r.2 ++ q.2)

/-- Writes an access, lowest address first. -/
def State.writeAt (v : Viewer) (h : How) (t : Toucher) : State → List Piece → List Byte → State
  | s, [], _ => s
  | s, p :: ps, bs => State.writeAt v h t (s.writePiece v h t p (bs.take p.n)) ps (bs.drop p.n)

end Sys2Proof.Machine
end

