-- ==== Sys2Proof/Machine/FaultQueue.lean ====
section
/-!
DEFINITION. Machine/FaultQueue.lean: fault-queue records (R351, R352), translation records (R428) and the trace unit
(R346 to R348, R478 to R480).
-/

namespace Sys2Proof.Machine

open Sys2Proof

/-! ### Records -/

/-- How a fault queue stands: room, full, or with an index that R352 rules out. -/
inductive FqRoom where
  | room
  | full
  | broken
  deriving DecidableEq, Repr

def State.fqRoom (s : State) (d : Descriptor) : FqRoom :=
  let used := (s.deviceNat 60 d.fqbase 4 + 2 ^ 32 - s.deviceNat 60 (d.fqbase + 4) 4) % 2 ^ 32
  if used = d.fqsize then .full else if used < d.fqsize then .room else .broken

/-- Writes a record's words 1 to 7, then word 0, then PRODUCED, and raises MSI-X vector 1 (R352). -/
def State.fqStore (s : State) (asid kind : Nat) (d : Descriptor) (ws : List Nat) : State :=
  let produced := s.deviceNat 60 d.fqbase 4
  let at_ := d.fqbase + 32 + 32 * (produced % d.fqsize)
  let words := (kind + asid * 2 ^ 8) :: (List.range 7).map (fun i => ws.getD i 0)
  let s1 := s.deviceWrite at_ (words.flatMap (bytesOf 4))
  let s2 := s1.deviceWrite d.fqbase (bytesOf 4 (produced + 1))
  { s2 with msix1 := s2.msix1 + 1 }

/-- A record that the queue cannot take is counted in FQDROP (R351, R352). -/
def State.fqLost (s : State) (asid : Nat) : State := { s with fqdrop := Tab.upd s.fqdrop asid 0 (fun x => satAdd 32 x 1) }

/-- A record of any kind but a translation record. The queue's header is pulled before it is read (R435). -/
def State.faultRecord (s : State) (asid kind : Nat) (ws : List Nat) : State :=
  match Tab.look s.identifiers asid with
  | none => s.fqLost asid
  | some d =>
    let s := s.pullLines d.fqbase 8
    if s.fqRoom d = .room then s.fqStore asid kind d ws else s.fqLost asid

/-- A translation record: stored, kept waiting for room, or counted as lost (R351, R352). -/
def State.storeTranslation (s : State) (r : TransRec) : State :=
  match Tab.look s.identifiers r.asid with
  | none => s
  | some d =>
    let s := s.pullLines d.fqbase 8
    let keep := fun (t : State) (ws : List Nat) =>
      { t with transRecs := t.transRecs.map (fun x => if x.ticket = r.ticket && x.asid = r.asid then { x with unwritten := ws } else x) }
    match s.fqRoom d with
    | .room => keep (s.fqStore r.asid 1 d r.unwritten) []
    | .full => s
    | .broken => keep (s.fqLost r.asid) []

/-- Translation records that waited for room are written once there is some (R351). -/
def State.flushTranslations (s : State) : State :=
  (s.transRecs.filter (fun r => !r.unwritten.isEmpty)).foldl State.storeTranslation s

/-- A miss joins an unresolved record of its identifier on the same page, or writes a new one; its ticket (R428). -/
def State.missRecord (s : State) (asid va level reason : Nat) (write exec user : Bool) (slot gang core agent : Nat) (pc : Dword) :
    Nat × State :=
  let same := fun (r : TransRec) => r.asid = asid && r.level = level && r.va / 2 ^ levelShift level = va / 2 ^ levelShift level &&
    (!write || r.write) && (!exec || r.exec_)
  match s.transRecs.find? same with
  | some r => (r.ticket, s)
  | none =>
    let ticket := Tab.getD s.tickets asid 0
    let f := fun (b : Bool) (n : Nat) => if b then 2 ^ n else 0
    let ws := [ticket + f write 16 + f exec 17 + f user 18 + level * 2 ^ 19 + reason * 2 ^ 21, va % 2 ^ 32, va / 2 ^ 32,
      slot + gang * 2 ^ 14, core + agent * 2 ^ 11, pc.toNat % 2 ^ 32, pc.toNat / 2 ^ 32]
    let r : TransRec := ⟨ticket, asid, write, exec, level, va, ws⟩
    let s1 := { s with tickets := Tab.put s.tickets asid ((ticket + 1) % 2 ^ 16), transRecs := s.transRecs ++ [r] }
    (ticket, s1.storeTranslation r)

/-! ### Trace -/

/-- TRSIZE holds a power of two from 4 KiB to 1 GiB, and TRBASE is not zero (R346). -/
def Trace.enabled (t : Trace) : Bool := t.base ≠ 0 && (List.range 19).any (fun i => t.size = 2 ^ (12 + i))

/-- Bytes of the ring that can be written. -/
def Trace.free (t : Trace) : Nat := (t.rp % t.size + 2 * t.size - t.wp % t.size - 8) % t.size

/-- Writes 8-byte units at TRWP. -/
def State.traceUnits (s : State) (core : Nat) : List Nat → State
  | [] => s
  | u :: us =>
    let t := (s.core core).trace
    let s1 := s.deviceWrite (t.base + t.wp % t.size) (bytesOf 8 u)
    State.traceUnits (s1.modCore core (fun c => { c with trace := { c.trace with wp := (t.wp + 8) % t.size } })) core us

/-- The gangs of a core that have not ended, in ascending gang number. -/
def State.gangsOf (s : State) (core : Nat) : List (Nat × Gang) :=
  let all := (s.gangs.filter (fun p => !p.2.ended && (match s.block? p.2.bid with
    | some b => b.core = core
    | none => false)))
  (List.range 32).flatMap (fun n => all.filter (fun p => p.2.num = n))

/-- A sync packet for each live split of each gang, as the splits are now: gang, and the packet's two words (R347, R477). -/
def State.traceSplits (s : State) (core : Nat) : List (Nat × Nat × Nat) :=
  (s.gangsOf core).flatMap (fun p => p.2.tree.splits.map (fun x =>
    (p.1, 2 + p.2.num * 16 + bits x.2.pc.toNat 56 2 * 2 ^ 9, s.clock % 2 ^ 61 + x.1 % 8 * 2 ^ 61)))

/-- The sync set of a cycle: of the gangs that are traced, as their splits stood at its start (R347, R478). -/
def State.traceSet (s : State) (core : Nat) : List (Nat × Nat × Nat) :=
  let t := (s.core core).trace
  t.snap.filter (fun x => ((s.gang? x.1).map Gang.trace).getD false || t.pending.any (fun p => p.1 = x.1))

/-- The words of a sync set. -/
def syncSet (xs : List (Nat × Nat × Nat)) : List Nat := xs.flatMap (fun x => [x.2.1, x.2.2])

/-- After a sync set: DT and the counts to the next one start again (R348). -/
def Trace.afterSet (t : Trace) (xs : List (Nat × Nat × Nat)) (cyc : Nat) : Trace :=
  { t with lastCycle := cyc, syncCycle := cyc, sinceSync := 0, synced := (xs.map Prod.fst).dedup, losing := false, dropped := 0 }

/-- A sync set is written, after the words given. -/
def State.writeSync (s : State) (core : Nat) (xs : List (Nat × Nat × Nat)) (before : List Nat) : State :=
  (s.modCore core (fun c => { c with trace := c.trace.afterSet xs (s.cycle core) })).traceUnits core (before ++ syncSet xs)

/-- The loss packet (R347, R480). -/
def Trace.lossPacket (t : Trace) : Nat := 3 + t.dropped * 2 ^ 32

/-- One packet of a gang: it joins those of its cycle, unless the gang is not traced or the unit is disabled (R346, R348). -/
def State.tracePacket (s : State) (gid : Nat) (timed : Bool) (packet : Nat) : State :=
  match s.gang? gid with
  | none => s
  | some g =>
    match s.block? g.bid with
    | none => s
    | some b =>
      if !g.trace || !(s.core b.core).trace.enabled then s
      else s.modCore b.core (fun c => { c with trace := { c.trace with pending := c.trace.pending ++ [(gid, g.num, timed, packet)] } })

/-- Whether a sync set is due before the packets of a cycle: a gang's first one, 4,096 packets, 65,536 cycles, or a DT above 4,095
(R348). -/
def Trace.setDue (t : Trace) (cyc : Nat) : Bool :=
  t.pending.any (fun p => !t.synced.contains p.1) || 4096 < t.sinceSync + t.pending.length || 65536 ≤ cyc - t.syncCycle ||
    4095 < cyc - t.lastCycle

/-- Under a re-run the next branch or target packet that a recorded team's gang has written is compared with the recorded one, DT aside;
the first that differs stops every recorded team, and a record of kind 0x09 says where: the offset at which it stands (R350). -/
def State.compareTrace (s : State) (core at_ gid packet : Nat) : State :=
  let recorded := fun (t : Team) => s.recQueues.contains t.queue
  match s.rerun, (s.gang? gid).bind (fun g => (s.block? g.bid).map (fun b => (g, b))) with
  | some r, some (g, b) =>
    if !(((s.team? b.team).map recorded).getD false) || !(packet % 16 = 1 || packet % 16 = 5) then s
    else match Tab.getD r.packets core [] with
    | [] => s
    | p :: ps =>
      if p = packet then { s with rerun := some { r with packets := Tab.put r.packets core ps } }
      else
        ({ s with
          rerun := none,
          teams := s.teams.map (fun (t : Nat × Team) => if recorded t.2 && t.2.state = TeamState.live then (t.1, { t.2 with frozen := true }) else t)
        }).faultRecord b.asid 9 [core, g.num, at_]
  | _, _ => s

/-- Writes the packets of a cycle, with the sync set before the first of them where one is due; while packets are being lost, the
loss packet, the set and a packet are written only when all fit (R348, R478, R480). -/
def State.traceWrite (s : State) (core : Nat) (xs : List (Nat × Nat × Nat)) (due : Bool) : List (Nat × Nat × Bool × Nat) → State
  | [] => s
  | p :: ps =>
    let t := (s.core core).trace
    let set := due || t.losing
    let before := if t.losing then [t.lossPacket] else []
    let units := before.length + (if set then (syncSet xs).length else 0) + 1
    if 8 * units ≤ t.free then
      let s1 := if set then s.writeSync core xs before else s
      let dt := s.cycle core - (s1.core core).trace.lastCycle
      let s2 := (s1.compareTrace core (s1.core core).trace.wp p.1 p.2.2.2).traceUnits core [p.2.2.2 + (if p.2.2.1 then dt * 2 ^ 12 else 0)]
      State.traceWrite (s2.modCore core (fun c => { c with trace :=
        { c.trace with lastCycle := s.cycle core, sinceSync := c.trace.sinceSync + 1 } })) core xs false ps
    else
      State.traceWrite (s.modCore core (fun c => { c with trace :=
        { c.trace with losing := true, dropped := satAdd 32 c.trace.dropped 1 } })) core xs due ps

/-- The end of a core's cycle: its packets are written in ascending gang number (R478). -/
def State.traceFlush (s : State) (core : Nat) : State :=
  let t := (s.core core).trace
  let ps := (List.range 32).flatMap (fun n => t.pending.filter (fun p => p.2.1 = n))
  if ps.isEmpty then s
  else
    let s1 := if t.enabled then s.traceWrite core (s.traceSet core) (t.setDue (s.cycle core)) ps else s
    s1.modCore core (fun c => { c with trace := { c.trace with pending := [] } })

/-- The start of a core's cycle: where its splits stand (R478). -/
def State.traceSnap (s : State) (core : Nat) : State :=
  s.modCore core (fun c => { c with trace := { c.trace with snap := s.traceSplits core } })

/-- A branch packet, with the lanes that take the transfer, and a target packet. -/
def State.traceBranch (s : State) (gid num place : Nat) (taken : Mask) : State :=
  s.tracePacket gid true (1 + num * 16 + place % 8 * 2 ^ 9 + taken.toNat * 2 ^ 32)
def State.traceTarget (s : State) (gid num : Nat) (pc : Dword) : State :=
  s.tracePacket gid false (5 + num * 16 + bits pc.toNat 56 2 * 2 ^ 9)

/-- A gang that resumes needs a sync set before its next packet (R348). -/
def State.unsync (s : State) (gid core : Nat) : State :=
  s.modCore core (fun c => { c with trace := { c.trace with synced := c.trace.synced.filter (· ≠ gid) } })

end Sys2Proof.Machine
end

