-- ==== Sys2Proof/Machine/Float.lean ====
section
/-!
DEFINITION. Machine/Float.lean: floating-point values taken exactly, rounding with flags, and the arithmetic of R94 to
R116 and R169 to R176. An operation forms the exact value and rounds once.
-/

namespace Sys2Proof.Machine

open Sys2Proof

/-- A floating-point format (R95): widths of E and F, and the bias. E4M3 has no infinity (R96). -/
structure Fmt where
  ew : Nat
  fw : Nat
  e4m3 : Bool
  deriving DecidableEq, Repr

def Fmt.f64 : Fmt := ⟨11, 52, false⟩
def Fmt.f32 : Fmt := ⟨8, 23, false⟩
def Fmt.f16 : Fmt := ⟨5, 10, false⟩
def Fmt.bf16 : Fmt := ⟨8, 7, false⟩
def Fmt.fe4m3 : Fmt := ⟨4, 3, true⟩
def Fmt.fe5m2 : Fmt := ⟨5, 2, false⟩

def Fmt.bias (f : Fmt) : Int := 2 ^ (f.ew - 1) - 1
/-- Exponent of the smallest normal value. -/
def Fmt.emin (f : Fmt) : Int := 1 - f.bias
def Fmt.width (f : Fmt) : Nat := 1 + f.ew + f.fw
/-- The largest finite magnitude is maxSig * 2^(maxExp) (R96). -/
def Fmt.maxSig (f : Fmt) : Nat := if f.e4m3 then 14 else 2 ^ (f.fw + 1) - 1
def Fmt.maxExp (f : Fmt) : Int := if f.e4m3 then 5 else f.bias - f.fw

/-- A value exactly: a NaN, an infinity, or (-1)^neg * m * 2^e. -/
inductive Fp where
  | nan (signalling : Bool)
  | inf (neg : Bool)
  | fin (neg : Bool) (m : Nat) (e : Int)
  deriving DecidableEq, Repr

/-- The rounding modes (R105): 0 RNE, 1 RZ, 2 RU, 3 RD. -/
abbrev RMode := Nat

/-- Exception bits (R108): 1 invalid, 2 divide-by-zero, 4 overflow, 8 underflow, 16 inexact. -/
abbrev Flags5 := Nat

/-- The value of a bit pattern (R95, R96, R97). -/
def Fmt.decode (f : Fmt) (x : Nat) : Fp :=
  let neg := x.testBit (f.ew + f.fw)
  let e := x / 2 ^ f.fw % 2 ^ f.ew
  let m := x % 2 ^ f.fw
  if f.e4m3 then
    if e = 15 ∧ m = 7 then .nan false
    else if e = 0 then .fin neg m (f.emin - f.fw) else .fin neg (2 ^ f.fw + m) ((e : Int) - f.bias - f.fw)
  else if e = 2 ^ f.ew - 1 then
    if m = 0 then .inf neg else .nan (!m.testBit (f.fw - 1))
  else if e = 0 then .fin neg m (f.emin - f.fw)
  else .fin neg (2 ^ f.fw + m) ((e : Int) - f.bias - f.fw)

def Fmt.signBit (f : Fmt) (neg : Bool) : Nat := if neg then 2 ^ (f.ew + f.fw) else 0
/-- The canonical quiet NaN (R96, R112). -/
def Fmt.qnan (f : Fmt) : Nat := if f.e4m3 then 0x7F else (2 ^ f.ew - 1) * 2 ^ f.fw + 2 ^ (f.fw - 1)
def Fmt.infinity (f : Fmt) (neg : Bool) : Nat :=
  f.signBit neg + (if f.e4m3 then 0x7F else (2 ^ f.ew - 1) * 2 ^ f.fw)
def Fmt.largest (f : Fmt) (neg : Bool) : Nat :=
  f.signBit neg + (if f.e4m3 then 0x7E else (2 ^ f.ew - 1) * 2 ^ f.fw - 1)

/-- m * 2^sh rounded to an integer in a mode, and whether it is inexact (R105). -/
def roundShift (mode : RMode) (neg : Bool) (m : Nat) (sh : Int) : Nat × Bool :=
  if 0 ≤ sh then (m * 2 ^ sh.toNat, false)
  else
    let k := (-sh).toNat
    let q := m / 2 ^ k
    let r := m % 2 ^ k
    let up :=
      if r = 0 then false
      else if mode = 0 then 2 ^ k < 2 * r || (2 * r = 2 ^ k && q % 2 = 1)
      else if mode = 1 then false
      else if mode = 2 then !neg
      else neg
    (if up then q + 1 else q, r ≠ 0)

/-- Whether a * 2^x < b * 2^y. -/
def scaledLt (a : Nat) (x : Int) (b : Nat) (y : Int) : Bool :=
  let z := min x y
  a * 2 ^ (x - z).toNat < b * 2 ^ (y - z).toNat

/-- A finite non-zero exact magnitude rounded to a format, with its flags (R98, R105, R106, R109). A saturating operation
gives the largest finite value on overflow. -/
def Fmt.roundMag (f : Fmt) (mode : RMode) (satur : Bool) (neg : Bool) (m : Nat) (e : Int) : Nat × Flags5 :=
  let top : Int := (Nat.log2 m : Int) + e
  let q := max top f.emin - f.fw
  let (r, inexact) := roundShift mode neg m (e - q)
  if scaledLt f.maxSig f.maxExp r q then
    let toInf := mode = 0 || (mode = 2 && !neg) || (mode = 3 && neg)
    (if satur || !toInf then f.largest neg else f.infinity neg, 4 + 16)
  else
    let (u, _) := roundShift mode neg m (e - (top - f.fw))
    let tiny := scaledLt u (top - f.fw) 1 f.emin
    let pattern := if r < 2 ^ f.fw then r else (q + f.fw + f.bias).toNat * 2 ^ f.fw + (r - 2 ^ f.fw)
    (f.signBit neg + pattern, (if inexact then 16 else 0) + (if tiny && inexact then 8 else 0))

/-- An exact value delivered in a format (R98, R112). -/
def Fmt.deliver (f : Fmt) (mode : RMode) (satur : Bool) : Fp → Nat × Flags5
  | .nan _ => (f.qnan, 0)
  | .inf neg => (f.infinity neg, 0)
  | .fin neg m e => if m = 0 then (f.signBit neg, 0) else f.roundMag mode satur neg m e

def Fp.isNan : Fp → Bool
  | .nan _ => true
  | _ => false
def Fp.isSnan : Fp → Bool
  | .nan s => s
  | _ => false
def Fp.isZero : Fp → Bool
  | .fin _ m _ => m = 0
  | _ => false
def Fp.neg : Fp → Bool
  | .nan _ => false
  | .inf n => n
  | .fin n _ _ => n
def Fp.negate : Fp → Fp
  | .nan s => .nan s
  | .inf n => .inf !n
  | .fin n m e => .fin (!n) m e
def Fp.abs : Fp → Fp
  | .nan s => .nan s
  | .inf _ => .inf false
  | .fin _ m e => .fin false m e

/-- A signed exact sum of two finite values at their lower exponent. -/
def signedAt (neg : Bool) (m : Nat) (e z : Int) : Int :=
  let v : Int := (m * 2 ^ (e - z).toNat : Nat)
  if neg then -v else v

/-- The exact sum of two values that are no NaN (R107, R170, R172). -/
def Fp.addExact (mode : RMode) (x y : Fp) : Fp × Flags5 :=
  match x, y with
  | .inf a, .inf b => if a = b then (.inf a, 0) else (.nan false, 1)
  | .inf a, _ => (.inf a, 0)
  | _, .inf b => (.inf b, 0)
  | .fin a m e, .fin b n g =>
    if m = 0 ∧ n = 0 then (.fin (if a = b then a else mode = 3) 0 0, 0)
    else
      let z := min e g
      let t := signedAt a m e z + signedAt b n g z
      if t = 0 then (.fin (mode = 3) 0 0, 0) else (.fin (t < 0) t.natAbs z, 0)
  | _, _ => (.nan false, 0)

/-- The exact product of two values that are no NaN. -/
def Fp.mulExact (x y : Fp) : Fp × Flags5 :=
  match x, y with
  | .inf a, .inf b => (.inf (a != b), 0)
  | .inf a, .fin b n _ => if n = 0 then (.nan false, 1) else (.inf (a != b), 0)
  | .fin a m _, .inf b => if m = 0 then (.nan false, 1) else (.inf (a != b), 0)
  | .fin a m e, .fin b n g => (.fin (a != b) (m * n) (e + g), 0)
  | _, _ => (.nan false, 0)

/-- What NaN operands make of a result (R170), in front of an operation on operands that are none. -/
def withNans (xs : List Fp) (r : Fp × Flags5) : Fp × Flags5 :=
  if xs.any Fp.isSnan then (.nan false, 1)
  else if xs.any Fp.isNan then (.nan false, 0)
  else r

/-- A value rounded into a format, its flags united with those already raised. -/
def Fmt.finish (f : Fmt) (mode : RMode) (r : Fp × Flags5) : Nat × Flags5 :=
  let (x, fl) := f.deliver mode false r.1
  (x, fl ||| r.2)

def Fmt.add (f : Fmt) (mode : RMode) (a b : Nat) : Nat × Flags5 :=
  let x := f.decode a
  let y := f.decode b
  f.finish mode (withNans [x, y] (x.addExact mode y))

def Fmt.sub (f : Fmt) (mode : RMode) (a b : Nat) : Nat × Flags5 :=
  let x := f.decode a
  let y := f.decode b
  f.finish mode (withNans [x, y] (x.addExact mode y.negate))

def Fmt.mul (f : Fmt) (mode : RMode) (a b : Nat) : Nat × Flags5 :=
  let x := f.decode a
  let y := f.decode b
  f.finish mode (withNans [x, y] (x.mulExact y))

/-- a * b + d, or d - a * b, with one rounding; 0 times infinity is invalid even beside a quiet NaN (R169, R170). -/
def Fmt.fma (f : Fmt) (mode : RMode) (negProduct : Bool) (a b d : Nat) : Nat × Flags5 :=
  let x := f.decode a
  let y := f.decode b
  let z := f.decode d
  if [x, y, z].any Fp.isSnan then (f.qnan, 1)
  else if !x.isNan && !y.isNan && (x.mulExact y).2 ≠ 0 then (f.qnan, 1)
  else
    let p := (x.mulExact y).1
    f.finish mode (withNans [x, y, z] ((if negProduct then p.negate else p).addExact mode z))

/-- hfma of one half: a * b + d with one rounding. The row of 0 times infinity beside a quiet NaN names ffma and fnma only (R169,
R170). -/
def Fmt.halfFma (f : Fmt) (mode : RMode) (a b d : Nat) : Nat × Flags5 :=
  let x := f.decode a
  let y := f.decode b
  let z := f.decode d
  let p := x.mulExact y
  f.finish mode (withNans [x, y, z] (if p.2 ≠ 0 then p else p.1.addExact mode z))

/-- The quotient of magnitudes with enough bits and a sticky last bit. -/
def quotient (bitsWanted m : Nat) (e : Int) (n : Nat) (g : Int) : Nat × Int :=
  let k := bitsWanted + Nat.log2 n
  let q := m * 2 ^ k / n
  (2 * q + (if m * 2 ^ k % n = 0 then 0 else 1), e - g - k - 1)

def Fmt.div (f : Fmt) (mode : RMode) (a b : Nat) : Nat × Flags5 :=
  let x := f.decode a
  let y := f.decode b
  f.finish mode (withNans [x, y] (match x, y with
    | .inf _, .inf _ => (.nan false, 1)
    | .inf s, .fin t _ _ => (.inf (s != t), 0)
    | .fin s _ _, .inf t => (.fin (s != t) 0 0, 0)
    | .fin s m e, .fin t n g =>
      if n = 0 then (if m = 0 then (.nan false, 1) else (.inf (s != t), 2))
      else if m = 0 then (.fin (s != t) 0 0, 0)
      else
        let (q, h) := quotient (f.fw + 4) m e n g
        (.fin (s != t) q h, 0)
    | _, _ => (.nan false, 0)))

/-- The integer square root of n below 2^(2k), bit by bit. -/
def isqrt (n : Nat) : Nat → Nat → Nat
  | 0, r => r
  | k + 1, r => isqrt n k (if (r + 2 ^ k) * (r + 2 ^ k) ≤ n then r + 2 ^ k else r)

/-- The square root of a magnitude with enough bits and a sticky last bit. -/
def rootOf (bitsWanted m : Nat) (e : Int) : Nat × Int :=
  let sh := 2 * bitsWanted + (if (e - 2 * bitsWanted) % 2 = 0 then 0 else 1)
  let n := m * 2 ^ sh
  let r := isqrt n (Nat.log2 n / 2 + 1) 0
  (2 * r + (if r * r = n then 0 else 1), (e - sh) / 2 - 1)

def Fmt.sqrt (f : Fmt) (mode : RMode) (a : Nat) : Nat × Flags5 :=
  let x := f.decode a
  f.finish mode (withNans [x] (match x with
    | .inf s => if s then (.nan false, 1) else (.inf false, 0)
    | .fin s m e =>
      if m = 0 then (.fin s 0 0, 0)
      else if s then (.nan false, 1)
      else
        let (r, h) := rootOf (f.fw + 4) m e
        (.fin false r h, 0)
    | .nan _ => (.nan false, 0)))

/-- The order of two values that are no NaN. -/
def Fp.lt (x y : Fp) : Bool :=
  match x, y with
  | .inf a, .inf b => a && !b
  | .inf a, _ => a
  | _, .inf b => !b
  | .fin a m e, .fin b n g => signedAt a m e (min e g) < signedAt b n g (min e g)
  | _, _ => false

def Fp.eq (x y : Fp) : Bool :=
  match x, y with
  | .nan _, _ => false
  | _, .nan _ => false
  | _, _ => !x.lt y && !y.lt x

/-- Minimum and maximum (R174): one NaN gives the other operand, -0 is below +0. -/
def Fmt.minmax (f : Fmt) (wantMax : Bool) (a b : Nat) : Nat × Flags5 :=
  let x := f.decode a
  let y := f.decode b
  let fl := if x.isSnan || y.isSnan then 1 else 0
  if x.isNan && y.isNan then (f.qnan, fl)
  else if x.isNan then (b, fl)
  else if y.isNan then (a, fl)
  else
    let aLess := x.lt y || (!y.lt x && x.neg && !y.neg)
    (if aLess != wantMax then a else b, fl)

/-- The compares (R175). -/
def Fmt.seteq (f : Fmt) (a b : Nat) : Bool × Flags5 :=
  let x := f.decode a
  let y := f.decode b
  (x.eq y, if x.isSnan || y.isSnan then 1 else 0)
def Fmt.setlt (f : Fmt) (orEqual : Bool) (a b : Nat) : Bool × Flags5 :=
  let x := f.decode a
  let y := f.decode b
  (!x.isNan && !y.isNan && (x.lt y || (orEqual && x.eq y)), if x.isNan || y.isNan then 1 else 0)
def Fmt.setun (f : Fmt) (a b : Nat) : Bool × Flags5 :=
  let x := f.decode a
  let y := f.decode b
  (x.isNan || y.isNan, if x.isSnan || y.isSnan then 1 else 0)

/-- The class code of a value (R176). -/
def Fmt.classify (f : Fmt) (a : Nat) : Nat :=
  match f.decode a with
  | .nan s => if s then 0x100 else 0x200
  | .inf n => if n then 0x001 else 0x080
  | .fin n m _ =>
    if m = 0 then (if n then 0x008 else 0x010)
    else if m < 2 ^ f.fw then (if n then 0x004 else 0x020)
    else (if n then 0x002 else 0x040)

/-- An immediate pattern widened from FP32 to FP64, payload kept (R115). -/
def widen32 (x : Nat) : Nat :=
  let sign := x / 2 ^ 31 % 2 * 2 ^ 63
  match Fmt.f32.decode x with
  | .fin n m e => if m = 0 then sign else (Fmt.f64.roundMag 0 false n m e).1
  | .inf _ => sign + 0x7FF * 2 ^ 52
  | .nan _ => sign + 0x7FF * 2 ^ 52 + x % 2 ^ 23 * 2 ^ 29

/-! ### Conversions (R183 to R187) -/

/-- Between formats; a finite value that overflows under sat gives the largest finite one (R183). -/
def convert (src dst : Fmt) (mode : RMode) (satur : Bool) (a : Nat) : Nat × Flags5 :=
  match src.decode a with
  | .nan s => (dst.qnan, if s then 1 else 0)
  | .inf n =>
    if dst.e4m3 then (if satur then dst.largest n else dst.infinity n, 1) else (dst.infinity n, 0)
  | x => dst.deliver mode satur x

/-- To an integer of a range (R184). -/
def toInteger (src : Fmt) (mode : RMode) (lo hi : Int) (a : Nat) : Int × Flags5 :=
  match src.decode a with
  | .nan _ => (0, 1)
  | .inf n => (if n then lo else hi, 1)
  | .fin n m e =>
    let (r, inexact) := roundShift mode n m e
    let v : Int := if n then -(r : Int) else r
    if v < lo then (lo, 1) else if hi < v then (hi, 1) else (v, if inexact then 16 else 0)

/-- From an integer (R185). -/
def fromInteger (dst : Fmt) (mode : RMode) (v : Int) : Nat × Flags5 :=
  if v = 0 then (0, 0) else dst.roundMag mode false (v < 0) v.natAbs 0

/-- To an integral value of the same format (R186). -/
def roundIntegral (f : Fmt) (mode : RMode) (a : Nat) : Nat × Flags5 :=
  match f.decode a with
  | .nan s => (f.qnan, if s then 1 else 0)
  | .inf _ => (a, 0)
  | .fin n m e =>
    if m = 0 then (a, 0)
    else
      let (r, inexact) := roundShift mode n m e
      (if r = 0 then f.signBit n else (f.roundMag 0 false n r 0).1, if inexact then 16 else 0)

/-- A BX element exactly (R101): the element bits, the two exponents, whether it is BX4. -/
def bxDecode (bx4 : Bool) (x e0 e1 : Nat) : Fp :=
  let sel := x.testBit (if bx4 then 3 else 7)
  let neg := x.testBit (if bx4 then 2 else 6)
  let m := if bx4 then x % 4 else x % 64
  let e := if sel then e1 else e0
  if e = 0xFF then .nan false else .fin neg m ((e : Int) - 127 - (if bx4 then 1 else 5))

/-- The least exponent from 0 to 254 at which a magnitude fits M (R103). -/
def bxExponent (mode : RMode) (big : Nat) (g : Int) (m : Nat) (e : Int) : Nat → Nat → Nat
  | 0, x => x
  | fuel + 1, x =>
    if x = 254 then 254
    else if (roundShift mode false m (e - ((x : Int) - 127 - g))).1 ≤ big then x
    else bxExponent mode big g m e fuel (x + 1)

/-- One block quantised (R103): the two exponents, and for each element its bits and flags (R104). An infinite source raises invalid
alone: whether its element, a NaN, also counts as inexact is not stated (DESIGN CHOICE, log entry 101). -/
def bxQuantise (bx4 : Bool) (mode : RMode) (xs : List Fp) : Nat × Nat × List (Nat × Flags5) :=
  let big := if bx4 then 3 else 63
  let g : Int := if bx4 then 1 else 5
  let d := if bx4 then 2 else 6
  let isBad := fun (x : Fp) => match x with
    | .fin _ _ _ => false
    | _ => true
  let large := xs.foldl (fun (a : Nat × Int) x => match x with
    | .fin _ m e => if scaledLt a.1 a.2 m e then (m, e) else a
    | _ => a) (0, 0)
  let e1 := if large.1 = 0 then 0 else bxExponent mode big g large.1 large.2 255 0
  let e0 := if xs.any isBad then 255 else e1 - d
  let selBit := if bx4 then 8 else 128
  let signOf := fun (n : Bool) => if n then (if bx4 then 4 else 64) else 0
  let one := fun (x : Fp) => match x with
    | .nan s => (0, if s then 1 else 0)
    | .inf _ => (0, 1)
    | .fin n m e =>
      let q0 := roundShift mode false m (e - ((e0 : Int) - 127 - g))
      let q1 := roundShift mode false m (e - ((e1 : Int) - 127 - g))
      if e0 < 255 ∧ q0.1 ≤ big then (signOf n + q0.1, if q0.2 then 16 else 0)
      else if q1.1 ≤ big then (selBit + signOf n + q1.1, if q1.2 then 16 else 0)
      else (selBit + signOf n + big, 4 + 16)
  (e0, e1, xs.map one)

end Sys2Proof.Machine
end

