-- ==== Sys2Proof/Machine/Special.lean ====
section
/-!
DEFINITION. Machine/Special.lean: the special functions (R178 to R180). A candidate for the value is accepted when it lies
within the bound of R179; otherwise an approximation within the bound stands (log entry 3). The bound is tested exactly for
reciprocals and reciprocal roots, and for the others at both ends of an interval, some two hundred bits narrow, that holds the
function's value.
-/

namespace Sys2Proof.Machine

open Sys2Proof

/-- 2 pi * 2^320 and ln 2 * 2^256, rounded down. -/
def twoPi320 : Nat := 0x6487ed5110b4611a62633145c06e0e68948127044533e63a0105df531d89cd9128a5043cc71a026ef
def ln2At256 : Nat := 0xb17217f7d1cf79abc9e3b39803f2f6af40f343267298b62d8a0d175b8baafa2b

/-- Whether |x * 2^p - y * 2^q| < b * 2^r, or equals it where the bound is closed. -/
def within (closed : Bool) (x : Int) (p : Int) (y : Int) (q : Int) (b : Nat) (r : Int) : Bool :=
  let z := min p (min q r)
  let d := (x * 2 ^ (p - z).toNat - y * 2 ^ (q - z).toNat).natAbs
  let l := b * 2 ^ (r - z).toNat
  if closed then d ≤ l else d < l

def signedOf (neg : Bool) (m : Nat) : Int := if neg then -(m : Int) else m

/-- frcp (R179, R180). -/
def Fmt.rcp (f : Fmt) (cand a : Nat) : Nat × Flags5 :=
  match f.decode a with
  | .nan s => (f.qnan, if s then 1 else 0)
  | .inf n => (f.signBit n, 0)
  | .fin n m e =>
    if m = 0 then (f.infinity n, 2)
    else
      let l := Nat.log2 m
      let exact : Bool := m = 2 ^ l
      let h : Int := if exact then -(l : Int) - e else -(l : Int) - e - 1
      -- 1 / (m * 2^e) is above the largest finite value
      if scaledLt (f.maxSig * m) (f.maxExp + e) 1 0 then (f.infinity n, 4 + 16)
      else if exact then f.roundMag 0 false n 1 h
      else
        let u := max h f.emin - f.fw
        let fl := 16 + (if h < f.emin then 8 else 0)
        let c := cand % 2 ^ f.width
        match f.decode c with
        | .fin t k g =>
          if within false (signedOf (t != n) (k * m)) (g + e) 1 0 m (e + u) then (c, fl)
          else ((f.div 0 (f.signBit n + (2 ^ (f.ew - 1) - 1) * 2 ^ f.fw) (a % 2 ^ (f.width - 1))).1, fl)
        | _ => ((f.div 0 (f.signBit n + (2 ^ (f.ew - 1) - 1) * 2 ^ f.fw) (a % 2 ^ (f.width - 1))).1, fl)

/-- frsq (R179, R180). -/
def Fmt.rsq (f : Fmt) (cand a : Nat) : Nat × Flags5 :=
  match f.decode a with
  | .nan s => (f.qnan, if s then 1 else 0)
  | .inf n => if n then (f.qnan, 1) else (0, 0)
  | .fin n m e =>
    if m = 0 then (f.infinity n, 2)
    else if n then (f.qnan, 1)
    else
      let l : Int := (Nat.log2 m : Int) + e
      if m = 2 ^ Nat.log2 m ∧ l % 2 = 0 then f.roundMag 0 false false 1 (-(l / 2))
      else
        let u := max (-(l / 2) - 1) f.emin - f.fw
        let c := cand % 2 ^ f.width
        let ok := match f.decode c with
          | .fin t k g =>
            let z := min g u
            let y := signedAt t k g z
            let w : Int := 2 ^ (u - z).toNat
            -- (y + w)^2 a > 1 and (y - w)^2 a < 1 in units of 2^z
            0 < y + w && scaledLt 1 0 ((y + w).natAbs ^ 2 * m) (2 * z + e) &&
              (y - w ≤ 0 || scaledLt ((y - w).natAbs ^ 2 * m) (2 * z + e) 1 0)
          | _ => false
        if ok then (c, 16)
        else
          let k := e.natAbs + Nat.log2 m + f.fw + 8
          let q := 2 ^ (2 * (k : Int) - e).toNat / m
          ((f.roundMag 0 false false (isqrt q (Nat.log2 q / 2 + 1) 0) (-(k : Int))).1, 16)

/-- The sum of x^k / k! from a term on, at 256 fractional bits. -/
def taylor (x : Int) : Nat → Nat → Int → Int
  | 0, _, _ => 0
  | fuel + 1, k, t => t + taylor x fuel (k + 1) (t * x / (2 ^ 256 * (k : Int)))

/-- sin and cos of x at 256 fractional bits: terms x^k/k! with alternating signs, every second one. -/
def circular (x : Int) : Nat → Nat → Int → Int
  | 0, _, _ => 0
  | fuel + 1, k, t => t + circular x fuel (k + 2) (-(t * x / 2 ^ 256 * x / (2 ^ 256 * ((k : Int) * (k + 1)))))

/-- The inverse hyperbolic tangent of x at 256 fractional bits. -/
def atanhAt (x2 : Int) : Nat → Nat → Int → Int
  | 0, _, _ => 0
  | fuel + 1, k, p => p / (k : Int) + atanhAt x2 fuel (k + 2) (p * x2 / 2 ^ 256)

/-- A candidate accepted within the bound 2^r of every value from lo * 2^q to hi * 2^q, an interval that holds the function's value, or
the middle of the interval rounded. -/
def acceptNear (cand : Nat) (lo hi q : Int) (r : Int) (unit : Bool) : Nat :=
  let f := Fmt.f32
  let c := cand % 2 ^ 32
  let mid := (lo + hi) / 2
  let fallback := if mid = 0 then 0 else (f.roundMag 0 false (mid < 0) mid.natAbs q).1
  match f.decode c with
  | .fin t k g =>
    let y := signedOf t k
    if within true y g lo q 1 r && within true y g hi q 1 r && (!unit || !scaledLt 1 0 k g) then c else fallback
  | _ => fallback

/-- Around a fixed-point value, the interval that its error leaves: 2^66 units of its last place. -/
def around (cand : Nat) (z q : Int) (r : Int) (unit : Bool) : Nat := acceptNear cand (z - 2 ^ 66) (z + 2 ^ 66) q r unit

/-- fexp2.f32 (R178 to R180). -/
def exp2 (cand a : Nat) : Nat × Flags5 :=
  let f := Fmt.f32
  match f.decode a with
  | .nan s => (f.qnan, if s then 1 else 0)
  | .inf n => (if n then 0 else f.infinity false, 0)
  | .fin n m e =>
    if m = 0 then (0x3F800000, 0)
    else
      let x := signedOf n m
      let isInt : Bool := 0 ≤ e || m % 2 ^ (-e).toNat = 0
      let fl : Int := if 0 ≤ e then x * 2 ^ (min e 200).toNat else x / 2 ^ (-e).toNat
      if isInt ∧ -149 ≤ fl ∧ fl ≤ 127 then f.roundMag 0 false false 1 fl
      else if 128 ≤ fl then (f.infinity false, 4 + 16)
      else
        let flags := 16 + (if fl < -126 then 8 else 0)
        if fl < -400 then (acceptNear cand 0 1 (-399) (-148) false, flags)
        else
          let frac : Int := if 0 ≤ e then 0 else (x - fl * 2 ^ (-e).toNat) * 2 ^ 256 / 2 ^ (-e).toNat
          let y := taylor (frac * ln2At256 / 2 ^ 256) 60 1 (2 ^ 256)
          (around cand y (fl - 256) (max fl (-126) - 22) false, flags)

/-- flog2.f32 (R178 to R180). -/
def log2f (cand a : Nat) : Nat × Flags5 :=
  let f := Fmt.f32
  match f.decode a with
  | .nan s => (f.qnan, if s then 1 else 0)
  | .inf n => if n then (f.qnan, 1) else (f.infinity false, 0)
  | .fin n m e =>
    if m = 0 then (f.infinity true, 2)
    else if n then (f.qnan, 1)
    else
      let l := Nat.log2 m
      let j : Int := (l : Int) + e
      if m = 2 ^ l then fromInteger f 0 j
      else
        let x : Int := ((m : Int) * 2 ^ 256) / 2 ^ l
        let t := (x - 2 ^ 256) * 2 ^ 256 / (x + 2 ^ 256)
        let ln := 2 * atanhAt (t * t / 2 ^ 256) 90 1 t
        let z := j * 2 ^ 256 + ln * 2 ^ 256 / ln2At256
        let inside := -1 ≤ j ∧ j ≤ 0
        let top : Int := (Nat.log2 z.natAbs : Int) - 256
        (around cand z (-256) (if inside then -22 else top - 22) false, 16)

/-- fsin.f32 and fcos.f32 (R178 to R180): any value within 2^-22 and within -1 to 1. -/
def sinCos (cosine : Bool) (cand a : Nat) : Nat × Flags5 :=
  let f := Fmt.f32
  match f.decode a with
  | .nan s => (f.qnan, if s then 1 else 0)
  | .inf _ => (f.qnan, 1)
  | .fin n m e =>
    if m = 0 then (if cosine then 0x3F800000 else f.signBit n, 0)
    else
      let x : Int := (m * 2 ^ (e + 320).toNat % twoPi320 / 2 ^ 64 : Nat)
      let z := if cosine then circular x 60 1 (2 ^ 256) else signedOf n 1 * circular x 60 2 x
      let tiny := !cosine && !scaledLt 1 f.emin m e
      (around cand z (-256) (-22) true, 16 + (if tiny then 8 else 0))

end Sys2Proof.Machine
end

