-- ==== Sys2Proof/Machine/Flags.lean ====
section
/-!
DEFINITION. Machine/Flags.lean: the integer and bit operations of R142 to R151, which set no flag (R139), and the
exception flags of the floating-point operations: which of the five bits an operation raises, the lowest cause among
enabled ones, and the set a trap reports (R108 to R111).
-/

namespace Sys2Proof.Machine

open Sys2Proof

/-! ### Integer arithmetic (R142) -/

def mulhiSigned (a b : Word) : Word := BitVec.ofInt 32 (a.toInt * b.toInt / 2 ^ 32)
def mulhiUnsigned (a b : Word) : Word := BitVec.ofNat 32 (a.toNat * b.toNat / 2 ^ 32)
def mulwSigned (a b : Word) : Dword := BitVec.ofInt 64 (a.toInt * b.toInt)
def mulwUnsigned (a b : Word) : Dword := BitVec.ofNat 64 (a.toNat * b.toNat)
def minSigned (a b : Word) : Word := if a.toInt ≤ b.toInt then a else b
def maxSigned (a b : Word) : Word := if a.toInt ≤ b.toInt then b else a
def minUnsigned (a b : Word) : Word := if a.toNat ≤ b.toNat then a else b
def maxUnsigned (a b : Word) : Word := if a.toNat ≤ b.toNat then b else a

/-! ### Shifts and bit fields (R145 to R149) -/

/-- No count is reduced modulo 32. -/
def shlBy (a : Word) (c : Nat) : Word := if c < 32 then a <<< c else 0
def shrUnsigned (a : Word) (c : Nat) : Word := if c < 32 then a >>> c else 0
def shrSigned (a : Word) (c : Nat) : Word := a.sshiftRight (min c 31)

/-- bfe: position q[7:0], length q[15:8] (R147). -/
def bfe (signed : Bool) (a q : Word) : Word :=
  let pos := q.toNat % 256
  let l := min (q.toNat / 256 % 256) 32
  let x : Int := if signed then a.toInt else a.toNat
  let f : Nat := (x / 2 ^ pos % 2 ^ l).toNat
  if l = 0 then 0 else if signed then BitVec.ofInt 32 (sext f l) else BitVec.ofNat 32 f

/-- bfi: a field that runs past bit 31 is cut off there (R148). -/
def bfi (d a q : Word) : Word :=
  let pos := q.toNat % 256
  let l := min (q.toNat / 256 % 256) 32
  if l = 0 ∨ 32 ≤ pos then d
  else
    let m : Word := BitVec.ofNat 32 ((2 ^ l - 1) * 2 ^ pos)
    (d &&& ~~~m) ||| (a <<< pos &&& m)

def popc (a : Word) : Word := BitVec.ofNat 32 (lanesOf a).length
def clz (a : Word) : Word := BitVec.ofNat 32 (if a = 0 then 32 else 31 - Nat.log2 a.toNat)
def brev (a : Word) : Word := maskOf ((lanesOf a).map (fun i => 31 - i))

/-- movh: the immediate over the low half (R143). -/
def movhWord (d : Word) (m : BitVec 16) : Word := m ++ d.extractLsb' 0 16

/-! ### Floating-point results of one lane: the bits and the exceptions raised -/

abbrev FpResult := Nat × Flags5

def cmpResult (r : Bool × Flags5) : FpResult := (if r.1 then 1 else 0, r.2)

/-- Two 16-bit elements computed independently, their exceptions united (R173). -/
def packed2 (op : Nat → Nat → Nat → FpResult) (a b d : Word) : FpResult :=
  let lo := op (a.toNat % 65536) (b.toNat % 65536) (d.toNat % 65536)
  let hi := op (a.toNat / 65536) (b.toNat / 65536) (d.toNat / 65536)
  (lo.1 + 65536 * hi.1, lo.2 ||| hi.2)

/-- The lowest cause of R108 among a set of exceptions. -/
def lowestFpCause (fl : Flags5) : Nat :=
  if fl.testBit 0 then 0x10 else if fl.testBit 1 then 0x11 else if fl.testBit 2 then 0x12
  else if fl.testBit 3 then 0x13 else 0x14

/-- The conversion of one lane: source registers (one to four words) to destination words and exceptions (R182). -/
def cvtLane (conv : Nat) (mode : RMode) (a : List Word) : List Word × Flags5 :=
  let w := fun i => (a.getD i 0).toNat
  let p := w 0 + 2 ^ 32 * w 1
  let one := fun (r : FpResult) => ([BitVec.ofNat 32 r.1], r.2)
  let two := fun (r : FpResult) => ([BitVec.ofNat 32 r.1, BitVec.ofNat 32 (r.1 / 2 ^ 32)], r.2)
  let int := fun (r : Int × Flags5) => ([BitVec.ofInt 32 r.1], r.2)
  let int2 := fun (r : Int × Flags5) => ([BitVec.ofInt 32 r.1, BitVec.ofInt 32 (r.1 / 2 ^ 32)], r.2)
  let narrow := fun (f : Fmt) (satur : Bool) (n : Nat) =>
    let rs := (List.range n).map (fun i => convert .f32 f mode satur (w i))
    ([BitVec.ofNat 32 ((List.range n).foldl (fun x i => x + (rs.getD i (0, 0)).1 * 2 ^ (f.width * i)) 0)],
      rs.foldl (fun x r => x ||| r.2) 0)
  let wide := fun (f : Fmt) (n : Nat) =>
    let rs := (List.range n).map (fun i => convert f .f32 mode false (w 0 / 2 ^ (f.width * i) % 2 ^ f.width))
    (rs.map (fun r => BitVec.ofNat 32 r.1), rs.foldl (fun x r => x ||| r.2) 0)
  let bx := fun (bx4 : Bool) =>
    one (Fmt.f32.deliver 0 false (bxDecode bx4 (w 0 % 256) (w 0 / 2 ^ 16 % 256) (w 0 / 2 ^ 24)))
  match conv with
  | 0 => two (convert .f32 .f64 mode false (w 0))
  | 1 => one (convert .f64 .f32 mode false p)
  | 2 => narrow .f16 false 2
  | 3 => narrow .bf16 false 2
  | 4 => wide .f16 2
  | 5 => wide .bf16 2
  | 6 => narrow .fe4m3 false 4
  | 7 => narrow .fe4m3 true 4
  | 8 => narrow .fe5m2 false 4
  | 9 => narrow .fe5m2 true 4
  | 10 => wide .fe4m3 4
  | 11 => wide .fe5m2 4
  | 12 => int (toInteger .f32 mode (-(2 ^ 31)) (2 ^ 31 - 1) (w 0))
  | 13 => int (toInteger .f32 mode 0 (2 ^ 32 - 1) (w 0))
  | 14 => one (fromInteger .f32 mode (BitVec.toInt (a.getD 0 0)))
  | 15 => one (fromInteger .f32 mode (w 0))
  | 16 => int (toInteger .f64 mode (-(2 ^ 31)) (2 ^ 31 - 1) p)
  | 17 => int (toInteger .f64 mode 0 (2 ^ 32 - 1) p)
  | 18 => two (fromInteger .f64 mode (BitVec.toInt (a.getD 0 0)))
  | 19 => two (fromInteger .f64 mode (w 0))
  | 20 => int2 (toInteger .f64 mode (-(2 ^ 63)) (2 ^ 63 - 1) p)
  | 21 => int2 (toInteger .f64 mode 0 (2 ^ 64 - 1) p)
  | 22 => two (fromInteger .f64 mode (sext p 64))
  | 23 => two (fromInteger .f64 mode p)
  | 24 => one (roundIntegral .f32 mode (w 0))
  | 25 => two (roundIntegral .f64 mode p)
  | 26 => bx false
  | _ => bx true

end Sys2Proof.Machine
end

