-- ==== Sys2Proof/Machine/Ops.lean ====
section
/-!
DEFINITION. Machine/Ops.lean: the named operations that every meaning is built from: who issues and in which lanes (R70,
R71, R75), the checks before an instruction (R217), advancing and parking (R69, R405), ends of lanes, gangs and teams (R34,
R47, R56, R219), taking an exception (R209 to R213, R205, R206) and returning from one (R214).
-/

/-! ### Kinds of instruction -/

namespace Sys2Proof

/-- Whether the predicate is evaluated in each lane: a V instruction, or one that R406 says so of. -/
def Instr.perLane (i : Instr) : Bool :=
  !i.uniform || (match i with
    | .bra _ _ => true
    | .brx _ _ _ => true
    | .exit => true
    | .trap _ => true
    | .brk _ => true
    | _ => false)

/-- Whether the instruction is the closing u.hjoin, whose destination is a v register of the recruiter (R202). -/
def Instr.isHjoin : Instr → Bool
  | .uHjoin _ _ _ => true
  | _ => false

/-- Whether the predicate must be PRED 48 with NEG 0 (R197, R202, R214, R361, R406). -/
def Instr.always : Instr → Bool
  | .join => true
  | .joinw _ _ => true
  | .uHloop _ _ _ => true
  | .uHjoin _ _ _ => true
  | .tretRetry => true
  | .tretSkip => true
  | .tretEnd => true
  | .mma _ _ _ => true
  | .mgath _ _ => true
  | .mdrain _ _ _ _ => true
  | .mzero _ _ _ => true
  | _ => false

/-- Posting instructions (R361) and tile instructions (R324). -/
def Instr.posts : Instr → Bool
  | .mma _ _ _ => true
  | .mgath _ _ => true
  | .mdrain _ _ _ _ => true
  | .mzero _ _ _ => true
  | _ => false

def Instr.tiles : Instr → Bool
  | .tld _ _ _ => true
  | .tst _ _ _ _ => true
  | .cksum _ _ => true
  | .ckchk _ => true
  | .ckinj _ _ _ => true
  | _ => false

def Instr.copies : Instr → Bool
  | .copy _ _ _ => true
  | .copyTile _ _ _ => true
  | .copyGath _ _ _ => true
  | .copyScat _ _ _ => true
  | .copyRed _ _ _ => true
  | .copyConv _ _ _ => true
  | _ => false

def Instr.barriers : Instr → Bool
  | .barInit _ _ _ => true
  | .barArrive _ _ _ => true
  | .barWait _ _ _ => true
  | .barSync _ _ _ => true
  | _ => false

/-- Instructions that make an interval boundary (R255, R305, R341, R342). -/
def Instr.bounds : Instr → Bool
  | .ld _ _ x => x.syncs
  | .st _ _ x => x.syncs
  | .atom _ _ _ x => x.syncs
  | .cas _ _ _ x => x.syncs
  | .cas2 _ _ _ x => x.syncs
  | .uLd _ _ x => x.syncs
  | .uSt _ _ x => x.syncs
  | .uAtom _ _ _ x => x.syncs
  | .uCas _ _ _ x => x.syncs
  | .barArrive _ _ _ => true
  | .barWait _ _ _ => true
  | .barSync _ _ _ => true
  | .fence scope => scope ≠ 0
  | .uIsplit => true
  | .uWaitring _ _ _ => true
  | .launch _ _ _ => true
  | .amsend _ _ _ => true
  | _ => false

/-- exit and tret, where every held fault is taken. -/
def Instr.leaves : Instr → Bool
  | .exit => true
  | .tretRetry => true
  | .tretSkip => true
  | .tretEnd => true
  | _ => false

def Instr.waitsOn : Instr → Option Nat
  | .waitc n _ => some n.toNat
  | _ => none

def Instr.isWaitring : Instr → Bool
  | .uWaitring _ _ _ => true
  | _ => false

/-- Instructions that run even where no lane performs them: lda counts (R287), and a branch writes a trace packet (R476). -/
def Instr.runsEmpty : Instr → Bool
  | .lda _ _ _ _ => true
  | .bra _ _ => true
  | .brx _ _ _ => true
  | .exit => true
  | _ => false

/-- The registers, read in the lowest active lane, on which a condition of cause 0x01 rests (R70, R309, R328, R356, R415, R427, R441,
R442): read whatever the predicate is. -/
def Instr.conditionRegs : Instr → List Nat
  | .tst _ _ g _ => [g.toNat]
  | .cksum _ (.reg g) => [g.toNat]
  | .ckinj _ p _ => [p.toNat]
  | .setshape _ a => [a.toNat]
  | .tlbinvPage _ b => [b.toNat]
  | .tlbinvAsid b => [b.toNat]
  | .cntrd d n => if counterSystem n.toNat then [d.toNat] else []
  | .cntset d n => if counterSystem n.toNat then [d.toNat + 1] else []
  | .emset a => [a.toNat]
  | _ => []

/-- swrite of a register of class RH: between trap entry and tret only (R126, R158). -/
def Instr.handlerOnly : Instr → Bool
  | .swrite _ n => n = 0x11
  | _ => false

/-- TINFO of cause 0x01 for an ill-formed instruction: the d field of a cntrd whose counter R438 does not list (R441). -/
def Instr.illegalInfo : Instr → Nat
  | .cntrd d n => if counterListed n.toNat then 0 else d.toNat
  | _ => 0

/-- The three forms of tret (R214). -/
def Instr.returns : Instr → Bool
  | .tretRetry => true
  | .tretSkip => true
  | .tretEnd => true
  | _ => false

/-- System instructions of R425 and R214, swrite of a register of class RS (R126), and counters open to the system level only
(R438). -/
def Instr.system : Instr → Bool
  | .tlbinvPage _ _ => true
  | .tlbinvAsid _ => true
  | .tlbinvAll => true
  | .asidset _ _ _ => true
  | .mgate _ _ => true
  | .tretEnd => true
  | .swrite _ n => n = 0x16
  | .cntrd _ n => counterSystem n.toNat
  | .cntset _ n => counterSetSystem n.toNat
  | _ => false

/-- pf and evict, of which only decode faults are raised (R297, R298). -/
def Instr.silent : Instr → Bool
  | .pf _ _ => true
  | .evict _ _ => true
  | _ => false

/-- The source lane of a shuffle for a width, a lane and a delta, or none where it is out of range (R159). -/
abbrev SourceLane := Nat → Nat → Nat → Option Nat

def sourceAt : SourceLane := fun w _ delta => some (delta % w)
def sourceBelow : SourceLane := fun _ l delta => if delta ≤ l then some (l - delta) else none
def sourceAbove : SourceLane := fun w l delta => if l + delta < w then some (l + delta) else none
def sourceMirror : SourceLane := fun w l delta => some (l ^^^ (delta % w))

/-- The operands of a shuffle. -/
def Instr.shuffle : Instr → Option (Reg × Src × SourceLane)
  | .xchAt _ a b => some (a, b, sourceAt)
  | .xchBelow _ a b => some (a, b, sourceBelow)
  | .xchAbove _ a b => some (a, b, sourceAbove)
  | .xchMirror _ a b => some (a, b, sourceMirror)
  | _ => none

/-- The operands read in the lane itself; a shuffle reads its a wherever its source lane is (R160). -/
def Instr.readUses (i : Instr) : List RegUse :=
  match i.shuffle with
  | some (_, b, _) => srcUse b 1
  | none => i.regs.filter (fun u => u.reads)

end Sys2Proof

namespace Sys2Proof.Machine

open Sys2Proof

/-! ### Who issues -/

/-- The context of one issued instruction: its gang, split or helper, lanes and place in the code. -/
structure Cx where
  bid : Nat
  gid : Nat
  core : Nat
  asid : Nat
  g : Gang
  b : Block
  /-- The place of the split; for a helper, the place of nothing. -/
  place : Nat
  /-- The recruiting lane, while a loop body runs, and the participant index (R198). -/
  body : Option Nat
  index : Nat
  /-- The physical lane of a helper. -/
  hlane : Nat
  pc : Dword
  kind : Nat
  ctl : Nat
  active : Mask
  perform : Mask
  cyc : Nat
  lat : Option Nat
  deriving DecidableEq, Repr

/-- Whether the split of a mask runs the loop body of its one lane (R197, R201). -/
def Gang.bodyOf (g : Gang) (m : Mask) : Option Nat :=
  match lanesOf m with
  | [l] => (match (Tab.look g.recruits l).bind Recruit.loop with
      | some x => if x.depth = g.layers.length then some l else none
      | none => none)
  | _ => none

/-- The key of register code n, of a physical lane (R75, R124, R199). -/
def Gang.codeKey (g : Gang) (body : Option Nat) (index : Nat) (phys n : Nat) : Nat :=
  if g.inHandler then (if 248 ≤ n then kKey phys (n - 248) else vKey phys n)
  else match body with
    | some l => if 240 ≤ n then hKey l index (g.copy phys) (n - 240) else vKey phys n
    | none => vKey phys n

def Cx.key (cx : Cx) (phys n : Nat) : Nat := cx.g.codeKey cx.body cx.index phys n

/-- A register of a physical lane, as the instruction reads it. -/
def Cx.rd (cx : Cx) (s : State) (phys : Nat) (n : Nat) : Word := cx.g.read s cx.cyc (cx.key phys n)
/-- A pair of it. -/
def Cx.rd2 (cx : Cx) (s : State) (phys n : Nat) : Nat := (cx.rd s phys n).toNat + 2 ^ 32 * (cx.rd s phys (n + 1)).toNat
/-- Several registers of it, as one number. -/
def Cx.rdn (cx : Cx) (s : State) (phys n w : Nat) : Nat := wordsToNat ((List.range w).map (fun i => cx.rd s phys (n + i)))

/-- The value of a predicate in a physical lane (R65, R70). -/
def Gang.predicate (g : Gang) (s : State) (cyc ctl phys : Nat) : Bool :=
  let p := ctlPred ctl
  let v := if p < 48 then g.read s cyc (vKey phys p) ≠ 0 else p = 48
  v != ctlNeg ctl

/-- The lowest lane of a mask. -/
def lowLane (m : Mask) : Nat := (lanesOf m).headD 0

/-- The lanes that perform an instruction (R70, R71). -/
def Gang.performing (g : Gang) (s : State) (i : Instr) (cyc ctl : Nat) (active : Mask) : Mask :=
  if i.perLane then maskOf ((lanesOf active).filter (fun l => g.predicate s cyc ctl (g.prime l)))
  else if active ≠ 0 && g.predicate s cyc ctl (g.prime (lowLane active)) then active else 0

/-- The context of the split or helper that issues. -/
def cxOf (i : Instr) (s : State) : Option Cx :=
  match s.issue with
  | none => none
  | some u =>
    match s.gang? (gangId u.bid u.gang), s.block? u.bid with
    | some g, some b =>
      let cyc := s.cycle b.core
      let mk := fun (place : Nat) (body : Option Nat) (index hlane : Nat) (pc : Dword) (p : Packet) (active : Mask) =>
        let ctl := p.ctl (pcSlot pc)
        (⟨u.bid, gangId u.bid u.gang, b.core, b.asid, g, b, place, body, index, hlane, pc, p.kind, ctl, active,
          g.performing s i cyc ctl active, cyc, i.latency⟩ : Cx)
      match u.who with
      | .split place =>
        match Tab.look g.tree.splits place with
        | some x => x.packet.map (fun p => mk place (g.bodyOf x.mask) 0 0 x.pc p x.mask)
        | none => none
      | .helper lane index =>
        match (Tab.look g.recruits lane).bind (fun r => r.helpers.find? (fun h => h.index = index)) with
        | some h => h.packet.map (fun p => mk 200 (some lane) index h.lane h.pc p (maskOf [lane]))
        | none => none
    | _, _ => none

/-- The next PC in issue order (R69). -/
def Cx.next (cx : Cx) : Dword := nextPc cx.kind cx.pc
/-- The lowest active lane, as a visible and as a physical lane. -/
def Cx.low (cx : Cx) : Nat := lowLane cx.active
def Cx.lowPhys (cx : Cx) : Nat := cx.g.prime cx.low
/-- The physical lanes that perform, ascending. -/
def Cx.lanes (cx : Cx) : List Nat := cx.g.expand cx.perform

/-- Who the gang's memory accesses are made for. -/
def Cx.viewer (cx : Cx) : Viewer := ⟨cx.asid, cx.core, cx.bid, cx.g.system⟩

/-- The stamp fields of an access by a physical lane; a helper's accesses carry its own lane (R204). -/
def Cx.toucher (cx : Cx) (label : Nat) (reads writes : Bool) (phys : Nat) : Toucher :=
  ⟨cx.core, cx.b.slot, cx.g.num, if cx.index = 0 then phys else cx.hlane, classOf label, label, reads, writes, none⟩

/-! ### Writing results -/

/-- Latent events are logged: errors of registers that are overwritten before they are read (R219, R438). -/
def State.addLatent (s : State) (core n : Nat) : State :=
  if n = 0 then s else s.modCore core (fun c => { c with laneDeath := satAdd 32 c.laneDeath n })

/-- The errors of some registers of a gang, about to be overwritten, are logged. -/
def State.countLatent (s : State) (gid core : Nat) (keys : List Nat) : State :=
  s.addLatent core (((s.gang? gid).map (fun g => (g.bad.filter (fun k => keys.contains k)).length)).getD 0)

/-- A gang changed by an operation that writes registers of it: the errors that are overwritten are logged. -/
def State.writeGang (s : State) (gid core : Nat) (f : Gang → Gang) : State :=
  (s.addLatent core (((s.gang? gid).map (fun g => (g.bad.filter (fun k => !(f g).bad.contains k)).length)).getD 0)).modGang gid f

/-- Writes registers of a gang by key. -/
def State.writeRegs (s : State) (gid core cyc : Nat) (lat : Option Nat) (ws : List (Nat × Word)) : State :=
  (s.countLatent gid core (ws.map Prod.fst)).modGang gid (fun g => g.writes cyc lat ws)

/-- Writes registers by key, with the instruction's latency. The result is in flight in the lanes written, not in those of the split
that do not perform the instruction: DESIGN CHOICE (R82 speaks of the producer's mask; log entry 110). -/
def Cx.put (cx : Cx) (s : State) (ws : List (Nat × Word)) : State := s.writeRegs cx.gid cx.core cx.cyc cx.lat ws

/-- The registers that an operand of w registers names in a physical lane, with a value. -/
def Cx.outs (cx : Cx) (d w phys value : Nat) : List (Nat × Word) := (keysFrom (cx.key phys d) w).zip (natToWords w value)

/-- Each performing lane receives its own result (R70); lanes without one are left. -/
def Cx.lanewise (cx : Cx) (s : State) (d : Reg) (w : Nat) (f : Nat → Option Nat) : State :=
  cx.put s (cx.lanes.flatMap (fun p => ((f p).map (cx.outs d.toNat w p)).getD []))

/-- Every active lane receives one result for each copy, computed in the lowest active lane (R71). -/
def Cx.uniform (cx : Cx) (s : State) (d : Reg) (w : Nat) (f : Nat → Nat) : State :=
  let src := cx.g.phys cx.low
  cx.put s ((cx.g.expand cx.active).flatMap (fun p => cx.outs d.toNat w p (f (src.getD (cx.g.copy p) 0))))

/-! ### Advancing, waiting, parking -/

def State.modSplit (s : State) (gid place : Nat) (f : Split → Split) : State :=
  s.modGang gid (fun g => { g with tree := g.tree.modSplit place f })

def Gang.modHelper (g : Gang) (lane index : Nat) (f : Helper → Helper) : Gang :=
  { g with recruits := Tab.modify g.recruits lane (fun r =>
      { r with helpers := r.helpers.map (fun h => if h.index = index then f h else h) }) }

/-- A split or helper at a new PC: it keeps its packet only where it goes on within it (R68). -/
def stay (old : Dword) (p : Option Packet) (pc : Dword) : Option Packet := if pcBase old = pcBase pc then p else none

/-- The issuer moves to a PC, with a cycle from which it may issue again; a transfer enters its packet anew. -/
def Cx.move (cx : Cx) (s : State) (pc : Dword) (ready : Nat) (enter : Bool) : State :=
  if cx.index = 0 then
    s.modSplit cx.gid cx.place (fun x =>
      { x with pc := pc, readyAt := ready, again := false, packet := if enter then none else stay x.pc x.packet pc })
  else
    s.modGang cx.gid (fun g => g.modHelper (cx.body.getD 0) cx.index (fun h =>
      { h with pc := pc, readyAt := ready, again := false, packet := if enter then none else stay h.pc h.packet pc }))

/-- The first cycle after the slot and its stall count (R69). -/
def Cx.ready (cx : Cx) : Nat := cx.cyc + 1 + ctlStall cx.ctl

/-- The instruction is done: on to the next slot. -/
def Cx.finish (cx : Cx) (s : State) : State := cx.move s cx.next cx.ready false
/-- The instruction transfers control. -/
def Cx.goto (cx : Cx) (s : State) (pc : Dword) : State := cx.move s pc cx.ready true
/-- The instruction is tried again in the next cycle. -/
def Cx.again (cx : Cx) (s : State) : State :=
  if cx.index = 0 then s.modSplit cx.gid cx.place (fun x => { x with readyAt := cx.cyc + 1, again := true })
  else s.modGang cx.gid (fun g => g.modHelper (cx.body.getD 0) cx.index (fun h => { h with readyAt := cx.cyc + 1, again := true }))

/-- The split parks at its instruction. A helper has no park of its own: it tries again. -/
def Cx.park (cx : Cx) (s : State) (p : Park) : State :=
  if cx.index = 0 then s.modSplit cx.gid cx.place (fun x => { x with park := p }) else cx.again s

/-- A parked split becomes ready, at its instruction again. -/
def State.wake (s : State) (gid place cyc : Nat) : State :=
  s.modSplit gid place (fun x => { x with park := .ready, since := cyc, readyAt := cyc, starve := 0, again := true })

/-- A parked split that goes on after the instruction it parked at. -/
def Split.goesOn (x : Split) (cyc : Nat) : Split :=
  let kind := (x.packet.map Packet.kind).getD 0
  let stall := (x.packet.map (fun p => ctlStall (p.ctl (pcSlot x.pc)))).getD 0
  let pc := nextPc kind x.pc
  { x with park := .ready, since := cyc, readyAt := cyc + stall, starve := 0, again := false, pc := pc, packet := stay x.pc x.packet pc }

def State.wakeNext (s : State) (gid place cyc : Nat) : State := s.modSplit gid place (fun x => x.goesOn cyc)

/-! ### Ends -/

/-- The number that a register code stands for beside a lane's v registers: 256 + n for kn (R75). -/
def Gang.regCode (g : Gang) (n : Nat) : Nat := if g.inHandler && 248 ≤ n then n + 8 else n

/-- Sets flag registers of joinw in visible lanes (R404, R411). -/
def State.setFlags (s : State) (gid cyc : Nat) (ws : FlagWrites) : State :=
  match s.gang? gid with
  | none => s
  | some g => s.writeRegs gid (((s.block? g.bid).map Block.core).getD 0) cyc none (ws.flatMap (fun w =>
      (g.phys w.1).map (fun p => (vKey p w.2.1, Word.ofBool w.2.2))))

/-- A team stops as a whole: no gang of it issues any more, and what its record will hold is kept (R34). -/
def State.abortTeam (s : State) (tid slot gang : Nat) (trap : Option Trap) : State :=
  s.modTeam tid (fun t => if t.state = .ending then t
    else { t with
      state := .ending
      endTrap := trap.map (fun x => (slot, gang, x))
      frozen := true })

/-- Helpers reserved by threads of the gang, and used by no loop, are released (R195). -/
def Gang.dropReserved (g : Gang) (lanes : Mask) : Gang :=
  { g with recruits := g.recruits.filter (fun r => !lanes.getLsbD r.1 || r.2.loop.isSome) }

/-- The gang has no lane left: it ends, and partners at a rendezvous look again (R47, R57, R362). -/
def State.endGang (s : State) (gid cyc : Nat) : State :=
  match s.gang? gid with
  | none => s
  | some g =>
    let s1 := s.modGang gid (fun x => { x with
      ended := true, tree := ⟨[], [], 0, 0⟩, layers := [], pending := none,
      recruits := x.recruits.filter (fun r => r.2.helpers.any (fun h => h.iter.isSome)) })
    match s1.block? g.bid with
    | none => s1
    | some b =>
      let s2 := b.gangs.foldl (fun t n =>
        if g.role = 1 && n / 4 = g.num / 4 && n ≠ g.num then
          t.modGang (gangId b.bid n) (fun x => { x with tree := { x.tree with splits := x.tree.splits.map (fun p =>
            (p.1, if p.2.park.meets then { p.2 with park := .ready, since := cyc, readyAt := cyc + 1 } else p.2)) } })
        else t) s1
      match g.role, g.heldCopy with
      | 2, h :: _ => s2.abortTeam b.team b.slot 31 (some ⟨h.cause, 0, 0, h.addr, h.info, 0⟩)
      | _, _ => s2

/-- After lanes left: the gang ends when none is live, or when all that the root record of its tree, or of a frozen one, expects
are set aside (R402, R412). -/
def State.settleGang (s : State) (gid cyc : Nat) : State :=
  match s.gang? gid with
  | none => s
  | some g =>
    if !g.ended && (g.live = 0 || g.tree.allAside || g.layers.any (fun l => l.tree.allAside)) then s.endGang gid cyc else s

/-- Lanes leave the gang's current tree and every frozen one (R412, R416). -/
def State.dropLanes (s : State) (gid cyc : Nat) (m : Mask) : State :=
  match s.gang? gid with
  | none => s
  | some g =>
    let (t, fw) := g.tree.leave cyc m
    let below := g.layers.map (fun l => (l, l.tree.leave cyc m))
    let s1 := s.modGang gid (fun x => { x with tree := t, layers := below.map (fun e => { e.1 with tree := e.2.1 }) })
    s1.setFlags gid cyc (fw ++ below.flatMap (fun e => e.2.2))

/-- Recruitments of lanes that died or exited: reserved helpers go back; a running loop hands out nothing more, and its
recruitment goes when no helper is left in it (R195, R206). -/
def Gang.loseRecruits (g : Gang) (m : Mask) : Gang :=
  { g with recruits := (g.recruits.filter (fun r => !m.getLsbD r.1 || r.2.helpers.any (fun h => h.iter.isSome))).map (fun r =>
      if m.getLsbD r.1 then (r.1, { r.2 with
        helpers := r.2.helpers.filter (fun h => h.iter.isSome),
        loop := r.2.loop.map (fun l => { l with stopped := true }) }) else r) }

/-- One lane-death record: kind, register and PC (R223). -/
def deathWords (dkind slot gang lane reg : Nat) (pc : Dword) : List Nat :=
  [dkind, slot + gang * 2 ^ 14 + lane * 2 ^ 19, reg, pc.toNat % 2 ^ 32, pc.toNat / 2 ^ 32, 0, 0]

/-- A fault of a helper, charged to the recruiter: the iteration is held, and the loop starts no other (R205). -/
def State.helperFault (s : State) (gid lane index : Nat) (t : Trap) : State :=
  s.modGang gid (fun g =>
    { g with recruits := Tab.modify g.recruits lane (fun r =>
        match r.helpers.find? (fun h => h.index = index), r.loop with
        | some h, some l =>
          let frame := (List.range 16).map (fun n => (n, Tab.getD g.regs (hKey lane index 0 n) 0))
          { r with
            helpers := r.helpers.filter (fun x => x.index ≠ index),
            loop := some { l with stopped := true, heldIters := l.heldIters ++ [⟨h.iter.getD 0, index, t, frame, h.flags⟩] } }
        | _, _ => r) })

/-- Lanes of a gang that it had lent and that have died: reserved ones leave their recruitment, and one that dies during an
iteration is charged to its recruiter (R208). -/
def State.loseHelpers (s : State) (b : Block) (num : Nat) (phys : List Nat) : State :=
  b.gangs.foldl (fun t n =>
    let gid := gangId b.bid n
    match t.gang? gid with
    | none => t
    | some g =>
      let lost := g.recruits.flatMap (fun r => (r.2.helpers.filter (fun h => h.gang = num && phys.contains h.lane)).map (fun h => (r.1, h)))
      lost.foldl (fun u e => match e.2.iter with
        | some _ => u.helperFault gid e.1 e.2.index ⟨0x0C, maskOf [e.1], e.2.pc, 0, 0, 200⟩
        | none => u.modGang gid (fun x => { x with recruits := Tab.modify x.recruits e.1 (fun r =>
            { r with helpers := r.helpers.filter (fun h => h.index ≠ e.2.index) }) })) t) s

/-- Lanes die: dmask, masks and records, one record of each death, and the counter (R56, R212, R219, R223, R416). phys
lists the physical lanes with the errors, each with its register number. -/
def State.killLanes (s : State) (gid dkind : Nat) (phys : List (Nat × Nat)) (pc : Dword) : State :=
  match s.gang? gid with
  | none => s
  | some g =>
    match s.block? g.bid with
    | none => s
    | some b =>
      let vis := maskOf (phys.map (fun p => g.vis p.1))
      let gone := maskOf (phys.flatMap (fun p => g.phys (g.vis p.1)))
      let cyc := s.cycle b.core
      let s1 := s.modGang gid (fun x => { (x.loseRecruits vis).dropLoads (lanesOf gone) with
        dmask := x.dmask ||| gone, tmask := if x.inHandler then x.tmask &&& ~~~vis else x.tmask })
      let s2 := (s1.dropLanes gid cyc vis).loseHelpers b g.num (lanesOf gone)
      let s3 := phys.foldl (fun t p => t.faultRecord b.asid 3 (deathWords dkind b.slot g.num p.1 p.2 pc)) s2
      (s3.modCore b.core (fun c => { c with laneDeath := satAdd 32 c.laneDeath phys.length })).settleGang gid cyc

/-! ### Taking an exception -/

/-- Whether helpers of the gang's loops still run an iteration. -/
def Gang.helpersBusy (g : Gang) : Bool := g.recruits.any (fun r => r.2.helpers.any (fun h => h.iter.isSome))

/-- Whether an instruction issued before must still complete or raise its own fault (R209): an atomic on a peer (R295). -/
def Gang.opsBusy (g : Gang) : Bool := g.tree.splits.any (fun p => p.2.park.code = 2 && p.2.park ≠ .resource)

/-- Whether a split waits for a peer's answers and none has come: its atomic has had no effect yet. One that a peer has performed in
some lanes is completed and not called off (log entry 116). -/
def Park.unanswered (p : Park) : Bool :=
  match p with
  | .remote _ _ _ _ reqs => reqs.all (fun q => q.answer.isNone)
  | _ => false

/-- Remote atomics of other splits that were issued after the faulting one's instruction are cancelled: each issues again at its PC
(R209). -/
def Gang.cancelLater (g : Gang) (place : Nat) : Gang :=
  let at_ := ((Tab.look g.tree.splits place).map Split.lastIssue).getD 0
  { g with tree := { g.tree with splits := g.tree.splits.map (fun (x : Nat × Split) =>
      if x.1 ≠ place && at_ < x.2.lastIssue && x.2.park.unanswered then (x.1, { x.2 with park := .ready, again := false }) else x) } }

def Gang.liveHere (g : Gang) : Mask := g.live

/-- The trap registers (R210). -/
def Gang.setTrap (g : Gang) (t : Trap) (nested : Bool) : Gang :=
  { g with tmask := t.mask, tpc := t.pc, tcause := t.cause % 128 + (if nested then 128 else 0), taddr := t.addr, tinfo := t.info }

/-- Entry to the handler (R209 to R213): results in flight are written, the tree is frozen, the trap registers are set and
the handler's split begins; a fault of the system handler ends the team. -/
def State.trapEntry (s : State) (gid : Nat) (t : Trap) : State :=
  match s.gang? gid with
  | none => s
  | some g =>
    match s.block? g.bid with
    | none => s
    | some b =>
      let cyc := s.cycle b.core
      let nested := g.inHandler
      if nested && g.system then
        s.abortTeam b.team b.slot g.num (some { t with cause := t.cause % 128 + 128 })
      else
        let delegated := !nested && t.cause ≠ 8 && t.cause ≠ 9 && g.tdeleg.getLsbD t.cause && g.tvec ≠ 0
        let badVec := delegated && s.pcInvalid ⟨b.asid, b.core, b.bid, g.system⟩ g.tvec
        let t' : Trap := if badVec then { t with cause := 2, addr := g.tvec, info := BitVec.ofNat 64 t.cause } else t
        let user := delegated && !badVec
        let sys := ((Tab.look s.identifiers b.asid).map Descriptor.sysentry).getD 0
        s.modGang gid (fun x =>
          let y := (x.dropReserved (BitVec.allOnes 32)).setTrap t' nested
          { y with
            fly := [],
            halves := [],
            pending := none,
            layers := ⟨x.tree.freeze cyc, t.place, x.system⟩ :: x.layers,
            system := !user,
            tree := Tree.start x.live (if user then x.tvec else sys) (cyc + 1) })

/-- Helpers released at a trap of the gang: only iterations that run are left to finish, and no new one begins (R206). -/
def Gang.stopLoops (g : Gang) : Gang :=
  { g with recruits := g.recruits.map (fun r => (r.1, { r.2 with
      helpers := r.2.helpers.filter (fun h => h.iter.isSome || r.2.loop.isNone),
      loop := r.2.loop.map (fun l => { l with stopped := true }) })) }

/-- A fault of the gang itself: what was issued later is cancelled, and it is entered at once, or after its helpers have finished and the
instructions issued before have completed (R206, R209). -/
def State.takeTrap (s : State) (gid : Nat) (t : Trap) : State :=
  match s.gang? gid with
  | none => s
  | some g =>
    let s1 := s.modGang gid (fun x => x.stopLoops.cancelLater t.place)
    if g.helpersBusy || (g.cancelLater t.place).opsBusy then s1.modGang gid (fun x => { x with pending := some (x.pending.getD t) }) else s1.trapEntry gid t

/-- A fault of an instruction issued before: the earliest issued is taken, and another that waits for its entry is cancelled
(R209). -/
def State.takeEarlier (s : State) (gid : Nat) (t : Trap) : State :=
  match s.gang? gid with
  | none => s
  | some g =>
    let issued := fun (place : Nat) => ((Tab.look g.tree.splits place).map Split.lastIssue).getD 0
    match g.pending with
    | some p => if issued t.place < issued p.place then s.modGang gid (fun x => { x.cancelLater t.place with pending := some t }) else s
    | none => s.takeTrap gid t

/-- The issuing split or helper raises a cause in some lanes. -/
def Cx.fault (cx : Cx) (s : State) (cause : Nat) (lanes : Mask) (addr info : Nat) : State :=
  let t : Trap := ⟨cause, lanes, cx.pc, BitVec.ofNat 64 addr, BitVec.ofNat 64 info, cx.place⟩
  if cx.index = 0 then s.takeTrap cx.gid t else s.helperFault cx.gid (cx.body.getD 0) cx.index t

/-- An address does not translate: the split parks with its record; a helper's fault is charged (R423, R428, R205). -/
def Cx.untranslated (cx : Cx) (s : State) (write exec : Bool) (va level reason agent : Nat) (lanes : Mask) : State :=
  if cx.index ≠ 0 then cx.fault s 8 lanes va 0
  else
    let (ticket, s1) := s.missRecord cx.asid va level reason write exec (!cx.g.system) cx.b.slot cx.g.num cx.core agent cx.pc
    cx.park s1 (.translation ticket va lanes)

/-! ### Returning from an exception -/

/-- The layer below becomes current again: the faulting split at a PC with its old lanes, without those that died or
exited since; every other split as it stood (R213, R214, R417, R483). -/
def State.trapReturn (s : State) (gid : Nat) (pc : Dword) : State :=
  match s.gang? gid with
  | none => s
  | some g =>
    match s.block? g.bid, g.layers with
    | some b, l :: rest =>
      let cyc := s.cycle b.core
      (s.modGang gid (fun x => { x with
        fly := [],
        layers := rest,
        system := l.system,
        tree := (l.tree.thaw cyc).modSplit l.place (fun y =>
          { y with pc := pc, packet := none, park := .ready, since := cyc + 1, readyAt := cyc + 1, again := false }) })).unsync gid b.core
    | _, _ => s

/-! ### Checks before an instruction -/

/-- What keeps an instruction from being performed. -/
inductive Stop where
  | trap (cause : Nat) (lanes : Mask) (addr info : Nat)
  /-- Registers with an uncorrectable error would be read: physical lane and register number of R223 (R219). -/
  | die (phys : List (Nat × Nat))
  | skip
  | again
  deriving DecidableEq, Repr

/-- The visible registers below which a register code must lie: none for h and k codes (R44, R75, R199). -/
def Cx.codeFree (cx : Cx) (n : Nat) : Bool := if cx.g.inHandler then 248 ≤ n else cx.body.isSome && 240 ≤ n

/-- The register that breaks R44 or R75 in one operand. -/
def Cx.badReg (cx : Cx) (u : RegUse) : Option Nat :=
  let n := u.n.toNat
  if u.width ≠ 0 && n % u.width ≠ 0 then some n
  else if cx.codeFree n then none
  else if cx.g.budget ≤ n then some n
  else if cx.g.budget < n + u.width then some cx.g.budget
  else none

/-- R201: an instruction that a body does not admit, or that writes a v register there. -/
def Cx.bodyBreach (cx : Cx) (i : Instr) : Bool :=
  cx.body.isSome && (!i.bodyOk || (!i.isHjoin && i.regs.any (fun u => u.writes && !cx.codeFree u.n.toNat)))

/-- The loop whose body the issuer runs. -/
def Cx.loop (cx : Cx) : Option Loop := (cx.body.bind (fun l => Tab.look cx.g.recruits l)).bind Recruit.loop

/-- u.hloop by several lanes or by a participant of a loop (R197), and u.hjoin where no loop ends or with a destination that is
none of the recruiter's registers (R44, R202): TINFO of cause 0x01. -/
def Cx.misplaced (cx : Cx) (i : Instr) : Option Nat :=
  match i with
  | .uHloop _ _ _ =>
    if (lanesOf cx.active).length ≠ 1 || cx.body.isSome ||
      (lanesOf cx.active).any (fun l => ((Tab.look cx.g.recruits l).bind Recruit.loop).isSome) then some 0 else none
  | .uHjoin d _ _ =>
    match cx.loop with
    | none => some 0
    | some l =>
      if cx.pc ≠ l.jpc then some 0
      else if !cx.g.inHandler && 240 ≤ d.toNat && cx.g.budget ≤ d.toNat then some d.toNat else none
  | _ => none

/-- The register block condition of R311 for one base: even, and inside the budget. -/
def Cx.badBlock (cx : Cx) (d count : Nat) : Option Nat := if d % 2 = 1 then some d else pastBudget d count cx.g.budget

/-- Conditions of cause 0x01 on a tile instruction that rest on its fields and the split alone, and hold whatever its predicate is
(R70, R311, R324). -/
def Cx.fieldIllegal (cx : Cx) (i : Instr) : Option Nat :=
  if i.tiles && cx.active ≠ cx.g.live then some 0
  else match i with
  | .tld d _ _ => cx.badBlock d.toNat 1
  | .tst d _ _ _ => cx.badBlock d.toNat 1
  | .cksum d _ => cx.badBlock d.toNat 1
  | .ckchk d => cx.badBlock d.toNat 1
  | .ckinj d _ _ => cx.badBlock d.toNat 1
  | _ => none

/-! ### Registers that an instruction reads and writes -/

/-- The keys that some operands name in a physical lane. -/
def Cx.keysOf (cx : Cx) (us : List RegUse) (phys : Nat) : List Nat := us.flatMap (fun u => keysFrom (cx.key phys u.n.toNat) u.width)

/-- A 32-bit source in a physical lane: a register, or the literal (R73). -/
def Cx.srcWord (cx : Cx) (s : State) (p : Nat) (b : Src) : Word :=
  match b with
  | .reg n => cx.rd s p n.toNat
  | .lit32 l => l
  | .lit64 l => l.truncate 32

/-- The visible lane that a shuffle reads for a physical lane, dead or not (R159 to R161). -/
def Cx.shuffleFrom (cx : Cx) (s : State) (b : Src) (f : SourceLane) (p : Nat) : Option Nat :=
  if cx.g.role = 2 then none else f cx.g.width (cx.g.vis p) (cx.srcWord s p b).toNat

/-- The run-time register number of movx and movxr (R153, R154). -/
def Cx.target (cx : Cx) (s : State) (base : Reg) (a : Reg) (p : Nat) : Nat := base.toNat + (cx.rd s p a.toNat).toNat

/-- The payload registers of amsend after the first (R342). -/
def Cx.payloadRest (cx : Cx) (s : State) (a : Reg) (b : Src) : List Nat :=
  ((List.range (min (bits (cx.srcWord s cx.lowPhys b).toNat 12 8) 16)).tail.map (fun j => a.toNat + j)).filter (fun n => n < 256)

/-- The visible lanes that a tile of a geometry uses. -/
def Cx.tileLanes (cx : Cx) (g : Word) : Mask := tileMask cx.g.width g

/-- The block that a tile instruction names, as base and geometry, as far as registers and tags tell: tld finds it in its frame
(R311, R317). -/
def Cx.tileBlock (cx : Cx) (s : State) (i : Instr) : Option (Nat × Word) :=
  let tagged := fun (d : Reg) => (cx.g.tags.find? (fun t => t.base = d.toNat)).map (fun t => (d.toNat, t.geom))
  match i with
  | .tst d _ g _ => (geomResolve cx.g.shape (cx.rd s cx.lowPhys g.toNat)).map (fun w => (d.toNat, w))
  | .cksum d g => (geomResolve cx.g.shape (cx.srcWord s cx.lowPhys g)).map (fun w => (d.toNat, w))
  | .ckchk d => tagged d
  | .ckinj d _ _ => tagged d
  | _ => none

/-- The block registers that a tile instruction reads, by physical lane: of ckinj, those of its target alone. -/
def Cx.blockReads (cx : Cx) (s : State) (i : Instr) : List (Nat × Nat) :=
  match cx.tileBlock s i with
  | none => []
  | some (d, g) =>
    match i with
    | .ckinj _ a _ =>
      let p := (cx.rd s cx.lowPhys a.toNat).toNat
      let x := injectAt cx.g.width d g (bits p 17 16) (bits p 7 0) (bits p 15 8)
      (cx.g.phys x.2.1).flatMap (fun q => (List.range (ceilDiv x.2.2.2 32)).map (fun j => (q, x.1 + j)))
    | _ => (cx.g.expand (cx.tileLanes g &&& cx.g.live)).flatMap (fun q => (List.range (blockRegs cx.g.width g)).map (fun r => (q, d + r)))

/-- The second register of a 64-bit mask of ckinj (R328). -/
def Cx.maskRest (cx : Cx) (s : State) (i : Instr) : List Nat :=
  match i, cx.tileBlock s i with
  | .ckinj _ _ (.reg r), some (_, g) => if geomFmt g = 0 && r.toNat < 255 then [r.toNat + 1] else []
  | _, _ => []

/-- Registers read that are known only at run time: the visible lane that reads, and the key (R154, R160, R324, R342). -/
def Cx.lateKeys (cx : Cx) (s : State) (i : Instr) : List (Nat × Nat) :=
  match i with
  | .movxr _ a b => cx.lanes.filterMap (fun p =>
      if cx.target s b a p < 256 then some (cx.g.vis p, vKey p (cx.target s b a p)) else none)
  | .amsend _ a b => (cx.payloadRest s a b).map (fun n => (cx.low, cx.key cx.lowPhys n))
  | _ =>
    match i.shuffle with
    | none => (cx.blockReads s i).map (fun e => (cx.g.vis e.1, vKey e.1 e.2)) ++ (cx.maskRest s i).map (fun n => (cx.low, cx.key cx.lowPhys n))
    | some (a, b, f) => cx.lanes.filterMap (fun p => match cx.shuffleFrom s b f p with
        | none => some (cx.g.vis p, cx.key p a.toNat)
        | some l => if cx.g.dead.getLsbD l then none else some (cx.g.vis p, cx.key ((cx.g.phys l).getD (cx.g.copy p) 0) a.toNat))

/-- The physical lanes whose source registers an instruction reads (R70, R71): of a swrite to a register that is not held per lane,
the lowest that performs it (R158). -/
def Cx.sourceLanes (cx : Cx) (i : Instr) : List Nat :=
  if i.uniform then cx.g.phys cx.low
  else match i with
    | .swrite _ n => if specialPerLane n.toNat then cx.lanes else cx.g.phys (lowLane cx.perform)
    | _ => cx.lanes

/-- The registers on which a condition of cause 0x01 rests, as they are read: the visible lane and the key. -/
def Cx.conditionKeys (cx : Cx) (i : Instr) : List (Nat × Nat) :=
  i.conditionRegs.flatMap (fun n => (cx.g.phys cx.low).map (fun p => (cx.low, cx.key p n)))

/-- The predicate as it is read: the visible lane and the key. -/
def Cx.predKeys (cx : Cx) (i : Instr) : List (Nat × Nat) :=
  if 48 ≤ ctlPred cx.ctl then []
  else (if i.perLane then cx.g.expand cx.active else cx.g.phys cx.low).map (fun p => (cx.g.vis p, vKey p (ctlPred cx.ctl)))

/-- What an instruction reads: visible lanes and keys, the predicate first where it is evaluated, then lanes and operands in
ascending order. -/
def Cx.readKeys (cx : Cx) (s : State) (i : Instr) : List (Nat × Nat) :=
  cx.predKeys i ++
    (if cx.perform = 0 then []
    else (cx.sourceLanes i).flatMap (fun p => (cx.keysOf i.readUses p).map (fun k => (cx.g.vis p, k))) ++ cx.lateKeys s i)

/-- The physical lane whose register a key names: in a frame, that of its participant. -/
def Cx.keyLane (cx : Cx) (k : Nat) : Nat :=
  if k < 16384 then k / 512 else if cx.index = 0 then (cx.g.phys (cx.body.getD 0)).getD (k / 16 % 2) 0 else cx.hlane

/-- The lanes whose registers are read with an uncorrectable error, each with the number of R223 of its first such register. -/
def Cx.deadReads (cx : Cx) (s : State) (i : Instr) : List (Nat × Nat) :=
  ((cx.readKeys s i ++ cx.conditionKeys i).filter (fun e => cx.g.bad.contains e.2)).foldl (fun ds e =>
    if ds.any (fun d => d.1 = cx.keyLane e.2) then ds
    else ds ++ [(cx.keyLane e.2, if e.2 < 16384 then e.2 % 512 else 0x110 + e.2 % 16)]) []

/-- Whether a pending load still has to write a register (R287). -/
def Gang.pendingLoad (g : Gang) (key : Nat) : Bool :=
  g.ldas.any (fun x => x.pending.any (fun lw => x.key lw = key && !x.dropped.contains lw))

/-- The cycles missing before a register in flight may be read, at most 7, and 7 for a load's (R84, R215, R289; log entry 96). -/
def Cx.missing (cx : Cx) (key : Nat) : Option Nat :=
  match (cx.g.flying cx.cyc key).map Fly.due with
  | [] => if cx.g.pendingLoad key then some 7 else none
  | d :: ds => some (min 7 ((ds.foldl max d) - cx.cyc))

/-- Whether the checking scoreboard would stop a read of a register. -/
def Cx.early (cx : Cx) (key : Nat) : Bool := cx.g.check && (cx.missing key).isSome

/-- Registers read too early under the checking scoreboard: every lane that reads one, and TINFO: the code of the first of them
and the cycles it misses (R84, R218, R289; log entry 96). -/
def Cx.tooEarly (cx : Cx) (s : State) (i : Instr) : Option (Mask × Nat) :=
  match (cx.readKeys s i).filter (fun e => cx.early e.2) with
  | [] => none
  | e :: es => some (maskOf ((e :: es).map Prod.fst), keyCode e.2 + (cx.missing e.2).getD 0 * 2 ^ 8)

/-- The registers, by number, that an instruction names in a gang: the destination of u.hjoin is a v register of the recruiter
(R202). -/
def Cx.namedRegs (cx : Cx) (i : Instr) (writes : Bool) : List Nat :=
  (i.regs.filter (fun u => !writes || u.writes)).flatMap (fun u =>
    if cx.codeFree u.n.toNat && !(i.isHjoin && u.writes && !cx.g.inHandler) then []
    else (List.range u.width).map (fun j => u.n.toNat + j))

/-- The registers that an instruction reads or writes, its predicate and those found at run time among them. -/
def Cx.touchedRegs (cx : Cx) (s : State) (i : Instr) : List Nat :=
  (if ctlPred cx.ctl < 48 then [ctlPred cx.ctl] else []) ++
    (if cx.perform = 0 then []
    else cx.namedRegs i false ++ (match i with
      | .movx d a _ => cx.lanes.map (cx.target s d a)
      | .movxr _ a b => cx.lanes.map (cx.target s b a)
      | .amsend _ a b => (cx.payloadRest s a b).filter (fun n => !cx.codeFree n)
      | _ => []))

/-- The registers that it writes. -/
def Cx.writtenRegs (cx : Cx) (s : State) (i : Instr) : List Nat :=
  if cx.perform = 0 then []
  else cx.namedRegs i true ++ (match i with
    | .movx d a _ => cx.lanes.map (cx.target s d a)
    | _ => [])

/-- The registers of the block that a tile instruction names; where no tag tells how far a block of ckchk or ckinj reaches, its
base (R324). -/
def Cx.heldBlock (cx : Cx) (s : State) (i : Instr) : List Nat :=
  if cx.perform = 0 then []
  else match cx.tileBlock s i, i with
  | some (d, g), _ => (List.range (blockRegs cx.g.width g)).map (fun r => d + r)
  | none, .ckchk d => [d.toNat]
  | none, .ckinj d _ _ => [d.toNat]
  | none, _ => []

/-- Whether an instruction waits for a matrix operation of its gang (R324, R365). -/
def Cx.interlocked (cx : Cx) (s : State) (i : Instr) : Bool :=
  cx.g.role = 1 && (s.core cx.core).fifo.any (fun o =>
    o.bid = cx.bid && o.quartet = cx.g.num / 4 &&
      ((cx.touchedRegs s i).any (fun n => inRange n (o.cbase.getD (cx.g.num % 4) 0) o.cregs) ||
        (cx.writtenRegs s i).any (fun n => o.bregs ≠ 0 && inRange n (o.bbase.getD (cx.g.num % 4) 0) o.bregs) ||
        (cx.heldBlock s i).any (fun n => inRange n (o.cbase.getD (cx.g.num % 4) 0) o.cregs ||
          (o.bregs ≠ 0 && inRange n (o.bbase.getD (cx.g.num % 4) 0) o.bregs))))

/-! ### Held faults -/

/-- The first fault held in a split-phase load that an instruction takes (R288). -/
def Cx.heldLda (cx : Cx) (i : Instr) : Option Lda :=
  if cx.perform = 0 then none
  else (cx.g.ldas.filter (fun x => !x.held.isEmpty && x.taken.isNone)).find? (fun x =>
    i.bounds || i.leaves || i.waitsOn = some x.counter)

/-- The first held matrix fault that an instruction takes (R377). -/
def Cx.heldMatrix (cx : Cx) (s : State) (i : Instr) : Option Held :=
  cx.g.heldMatrix.find? (fun h => (cx.perform ≠ 0 && (i.posts || i.tiles || i.bounds || i.leaves)) ||
    (cx.touchedRegs s i).any (fun n => h.ranges.any (fun r => inRange n r.1 r.2)))

/-- The first held copy fault that an instruction takes (R397). -/
def Cx.heldCopy (cx : Cx) (i : Instr) : Option Held :=
  if cx.perform ≠ 0 && (i.copies || i.barriers || i.isWaitring || (i.waitsOn).isSome || i.bounds || i.leaves) then cx.g.heldCopy.head?
  else none

/-! ### What R217 checks -/

/-- A lane of a protected gang whose copies disagree on the predicate of a conditional transfer or an instruction (R221). -/
def Cx.predicateSplit (cx : Cx) (s : State) (i : Instr) : Mask :=
  if !cx.g.prot || cx.g.role = 2 || 48 ≤ ctlPred cx.ctl then 0
  else maskOf ((if i.perLane then lanesOf cx.active else [cx.low]).filter (fun l =>
    (cx.g.phys l).any (fun p => cx.g.predicate s cx.cyc cx.ctl p != cx.g.predicate s cx.cyc cx.ctl (cx.g.prime l))))

def orElse {α : Type} (x y : Option α) : Option α :=
  match x with
  | some a => some a
  | none => y

/-- The K-step of an input format (R117). -/
def kStep (f : Nat) : Nat :=
  if f = 0 then 2 else if f = 1 then 4 else if f ≤ 3 then 8 else if f ≤ 6 then 16 else if f = 7 then 32 else if f ≤ 9 then 32 else 16

/-- The mask of ckinj on a 64-bit target is an even pair inside the budget (R328): a condition on its field, once the tag has told the
format. -/
def Cx.maskIllegal (cx : Cx) (i : Instr) (block : Option (Nat × Word)) : Option Nat :=
  match i, block with
  | .ckinj _ _ m, some (_, g) =>
    if geomFmt g ≠ 0 then none
    else match m with
      | .reg r => if r.toNat % 2 = 1 then some r.toNat else if cx.g.budget ≤ r.toNat + 1 then some cx.g.budget else none
      | _ => some 0
  | _, _ => none

/-- The mask that emset of N would leave the split (R415). -/
def Cx.newMask (cx : Cx) (n : Mask) : Mask :=
  match Tab.look cx.g.tree.splits cx.place with
  | none => n
  | some x => ((n &&& x.mask) ||| (n &&& cx.g.tree.asideOf x.rec_)) &&& ~~~cx.g.dead &&& lowMask cx.g.width

/-- Conditions of cause 0x01 that rest on values read once for the split, and hold whatever the predicate is (R70): TINFO where one
holds (R309, R311, R328, R356, R361, R415, R427, R441, R442). Of a condition whose value would be read too early under the checking
scoreboard cause 0x04 stands in its place (R84); no other register delays it (R217). A cntset by user code is checked for privilege
first (R442). -/
def Cx.ownIllegal (cx : Cx) (s : State) (i : Instr) : Option Nat :=
  let word := fun (n : Reg) => cx.rd s cx.lowPhys n.toNat
  let block := fun (d g : Reg) => match geomResolve cx.g.shape (word g) with
    | none => some g.toNat
    | some w => cx.badBlock d.toNat (blockRegs cx.g.width w)
  if i.posts && (cx.active ≠ cx.g.live || cx.g.inHandler) then some (2 ^ 16)
  else if (cx.conditionKeys i).any (fun e => cx.perform ≠ 0 && cx.early e.2) then cx.maskIllegal i (cx.tileBlock s i)
  else match i with
  | .tst d _ g _ => block d g
  | .cksum d g => match g with
    | .reg r => block d r
    | l => (match geomResolve cx.g.shape (cx.srcWord s cx.lowPhys l) with
      | none => some 0
      | some w => cx.badBlock d.toNat (blockRegs cx.g.width w))
  | .ckinj d p m =>
    let x := (word p).toNat
    if bits x 31 18 ≠ 0 || bits x 17 16 = 3 then some p.toNat
    else (match cx.tileBlock s (.ckinj d p m) with
      | none => none
      | some (_, g) =>
        if (bits x 17 16 ≠ 1 && geomRows g ≤ bits x 7 0) || (bits x 17 16 ≠ 2 && geomCols g ≤ bits x 15 8) then some p.toNat
        else cx.maskIllegal (.ckinj d p m) (some (d.toNat, g)))
  | .setshape _ a => if 0x0C ≤ bits (word a).toNat 31 27 || (word a).getLsbD 26 then some a.toNat else none
  | .mzero d _ f =>
    let m := bits cx.g.shape.toNat 7 0 / 4
    let n := bits cx.g.shape.toNat 15 8
    if m = 0 || n = 0 then none else cx.badBlock d.toNat (blockRegs cx.g.width (geomWord m n f.toNat false))
  | .tlbinvPage _ b => if 2047 < (word b).toNat then some 0 else none
  | .tlbinvAsid b => if 2047 < (word b).toNat then some 0 else none
  | .cntrd d n => if counterSystem n.toNat && counterIndexes n.toNat ≤ (word d).toNat then some d.toNat else none
  | .cntset d n =>
    if counterSystem n.toNat && cx.g.system && counterIndexes n.toNat ≤ cx.rd2 s cx.lowPhys d.toNat / 2 ^ 32 then some 0 else none
  | .emset a => if cx.newMask (word a) = 0 then some 0 else none
  | _ => none

/-- The lanes where the register number of movx or movxr breaks R153: their mask, and the lowest's number. -/
def Cx.badTargets (cx : Cx) (s : State) (base a : Reg) : Option (Mask × Nat) :=
  match cx.lanes.filter (fun p => !cx.early (cx.key p a.toNat) && cx.g.budget ≤ cx.target s base a p) with
  | [] => none
  | p :: ps => some (maskOf ((p :: ps).map cx.g.vis), cx.target s base a p)

/-- swrite of emask that leaves the split no lane (R128, R415): its N comes from the lowest lane that performs it, if there is one. -/
def Cx.emptied (cx : Cx) (s : State) (a : Reg) : Option (Mask × Nat) :=
  let p := cx.g.prime (lowLane cx.perform)
  if cx.perform ≠ 0 && !cx.early (cx.key p a.toNat) && cx.newMask (cx.rd s p a.toNat) = 0 then some (cx.perform, 0) else none

/-- Cause 0x01 of an instruction for the values it reads: the lanes that raise it, and TINFO. Where each lane has a value of its own
only those that perform it are asked (R153); where one value serves the split, a false predicate does not matter (R70). -/
def Cx.illegal (cx : Cx) (s : State) (i : Instr) : Option (Mask × Nat) :=
  match i with
  | .movx d a _ => cx.badTargets s d a
  | .movxr _ a b => cx.badTargets s b a
  | .swrite d n => if n = 0 then cx.emptied s d else none
  | i => (cx.ownIllegal s i).map (fun n => (if cx.perform = 0 then cx.active else cx.perform, n))

/-- What keeps the instruction from being performed, the first of R217 first. A matrix operation in flight on its registers is
waited for before they are read (R365). -/
def hindrance (i : Instr) (cx : Cx) (s : State) : Option Stop :=
  if !i.wellFormed then some (.trap 1 cx.active 0 i.illegalInfo)
  else match i.regs.findSome? cx.badReg with
  | some n => some (.trap 1 cx.active 0 n)
  | none =>
    if cx.bodyBreach i || (i.handlerOnly && !cx.g.inHandler) ||
        (i.returns && (!cx.g.inHandler || cx.g.tree.splits.length ≠ 1)) then some (.trap 1 cx.active 0 0)
    else if i.always && (ctlPred cx.ctl ≠ 48 || ctlNeg cx.ctl) then
      some (.trap 1 cx.active 0 (if i.posts then 2 ^ 16 else 0))
    else match orElse (cx.misplaced i) (cx.fieldIllegal i) with
    | some n => some (.trap 1 cx.active 0 n)
    | none =>
      if cx.interlocked s i then some .again
      else if !(cx.deadReads s i).isEmpty then some (.die (cx.deadReads s i))
      else match cx.illegal s i with
      | some (m, n) => some (.trap 1 m 0 n)
      | none =>
        if i.silent then (if cx.perform = 0 then some .skip else none)
        else if cx.perform ≠ 0 && !i.admits.role cx.g.role then some (.trap 3 cx.perform 0 cx.g.role)
        else match cx.tooEarly s i with
        | some (m, n) => some (.trap 4 m 0 n)
        | none =>
          if cx.perform ≠ 0 && i.system && !cx.g.system then some (.trap 9 cx.perform 0 1)
          else if cx.predicateSplit s i ≠ 0 then
            some (.trap 0x21 (cx.predicateSplit s i) 0 (2 + lowLane (cx.predicateSplit s i) * 4))
          else if cx.perform = 0 && !i.runsEmpty then some .skip
          else none

/-- A helper's lane dies: it is dead in its own gang, and the recruiter is charged with lost data; the lost words of the
frame it receives are zero (R208). -/
def Cx.helperDies (cx : Cx) (s : State) (keys : List (Nat × Nat)) : State :=
  let own := (((Tab.look cx.g.recruits (cx.body.getD 0)).bind (fun r => r.helpers.find? (fun h => h.index = cx.index))).map
    Helper.gang).getD cx.g.num
  let lost := keys.map (fun k => hKey (cx.body.getD 0) cx.index 0 (k.2 % 16))
  let s1 := s.modGang cx.gid (fun g => { g with
    regs := g.regs.filter (fun e => !lost.contains e.1), bad := g.bad.filter (fun k => !lost.contains k) })
  cx.fault (s1.killLanes (gangId cx.bid own) 0 (keys.take 1) cx.pc) 0x0C cx.active 0 0

/-- Does what a stop asks for. -/
def Cx.stop (cx : Cx) (s : State) : Stop → State
  | .trap c m a n => cx.fault s c m a n
  | .die phys =>
    match phys.filter (fun k => cx.index = 0 || k.2 < 0x110) with
    | [] => cx.helperDies s phys
    | own => cx.again (s.killLanes cx.gid 0 own cx.pc)
  | .skip => cx.finish s
  | .again => cx.again s

/-- A held fault is taken by an instruction that R288, R377 or R397 names; the instruction is not performed. That of a load
is taken once all its replies are in. -/
def Cx.takeHeld (cx : Cx) (i : Instr) (s : State) : Option State :=
  match cx.heldLda i with
  | some x =>
    let h := (x.held.head?.map Prod.snd).getD ⟨0, 0, 0, 0, []⟩
    let s1 := s.modGang cx.gid (fun g => { g with ldas := g.ldas.map (fun y =>
      if y.id = x.id then { y with taken := some (g.layers.length + 1) } else y) })
    if !x.counted then some (cx.again s)
    else some (cx.fault s1 h.cause (maskOf (x.held.map (fun e => cx.g.vis e.1))) h.addr.toNat h.info.toNat)
  | none =>
    match cx.heldMatrix s i with
    | some h => some (cx.fault (s.modGang cx.gid (fun g => { g with heldMatrix := g.heldMatrix.erase h })) h.cause cx.g.live h.addr.toNat h.info.toNat)
    | none =>
      match cx.heldCopy i with
      | some h => some (cx.fault (s.modGang cx.gid (fun g => { g with heldCopy := g.heldCopy.erase h })) h.cause cx.perform h.addr.toNat h.info.toNat)
      | none => none

/-- Performs an instruction of the issuing split or helper: what stops it, a held fault it takes (also where no lane performs it: its
predicate may lie in the block of a failed matrix operation, R377), a boundary that must wait, or its own effect. -/
def run (i : Instr) (s : State) (body : Cx → State → State) : Host.Outcome State Fault Refusal :=
  match cxOf i s with
  | none => .fault .noIssuingSplit
  | some cx =>
    match hindrance i cx s with
    | some .skip => .next ((cx.takeHeld i s).getD (cx.finish s))
    | some h => .next (cx.stop s h)
    | none =>
      match cx.takeHeld i s with
      | some t => .next t
      | none =>
        if cx.perform ≠ 0 && i.bounds && s.boundaryWaits cx.b then .next (cx.again (s.askWrap cx.b)) else .next (body cx s)

end Sys2Proof.Machine
end

