-- ==== Sys2Proof/Machine/Alu.lean ====
section
/-!
DEFINITION. Machine/Alu.lean: the shape of an instruction that computes registers from registers, per lane (R140) or once
for the split (R71, R144).
-/

namespace Sys2Proof.Machine

open Sys2Proof

/-- What the sources of one physical lane are read from. -/
structure Lanes where
  cx : Cx
  s : State

/-- A register of a physical lane. -/
def Lanes.r (x : Lanes) (p : Nat) (n : Reg) : Word := x.cx.rd x.s p n.toNat
/-- A pair (R122). -/
def Lanes.r2 (x : Lanes) (p : Nat) (n : Reg) : Nat := x.cx.rd2 x.s p n.toNat
/-- A 32-bit source: a register, or the literal (R73). -/
def Lanes.src (x : Lanes) (p : Nat) (b : Src) : Word :=
  x.cx.srcWord x.s p b
/-- A 64-bit integer source: a pair, a sign-extended 32-bit literal, or a 64-bit literal (R73). -/
def Lanes.src2 (x : Lanes) (p : Nat) (b : Src) : Nat :=
  match b with
  | .reg n => x.r2 p n
  | .lit32 l => (l.signExtend 64).toNat
  | .lit64 l => l.toNat

/-- A V instruction: each performing lane writes what it computes from its own registers. -/
def vectorOp (i : Instr) (d : Reg) (w : Nat) (s : State) (f : Lanes → Nat → Nat) : Host.Outcome State Fault Refusal :=
  run i s (fun cx t => cx.finish (cx.lanewise t d w (fun p => some (f ⟨cx, t⟩ p))))

/-- A U instruction: computed in the lowest active lane, written into every active lane. -/
def uniformOp (i : Instr) (d : Reg) (w : Nat) (s : State) (f : Lanes → Nat → Nat) : Host.Outcome State Fault Refusal :=
  run i s (fun cx t => cx.finish (cx.uniform t d w (f ⟨cx, t⟩)))

end Sys2Proof.Machine
end

