-- ==== Sys2Proof/Machine/MemOps.lean ====
section
/-!
DEFINITION. Machine/MemOps.lean: what the memory instructions share: the accesses of their lanes, the boundary their label
makes (R255), loaded values (R285), atomics (R290, R292) and remote atomics (R295).
-/

namespace Sys2Proof.Machine

open Sys2Proof

/-! ### Boundaries around an access -/

/-- Whether a remote atomic of a core has not been answered yet (R295). -/
def State.remoteOut (s : State) (core : Nat) : Bool :=
  s.gangs.any (fun g => ((s.block? g.2.bid).map Block.core) = some core && g.2.tree.splits.any (fun x => match x.2.park with
    | .remote _ _ _ _ _ => true
    | _ => false))

/-- Which halves of a boundary an instruction makes, and its scope. -/
structure Bound where
  rel : Bool
  acq : Bool
  scope : Nat
  deriving DecidableEq, Repr

def labelBound (label scope : Nat) : Bound := ⟨label = 2 || label = 3, label = 1 || label = 3, scope⟩

/-- A release of system scope finds that writes to a peer were dropped with their route: the first one's address. They are never
acknowledged, so that every such release of the core waits on them and is told of them (R455; log entry 27). -/
def Cx.peerLost (cx : Cx) (s : State) (b : Bound) : Option Nat :=
  if b.rel && b.scope = 4 then (s.core cx.core).peerDropped else none

/-- A release of system scope waits while a remote atomic of another split of the core has no answer (R455). -/
def Cx.remoteOut (cx : Cx) (s : State) (b : Bound) : Bool := b.rel && b.scope = 4 && s.remoteOut cx.core

/-- Before the access: write-back of a release at cluster scope or wider, then the new interval (R255, R256). -/
def Cx.boundBefore (cx : Cx) (s : State) (b : Bound) : State :=
  let s1 := if b.rel && 1 ≤ b.scope then s.releaseHalf cx.b else s
  let s2 := if b.rel && b.scope = 4 then s1.modCore cx.core (fun c => { c with peerWrites := [] }) else s1
  if b.rel || b.acq then s2.advance cx.b else s2

/-- After the access: invalidation of an acquire at cluster scope or wider (R255). -/
def Cx.boundAfter (cx : Cx) (s : State) (b : Bound) : State :=
  let s1 := if b.acq && 1 ≤ b.scope then s.acquireHalf cx.b else s
  if b.acq && cx.g.role = 2 then s1.emptyParams cx.b else s1

/-- What a store of the copy-role gang does to the parameter-block cache. -/
def Cx.storeParams (cx : Cx) (s : State) (r : Req) (bs : List Byte) : State :=
  if cx.g.role = 2 then s.storeParams cx.b cx.viewer r.va bs else s

/-! ### Accesses -/

/-- No fault of the instruction's own. -/
def noOwn : State → Req → List Piece → Option (Nat × Nat × Nat) := fun _ _ _ => none

def Access.bytes (x : Access) : Nat := 2 ^ x.size.toNat

/-- Accesses with the places they touch. -/
def Cx.placed (cx : Cx) (s : State) (rs : List Req) : List (Req × List Piece) :=
  rs.map (fun r => (r, (s.address cx.viewer ⟨false, false, false⟩ r.va r.n).list))

/-- Whether a split-phase load of a thread must be performed before an access of it: one that writes, or that touches a byte of
the load's, by whatever address (R240, R275). -/
def Cx.loadsBefore (cx : Cx) (writes : Bool) (rs : List (Req × List Piece)) : Bool :=
  cx.index = 0 && cx.g.ldas.any (fun x => rs.any (fun r =>
    match Tab.look x.addrs r.1.phys with
    | some e => (x.pending.any (fun lw => cx.g.vis lw.1 = r.1.vis) && (Tab.look x.captured r.1.phys).isNone) &&
        (writes || (e.1 < r.1.va + r.1.n && r.1.va < e.1 + Access.bytes x.acc) || e.2.any (fun p => r.2.any p.meets))
    | none => false))

/-- Whether an access must wait although its checks have passed: for split-phase loads, or as a release for remote atomics. -/
def Cx.mustWait (cx : Cx) (s : State) (h : How) (b : Bound) (ps : List (Req × List Piece)) : Bool :=
  cx.loadsBefore h.need.w ps || cx.remoteOut s b

/-- Who reads, as the halves of a read name it (R468). -/
def Cx.reader (cx : Cx) : Nat × Nat × Nat := (cx.place, cx.body.getD 0, cx.index)

/-- Whether the instruction is one that is tried again. -/
def Cx.retries (cx : Cx) : Bool :=
  if cx.index = 0 then ((Tab.look cx.g.tree.splits cx.place).map Split.again).getD false
  else (((Tab.look cx.g.recruits (cx.body.getD 0)).bind (fun r => r.helpers.find? (fun h => h.index = cx.index))).map Helper.again).getD false

/-- The halves of this read that have been returned (R468). -/
def Cx.halves (cx : Cx) : List HalfRead := if cx.retries then cx.g.halves.filter (fun x => x.reader = cx.reader) else []

/-- The host returns the first halves of a read; the others come later (R468). -/
def Cx.takeHalves (cx : Cx) (s : State) (ps : List (Req × List Piece)) : State :=
  let r := s.firstHalves cx.core cx.reader ps
  cx.again (r.1.modGang cx.gid (fun g => { g with halves := g.halves.filter (fun x => x.reader ≠ cx.reader) ++ r.2 }))

/-- The accesses of one instruction: checked, and performed between the halves of the boundary it makes. -/
def Cx.access (cx : Cx) (s : State) (h : How) (b : Bound) (own : State → Req → List Piece → Option (Nat × Nat × Nat))
    (rs : List Req) (k : State → List (Req × List Piece) → State) : State :=
  match s.check cx.viewer h (cx.toucher h.label h.reads h.writes) true own rs with
  | .fault t f => cx.fault t f.cause f.lanes f.addr f.info
  | .untranslated t va level reason agent lanes => cx.untranslated t h.need.w false va level reason agent lanes
  | .wait t => cx.park t .resource
  | .go t ps =>
    if cx.mustWait t h b ps then cx.again s
    else if t.tears h ps && cx.halves.isEmpty then cx.takeHalves t ps
    else match cx.peerLost t b with
    | some a => cx.fault t 9 cx.perform a 0
    | none => cx.boundAfter (k (cx.boundBefore t b) ps) b

/-- An address: the pair a and a signed offset (R281). -/
def Cx.address (cx : Cx) (s : State) (a : Reg) (offset : BitVec 16) (p : Nat) : Nat :=
  (BitVec.ofNat 64 (cx.rd2 s p a.toNat) + offset.signExtend 64).toNat

/-- The accesses of a V instruction, one for each performing lane, and of a U instruction, one for the lowest (R281). -/
def Cx.reqs (cx : Cx) (s : State) (uniform : Bool) (a : Reg) (offset : BitVec 16) (n : Nat) : List Req :=
  (if uniform then [cx.low] else lanesOf cx.perform).map (fun l => ⟨l, cx.g.prime l, cx.address s a offset (cx.g.prime l), n⟩)

/-- Writes each access's result into its lane, and a U instruction's into every active lane (R71, R281). -/
def Cx.deliver (cx : Cx) (s : State) (uniform : Bool) (d : Reg) (w : Nat) (vs : List (Req × Nat)) : State :=
  if uniform then cx.uniform s d w (fun _ => (vs.head?.map Prod.snd).getD 0)
  else cx.put s (vs.flatMap (fun v => (cx.g.phys v.1.vis).flatMap (fun p => cx.outs d.toNat w p v.2)))

/-- The compare points of a protected team before a store, an atomic or a cas: addresses, then data (R221). -/
def Cx.shadowSplit (cx : Cx) (s : State) (a : Reg) (offset : BitVec 16) (data : List (Reg × Nat)) (rs : List Req) : Option Stop :=
  if !cx.g.prot || cx.g.role = 2 then none
  else
    let differs := fun (f : Nat → Nat) => (rs.filter (fun r => (cx.g.phys r.vis).any (fun p => f p ≠ f r.phys)))
    match differs (cx.address s a offset) with
    | r :: rest => some (.trap 0x21 (maskOf (r.vis :: rest.map Req.vis)) r.va (r.vis * 4))
    | [] =>
      match differs (fun p => (data.map (fun e => cx.rdn s p e.1.toNat e.2)).foldl (fun x y => x * 2 ^ 128 + y) 0) with
      | r :: rest => some (.trap 0x21 (maskOf (r.vis :: rest.map Req.vis)) r.va (1 + r.vis * 4))
      | [] => none

/-- One more release where R225 counts the instruction. -/
def Cx.counted (cx : Cx) (s : State) (counts : Bool) : State := if counts then s.countRelease cx.bid else s

/-- A loaded value as its registers receive it (R285). -/
def loaded (x : Access) (bs : List Byte) : Nat :=
  let v := ofBytes bs
  if x.size.toNat < 2 && x.op.getLsbD 0 then wrap (sext v (8 * Access.bytes x)) 32 else v

/-- What a load does at its addresses (R252, R285). -/
def loadHow (x : Access) : How where
  need := ⟨true, false, false⟩
  label := x.label.toNat
  reads := x.label.toNat < 4
  writes := 4 ≤ x.label.toNat
  load := true
  atomic := false
  size := x.size.toNat
  align := if x.label = 0 then 1 else Access.bytes x
  scope := x.scope.toNat
  hint := x.hint.toNat
  object := false
  peer := false

/-- What a store does (R286). -/
def storeHow (x : Access) : How where
  need := ⟨false, true, false⟩
  label := x.label.toNat
  reads := false
  writes := true
  load := false
  atomic := false
  size := x.size.toNat
  align := if x.label = 0 then 1 else Access.bytes x
  scope := x.scope.toNat
  hint := x.hint.toNat
  object := false
  peer := true

/-- What an atomic or a cas does (R260, R291, R292). -/
def atomicHow (x : Access) : How where
  need := ⟨true, true, false⟩
  label := x.label.toNat
  reads := true
  writes := true
  load := true
  atomic := true
  size := x.size.toNat
  align := Access.bytes x
  scope := x.scope.toNat
  hint := x.hint.toNat
  object := false
  peer := true

/-- Reads each lane's bytes, in ascending lane order. -/
def Cx.readAll (cx : Cx) (h : How) : State → List (Req × List Piece) → State × List (Req × List Byte)
  | s, [] => (s, [])
  | s, (r, ps) :: rest =>
    let a := State.readAt cx.viewer h (cx.toucher h.label h.reads h.writes r.phys) s ps
    let q := cx.readAll h a.1 rest
    (q.1, (r, a.2) :: q.2)

/-- The bytes of a load: those that came first, where the host returned it in halves, with those read now (R468). -/
def Cx.readLoad (cx : Cx) (h : How) (s : State) (ps : List (Req × List Piece)) : State × List (Req × List Byte) :=
  let r := cx.readAll h s ps
  if s.tears h ps then
    (r.1.modGang cx.gid (fun g => { g with halves := g.halves.filter (fun x => x.reader ≠ cx.reader) }),
      r.2.map (fun e => (e.1, joinHalves cx.halves e.1 e.2)))
  else r

/-- ld and u.ld (R285). -/
def loadOp (i : Instr) (uniform : Bool) (d a : Reg) (x : Access) (s : State) : Host.Outcome State Fault Refusal :=
  run i s (fun cx t =>
    cx.access t (loadHow x) (labelBound x.label.toNat x.scope.toNat) noOwn (cx.reqs t uniform a x.offset (Access.bytes x)) (fun u ps =>
      let r := cx.readLoad (loadHow x) u ps
      cx.finish (cx.deliver r.1 uniform d x.regs (r.2.map (fun e => (e.1, loaded x e.2))))))

/-- st and u.st (R286). -/
def storeOp (i : Instr) (uniform : Bool) (d a : Reg) (x : Access) (s : State) : Host.Outcome State Fault Refusal :=
  run i s (fun cx t =>
    let rs := cx.reqs t uniform a x.offset (Access.bytes x)
    match cx.shadowSplit t a x.offset [(d, x.regs)] rs with
    | some h => cx.stop t h
    | none =>
      cx.access t (storeHow x) (labelBound x.label.toNat x.scope.toNat) noOwn rs (fun u ps =>
        let v := ps.foldl (fun q e =>
          let bs := bytesOf (Access.bytes x) (cx.rdn t e.1.phys d.toNat x.regs)
          cx.storeParams (State.writeAt cx.viewer (storeHow x) (cx.toucher x.label.toNat false true e.1.phys) q e.2 bs) e.1 bs) u
        cx.finish (cx.counted v (x.label = 2 || x.scope = 4))))

/-! ### Atomics -/

/-- The new value of R290. -/
def atomNew (op n old x : Nat) : Nat :=
  let w := 8 * n
  let f := if n = 4 then Fmt.f32 else Fmt.f64
  let lt := sext old w ≤ sext x w
  if op = 0 then (old + x) % 2 ^ w
  else if op = 1 then (f.add 0 old x).1
  else if op = 2 then (if lt then old else x)
  else if op = 3 then (if lt then x else old)
  else if op = 4 then min old x
  else if op = 5 then max old x
  else if op = 6 then (f.minmax false old x).1
  else if op = 7 then (f.minmax true old x).1
  else if op = 8 then old &&& x
  else if op = 9 then old ||| x
  else if op = 10 then old ^^^ x
  else x

/-- Faults of an atomic's own: the link is down (R296, R448), or an AtomicOp that is none of R294 or of no supported size. -/
def atomicOwn (n size : Nat) (isOp : Bool) : State → Req → List Piece → Option (Nat × Nat × Nat) := fun s r ps =>
  if ps.any (fun p => match p.place with
    | .cellar _ _ => true
    | _ => false) then
    if s.link = .down then some (0x0D, r.va, 0)
    else if s.link = .fallback && (!isOp || !Config.rootSupports n) then some (0x0E, r.va, size)
    else none
  else none

def isPeerPiece (p : Piece) : Bool :=
  match p.place with
  | .peer _ => true
  | _ => false

def isCellarPiece (p : Piece) : Bool :=
  match p.place with
  | .cellar _ _ => true
  | _ => false

/-- Whether an atomic on the cellar is performed by the host: at system scope over CXL, and always by AtomicOps (R293, R294). -/
def State.hostAtomic (s : State) (h : How) (ps : List Piece) : Bool := ps.any isCellarPiece && (h.scope = 4 || s.link = .fallback)

/-- One indivisible update: read at the home, and written where the operation writes; its old value. One that a home slice
performs on a cellar word is not indivisible with respect to the host (R293); one that the host performs snoops the slice's copy out
(R467). -/
def Cx.update (cx : Cx) (h : How) (f : Nat → Option Nat) (s : State) (r : Req) (ps : List Piece) : State × Nat :=
  let t := cx.toucher h.label true true r.phys
  let a := State.readAt cx.viewer h t s ps
  let old := ofBytes a.2
  match f old with
  | none => (a.1, old)
  | some v =>
    let w := State.writeAt cx.viewer h { t with reads := false, writes := false } a.1 ps (bytesOf r.n v)
    let words := ps.flatMap (fun p => match p.place with
      | .cellar pa _ => wordsTouched pa p.n
      | _ => [])
    let u := if words.isEmpty then w
      else if s.hostAtomic h ps then (words.map (· / 32)).dedup.foldl State.snoopOut w
      else { w with narrow := (w.narrow ++ words).dedup }
    (cx.storeParams u r (bytesOf r.n v), old)

/-- A request to a peer takes the next sequence id of its destination; the peer's answer is not the device's to say, so the
old value is free (R295). -/
def Cx.remote (cx : Cx) (s : State) (r : Req) (ps : List Piece) : State × Nat × Nat × Nat :=
  let pa := (ps.findSome? (fun p => match p.place with
    | .peer a => some a
    | _ => none)).getD 0
  let peer := peerOf pa
  let seq := Tab.getD s.peerSeq peer 0
  let s1 := ps.foldl (fun q p => q.announcePiece cx.viewer (cx.toucher 0 false false r.phys) p none) s
  ({ s1 with peerSeq := Tab.put s1.peerSeq peer ((seq + 1) % 2 ^ 32) }, Config.freeWord s.serial (2 ^ 20 + r.phys) % 2 ^ (8 * r.n), seq, peer)

/-- What becomes of one lane's update: its old value, an answer that never comes (R296) or has expired (R295), or an error
response, after which the request is sent again. -/
inductive Answer where
  | old (x : Nat)
  | lost
  | expired (seq : Nat)
  | error (seq peer : Nat)
  deriving DecidableEq, Repr

/-- Each lane's update in ascending order, local or remote. A request to a peer may get an error response; a helper, which does
not park, has it sent again at once. The completion of one that the host performs may be lost, and it may then have been applied
or not (R296). -/
def Cx.updateAll (cx : Cx) (h : How) (f : Req → Nat → Option Nat) :
    State → List (Req × List Piece) → State × List (Req × Answer)
  | s, [] => (s, [])
  | s, (r, ps) :: rest =>
    if ps.any isPeerPiece then
      let a := cx.remote (ps.foldl (fun q p => q.announcePiece cx.viewer (cx.toucher h.label true true r.phys) p none) s) r ps
      let q := cx.updateAll h f a.1 rest
      let fate := s.pick (300 + r.phys) 3
      (q.1, (r, if fate = 0 then .old a.2.1
        else if cx.index = 0 then .error a.2.2.1 a.2.2.2
        else if fate = 1 then .expired a.2.2.1 else .old a.2.1) :: q.2)
    else
      let a := cx.update h (f r) s r ps
      let fate := if s.hostAtomic h ps then s.pick (300 + r.phys) 3 else 0
      let q := cx.updateAll h f (if fate = 2 then s else a.1) rest
      (q.1, (r, if fate = 0 then .old a.2 else .lost) :: q.2)

/-- A completed atomic: its old values delivered, and its release counted (R225). -/
def Cx.completeAtomic (cx : Cx) (s : State) (uniform : Bool) (d : Reg) (x : Access) (counts : Bool) (vs : List (Req × Nat)) : State :=
  cx.finish (cx.counted (cx.deliver s uniform d x.regs vs) counts)

/-- Performs atomics or cas of all lanes and delivers the old values; where a peer answers with an error, the split waits
to send its request again (R295); where an answer has expired or is lost, cause 0x0D is raised for its lane, no register is
written, and what has been applied stands (R295, R296). -/
def atomicOp (i : Instr) (uniform : Bool) (d a b : Reg) (x : Access) (isOp : Bool) (data : List (Reg × Nat))
    (f : Cx → State → Req → Nat → Option Nat) (s : State) : Host.Outcome State Fault Refusal :=
  let _ := b
  run i s (fun cx t =>
    let n := Access.bytes x
    let rs := cx.reqs t uniform a x.offset n
    match cx.shadowSplit t a x.offset data rs with
    | some h => cx.stop t h
    | none =>
      cx.access t (atomicHow x) (labelBound x.label.toNat x.scope.toNat) (atomicOwn n x.size.toNat isOp) rs (fun u ps =>
        let r := cx.updateAll (atomicHow x) (f cx t) u ps
        let counts := x.label = 2 || x.label = 3 || (4 ≤ x.label.toNat && x.scope ≠ 0) || x.scope = 4
        let reqs := r.2.map (fun e => (⟨e.1.vis, e.1.va, match e.2 with
          | .expired q => q
          | .error q _ => q
          | _ => 0, match e.2 with
          | .error _ p => p
          | _ => 0, match e.2 with
          | .old v => some (some v)
          | .error _ _ => none
          | _ => some none⟩ : RemoteReq))
        if reqs.any (fun q => q.answer.isNone) then cx.park r.1 (.remote d.toNat x.regs uniform counts reqs)
        else match reqs.filter (fun q => q.answer = some none) with
          | e :: es => cx.fault r.1 0x0D (maskOf ((e :: es).map RemoteReq.lane)) e.va e.seq
          | [] => cx.completeAtomic r.1 uniform d x counts (r.2.filterMap (fun e => match e.2 with
              | .old v => some (e.1, v)
              | _ => none))))

/-- atom and u.atom (R290, R291). -/
def atomOp (i : Instr) (uniform : Bool) (d a b : Reg) (x : Access) (s : State) : Host.Outcome State Fault Refusal :=
  let op := x.op.toNat
  atomicOp i uniform d a b x (op = 0 || op = 11) [(b, x.regs)]
    (fun cx t r old => some (atomNew op (Access.bytes x) old (cx.rdn t r.phys b.toNat x.regs))) s

/-- cas, cas2 and u.cas (R292). -/
def casOp (i : Instr) (uniform : Bool) (d a b : Reg) (x : Access) (s : State) : Host.Outcome State Fault Refusal :=
  atomicOp i uniform d a b x true [(d, x.regs), (b, x.regs)]
    (fun cx t r old => if old = cx.rdn t r.phys d.toNat x.regs then some (cx.rdn t r.phys b.toNat x.regs) else none) s

end Sys2Proof.Machine
end

