-- ==== Sys2Proof/Machine/Barrier.lean ====
section
/-!
DEFINITION. Machine/Barrier.lean: phase barriers (R301 to R304), fences and splits (R299, R300), ring waits (R305), counter
waits (R400), and the wakes of parked splits (R303, R305, R400, R405, R446).
-/

namespace Sys2Proof.Machine

open Sys2Proof

/-! ### The object -/

def barExpect (x : Nat) : Nat := bits x 15 0
def barPending (x : Nat) : Nat := bits x 31 16
def barPhase (x : Nat) : Nat := bits x 63 32
def barObject (expect pending phase : Nat) : Nat := expect % 2 ^ 16 + pending % 2 ^ 16 * 2 ^ 16 + phase % 2 ^ 32 * 2 ^ 32

/-- The object after an initialisation, or the reason of R304. -/
def barInitialised (x count : Nat) : Except Nat Nat :=
  if count = 0 ∨ 65535 < count then .error 1
  else if barExpect x ≠ 0 ∧ barPending x ≠ barExpect x then .error 2
  else .ok (barObject count count 0)

/-- The object after an arrival, or the reason of R304. -/
def barArrived (x count : Nat) : Except Nat Nat :=
  if barExpect x = 0 then .error 0
  else if count = 0 ∨ barPending x < count then .error 3
  else if barPending x = count then .ok (barObject (barExpect x) (barExpect x) (barPhase x + 1))
  else .ok (barObject (barExpect x) (barPending x - count) (barPhase x))

/-- What an instruction does at a barrier object (R301). -/
def barHow (label : Nat) (reads writes : Bool) (scope : Nat) : How where
  need := ⟨true, writes, false⟩
  label := label
  reads := reads
  writes := writes
  load := true
  atomic := true
  size := 3
  align := 8
  scope := scope
  hint := 0
  object := true
  peer := false

/-- A toucher that leaves no mark. -/
def silent (core : Nat) : Toucher := ⟨core, 0, 0, 0, 1, 1, false, false, none⟩

/-- The value at some pieces as their home holds it. -/
def State.peek (s : State) (v : Viewer) (ps : List Piece) : Nat :=
  ofBytes (State.readAt v (barHow 1 false false 0) (silent v.core) s ps).2

/-- Cause 0x28 with its reason (R304). -/
def barOwn (v : Viewer) (f : Nat → Except Nat Nat) : State → Req → List Piece → Option (Nat × Nat × Nat) := fun s r ps =>
  let x := s.peek v ps
  match f x with
  | .ok _ => none
  | .error reason => some (0x28, r.va, reason + barPending x * 2 ^ 3)

/-- The new object stored, marked as the access of one thread. -/
def Cx.storeObject (cx : Cx) (h : How) (s : State) (r : Req) (ps : List Piece) (x : Nat) : State :=
  State.writeAt cx.viewer h (cx.toucher h.label h.reads h.writes r.phys) s ps (bytesOf 8 x)

def Cx.barReq (cx : Cx) (s : State) (a : Reg) (n : Nat) : List Req := [⟨cx.low, cx.lowPhys, cx.rd2 s cx.lowPhys a.toNat, n⟩]

/-- Initialisation and arrival: the check, the object's change, and for an arrival the release (R303, R255). -/
def Cx.barUpdate (cx : Cx) (s : State) (a : Reg) (h : How) (b : Bound) (f : Nat → Except Nat Nat)
    (k : State → Nat → State) : State :=
  cx.access s h b (barOwn cx.viewer f) (cx.barReq s a 8) (fun u ps =>
    match ps with
    | (r, p) :: _ =>
      let x := u.peek cx.viewer p
      match f x with
      | .ok y => k (cx.storeObject h u r p y) x
      | .error _ => u
    | [] => u)

/-- bar.init (R303). -/
def execBarInit (d a : Reg) (b : Src) (s : State) : Host.Outcome State Fault Refusal :=
  run (.barInit d a b) s (fun cx t =>
    let count := ((⟨cx, t⟩ : Lanes).src cx.lowPhys b).toNat
    cx.barUpdate t a (barHow 2 false true d.toNat) ⟨false, false, d.toNat⟩ (fun x => barInitialised x count)
      (fun u _ => cx.finish (cx.counted u (d = 4))))

/-- bar.arrive (R303). -/
def execBarArrive (d a : Reg) (b : Src) (s : State) : Host.Outcome State Fault Refusal :=
  run (.barArrive d a b) s (fun cx t =>
    let count := ((⟨cx, t⟩ : Lanes).src cx.lowPhys b).toNat
    cx.barUpdate t a (barHow 2 true true d.toNat) ⟨true, false, d.toNat⟩ (fun x => barArrived x count)
      (fun u _ => cx.finish (cx.counted u true)))

/-- The end of a wait: the acquire boundary, then on (R303, R255). -/
def Cx.acquired (cx : Cx) (s : State) (scope : Nat) (read : State → State) : State :=
  cx.boundAfter (read (s.advance cx.b)) ⟨false, true, scope⟩

/-- The block, after its interval has moved on. -/
def Cx.renewed (cx : Cx) : Cx := { cx with b := { cx.b with opened := false } }

/-- bar.wait (R303). -/
def execBarWait (d a : Reg) (b : Src) (s : State) : Host.Outcome State Fault Refusal :=
  run (.barWait d a b) s (fun cx t =>
    let p := ((⟨cx, t⟩ : Lanes).src cx.lowPhys b).toNat
    let h := barHow 1 true false d.toNat
    cx.access t h ⟨false, false, d.toNat⟩ noOwn (cx.barReq t a 8) (fun u ps =>
      let read := fun (q : State) => (cx.readAll h q ps).1
      if barPhase (u.peek cx.viewer (ps.flatMap Prod.snd)) ≠ p then cx.finish (cx.acquired u d.toNat read)
      else cx.park (read u) (.barrier (cx.rd2 t cx.lowPhys a.toNat) p d.toNat)))

/-- bar.sync (R303): an arrival, then the wait past the phase before it. -/
def execBarSync (d a : Reg) (b : Src) (s : State) : Host.Outcome State Fault Refusal :=
  run (.barSync d a b) s (fun cx t =>
    let count := ((⟨cx, t⟩ : Lanes).src cx.lowPhys b).toNat
    cx.barUpdate t a (barHow 3 true true d.toNat) ⟨true, false, d.toNat⟩ (fun x => barArrived x count)
      (fun u x =>
        let v := cx.counted u true
        -- the wait's own boundary, where it must wait for a wrap, is made when the split wakes (R271)
        if barPending x = count && !v.wraps cx.renewed.b then cx.finish (cx.renewed.acquired v d.toNat id)
        else cx.park v (.barrier (cx.rd2 t cx.lowPhys a.toNat) (barPhase x) d.toNat)))

/-! ### Fences, splits, rings and counters -/

/-- fence (R299): a boundary at cluster scope or wider; at block scope it waits for the block's split-phase loads, the only
accesses not acknowledged yet. -/
def execFence (scope : BitVec 3) (s : State) : Host.Outcome State Fault Refusal :=
  run (.fence scope) s (fun cx t =>
    let b : Bound := ⟨true, true, scope.toNat⟩
    if scope = 0 then (if t.loadsOut cx.b then cx.again t else cx.finish t)
    else
      if cx.remoteOut t b then cx.again t
      else match cx.peerLost t b with
      | some a => cx.fault t 9 cx.perform a 0
      | none => cx.finish (cx.boundAfter (cx.boundBefore t b) b))

/-- u.isplit (R300). -/
def execUIsplit (s : State) : Host.Outcome State Fault Refusal := run .uIsplit s (fun cx t => cx.finish (t.split cx.b))

/-- Whether a word has moved past a value (R305). -/
def ringPast (w past : Nat) : Bool := (w + 2 ^ 32 - past) % 2 ^ 32 < 2 ^ 31

/-- What u.waitring does at its word. -/
def ringHow (scope : Nat) : How where
  need := ⟨true, false, false⟩
  label := 1
  reads := true
  writes := false
  load := true
  atomic := false
  size := 2
  align := 4
  scope := scope
  hint := 0
  object := false
  peer := false

/-- u.waitring (R305): only the final read of the word is an access. -/
def execUWaitring (d a : Reg) (b : Src) (s : State) : Host.Outcome State Fault Refusal :=
  run (.uWaitring d a b) s (fun cx t =>
    let past := ((⟨cx, t⟩ : Lanes).src cx.lowPhys b).toNat
    let h := ringHow d.toNat
    let rs := cx.barReq t a 4
    let v := cx.viewer
    match t.check v h (cx.toucher 1 true false) false noOwn rs with
    | .go u ps =>
      let all := ps.flatMap Prod.snd
      if ringPast (u.peek v all) past || u.lostData v h all then
        cx.access t h ⟨false, true, d.toNat⟩ noOwn rs (fun w qs => cx.finish (cx.readAll h w qs).1)
      else cx.park u (.ring (cx.rd2 t cx.lowPhys a.toNat) past d.toNat)
    | _ => cx.access t h ⟨false, true, d.toNat⟩ noOwn rs (fun w _ => cx.finish w))

/-- Whether a counter has reached a threshold (R400). -/
def counterPast (c : Word) (past : Nat) : Bool := (c.toNat % 2 ^ 16 + 2 ^ 16 - past) % 2 ^ 16 < 2 ^ 15

/-- waitc (R400). -/
def execWaitc (d : Reg) (imm : BitVec 16) (s : State) : Host.Outcome State Fault Refusal :=
  run (.waitc d imm) s (fun cx t =>
    if counterPast (Tab.getD cx.g.acs d.toNat 0) imm.toNat then cx.finish t
    else cx.park t (.counter d.toNat imm.toNat))

/-! ### Wakes -/

/-- Runs a wake on the split at a place of a gang's current tree. -/
def wakeAt (bid g place : Nat) (s : State) (f : Gang → Block → Split → State) : Host.Outcome State Fault Refusal :=
  .next (match s.gang? (gangId bid g), s.block? bid with
  | some y, some b =>
    match Tab.look y.tree.splits place with
    | some x => f y b x
    | none => s
  | _, _ => s)

/-- The pieces of a word that a parked split watches, while its page translates. -/
def State.watched (s : State) (b : Block) (va n : Nat) : Option (List Piece) :=
  match s.address (b.viewer true) ⟨false, false, false⟩ va n with
  | .pieces ps => some ps
  | _ => none

/-- BARRIER_WAIT_WAKE (R303): the home reports that the phase has moved on; the acquire is checked like any access (R262) and made,
stamped anew (R256). -/
def execBarrierWaitWake (bid g place : Nat) (s : State) : Host.Outcome State Fault Refusal :=
  wakeAt bid g place s (fun y b x =>
    match x.park with
    | .barrier va phase scope =>
      match s.watched b va 8 with
      | none => s
      | some ps =>
        let v := b.viewer true
        if barPhase (s.peek v ps) = phase then s
        else if s.boundaryWaits b then s.askWrap b
        else
          let l := y.prime (lowLane x.mask)
          let t : Toucher := ⟨b.core, b.slot, y.num, l, 1, 1, true, false, none⟩
          let h := barHow 1 true false scope
          match s.check v h (fun _ => t) true noOwn [⟨lowLane x.mask, l, va, 8⟩] with
          | .fault u f =>
            if y.pending.isSome then s
            else (u.wake (gangId bid g) place (s.cycle b.core)).takeTrap (gangId bid g)
              ⟨f.cause, f.lanes, x.pc, BitVec.ofNat 64 f.addr, BitVec.ofNat 64 f.info, place⟩
          | .untranslated _ _ _ _ _ _ => s
          | .wait u => u
          | .go u qs =>
            let s1 := (State.readAt v h t (u.advance b) (qs.flatMap Prod.snd)).1
            let s2 := if 1 ≤ scope then s1.acquireHalf b else s1
            (if y.role = 2 then s2.emptyParams b else s2).wakeNext (gangId bid g) place (s.cycle b.core)
    | _ => s)

/-- WAITC_WAKE (R400): the counter has passed; a fault held for a load on it is taken at the instruction instead. -/
def execWaitcWake (bid g place : Nat) (s : State) : Host.Outcome State Fault Refusal :=
  wakeAt bid g place s (fun y b x =>
    match x.park with
    | .counter n past =>
      if y.ldas.any (fun l => l.counter = n && !l.held.isEmpty && l.counted && l.taken.isNone) then
        s.wake (gangId bid g) place (s.cycle b.core)
      else if counterPast (Tab.getD y.acs n 0) past then s.wakeNext (gangId bid g) place (s.cycle b.core)
      else s
    | _ => s)

/-- WAITRING_WAKE (R305): the word has moved on, and the split makes its final read, the acquire. -/
def execWaitringWake (bid g place : Nat) (s : State) : Host.Outcome State Fault Refusal :=
  wakeAt bid g place s (fun _ b x =>
    match x.park with
    | .ring va past _ =>
      match s.watched b va 4 with
      | none => s
      | some ps =>
        if ringPast (s.peek (b.viewer true) ps) past || s.lostData (b.viewer true) (ringHow 0) ps then
          s.wake (gangId bid g) place (s.cycle b.core)
        else s
    | _ => s)

/-- RESOURCE_WAKE (R405): the split tests its condition afresh at its instruction; one whose access has been refused raises
cause 0x09 there (R429). -/
def execResourceWake (bid g place : Nat) (s : State) : Host.Outcome State Fault Refusal :=
  wakeAt bid g place s (fun y b x =>
    let gid := gangId bid g
    match x.park with
    | .resource => s.wake gid place (s.cycle b.core)
    | .refused va lanes =>
      if y.pending.isSome then s
      else (s.wake gid place (s.cycle b.core)).takeTrap gid ⟨9, lanes, x.pc, BitVec.ofNat 64 va, 0, place⟩
    | .rendezvous _ _ _ _ =>
      -- a quartet that is complete waits for room in the FIFO, in the range-lock table or in a stash line
      if ((List.range 4).all (fun q => match s.gang? (gangId bid (g / 4 * 4 + q)) with
        | some z => z.tree.splits.any (fun e => e.2.park.meets)
        | none => false)) then s.wake gid place (s.cycle b.core) else s
    | _ => s)

/-- SLEEP_EXPIRY (R446). -/
def execSleepExpiry (bid g place : Nat) (s : State) : Host.Outcome State Fault Refusal :=
  wakeAt bid g place s (fun _ b x =>
    match x.park with
    | .sleep until_ => if until_ ≤ s.clock then s.wakeNext (gangId bid g) place (s.cycle b.core) else s
    | _ => s)

/-- FIRST_TOUCH_FILL (R242, R432): a mapped line takes the data behind it, and its presence bit is set. Words of the line that the
core's own L1 holds dirty are written back first and the line is dropped there: DESIGN CHOICE (R244 does not say whether the fill sees
them; log entry 114). -/
def execFirstTouchFill (bid line : Nat) (s : State) : Host.Outcome State Fault Refusal :=
  .next (match s.block? bid with
  | none => s
  | some b =>
    if !b.fills.contains line then s
    else
      let done := fun (t : State) => t.modBlock bid (fun x => { x with fills := x.fills.filter (· ≠ line) })
      match b.mapEntry (128 * line) with
      | none => done s
      | some e =>
        match s.backPa (b.viewer true) (e.g + (128 * line - e.s)) with
        | none => done s
        | some pa =>
          match s.atHome b.asid e.hint (pa / 128) with
          | none => s
          | some s1 =>
            let s2 := (s1.yieldL1 b.core (pa / 128 * 128) 128).copyBytes (pa / 128 * 128) (stashKey b.core (b.stashBase + 128 * line)) 128
            (done s2).modBlock bid (fun x => { x with absent := x.absent.filter (· ≠ line) }))

end Sys2Proof.Machine
end

