-- ==== Sys2Proof/Machine/Control.lean ====
section
/-!
DEFINITION. Machine/Control.lean: control flow over the split table (R406 to R416, R419), with the trace packets of R348
and R476.
-/

namespace Sys2Proof.Machine

open Sys2Proof

/-- The place whose number a packet of the issuer carries: a participant has that of its recruiter's split (R477). -/
def Cx.tracePlace (cx : Cx) : Nat :=
  if cx.index = 0 then cx.place
  else ((cx.g.tree.splits.find? (fun p => p.2.mask = cx.active)).map Prod.fst).getD 0

/-- A branch packet of the issuer (R347, R348, R476). -/
def Cx.traced (cx : Cx) (s : State) (taken : Mask) : State := s.traceBranch cx.gid cx.g.num cx.tracePlace taken

/-- Changes the gang's tree, and writes the flags of the records that fuse. -/
def Cx.retree (cx : Cx) (s : State) (f : Tree → Tree × FlagWrites) : State :=
  match s.gang? cx.gid with
  | none => s
  | some g =>
    let (t, fw) := f g.tree
    (s.modGang cx.gid (fun x => { x with tree := t })).setFlags cx.gid cx.cyc fw

/-- The issuing split divides into groups; the first keeps its place and its age (R407, R409). -/
def Cx.diverge (cx : Cx) (s : State) (join : Option Dword) (groups : List (Mask × Dword)) : State :=
  cx.retree s (fun t => (match Tab.look t.splits cx.place with
    | some x => t.diverge cx.g.heldIds cx.place x cx.cyc join groups
    | none => t, []))

/-- bra (R407): the lanes whose predicate holds go to the target, the others on. -/
def execBra (t j : BitVec 12) (s : State) : Host.Outcome State Fault Refusal :=
  run (.bra t j) s (fun cx u =>
    let taken := cx.perform
    let rest := cx.active &&& ~~~taken
    let u1 := cx.traced u taken
    if taken = 0 then cx.finish u1
    else if rest = 0 then cx.goto u1 (jTarget cx.pc t)
    else cx.diverge (cx.finish u1) (if j = 0 then none else some (jTarget cx.pc j)) [(rest, cx.next), (taken, jTarget cx.pc t)])

/-- Lanes in groups of one target each, in ascending order of their lowest lane. -/
def groupLanes (xs : List (Nat × Dword)) : List (Mask × Dword) :=
  (xs.map Prod.snd).reverse.dedup.reverse.map (fun d => (maskOf ((xs.filter (fun x => x.2 = d)).map Prod.fst), d))

/-- The lanes whose copies disagree on where they go (R221). -/
def Cx.targetSplit (cx : Cx) (s : State) (a : Reg) (lanes : Mask) : Mask :=
  maskOf ((lanesOf lanes).filter (fun l => (cx.g.phys l).any (fun p => cx.rd2 s p a.toNat ≠ cx.rd2 s (cx.g.prime l) a.toNat)))

/-- brx (R409): every lane goes to its own target. -/
def execBrx (x : Bool) (a : Reg) (b : Src) (s : State) : Host.Outcome State Fault Refusal :=
  run (.brx x a b) s (fun cx u =>
    let target := fun (l : Nat) => BitVec.ofNat 64 (cx.rd2 u (cx.g.prime l) a.toNat)
    let lanes := lanesOf cx.perform
    let bad := lanes.filter (fun l => u.pcInvalid cx.viewer (target l))
    let split := cx.targetSplit u a cx.perform
    if split ≠ 0 then cx.fault u 0x21 split 0 (2 + lowLane split * 4)
    else
      match bad with
      | l :: _ => cx.fault u 2 (maskOf bad) (target l).toNat 0
      | [] =>
        let u1 := cx.traced u cx.perform
        let u2 := match lanes with
          | l :: _ => u1.traceTarget cx.gid cx.g.num (target l)
          | [] => u1
        let rest := cx.active &&& ~~~cx.perform
        let goes := groupLanes (lanes.map (fun l => (l, target l)))
        let join := if !x then none else some (match b with
          | .reg n => BitVec.ofNat 64 (cx.rd2 u cx.lowPhys n.toNat)
          | .lit32 w => pcBase cx.pc + w.signExtend 64 * 16 + 4
          | .lit64 w => w)
        match goes with
        | [] => cx.finish u2
        | g :: gs =>
          if gs.isEmpty && rest = 0 then cx.goto u2 g.2
          else if rest ≠ 0 && lowLane rest < lowLane g.1 then cx.diverge (cx.finish u2) join ((rest, cx.next) :: g :: gs)
          else
            let others := if rest = 0 then gs else (gs.takeWhile (fun e => lowLane e.1 < lowLane rest)) ++
              [(rest, cx.next)] ++ gs.dropWhile (fun e => lowLane e.1 < lowLane rest)
            cx.diverge (cx.goto u2 g.2) join (g :: others))

/-- call (R413). -/
def execCall (t : BitVec 12) (l : Reg) (s : State) : Host.Outcome State Fault Refusal :=
  run (.call t l) s (fun cx u =>
    cx.goto (cx.uniform (cx.traced u cx.active) l 2 (fun _ => cx.next.toNat)) (jTarget cx.pc t))

/-- ret (R413). -/
def execRet (a : Reg) (s : State) : Host.Outcome State Fault Refusal :=
  run (.ret a) s (fun cx u =>
    let target := BitVec.ofNat 64 (cx.rd2 u cx.lowPhys a.toNat)
    let split := cx.targetSplit u a (maskOf [cx.low])
    if split ≠ 0 then cx.fault u 0x21 split 0 (2 + lowLane split * 4)
    else if u.pcInvalid cx.viewer target then cx.fault u 2 cx.active target.toNat 0
    else cx.goto ((cx.traced u cx.active).traceTarget cx.gid cx.g.num target) target)

/-- Whether the issuing split stands at its record's join PC (R410). -/
def Cx.arrives (cx : Cx) : Option Split :=
  if cx.body.isSome then none
  else (Tab.look cx.g.tree.splits cx.place).filter (fun x =>
    match cx.g.tree.record? x.rec_ with
    | some (_, r) => r.jpc = cx.pc
    | none => false)

/-- Arrival through join or joinw; elsewhere only the stall count (R410, R411, R419). -/
def Cx.joins (cx : Cx) (s : State) (wait : Option (Nat × Nat)) : State :=
  match cx.arrives with
  | none => cx.finish (cx.traced s 0)
  | some x => cx.retree (cx.traced s cx.active) (fun t => (t.arrive cx.place x cx.cyc wait).settleAll cx.cyc)

/-- join (R410). -/
def execJoin (s : State) : Host.Outcome State Fault Refusal := run .join s (fun cx u => cx.joins u none)

/-- joinw (R411). -/
def execJoinw (d : Reg) (imm : BitVec 16) (s : State) : Host.Outcome State Fault Refusal :=
  run (.joinw d imm) s (fun cx u => cx.joins u (some (cx.g.regCode d.toNat, imm.toNat)))

/-- JOINW_TIMEOUT (R411): the timer of the record in a place has run out before it fused. -/
def execJoinwTimeout (bid g place : Nat) (s : State) : Host.Outcome State Fault Refusal :=
  let gid := gangId bid g
  .next (match s.gang? gid, s.block? bid with
  | some y, some b =>
    let cyc := s.cycle b.core
    match Tab.look y.tree.recs place with
    | some r =>
      if r.armed && r.timer ≤ cyc - r.armedAt && (y.tree.fate r = .wait) && !((s.team? b.team).map Team.frozen).getD false then
        let (t, fw) := y.tree.timeout cyc r
        let (t1, fw1) := t.settleAll cyc
        (s.modGang gid (fun x => { x with tree := t1 })).setFlags gid cyc (fw ++ fw1)
      else s
    | none => s
  | _, _ => s)

/-- The split's turn ends: nothing in the next cycle, and its age starts again after it (R414). -/
def Cx.yields (cx : Cx) (s : State) : State :=
  (cx.move s cx.next (max cx.ready (cx.cyc + 2)) false).modSplit cx.gid cx.place (fun x => { x with since := cx.cyc + 2 })

/-- yield (R414). -/
def execYield (s : State) : Host.Outcome State Fault Refusal := run .yield s (fun cx u => cx.yields u)

/-- sleep (R446). -/
def execSleep (imm : BitVec 16) (s : State) : Host.Outcome State Fault Refusal :=
  run (.sleep imm) s (fun cx u => if imm = 0 then cx.yields u else cx.park u (.sleep (u.clock + imm.toNat * 64)))

/-- exit (R412): the lanes leave the gang; the others go on. -/
def execExit (s : State) : Host.Outcome State Fault Refusal :=
  run .exit s (fun cx u =>
    let u1 := cx.finish (cx.traced u cx.perform)
    if cx.perform = 0 then u1
    else
      ((u1.modGang cx.gid (fun g => { g.dropReserved cx.perform with exited := g.exited ||| cx.perform })).dropLanes
        cx.gid cx.cyc cx.perform).settleGang cx.gid cx.cyc)

/-- trap (R414). -/
def execTrap (imm : BitVec 16) (s : State) : Host.Outcome State Fault Refusal :=
  run (.trap imm) s (fun cx u => cx.fault u 0x25 cx.perform 0 imm.toNat)

/-- brk (R414). -/
def execBrk (imm : BitVec 16) (s : State) : Host.Outcome State Fault Refusal :=
  run (.brk imm) s (fun cx u => cx.fault u 0x24 cx.perform 0 imm.toNat)

/-- emsave (R415). -/
def execEmsave (d : Reg) (s : State) : Host.Outcome State Fault Refusal :=
  run (.emsave d) s (fun cx u => cx.finish (cx.uniform u d 1 (fun _ => cx.active.toNat)))

def Tree.setAside (t : Tree) (id : Nat) (m : Mask) : Tree :=
  if id = 0 then { t with rootAside := m } else t.modRec id (fun r => { r with aside := m })

/-- emset of a mask N that leaves a lane (R415): the split's new mask, its record's lanes set aside, and what fuses. -/
def Cx.emset (cx : Cx) (s : State) (n : Mask) : State :=
  match Tab.look cx.g.tree.splits cx.place with
  | none => s
  | some x =>
    let aside := cx.g.tree.asideOf x.rec_
    let add := n &&& aside
    let new := cx.newMask n
    (cx.retree (cx.finish s) (fun t =>
        ((t.setAside x.rec_ ((aside ||| (x.mask &&& ~~~new)) &&& ~~~add)).modSplit cx.place (fun y => { y with mask := new })).settleAll
          cx.cyc)).settleGang cx.gid cx.cyc

/-- emset (R415). -/
def execEmset (a : Reg) (s : State) : Host.Outcome State Fault Refusal :=
  run (.emset a) s (fun cx u => cx.emset u (cx.rd u cx.lowPhys a.toNat))

/-- nop (R79). -/
def execNop (s : State) : Host.Outcome State Fault Refusal := run .nop s (fun cx u => cx.finish u)

end Sys2Proof.Machine
end

