-- ==== Sys2Proof/Machine/Tiles.lean ====
section
/-!
DEFINITION. Machine/Tiles.lean: tiles in registers and in frames (R309 to R313), their strips (R314 to R316), comparison and
correction (R320, R321), the tile tag table and the accumulation records that rest on it (R317, R367).
-/

namespace Sys2Proof.Machine

open Sys2Proof

/-! ### Terms -/

/-- An element, or a sum, taken exactly (R314). -/
inductive Term where
  | fp (x : Fp)
  | int (v : Int)
  deriving DecidableEq, Repr

/-- Exact sum and product of two values under R107, R118: any NaN gives a NaN. -/
def Fp.plus (x y : Fp) : Fp := if x.isNan || y.isNan then .nan false else (x.addExact 0 y).1
def Fp.times (x y : Fp) : Fp := if x.isNan || y.isNan then .nan false else (x.mulExact y).1

/-- The floating-point format of a code from 0x00 to 0x05. -/
def fmtOf (f : Nat) : Fmt :=
  if f = 0 then .f64 else if f = 1 then .f32 else if f = 2 then .f16 else if f = 3 then .bf16 else if f = 4 then .fe4m3 else .fe5m2

def fmtInt (f : Nat) : Bool := 8 ≤ f

/-- The value of an element; e0 and e1 are the exponents of its BX block (R94, R101, R314). -/
def termOf (f x e0 e1 : Nat) : Term :=
  if f = 6 then .fp (bxDecode false x e0 e1)
  else if f = 7 then .fp (bxDecode true x e0 e1)
  else if f < 6 then .fp ((fmtOf f).decode x)
  else .int (if f % 2 = 0 then sext x (fmtBits f) else (x : Int))

def Term.abs : Term → Term
  | .fp x => .fp x.abs
  | .int v => .int v.natAbs

def Term.plus : Term → Term → Term
  | .fp x, .fp y => .fp (x.plus y)
  | .int x, .int y => .int (x + y)
  | _, _ => .fp (.nan false)

def Term.times : Term → Term → Term
  | .fp x, .fp y => .fp (x.times y)
  | .int x, .int y => .int (x * y)
  | _, _ => .fp (.nan false)

/-- Zero as the neutral start of an exact sum: the first term itself where there is one. -/
def exactSum (int : Bool) : List Term → Term
  | [] => if int then .int 0 else .fp (.fin false 0 0)
  | x :: xs => xs.foldl Term.plus x

/-! ### Strips -/

/-- The format of a strip over elements of a format (R314). -/
def stripFmt (f : Nat) : Fmt := if f = 0 then .f64 else .f32

/-- One addition of R315, on a strip value and an exact term. -/
def stripAdd (f : Nat) (u : Nat) (x : Term) : Nat :=
  match x with
  | .fp v => ((stripFmt f).deliver 0 false (((stripFmt f).decode u).plus v)).1
  | .int v => wrap (sext u 32 + v) 32

/-- The sum of terms in the order of R315. -/
def stripSum (f : Nat) (xs : List Term) : Nat := xs.foldl (stripAdd f) 0

/-- A strip: column sums and magnitudes, row sums and magnitudes. -/
structure Strip where
  cs : List Nat
  cm : List Nat
  rs : List Nat
  rm : List Nat
  deriving DecidableEq, Repr

def Strip.zero (m n : Nat) : Strip := ⟨List.replicate n 0, List.replicate n 0, List.replicate m 0, List.replicate m 0⟩

/-- The strip of rows of terms (R315). -/
def formStrip (f n : Nat) (rows : List (List Term)) : Strip :=
  let col := fun (j : Nat) => rows.map (fun r => r.getD j (.int 0))
  { cs := (List.range n).map (fun j => stripSum f (col j))
    cm := (List.range n).map (fun j => stripSum f ((col j).map Term.abs))
    rs := rows.map (stripSum f)
    rm := rows.map (fun r => stripSum f (r.map Term.abs)) }

/-! ### Tiles -/

/-- A tile: geometry with SHP zero, the elements of its rows as bit patterns, and the bytes of its scales in the order of
R312. -/
structure Tile where
  geom : Word
  elems : List (List Nat)
  scales : List Nat
  deriving DecidableEq, Repr

def Tile.m (t : Tile) : Nat := geomRows t.geom
def Tile.n (t : Tile) : Nat := geomCols t.geom
def Tile.fmt (t : Tile) : Nat := geomFmt t.geom

/-- The exact value of element (i, j). -/
def Tile.term (t : Tile) (i j x : Nat) : Term :=
  let b := 2 * (i * (t.n / geomLen t.geom) + j / geomLen t.geom)
  termOf t.fmt x (t.scales.getD b 0) (t.scales.getD (b + 1) 0)

def Tile.terms (t : Tile) : List (List Term) := t.elems.zipIdx.map (fun r => r.1.zipIdx.map (fun e => t.term r.2 e.2 e.1))
def Tile.strip (t : Tile) : Strip := formStrip t.fmt t.n t.terms
def Tile.at_ (t : Tile) (i j : Nat) : Nat := (t.elems.getD i []).getD j 0
def Tile.set (t : Tile) (i j x : Nat) : Tile := { t with elems := t.elems.set i ((t.elems.getD i []).set j x) }

/-! ### Comparison (R320, R321) -/

/-- Rows and columns that differ, and whether sums and magnitudes do. -/
structure Mismatch where
  rows : List Nat
  cols : List Nat
  sums : Bool
  mags : Bool
  deriving DecidableEq, Repr

/-- TINFO of causes 0x18 and 0x19 (R321). -/
def Mismatch.info (x : Mismatch) : Nat :=
  x.rows.headD 0xFF + x.cols.headD 0xFF * 2 ^ 8 + x.rows.length * 2 ^ 16 + x.cols.length * 2 ^ 24 +
    (if x.sums && x.mags then 2 else if x.mags then 1 else 0) * 2 ^ 32

/-- What a comparison finds: agreement; one element or one strip entry to be corrected; or rows and columns that differ. -/
inductive Verdict where
  | pass
  | element (i j y : Nat)
  | entry (s : Strip)
  | mismatch (x : Mismatch)
  deriving DecidableEq, Repr

/-- The indices at which two lists differ. -/
def differing (xs ys : List Nat) : List Nat := (List.range xs.length).filter (fun i => xs.getD i 0 ≠ ys.getD i 0)

/-- Whether an integer value fits an element format. -/
def fitsFmt (f : Nat) (v : Int) : Bool :=
  let b := fmtBits f
  if f % 2 = 0 then -(2 ^ (b - 1) : Int) ≤ v && v < 2 ^ (b - 1) else 0 ≤ v && v < 2 ^ b

/-- Compares a stored strip with the fresh one of a tile (R320). -/
def Tile.compare (t : Tile) (old : Strip) : Verdict :=
  let new := t.strip
  let rows := (List.range t.m).filter (fun i => (differing old.rs new.rs).contains i || (differing old.rm new.rm).contains i)
  let cols := (List.range t.n).filter (fun j => (differing old.cs new.cs).contains j || (differing old.cm new.cm).contains j)
  let sums := !(differing old.rs new.rs).isEmpty || !(differing old.cs new.cs).isEmpty
  let mags := !(differing old.rm new.rm).isEmpty || !(differing old.cm new.cm).isEmpty
  let bad := Verdict.mismatch ⟨rows, cols, sums, mags⟩
  let delta := fun (a b : List Nat) (i : Nat) => sext (wrap ((a.getD i 0 : Int) - b.getD i 0) 32) 32
  match rows, cols with
  | [], [] => .pass
  | [i], [j] =>
    if !fmtInt t.fmt then bad
    else
      let d := delta old.rs new.rs i
      let v : Int := match t.term i j (t.at_ i j) with
        | .int x => x + d
        | .fp _ => 0
      let y := wrap v (fmtBits t.fmt)
      if d ≠ delta old.cs new.cs j || d = 0 || !fitsFmt t.fmt v then bad
      else
        let s := (t.set i j y).strip
        if s.rs.getD i 0 = old.rs.getD i 0 && s.rm.getD i 0 = old.rm.getD i 0 && s.cs.getD j 0 = old.cs.getD j 0 &&
          s.cm.getD j 0 = old.cm.getD j 0 then .element i j y else bad
  | [i], [] => if fmtInt t.fmt then .entry { old with rs := old.rs.set i (new.rs.getD i 0), rm := old.rm.set i (new.rm.getD i 0) } else bad
  | [], [j] => if fmtInt t.fmt then .entry { old with cs := old.cs.set j (new.cs.getD j 0), cm := old.cm.set j (new.cm.getD j 0) } else bad
  | _, _ => bad

/-- What a comparison delivers to the destination: tile, strip and corrections made; or the mismatch. -/
def Tile.checked (t : Tile) (old : Strip) : Except Mismatch (Tile × Strip × Nat) :=
  match t.compare old with
  | .pass => .ok (t, old, 0)
  | .element i j y => .ok (t.set i j y, old, 1)
  | .entry s => .ok (t, s, 1)
  | .mismatch x => .error x

/-! ### Tile register blocks (R310, R311) -/

/-- A value of a register of a block, by visible lane and number. -/
abbrev BlockRead := Nat → Nat → Word

/-- Element (i, j) of a block at base d. -/
def blockElem (w d : Nat) (g : Word) (rd : BlockRead) (i j : Nat) : Nat :=
  let b := fmtBits (geomFmt g)
  let r := d + j / w * groupRegs g
  if b = 64 then (rd (j % w) (r + 2 * i)).toNat + 2 ^ 32 * (rd (j % w) (r + 2 * i + 1)).toNat
  else bits (rd (j % w) (r + i * b / 32)).toNat (i % (32 / b) * b + b - 1) (i % (32 / b) * b)

def blockTile (w d : Nat) (g : Word) (rd : BlockRead) (scales : List Nat) : Tile :=
  ⟨g, (List.range (geomRows g)).map (fun i => (List.range (geomCols g)).map (fun j => blockElem w d g rd i j)), scales⟩

def blockStrip (w d : Nat) (g : Word) (rd : BlockRead) : Strip :=
  let one := fun (kind k : Nat) =>
    let p := stripSlot w d g kind k
    wordsToNat ((List.range (stripRegs g)).map (fun e => rd p.2 (p.1 + e)))
  let cols := fun (kind : Nat) => (List.range (geomCols g)).map (one kind)
  let rows := fun (kind : Nat) => (List.range (geomRows g)).map (one kind)
  ⟨cols 0, cols 1, rows 2, rows 3⟩

/-- The word of element register r (from 0) in a lane; zero past the last column. -/
def elemWord (w : Nat) (t : Tile) (lane r : Nat) : Word :=
  let wc := groupRegs t.geom
  let j := r / wc * w + lane
  let k := r % wc
  let b := fmtBits t.fmt
  if t.n ≤ j then 0
  else if b = 64 then BitVec.ofNat 32 (t.at_ (k / 2) j / 2 ^ (32 * (k % 2)))
  else BitVec.ofNat 32 ((List.range (32 / b)).foldl (fun x e => x + t.at_ (k * (32 / b) + e) j % 2 ^ b * 2 ^ (b * e)) 0)

/-- Element registers to write: lane, register and word. -/
def elemWrites (w d : Nat) (t : Tile) : List (Nat × Nat × Word) :=
  (List.range w).flatMap (fun l => (List.range (colGroups w t.geom * groupRegs t.geom)).map (fun r => (l, d + r, elemWord w t l r)))

/-- Strip registers to write; lanes past the last row or column receive zero (R311). -/
def stripWrites (w d : Nat) (g : Word) (s : Strip) : List (Nat × Nat × Word) :=
  let q := stripRegs g
  let part := fun (kind groups : Nat) (xs : List Nat) => (List.range (groups * w)).flatMap (fun k =>
    let p := stripSlot w d g kind k
    (natToWords q (xs.getD k 0)).zipIdx.map (fun e => (p.2, p.1 + e.2, e.1)))
  part 0 (colGroups w g) s.cs ++ part 1 (colGroups w g) s.cm ++ part 2 (rowGroups w g) s.rs ++ part 3 (rowGroups w g) s.rm

/-- A gang's block registers as an instruction issued at a cycle reads them. -/
def Gang.blockRead (g : Gang) (s : State) (cyc : Nat) : BlockRead := fun l n => g.read s cyc (vKey (g.prime l) n)

/-- Writes block registers, in every copy of each visible lane: of lanes that have exited too, and of dead lanes: DESIGN CHOICE (R310,
R311 and R325 write every lane that a block uses; R13, R122 and R488 keep such a lane's registers; log entry 122). -/
def Gang.writeBlock (g : Gang) (cyc : Nat) (ws : List (Nat × Nat × Word)) : Gang :=
  g.writes cyc none (ws.flatMap (fun e => (g.phys e.1).map (fun p => (vKey p e.2.1, e.2.2))))

/-! ### Tags and records (R317, R318, R367) -/

def Gang.tagAt (g : Gang) (d : Nat) : Option Tag := g.tags.find? (fun t => t.base = d)

/-- Removes tags, and the records of their blocks. -/
def Gang.dropTags (g : Gang) (p : Tag → Bool) : Gang :=
  { g with tags := g.tags.filter (fun t => !p t), accs := g.accs.filter (fun a => !g.tags.any (fun t => p t && t.base = a.base)) }

/-- Removes every tag whose registers overlap a range. -/
def Gang.dropOverlapping (g : Gang) (d count : Nat) : Gang :=
  g.dropTags (fun t => t.base < d + count && d < t.base + blockRegs g.width t.geom)

/-- Creates a tag: overlapping ones go, and the oldest of nine (R317). -/
def Gang.setTag (g : Gang) (t : Tag) : Gang :=
  let h := g.dropOverlapping t.base (blockRegs g.width t.geom)
  let h1 := match h.tags.getLast? with
    | some old => if 8 ≤ h.tags.length then h.dropTags (fun x => x.base = old.base) else h
    | none => h
  { h1 with tags := t :: h1.tags }

/-- A block whose tag names it becomes stale, or one with a tag made for it (R318, R367). -/
def Gang.staleTag (g : Gang) (d : Nat) (geom : Word) : Gang :=
  match g.tagAt d with
  | some t => if t.geom = geom then { g with tags := g.tags.map (fun x => if x.base = d then { x with stale := true } else x) }
      else g.setTag ⟨d, geom, 0, true⟩
  | none => g.setTag ⟨d, geom, 0, true⟩

/-- The record of a block, and its creation, which frees the oldest of five (R366, R367). -/
def Gang.accAt (g : Gang) (d : Nat) : Option AccRec := g.accs.find? (fun a => a.base = d)
def Gang.freeAcc (g : Gang) (d : Nat) : Gang := { g with accs := g.accs.filter (fun a => a.base ≠ d) }
def Gang.newAcc (g : Gang) (a : AccRec) : Gang := { g with accs := (a :: (g.freeAcc a.base).accs).take 4 }

/-- Marks a block valid without touching its registers; there is a tag already. -/
def Gang.validTag (g : Gang) (d : Nat) : Gang := { g with tags := g.tags.map (fun x => if x.base = d then { x with stale := false } else x) }

/-! ### Frames (R312) -/

/-- A frame's header: geometry, row pitch and state. -/
structure Header where
  geom : Word
  stride : Nat
  state : Nat
  deriving DecidableEq, Repr

/-- The four header words as R312 allows them. -/
def frameHeader (w0 w1 w2 w3 : Nat) : Option Header :=
  let g : Word := BitVec.ofNat 32 w0
  let stride := w1 % 2 ^ 16
  let state := bits w1 17 16
  if !geomValid g || 2 ^ 18 ≤ w1 || state = 3 || w2 ≠ 0 || w3 ≠ 0 || stride % 16 ≠ 0 ||
    stride < ceilDiv (geomCols g * fmtBits (geomFmt g)) 8 then none
  else some ⟨g, stride, state⟩

/-- Bytes of a row, the least STRIDE, and the offsets of scales and strip in a frame. -/
def rowBytes (g : Word) : Nat := ceilDiv (geomCols g * fmtBits (geomFmt g)) 8
def leastStride (g : Word) : Nat := ceilDiv (rowBytes g) 16 * 16
def scaleBytes (g : Word) : Nat := if fmtBx (geomFmt g) then 2 * geomRows g * (geomCols g / geomLen g) else 0
def Header.x (h : Header) : Nat := 16 + geomRows h.geom * h.stride
def Header.y (h : Header) : Nat := if fmtBx (geomFmt h.geom) then ceilDiv (h.x + scaleBytes h.geom) 16 * 16 else h.x
def stripBytes (g : Word) : Nat := 2 * (geomRows g + geomCols g) * (4 * stripRegs g)
def Header.size (h : Header) : Nat := h.y + stripBytes h.geom

def Header.words (h : Header) : List Nat := [h.geom.toNat, h.stride + h.state * 2 ^ 16, 0, 0]

/-- The parts of a frame by offset: rows, scales and, where asked for, the strip. -/
def Header.parts (h : Header) (strip : Bool) : List (Nat × Nat) :=
  (List.range (geomRows h.geom)).map (fun i => (16 + i * h.stride, rowBytes h.geom)) ++
    (if scaleBytes h.geom = 0 then [] else [(h.x, scaleBytes h.geom)]) ++ (if strip then [(h.y, stripBytes h.geom)] else [])

/-- The elements of a packed row (R100). -/
def unpackRow (b n x : Nat) : List Nat := (List.range n).map (fun j => x / 2 ^ (j * b) % 2 ^ b)
def packRow (b : Nat) (xs : List Nat) : Nat := (xs.zipIdx).foldl (fun a e => a + e.1 % 2 ^ b * 2 ^ (b * e.2)) 0

/-- A frame's tile and strip, with a reader of n bytes from an offset of the frame. -/
def Header.tile (h : Header) (rd : Nat → Nat → List Byte) : Tile :=
  ⟨h.geom,
    (List.range (geomRows h.geom)).map (fun i =>
      unpackRow (fmtBits (geomFmt h.geom)) (geomCols h.geom) (ofBytes (rd (16 + i * h.stride) (rowBytes h.geom)))),
    (rd h.x (scaleBytes h.geom)).map BitVec.toNat⟩

/-- Values of a number of bytes each, read from bytes. -/
def valuesOf (q n : Nat) (bs : List Byte) : List Nat := (List.range n).map (fun k => ofBytes ((bs.drop (q * k)).take q))

def stripOf (g : Word) (bs : List Byte) : Strip :=
  let q := 4 * stripRegs g
  let m := geomRows g
  let n := geomCols g
  let v := valuesOf q (2 * (m + n)) bs
  ⟨v.take n, (v.drop n).take n, (v.drop (2 * n)).take m, v.drop (2 * n + m)⟩

def Strip.bytes (s : Strip) (g : Word) : List Byte := (s.cs ++ s.cm ++ s.rs ++ s.rm).flatMap (bytesOf (4 * stripRegs g))

/-- What a frame's bytes become, by offset: rows, scales and strip first, the header last (R325, R371, R387). -/
def Header.segments (h : Header) (t : Tile) (s : Option Strip) : List (Nat × List Byte) :=
  t.elems.zipIdx.map (fun r => (16 + r.2 * h.stride, bytesOf (rowBytes h.geom) (packRow (fmtBits (geomFmt h.geom)) r.1))) ++
    (if scaleBytes h.geom = 0 then [] else [(h.x, t.scales.map (BitVec.ofNat 8))]) ++
    (match s with
      | some x => [(h.y, x.bytes h.geom)]
      | none => []) ++ [(0, h.words.flatMap (bytesOf 4))]

/-- A range cut at line boundaries; fuel bounds the lines. -/
def lineChunks : Nat → Nat → Nat → List (Nat × Nat)
  | 0, _, _ => []
  | fuel + 1, a, n =>
    if n = 0 then []
    else
      let k := min n (128 - a % 128)
      (a, k) :: lineChunks fuel (a + k) (n - k)

def chunksOf (a n : Nat) : List (Nat × Nat) := lineChunks (n / 128 + 2) a n

/-- Whether n bytes from a stash offset lie in a block's own direct region (R238, R240). -/
def Block.direct (b : Block) (off n : Nat) : Bool := off + n ≤ b.stashNeed && !b.smap.any (fun e => e.2.s < off + n && off < e.2.s + e.2.l)

/-- The bytes of a block's stash at an offset. -/
def State.stashBytes (s : State) (b : Block) (off n : Nat) : List Byte := s.readBytes 58 (stashKey b.core (b.stashBase + off)) n
def State.stashNat (s : State) (b : Block) (off n : Nat) : Nat := ofBytes (s.stashBytes b off n)

/-- The header of the frame at an offset. -/
def State.frameHeaderAt (s : State) (b : Block) (off : Nat) : Option Header :=
  frameHeader (s.stashNat b off 4) (s.stashNat b (off + 4) 4) (s.stashNat b (off + 8) 4) (s.stashNat b (off + 12) 4)

/-- Whether a FIFO operation of a gang's quartet reads or writes a register of a range in that gang (R324, R365). -/
def MatOp.touches (o : MatOp) (g : Gang) (d count : Nat) : Bool :=
  let hit := fun (base n : Nat) => n ≠ 0 && base < d + count && d < base + n
  o.bid = g.bid && g.role = 1 && o.quartet = g.num / 4 && (hit (o.cbase.getD (g.num % 4) 0) o.cregs || hit (o.bbase.getD (g.num % 4) 0) o.bregs)

end Sys2Proof.Machine
end

