-- ==== Sys2Proof/Machine/TileInstr.lean ====
section
/-!
DEFINITION. Machine/TileInstr.lean: the tile instructions (R324 to R329).
-/

namespace Sys2Proof.Machine

open Sys2Proof

/-! ### What they share (R324) -/

/-- Accesses of the issuing instruction to parts of its own stash, by offset and length. -/
def Cx.stashReqs (cx : Cx) (parts : List (Nat × Nat)) : List Req :=
  parts.flatMap (fun r => (chunksOf (localBase + r.1) r.2).map (fun c => ⟨cx.low, cx.lowPhys, c.1, c.2⟩))

/-- What a tile instruction does at the words it touches. -/
def tileHow (store : Bool) : How where
  need := ⟨!store, store, false⟩
  label := 0
  reads := !store
  writes := store
  load := !store
  atomic := false
  size := 0
  align := 1
  scope := 0
  hint := 0
  object := false
  peer := false

/-- What the checks of accesses to the stash come to: the instruction stops in a state; or it goes on, from the state that the checks
leave to the one in which its words are announced. -/
inductive Stash where
  | stop (t : State)
  | go (t u : State)

/-- The place of a cause in R217; of a wait for a line or a lock, that of the outcomes that it stands for. -/
def causeRank (c : Nat) : Nat :=
  if c = 5 then 0 else if c = 6 then 1 else if c = 8 then 2 else if c = 9 then 3 else if c = 0x0A then 4 else if c = 0x26 then 5
  else if c = 0x0B then 7 else 8

/-- Lanes of a tile that are dead (R324). -/
def Cx.deadTile (cx : Cx) (g : Word) : Mask := cx.g.dead &&& cx.tileLanes g

/-- Checks accesses to the stash, reads and stores by offset, the first of R217 first; dead lanes of the tile raise cause 0x0C with
words that are lost (R324). Nothing is announced before every check has passed. -/
def Cx.stashChecks (cx : Cx) (dead : Mask) : State → List (Bool × List (Nat × Nat)) → List (Bool × Req × List Piece) →
    Option (Nat × State) → Stash
  | s, [], done, none =>
    if dead ≠ 0 then .stop (cx.fault s 0x0C dead 0 0)
    else .go s (done.foldl (fun u e => e.2.2.foldl (fun q p =>
      q.announcePiece cx.viewer (cx.toucher 0 (!e.1) e.1 e.2.1.phys) p none) u) s)
  | _, [], _, some r => .stop r.2
  | s, (store, parts) :: rest, done, best =>
    let better := fun (r : Nat) (t : State) => match best with
      | some b => if b.1 ≤ r then best else some (r, t)
      | none => some (r, t)
    match s.check cx.viewer (tileHow store) (cx.toucher 0 (!store) store) true noOwn (cx.stashReqs parts) with
    | .fault t f => cx.stashChecks dead s rest done (better (causeRank f.cause)
        (cx.fault t f.cause (if f.cause = 0x0C then f.lanes ||| dead else f.lanes) f.addr f.info))
    | .untranslated t va level reason agent lanes =>
      cx.stashChecks dead s rest done (better 2 (cx.untranslated t store false va level reason agent lanes))
    | .wait t => cx.stashChecks dead s rest done (better 6 (cx.park t .resource))
    | .go t ps => cx.stashChecks dead t rest (done ++ ps.map (fun p => (store, p))) best

/-- The same, once split-phase loads that come before have been performed (R275). -/
def Cx.stashCheck (cx : Cx) (s : State) (dead : Mask) (as : List (Bool × List (Nat × Nat))) : Stash :=
  if as.any (fun e => cx.loadsBefore e.1 (cx.placed s (cx.stashReqs e.2))) then .stop (cx.again s) else cx.stashChecks dead s as [] none

/-- Writes bytes at an offset of the block's own stash. -/
def State.stashWrite (s : State) (b : Block) (off : Nat) (bs : List Byte) : State :=
  s.homeWrite (some b.core) (stashKey b.core (b.stashBase + off)) bs

/-- Cause 0x1A (R329). -/
def Cx.fault1A (cx : Cx) (s : State) (addr reason base : Nat) : State := cx.fault s 0x1A cx.perform addr (reason + base * 2 ^ 8)

/-- The scales of a BX block, from the offset that its tag keeps. -/
def State.scalesOf (s : State) (b : Block) (g : Word) (scoff : Nat) : List Nat := (s.stashBytes b scoff (scaleBytes g)).map BitVec.toNat

/-- The parts of the stash in which a block's scales lie. -/
def scaleParts (g : Word) (scoff : Nat) : List (Nat × Nat) := if scaleBytes g = 0 then [] else [(scoff, scaleBytes g)]

/-- Counts corrections and recomputed strips of a core (R319, R320). -/
def State.countCorr (s : State) (core n : Nat) : State := s.modCore core (fun c => { c with ckcorr := satAdd 32 c.ckcorr n })
def State.countRecomp (s : State) (core : Nat) : State := s.modCore core (fun c => { c with ckrecomp := satAdd 32 c.ckrecomp 1 })

/-! ### tld and tst (R325) -/

/-- The registers and tags that a tld leaves: elements, then the strip and the tag where it writes them. -/
def Gang.loadTile (g : Gang) (cyc d scoff : Nat) (t : Tile) (strip : Option Strip) (stale : Option Bool) : Gang :=
  let w := g.width
  let g1 := g.writeBlock cyc (elemWrites w d t ++ (match strip with
    | some s => stripWrites w d t.geom s
    | none => []))
  match stale with
  | some b => g1.setTag ⟨d, t.geom, scoff, b⟩
  | none => g1.dropOverlapping d (blockRegs w t.geom)

/-- What tld makes of a frame it has read: strip and state of the block, corrections and recomputes; or what raises cause 0x19. -/
def tldResult (h : Header) (nostrip recomp : Bool) (t : Tile) (old : Strip) : Except Mismatch (Tile × Option Strip × Option Bool × Nat × Bool) :=
  if nostrip then .ok (t, none, none, 0, false)
  else if h.state = 1 then
    match t.checked old with
    | .ok (u, s, n) => .ok (u, some s, some false, n, false)
    | .error e => .error e
  else if recomp then .ok (t, some t.strip, some false, 0, true)
  else if h.state = 2 then .ok (t, some old, some true, 0, false)
  else .ok (t, some (Strip.zero t.m t.n), none, 0, false)

/-- Whether an operation of the engine holds registers of a block of the issuing gang (R324). -/
def Cx.blockBusy (cx : Cx) (s : State) (d count : Nat) : Bool := (s.core cx.core).fifo.any (fun o => o.touches cx.g d count)

/-- A frame whose header is there to be read: its checks of extent and registers, its parts and what is made of them (R325). -/
def Cx.loadFrame (cx : Cx) (t : State) (d f : Nat) (h : Header) (nostrip recomp : Bool) : State :=
  let off := f - localBase
  let parts := (off, 16) :: (h.parts (!nostrip && h.state ≠ 0 && !(recomp && h.state = 2))).map (fun e => (off + e.1, e.2))
  match cx.badBlock d (blockRegs cx.g.width h.geom) with
  | some n => cx.fault t 1 cx.perform 0 n
  | none =>
    if cx.blockBusy t d (blockRegs cx.g.width h.geom) then cx.again t
    else if !cx.b.direct off h.size then cx.fault t 9 (maskOf [cx.low]) f 0
    else
      match cx.stashCheck t (cx.deadTile h.geom) [(false, parts)] with
      | .stop v => v
      | .go v u =>
        let rd := fun (o n : Nat) => u.stashBytes cx.b (off + o) n
        match tldResult h nostrip recomp (h.tile rd) (stripOf h.geom (rd h.y (stripBytes h.geom))) with
        | .error info => cx.fault v 0x19 cx.perform f info.info
        | .ok (tile, strip, stale, n, again) =>
          let scoff := if fmtBx (geomFmt h.geom) then off + h.x else 0
          let w := (u.countCorr cx.core n).writeGang cx.gid cx.core (fun g => g.loadTile cx.cyc d scoff tile strip stale)
          cx.finish (if again then w.countRecomp cx.core else w)

/-- tld (R325): the header is looked at once range locks and presence allow it; where its data are lost, that is what is raised. -/
def execTld (d a : Reg) (acc : Access) (s : State) : Host.Outcome State Fault Refusal :=
  run (.tld d a acc) s (fun cx t =>
    let f := cx.address t a acc.offset cx.lowPhys
    let off := f - localBase
    let me := maskOf [cx.low]
    if f % 16 ≠ 0 then cx.fault t 5 me f 0
    else if !inLocal f || !cx.b.direct off 16 then cx.fault t 9 me f 0
    else
      match t.check cx.viewer (tileHow false) (cx.toucher 0 true false) false noOwn (cx.stashReqs [(off, 16)]) with
      | .fault v x => cx.fault v x.cause x.lanes x.addr x.info
      | .untranslated v va level reason agent lanes => cx.untranslated v false false va level reason agent lanes
      | .wait v => cx.park v .resource
      | .go _ ps =>
        match if ps.any (fun p => t.lostData cx.viewer (tileHow false) p.2) then none else t.frameHeaderAt cx.b off with
        | none =>
          (match cx.stashCheck t 0 [(false, [(off, 16)])] with
          | .stop v => v
          | .go v _ => cx.fault1A v f 4 0)
        | some h => cx.loadFrame t d.toNat f h (acc.op.getLsbD 0) (acc.op.getLsbD 1))

/-- What tst writes: the tile and strip of the frame, its STATE, corrections and recomputes; or what raises cause 0x19. -/
def tstResult (tag : Option Tag) (nostrip recomp : Bool) (t : Tile) (old : Strip) : Except Mismatch (Tile × Option Strip × Nat × Nat × Bool) :=
  if nostrip then .ok (t, none, 0, 0, false)
  else if recomp then .ok (t, some t.strip, 1, 0, true)
  else
    match tag with
    | none => .ok (t, some (Strip.zero t.m t.n), 0, 0, false)
    | some x =>
      if x.stale then .ok (t, some old, 2, 0, false)
      else
        match t.checked old with
        | .ok (u, s, n) => .ok (u, some s, 1, n, false)
        | .error e => .error e

/-- tst (R325). -/
def execTst (d a b : Reg) (acc : Access) (s : State) : Host.Outcome State Fault Refusal :=
  run (.tst d a b acc) s (fun cx t =>
    let f := cx.address t a acc.offset cx.lowPhys
    let off := f - localBase
    let me := maskOf [cx.low]
    let nostrip := acc.op.getLsbD 0
    let geom := (geomResolve cx.g.shape (cx.rd t cx.lowPhys b.toNat)).getD 0
    let h : Header := ⟨geom, leastStride geom, 0⟩
    let tag := cx.g.tagAt d.toNat
    let scoff := (tag.map Tag.scoff).getD 0
    let known := match tag with
      | some x => x.geom = geom
      | none => false
    if f % 16 ≠ 0 then cx.fault t 5 me f 0
    else if !inLocal f || !cx.b.direct off h.size then cx.fault t 9 me f 0
    else
      match cx.stashCheck t (cx.deadTile geom) [(false, if known then scaleParts geom scoff else []),
          (true, (off, 16) :: (h.parts (!nostrip)).map (fun e => (off + e.1, e.2)))] with
      | .stop v => v
      | .go v u =>
        let rd := cx.g.blockRead t cx.cyc
        let w := cx.g.width
        if tag.isSome && !known then cx.fault1A v f 5 d.toNat
        else if fmtBx (geomFmt geom) && tag.isNone then cx.fault1A v f 1 d.toNat
        else
          match tstResult tag nostrip (acc.op.getLsbD 1) (blockTile w d.toNat geom rd (u.scalesOf cx.b geom scoff))
              (blockStrip w d.toNat geom rd) with
          | .error info => cx.fault v 0x19 cx.perform f info.info
          | .ok (tile, strip, state, n, again) =>
            let x := (Header.segments { h with state := state } tile strip).foldl (fun q e => q.stashWrite cx.b (off + e.1) e.2) u
            let y := x.countCorr cx.core n
            cx.finish (if again then y.countRecomp cx.core else y))

/-! ### cksum, ckchk and ckinj (R326 to R328) -/

/-- cksum (R326). -/
def execCksum (d : Reg) (b : Src) (s : State) : Host.Outcome State Fault Refusal :=
  run (.cksum d b) s (fun cx t =>
    let geom := (geomResolve cx.g.shape (cx.srcWord t cx.lowPhys b)).getD 0
    let tag := cx.g.tagAt d.toNat
    let bx := fmtBx (geomFmt geom)
    let scoff := if bx then (tag.map Tag.scoff).getD 0 else 0
    let known := match tag with
      | some x => x.geom = geom
      | none => false
    match cx.stashCheck t (cx.deadTile geom) [(false, if known then scaleParts geom scoff else [])] with
    | .stop v => v
    | .go v u =>
      let w := cx.g.width
      if bx && !known then cx.fault1A v 0 (if tag.isSome then 5 else 1) d.toNat
      else
        let tile := blockTile w d.toNat geom (cx.g.blockRead t cx.cyc) (u.scalesOf cx.b geom scoff)
        cx.finish (u.writeGang cx.gid cx.core (fun g =>
          (g.writeBlock cx.cyc (stripWrites w d.toNat geom tile.strip)).setTag ⟨d.toNat, geom, scoff, false⟩)))

/-- The registers that ckchk corrects: an element, or the strip entries of a row or a column. -/
def fixWrites (w d : Nat) (t u : Tile) (old new : Strip) : List (Nat × Nat × Word) :=
  (elemWrites w d u).filter (fun e => !(elemWrites w d t).contains e) ++
    (stripWrites w d t.geom new).filter (fun e => !(stripWrites w d t.geom old).contains e)

/-- ckchk (R327). -/
def execCkchk (d : Reg) (s : State) : Host.Outcome State Fault Refusal :=
  run (.ckchk d) s (fun cx t =>
    match cx.g.tagAt d.toNat with
    | none => cx.fault1A t 0 1 d.toNat
    | some tag =>
      let geom := tag.geom
      match cx.stashCheck t (cx.deadTile geom) [(false, scaleParts geom tag.scoff)] with
      | .stop v => v
      | .go v u =>
        let w := cx.g.width
        let rd := cx.g.blockRead t cx.cyc
        if tag.stale then cx.fault1A v 0 0 d.toNat
        else
          let tile := blockTile w d.toNat geom rd (u.scalesOf cx.b geom tag.scoff)
          let old := blockStrip w d.toNat geom rd
          match tile.checked old with
          | .error info => cx.fault v 0x19 cx.perform 0 info.info
          | .ok (fixed, strip, n) =>
            cx.finish ((u.countCorr cx.core n).writeGang cx.gid cx.core (fun g =>
              if n = 0 then g else (g.writeBlock cx.cyc (fixWrites w d.toNat tile fixed old strip)).validTag d.toNat)))

/-- ckinj (R328): tag and record stay. -/
def execCkinj (d a : Reg) (b : Src) (s : State) : Host.Outcome State Fault Refusal :=
  run (.ckinj d a b) s (fun cx t =>
    let p := (cx.rd t cx.lowPhys a.toNat).toNat
    match cx.g.tagAt d.toNat with
    | none => cx.fault1A t 0 1 d.toNat
    | some tag =>
      if cx.deadTile tag.geom ≠ 0 then cx.fault t 0x0C (cx.deadTile tag.geom) 0 0
      else
        let at_ := injectAt cx.g.width d.toNat tag.geom (bits p 17 16) (bits p 7 0) (bits p 15 8)
        let m := match b with
          | .reg r => if geomFmt tag.geom = 0 then cx.rd2 t cx.lowPhys r.toNat else (cx.rd t cx.lowPhys r.toNat).toNat
          | l => (cx.srcWord t cx.lowPhys l).toNat
        let mask := m % 2 ^ at_.2.2.2
        let ws := (natToWords (ceilDiv at_.2.2.2 32) mask).zipIdx.flatMap (fun (e : Word × Nat) => (cx.g.phys at_.2.1).map (fun (q : Nat) =>
          (vKey q (at_.1 + e.2), cx.g.read t cx.cyc (vKey q (at_.1 + e.2)) ^^^ (e.1 <<< (at_.2.2.1 : Nat)))))
        let u := t.writeGang cx.gid cx.core (fun g => { g.writes cx.cyc none ws with
          tags := g.tags
          accs := g.accs })
        cx.finish (u.modCore cx.core (fun c => { c with ckinj := satAdd 32 c.ckinj 1 })))

end Sys2Proof.Machine
end

