-- ==== Sys2Proof/Machine/Engine.lean ====
section
/-!
DEFINITION. Machine/Engine.lean: how the copy engine and the matrix engine read, write and arrive (R254, R259, R375, R393,
R395, R376), and the range locks they hold (R374, R393, R430).
-/

namespace Sys2Proof.Machine

open Sys2Proof

/-- The outcome of an engine's access. -/
inductive Moved (α : Type) where
  | ok (s : State) (x : α)
  | fault (s : State) (h : Held)
  /-- It must wait: for a home slice, a lock in another core's stash, or a fill. -/
  | wait (s : State)
  /-- An address does not translate: the ticket of its record. -/
  | missed (s : State) (ticket : Nat)

/-- Who an engine moves for: the block, its core and level, the thread and interval of its stamps, AGENT of R428, and the range-lock
entries of the operation itself. -/
structure Mover where
  v : Viewer
  slot : Nat
  gang : Nat
  lane : Nat
  interval : Nat
  hint : Nat
  agent : Nat
  mine : List Nat
  deriving DecidableEq, Repr

def Mover.toucher (m : Mover) (write : Bool) : Toucher := ⟨m.v.core, m.slot, m.gang, m.lane, 0, 0, !write, write, some m.interval⟩

/-- What an engine does at an address: data accesses, performed at the home and never kept in the L1. -/
def Mover.how (m : Mover) (write : Bool) : How where
  need := ⟨!write, write, false⟩
  label := 1
  reads := !write
  writes := write
  load := !write
  atomic := false
  size := 0
  align := 1
  scope := 0
  hint := m.hint
  object := false
  peer := write

/-- The held form of a fault: a cause with its address and TINFO. -/
def heldOf (cause addr info : Nat) : Held := ⟨cause, 0, BitVec.ofNat 64 addr, BitVec.ofNat 64 info, []⟩

/-- A destination range of the block's own core covers a stash line. -/
def State.copiedInto (s : State) (core off : Nat) : Bool :=
  (s.core core).locks.any (fun e => e.2.dest && e.2.stash && e.2.hits (off / 128 * 128) 128)

/-- Whether a piece in the mover's own stash must wait for a first-touch fill, or is an absent line that no copy brings. -/
def State.engineAbsent (s : State) (p : Piece) : Bool :=
  match p.place with
  | .mapped c off _ _ => s.pieceAbsent p && !s.copiedInto c off
  | _ => false

def Piece.inWindowOf (p : Piece) (core : Nat) : Bool :=
  match p.place with
  | .stash c _ _ _ => c ≠ core
  | _ => false

/-- Destination entries of the copies of the mover's core that stand before the mover's operation: of all, where it is no copy. -/
def State.earlierEntries (s : State) (m : Mover) : List Nat :=
  ((s.core m.v.core).copies.takeWhile (fun c => c.dstLocks.all (fun e => !m.mine.contains e))).flatMap Copy.dstLocks

/-- The destination entries of the mover's core under which the line of a stash piece is being brought: in the own stash by place, in
another core's, for the mover's block, by address. -/
def State.comingUnder (s : State) (m : Mover) (p : Piece) : List Nat :=
  let inOwn := fun (off : Nat) => (s.core m.v.core).locks.filter (fun e => e.2.dest && e.2.stash && e.2.hits (off / 128 * 128) 128)
  (match p.place with
  | .stash c off _ _ => if c = m.v.core then inOwn off
    else (s.core m.v.core).locks.filter (fun e => e.2.dest && !e.2.stash && e.2.owner = m.slot && e.2.hits (p.va / 128 * 128) 128)
  | .mapped _ off _ _ => inOwn off
  | _ => []).map Prod.fst

/-- What an absent stash line means for an access of an engine. -/
inductive Missing where
  | none
  /-- An earlier copy of the block is on its way to it (R242). -/
  | wait
  /-- Cause 0x26. -/
  | fault
  deriving DecidableEq, Repr

/-- An absent line: a read waits for what an earlier copy brings, and goes on where only the operation itself, or a later copy, still
writes other bytes of the line; in another core's stash a write goes on where the operation itself brings the line (R241, R242). -/
def State.lineMissing (s : State) (m : Mover) (write : Bool) (p : Piece) : Missing :=
  let es := s.comingUnder m p
  if !s.pieceAbsent p || s.engineAbsent p then .none
  else if write then (if !p.inWindowOf m.v.core || es.any (fun e => m.mine.contains e) then .none else .fault)
  else if es.any (fun e => (s.earlierEntries m).contains e) then .wait
  else if es.isEmpty then .fault
  else .none

/-- The range-lock entries that stand against an engine's access in another core's stash: not its own operation's, nor those of its
block's later copies. -/
def State.foreignHits (s : State) (m : Mover) (p : Piece) : Tab RangeLock :=
  (s.lockHits m.v p).filter (fun e => e.2.stash || e.2.owner ≠ m.slot || (s.earlierEntries m).contains e.1)

/-- The checks of one access of an engine within one line. Range locks are checked only in another core's stash (R431). -/
def State.engineCheckAs (s : State) (m : Mover) (h : How) (tou : Toucher) (va n : Nat) : Moved (List Piece) :=
  let write := h.need.w
  let r : Req := ⟨0, m.lane, va, n⟩
  let a := s.address m.v h.need va n
  if (s.tablesOf m.v va n).any s.lineWaits then .wait s
  else
  match s.missing m.v a with
  | some (at_, level, reason, agent) =>
    let x := (s.useTables m.v va n).missRecord m.v.asid at_ level reason write false (!m.v.system) m.slot m.gang m.v.core (if agent = 0 then m.agent else agent) 0
    .missed x.2 x.1
  | none =>
    match s.forbidden m.v h r a with
    | some f => .fault s (heldOf 9 f.1 0)
    | none =>
      let ps := a.list
      let far := ps.filter (fun p => p.inWindowOf m.v.core)
      let verdict := fun (p : Piece) => s.lockOutcome m.v write p (s.foreignHits m p)
      let s1 := s.useTables m.v va n
      match far.findSome? (fun p => match verdict p with
        | .conflict e => some (p.va, e)
        | _ => none) with
      | some f => .fault s1 (heldOf 0x0A f.1 f.2)
      | none =>
        if far.any (fun p => verdict p = .wait) then .wait s1
        else
          match ps.find? (fun p => s.lineMissing m write p = .fault) with
          | some p => .fault s1 (heldOf 0x26 p.va 0)
          | none =>
            if ps.any (fun p => s.lineMissing m write p = .wait) then .wait s1
            else if ps.any s.engineAbsent then .wait (s1.startFills ps)
            else
              match s1.atHomes m.v.asid m.hint (s1.homeLines m.v ps) with
              | none => .wait (s1.wantRoom m.v.bid (s1.homeLines m.v ps))
              | some s2 =>
                match s2.raceOf m.v tou ps with
                | some x => .fault (s2.perf (dieOf m.v.core) 13 1) (heldOf 0x0B x.1 x.2)
                | none => match s2.lostAt m.v h ps with
                  | some a => .fault (s2.parityMet ps) (heldOf 0x0C a 0)
                  | none => .ok s2 ps

def State.engineCheck (s : State) (m : Mover) (write : Bool) (va n : Nat) : Moved (List Piece) :=
  s.engineCheckAs m (m.how write) (m.toucher write) va n

/-- An atomic update of an engine within one line, at the home, under a label (R390, R395): local, or a request to a peer, whose
answer may be that it has expired (R295). -/
def State.engineUpdate (s : State) (m : Mover) (label : Nat) (isOp : Bool) (interval : Option Nat) (va n : Nat) (f : Nat → Nat) : Moved Unit :=
  let h : How := { m.how true with need := ⟨true, true, false⟩, label := label, reads := true, load := true, atomic := true }
  let t : Toucher := ⟨m.v.core, m.slot, m.gang, m.lane, classOf label, label, true, true, interval⟩
  match s.engineCheckAs m h t va n with
  | .ok s1 ps =>
    match atomicOwn n (if n = 4 then 2 else 3) isOp s1 ⟨0, m.lane, va, n⟩ ps with
    | some x => .fault s1 (heldOf x.1 x.2.1 x.2.2)
    | none =>
      match ps.findSome? (fun p => match p.place with
        | .peer pa => some (peerOf pa)
        | _ => none) with
      | some peer =>
        let seq := Tab.getD s1.peerSeq peer 0
        let s2 := ps.foldl (fun q p => q.announcePiece m.v t p none) s1
        let s3 : State := { s2 with peerSeq := Tab.put s2.peerSeq peer ((seq + 1) % 2 ^ 32) }
        if s.pick 7 2 = 1 then .fault s3 (heldOf 0x0D va seq) else .ok s3 ()
      | none =>
        let a := State.readAt m.v h t s1 ps
        .ok (State.writeAt m.v h { t with reads := false, writes := false } a.1 ps (bytesOf n (f (ofBytes a.2)))) ()
  | .fault s1 h => .fault s1 h
  | .wait s1 => .wait s1
  | .missed s1 k => .missed s1 k

/-- Reads n bytes, line by line. -/
def State.engineRead (m : Mover) : List (Nat × Nat) → State → Moved (List Byte)
  | [], s => .ok s []
  | (va, n) :: rest, s =>
    match s.engineCheck m false va n with
    | .ok s1 ps =>
      let r := State.readAt m.v (m.how false) (m.toucher false) s1 ps
      match State.engineRead m rest r.1 with
      | .ok s2 bs => .ok s2 (r.2 ++ bs)
      | .fault s2 h => .fault s2 h
      | .wait s2 => .wait s2
      | .missed s2 k => .missed s2 k
    | .fault s1 h => .fault s1 h
    | .wait s1 => .wait s1
    | .missed s1 k => .missed s1 k

/-- Writes bytes that lie within one line. -/
def State.engineWrite (s : State) (m : Mover) (va : Nat) (bs : List Byte) : Moved Unit :=
  match s.engineCheck m true va bs.length with
  | .ok s1 ps => .ok (State.writeAt m.v (m.how true) (m.toucher true) s1 ps bs) ()
  | .fault s1 h => .fault s1 h
  | .wait s1 => .wait s1
  | .missed s1 k => .missed s1 k

/-- Writes bytes anywhere, line by line. -/
def State.engineWrites (m : Mover) : List (Nat × List Byte) → State → Moved Unit
  | [], s => .ok s ()
  | (va, bs) :: rest, s =>
    match s.engineWrite m va bs with
    | .ok s1 _ => State.engineWrites m rest s1
    | x => x

/-- Bytes cut at line boundaries. -/
def cutBytes (va : Nat) (bs : List Byte) : List (Nat × List Byte) :=
  (chunksOf va bs.length).map (fun c => (c.1, (bs.drop (c.1 - va)).take c.2))

/-- An arrival with a count of 1 on a barrier at an offset of the block's stash (R303, R376, R395). -/
def State.engineArrive (s : State) (m : Mover) (off scope : Nat) : Moved Unit :=
  let h := barHow 2 true true scope
  let r : Req := ⟨0, m.lane, localBase + off, 8⟩
  let t : Toucher := ⟨m.v.core, m.slot, m.gang, m.lane, 1, 2, true, true, none⟩
  match s.check m.v h (fun _ => t) true (barOwn m.v (fun x => barArrived x 1)) [r] with
  | .fault u f => .fault u (heldOf f.cause f.addr f.info)
  | .untranslated u _ _ _ _ _ => .wait u
  | .wait u => .wait u
  | .go u ps =>
    let p := ps.flatMap Prod.snd
    match barArrived (u.peek m.v p) 1 with
    | .ok y => .ok (State.writeAt m.v h t u p (bytesOf 8 y)) ()
    | .error _ => .wait u

/-! ### Range locks -/

/-- The lowest n free entries of a core's table of 64. -/
def State.freeLocks (s : State) (core n : Nat) : Option (List Nat) :=
  let free := (List.range 64).filter (fun i => (Tab.look (s.core core).locks i).isNone)
  if free.length < n then none else some (free.take n)

/-- Enters ranges at entries. -/
def State.lockAll (s : State) (core : Nat) (es : List (Nat × RangeLock)) : State :=
  s.modCore core (fun c => { c with locks := es.foldl (fun t e => Tab.put t e.1 e.2) c.locks })

def State.unlock (s : State) (core : Nat) (es : List Nat) : State :=
  s.modCore core (fun c => { c with locks := es.foldl (fun t e => Tab.del t e) c.locks })

/-- Whether two ranges share a byte. -/
def RangeLock.meets (x y : RangeLock) : Bool :=
  x.stash = y.stash && (List.range x.rows).any (fun i =>
    let lo : Int := x.base + x.stride * i
    y.hits lo.toNat x.rowBytes)

/-- Whether a split-phase load of a core, checked before some range locks were entered, has still to be performed in their ranges:
the engine moves no byte until then (R431). -/
def State.loadsUnder (s : State) (core : Nat) (entries : List Nat) : Bool :=
  s.blocks.any (fun e => e.2.core = core && e.2.gangs.any (fun n => match s.gang? (gangId e.2.bid n) with
    | none => false
    | some g => g.ldas.any (fun x => x.addrs.any (fun a => (Tab.look x.captured a.1).isNone && x.pending.any (fun p => p.1 = a.1) &&
        a.2.2.any (fun q => (s.lockHits (e.2.viewer g.system) q).any (fun h =>
          entries.contains h.1 && Tab.look (s.core core).locks h.1 = some h.2))))))

/-- Splits at a rendezvous of a core look again, after something has become free. -/
def State.wakeMeeting (s : State) (core : Nat) : State :=
  { s with gangs := s.gangs.map (fun (p : Nat × Gang) =>
      if ((s.block? p.2.bid).map Block.core) = some core then
        (p.1, { p.2 with tree := { p.2.tree with splits := p.2.tree.splits.map (fun (x : Nat × Split) =>
          if x.2.park.meets then (x.1, { x.2 with park := .ready, since := s.cycle core, readyAt := s.cycle core + 1, again := true }) else x) } })
      else p) }

/-- A copy whose access system software has refused (R429): it ends under R396, or its completion goes on past the step that
met the refusal (R395). -/
def Copy.refuse (c : Copy) (va : Nat) : Copy :=
  if c.phase = 2 then
    { c with ticket := none, fault := some (heldOf 9 va 0), done := c.done + 1, ringOff := c.ringOff || c.done = 1 || c.done = 3 }
  else { c with ticket := none, phase := 2, status := 2, cause := 9, fault := some (heldOf 9 va 0) }

/-- A matrix operation likewise: it fails under R377. -/
def MatOp.refuse (o : MatOp) (va : Nat) : MatOp := { o with ticket := none, fail := some (heldOf 9 va 0) }

/-- A fault is held for a gang of a block, or, where the copy-role gang has ended, the team ends (R377, R397, R34). -/
def State.holdCopyFault (s : State) (bid : Nat) (h : Held) : State :=
  match s.block? bid, s.gang? (gangId bid 31) with
  | some b, some g =>
    if g.ended then s.abortTeam b.team b.slot 31 (some ⟨h.cause, 0, 0, h.addr, h.info, 0⟩)
    else s.modGang (gangId bid 31) (fun x => { x with heldCopy := x.heldCopy ++ [h] })
  | _, _ => s

end Sys2Proof.Machine
end

