-- ==== Sys2Proof/Machine/CopyInstr.lean ====
section
/-!
DEFINITION. Machine/CopyInstr.lean: the copy instructions and the copy engine (R379 to R399).
-/

namespace Sys2Proof.Machine

open Sys2Proof

/-! ### Parameter blocks (R384 to R391) -/

/-- A 64-bit value at words i and i + 1. -/
def quadAt (w : List Nat) (i : Nat) : Nat := w.getD i 0 + 2 ^ 32 * w.getD (i + 1) 0

def pbKind (w : List Nat) : Nat := bits (w.getD 0 0) 2 0
def pbFmt (w : List Nat) : Nat := bits (w.getD 0 0) 7 3
def pbScope (w : List Nat) : Nat := bits (w.getD 0 0) 10 8
def pbCheck (w : List Nat) : Bool := bit (w.getD 0 0) 11
def pbRecomp (w : List Nat) : Bool := bit (w.getD 0 0) 12
def pbHint (w : List Nat) : Nat := bits (w.getD 0 0) 14 13
def pbSrc (w : List Nat) : Nat := quadAt w 2
def pbDst (w : List Nat) : Nat := quadAt w 4
def pbRing (w : List Nat) : Nat := quadAt w 6
/-- The index list of a gather or scatter, and its bound. -/
def pbIdx (w : List Nat) : Nat := quadAt w 8
def pbLimit (w : List Nat) : Nat := w.getD 13 0

/-- Bytes of an element of EFMT. -/
def pbSize (w : List Nat) : Nat := fmtBits (pbFmt w) / 8

/-- A halfword or byte field of a convolution's words (R391). -/
def pbHalf (w : List Nat) (i k : Nat) : Nat := bits (w.getD i 0) (16 * k + 15) (16 * k)
def pbByte (w : List Nat) (i k : Nat) : Nat := bits (w.getD i 0) (8 * k + 7) (8 * k)

/-- Bytes of a row of the forms that move rows. -/
def pbRowBytes (w : List Nat) : Nat :=
  if pbKind w = 5 then pbByte w 10 0 * pbByte w 10 1 * pbHalf w 9 0 * pbSize w
  else if pbKind w = 2 || pbKind w = 3 then w.getD 11 0 else w.getD 8 0

/-- Rows of the forms that move rows. -/
def pbRows (w : List Nat) : Nat :=
  if pbKind w = 5 then w.getD 14 0 else if pbKind w = 2 || pbKind w = 3 then w.getD 10 0 else w.getD 9 0

def signedWord (x : Nat) : Int := sext x 32

/-- The bytes between source rows, and between destination rows. -/
def pbSStride (w : List Nat) : Int :=
  if pbKind w = 2 then (w.getD 12 0 : Nat) else if pbKind w = 3 then signedWord (w.getD 12 0) else signedWord (w.getD 10 0)
def pbDStride (w : List Nat) : Int :=
  if pbKind w = 5 then (w.getD 15 0 : Nat) else if pbKind w = 3 then (w.getD 14 0 : Nat)
  else if pbKind w = 2 then signedWord (w.getD 14 0) else signedWord (w.getD 11 0)

/-- An address moved by a signed distance, as 64 bits hold it. -/
def addrPlus (a : Nat) (d : Int) : Nat := wrap ((a : Int) + d) 64

/-- Where row r comes from and goes to, with the indices read (R386, R388, R389). -/
def rowSrc (w : List Nat) (ix : List Nat) (r : Nat) : Nat :=
  addrPlus (pbSrc w) (pbSStride w * (if pbKind w = 2 then ix.getD r 0 else r : Nat))
def rowDst (w : List Nat) (ix : List Nat) (r : Nat) : Nat :=
  addrPlus (pbDst w) (pbDStride w * (if pbKind w = 3 then ix.getD r 0 else r : Nat))

/-- Bytes of a convolution's images. -/
def imageBytes (w : List Nat) : Nat := pbHalf w 9 1 * pbHalf w 8 0 * pbHalf w 8 1 * pbHalf w 9 0 * pbSize w

/-- The header of a source frame, from its four words. -/
def headerOf (h : List Nat) : Option Header := frameHeader (h.getD 0 0) (h.getD 1 0) (h.getD 2 0) (h.getD 3 0)

/-- The destination frame of a tile copy, with a STATE. -/
def destHeader (w : List Nat) (h : Header) (state : Nat) : Header := ⟨h.geom, if w.getD 8 0 = 0 then h.stride else w.getD 8 0, state⟩

/-! ### Ranges (R392, R393, R430) -/

/-- A range as the lock table keeps it: pool offsets in the core's own stash, virtual addresses elsewhere. -/
def Block.copyRange (b : Block) (dest : Bool) (opid va rowBytes rows : Nat) (stride : Int) : RangeLock :=
  let at_ : Bool × Nat :=
    if inLocal va then (true, b.stashBase + (va - localBase))
    else if inWindow va && clusterOf b.core * 96 + (va - windowBase) / 0x40000 = b.core then (true, (va - windowBase) % 0x40000)
    else (false, va)
  ⟨dest, at_.1, false, b.slot, at_.2, rowBytes, if rowBytes = 0 then 0 else rows, stride, opid⟩

/-- Source and destination ranges of a copy, as VA ranges: first byte, row bytes, rows and stride. -/
def sourceRanges (w h : List Nat) : List (Nat × Nat × Nat × Int) :=
  if pbKind w = 1 then [(pbSrc w, ((headerOf h).map Header.size).getD 16, 1, 0)]
  else if pbKind w = 2 then [(pbIdx w, 4 * pbRows w, 1, 0)]
  else if pbKind w = 3 then [(pbIdx w, 4 * pbRows w, 1, 0), (pbSrc w, pbRowBytes w, pbRows w, pbSStride w)]
  else if pbKind w = 5 then [(pbSrc w, imageBytes w, 1, 0)]
  else [(pbSrc w, pbRowBytes w, pbRows w, pbSStride w)]

def destRanges (w h : List Nat) : List (Nat × Nat × Nat × Int) :=
  if pbKind w = 1 then [(pbDst w, ((headerOf h).map (fun x => (destHeader w x 0).size)).getD 16, 1, 0)]
  else if pbKind w = 3 then []
  else [(pbDst w, pbRowBytes w, pbRows w, pbDStride w)]

/-- The entries that a copy makes (R393). -/
def Block.copyLocks (b : Block) (opid : Nat) (w h : List Nat) : List RangeLock × List RangeLock :=
  let mk := fun (dest : Bool) (r : Nat × Nat × Nat × Int) => b.copyRange dest opid r.1 r.2.1 r.2.2.1 r.2.2.2
  let live := fun (e : RangeLock) => e.rows ≠ 0
  (if pbKind w = 5 then [] else ((sourceRanges w h).map (mk false)).filter live, ((destRanges w h).map (mk true)).filter live)

/-- A range that enters the local aperture outside the block's allocation. -/
def outsideOwn (b : Block) (r : Nat × Nat × Nat × Int) : Bool :=
  r.2.1 ≠ 0 && (List.range r.2.2.1).any (fun i =>
    let a := addrPlus r.1 (r.2.2.2 * i)
    a < localBase + localSize && localBase < a + r.2.1 && !(localBase ≤ a && a + r.2.1 ≤ localBase + b.stashNeed))

/-! ### Checks at issue (R392) -/

/-- CREASON 1: fields that must be zero, and CSCOPE, CHECK and RECOMP. -/
def fieldsBad (w : List Nat) : Bool :=
  let k := pbKind w
  let used := if k = 0 || k = 4 then 12 else if k = 1 then 9 else if k = 5 then 16 else 15
  bits (w.getD 0 0) 31 15 ≠ 0 || (k ≠ 4 && k ≠ 5 && pbFmt w ≠ 0) || (k ≠ 5 && w.getD 1 0 ≠ 0) || 5 ≤ pbScope w ||
    (pbRecomp w && !pbCheck w) || (k ≠ 1 && (pbCheck w || pbRecomp w)) || (w.drop used).any (· ≠ 0)

/-- CREASON 2. -/
def formatBad (w : List Nat) : Bool :=
  (pbKind w = 4 && !([0x00, 0x01, 0x0E, 0x0F, 0x10, 0x11] : List Nat).contains (pbFmt w)) ||
    (pbKind w = 5 && !([1, 2, 3, 4, 5, 0x0A, 0x0B, 0x0C, 0x0D, 0x0E, 0x0F] : List Nat).contains (pbFmt w))

/-- CREASON 3. -/
def limitsBad (w h : List Nat) : Bool :=
  let k := pbKind w
  if k = 1 then
    let d := w.getD 8 0
    d ≠ 0 && (d % 16 ≠ 0 || 0xFFFF < d || (match headerOf h with
      | some x => d < rowBytes x.geom
      | none => false))
  else if k = 2 || k = 3 then 65535 < pbRows w || pbRowBytes w = 0 || 2 ^ 24 < pbRowBytes w
  else if k = 5 then
    65535 < pbRows w || ([8, 9, 12].any (fun i => pbHalf w i 0 = 0 || pbHalf w i 1 = 0)) ||
      ([0, 1, 2, 3].any (fun i => pbByte w 10 i = 0)) || pbByte w 11 2 = 0 || pbByte w 11 3 = 0 || w.getD 15 0 < pbRowBytes w
  else
    2 ^ 24 < pbRowBytes w || 65535 < pbRows w ||
      (k = 4 && (pbRowBytes w % pbSize w ≠ 0 || w.getD 10 0 % pbSize w ≠ 0 || w.getD 11 0 % pbSize w ≠ 0))

/-- CREASON 4. -/
def addressesBad (w : List Nat) : Bool :=
  let k := pbKind w
  if k = 1 then pbSrc w % 16 ≠ 0 || pbDst w % 16 ≠ 0
  else if k = 2 || k = 3 then pbIdx w % 4 ≠ 0
  else k = 4 && (pbSrc w % pbSize w ≠ 0 || pbDst w % pbSize w ≠ 0)

/-- CREASON 5, once NSLOTS is read. -/
def slotsBad (n slot : Nat) : Bool := n = 0 || 65536 < n || !(List.range 17).any (fun k => n = 2 ^ k) || n ≤ slot

/-- CREASON 6. -/
def barrierBad (b : Block) (bar : Nat) : Bool := bar ≠ 0xFFFFFFFF && (bar % 8 ≠ 0 || !b.direct bar 8)

/-- CREASON 7. -/
def Block.rangesBad (b : Block) (w h : List Nat) : Bool :=
  let src := sourceRanges w h
  let dst := destRanges w h
  let mk := fun (r : Nat × Nat × Nat × Int) => b.copyRange false 0 r.1 r.2.1 r.2.2.1 r.2.2.2
  (src ++ dst).any (outsideOwn b) ||
    (pbKind w ≠ 2 && pbKind w ≠ 3 && src.any (fun x => dst.any (fun y => (mk x).meets (mk y))))

/-! ### Issue (R379, R382, R383, R385) -/

/-- Data reads of the issuing thread, and what follows with their bytes. -/
def Cx.dataRead (cx : Cx) (s : State) (rs : List Req) (onFault : State → Found → State) (k : State → List Byte → State) : State :=
  match s.check cx.viewer (tileHow false) (cx.toucher 0 true false) true noOwn rs with
  | .fault t f => onFault t f
  | .untranslated t va level reason agent lanes => cx.untranslated t false false va level reason agent lanes
  | .wait t => cx.park t .resource
  | .go t ps =>
    if cx.loadsBefore false ps then cx.again s
    else
      let r := cx.readAll (tileHow false) t ps
      k r.1 (r.2.flatMap Prod.snd)

/-- The accesses of n words from an address. -/
def Cx.wordReqs (cx : Cx) (a n : Nat) : List Req :=
  (List.range n).flatMap (fun i => (chunksOf (a + 4 * i) 4).map (fun c => ⟨cx.low, cx.lowPhys, c.1, c.2⟩))

/-- Whether a parameter block may lie where it does (R384). -/
def State.paramsPlaced (s : State) (cx : Cx) (pa : Nat) : Bool :=
  match s.address cx.viewer ⟨true, false, false⟩ pa 64 with
  | .pieces ps => ps.all (fun p => match p.place with
      | .hbm _ attr => attr ≠ 2
      | .cellar _ attr => attr ≠ 2
      | .stash _ _ _ own => own
      | _ => false)
  | _ => true

/-- The snapshot of a parameter block: the cached words, or those just read, which the cache then keeps (R385). -/
def State.snapshot (s : State) (b : Block) (tag : Nat) (bs : List Byte) : List Word × State :=
  match (s.core b.core).pbcache.find? (fun e => e.1 = b.bid && e.2.1 = tag) with
  | some e => (e.2.2, s)
  | none =>
    let w := natToWords 16 (ofBytes bs)
    (w, s.modCore b.core (fun c => { c with pbcache := ((b.bid, tag, w) :: c.pbcache).take 16 }))

/-- The pieces of ranges, each within a line. -/
def rangePieces (rs : List (Nat × Nat × Nat × Int)) : List (Nat × Nat) :=
  rs.flatMap (fun r => (List.range r.2.2.1).flatMap (fun i => chunksOf (addrPlus r.1 (r.2.2.2 * i)) r.2.1))

/-- Where the bytes of ranges lie, and how many from there; none where a page does not translate. -/
def State.rangeSpots (s : State) (v : Viewer) (rs : List (Nat × Nat × Nat × Int)) : Option (List (Nat × Nat)) :=
  (rangePieces rs).foldr (fun c l => l.bind (fun l => (s.spotOf v c.1 c.2).map (fun x => match x with
    | some a => (a, c.2) :: l
    | none => l))) (some [])

/-- The block whose stash allocation holds a pool offset of a core, and the line of its allocation. -/
def State.lineOwner (s : State) (core off : Nat) : Option (Nat × Nat) :=
  (s.blocks.find? (fun e => e.2.core = core && e.2.stashBase ≤ off && off < e.2.stashBase + e.2.stashNeed)).map (fun e =>
    (e.1, (off - e.2.stashBase) / 128))

/-- Stash lines that ranges cover, each with its block: in any stash that the ranges reach (R241, R393). -/
def State.stashLines (s : State) (v : Viewer) (rs : List (Nat × Nat × Nat × Int)) : List (Nat × Nat) :=
  ((rangePieces rs).filterMap (fun c => match s.spotOf v c.1 c.2 with
    | some (some a) => if isStashKey a then s.lineOwner ((a - 2 ^ 60) / 2 ^ 18) ((a - 2 ^ 60) % 2 ^ 18) else none
    | _ => none)).dedup

/-- Presence bits of stash lines cleared, and set (R241). -/
def State.clearPresence (s : State) (lines : List (Nat × Nat)) : State :=
  lines.foldl (fun t l => t.modBlock l.1 (fun x => { x with absent := (x.absent ++ [l.2]).dedup })) s
def State.setPresence (s : State) (lines : List (Nat × Nat)) : State :=
  lines.foldl (fun t l => t.modBlock l.1 (fun x => { x with absent := x.absent.filter (· ≠ l.2) })) s

/-- Whether a destination lies in a stash of the block's own team (R225). -/
def State.inTeamStash (s : State) (b : Block) (va : Nat) : Bool :=
  inLocal va || (inWindow va && (match s.windowBlock (clusterOf b.core * 96 + (va - windowBase) / 0x40000) ((va - windowBase) % 0x40000) with
    | some x => x.team = b.team
    | none => false))

/-- The copy as it enters the queue. -/
def Cx.newCopy (cx : Cx) (s : State) (w : List Word) (pa slot bar opid : Nat) (header src dst : List Nat) : Copy where
  bid := cx.bid
  opid := opid
  pb := w
  pbAddr := pa
  slot := slot
  bar := bar
  lane := cx.lowPhys
  interval := (s.board cx.b.slot).interval
  system := cx.g.system
  phase := 0
  row := 0
  col := 0
  indices := []
  bytes := 0
  aux := 0
  status := 1
  cause := 0
  fault := none
  srcLocks := src
  dstLocks := dst
  header := header
  work := []
  ticket := none
  done := 0
  ringOff := false

/-- The queue, the locks and the presence bits (R379, R393, R241); vd receives the operation id (R383). -/
def Cx.queueCopy (cx : Cx) (s : State) (d : Reg) (w : List Word) (pa slot bar : Nat) (h : List Nat) : State :=
  let ws := w.map BitVec.toNat
  let b := (s.block? cx.bid).getD cx.b
  let locks := b.copyLocks b.opid ws h
  let lines := s.stashLines cx.viewer (destRanges ws h)
  let fresh := (lines.filter (fun l => l.1 = cx.bid && b.absent.contains l.2 && (b.mapEntry (128 * l.2)).isSome &&
    !s.copiedInto cx.core (b.stashBase + 128 * l.2))).map Prod.snd
  if 32 ≤ (s.core cx.core).copies.length then cx.park s .resource
  else if !fresh.isEmpty then cx.park (s.modBlock cx.bid (fun x => { x with fills := (x.fills ++ fresh).dedup })) .resource
  else
    match s.freeLocks cx.core (locks.1.length + locks.2.length) with
    | none => cx.park s .resource
    | some free =>
      let c := cx.newCopy s w pa slot bar b.opid h (free.take locks.1.length) (free.drop locks.1.length)
      let s1 := s.lockAll cx.core (free.zip (locks.1 ++ locks.2))
      let s2 := s1.modBlock cx.bid (fun x => { x with
        opid := if x.opid = 2 ^ 32 - 1 then 1 else x.opid + 1
        copies := x.copies + 1 })
      let s3 := (s2.clearPresence lines).modCore cx.core (fun x => { x with copies := x.copies ++ [c] })
      let s4 := cx.counted s3 (!s.inTeamStash b (pbDst ws))
      cx.finish (cx.uniform s4 d 1 (fun _ => b.opid))

/-- The checks of R392 in ascending CREASON, then the header faults of R387. -/
def Cx.checkCopy (cx : Cx) (s : State) (kind : Nat) (d : Reg) (w : List Word) (pa slot bar : Nat) (h : List Nat) : State :=
  let ws := w.map BitVec.toNat
  let bad := fun (t : State) (reason : Nat) => cx.fault t 0x1D cx.perform pa reason
  let rest := fun (t : State) =>
    if barrierBad cx.b bar then bad t 6
    else if cx.b.rangesBad ws h then bad t 7
    else if kind ≠ 1 then cx.queueCopy t d w pa slot bar h
    else
      match headerOf h with
      | none => cx.fault1A t (pbSrc ws) 4 0
      | some x =>
        if x.state ≠ 1 && pbCheck ws && !pbRecomp ws then cx.fault1A t (pbSrc ws) (if x.state = 2 then 2 else 3) 0
        else cx.queueCopy t d w pa slot bar h
  if pbKind ws ≠ kind then bad s 0
  else if fieldsBad ws then bad s 1
  else if formatBad ws then bad s 2
  else if limitsBad ws h then bad s 3
  else if addressesBad ws then bad s 4
  else if pbRing ws = 0 then rest s
  else if pbRing ws % 16 ≠ 0 then bad s 5
  else cx.dataRead s (cx.wordReqs (pbRing ws + 4) 1) (fun t _ => bad t 5) (fun t bs =>
    if slotsBad (ofBytes bs) slot then bad t 5 else rest t)

/-- A copy instruction at issue (R382). -/
def Cx.issueCopy (cx : Cx) (s : State) (kind : Nat) (d a b : Reg) : State :=
  let pa := cx.rd2 s cx.lowPhys a.toNat
  let slot := (cx.rd s cx.lowPhys b.toNat).toNat
  let bar := (cx.rd s cx.lowPhys (b.toNat + 1)).toNat
  let err := fun (t : State) (f : Found) => cx.fault t f.cause f.lanes f.addr f.info
  if pa % 64 ≠ 0 then cx.fault s 5 cx.perform pa 0
  else if !s.paramsPlaced cx pa then cx.fault s 9 cx.perform pa 0
  else
    cx.dataRead s (cx.wordReqs pa 16) err (fun t bs =>
      let r := t.snapshot cx.b (t.paramTag cx.viewer pa) bs
      if kind ≠ 1 then cx.checkCopy r.2 kind d r.1 pa slot bar []
      else cx.dataRead r.2 (cx.wordReqs (pbSrc (r.1.map BitVec.toNat)) 4) err (fun u hs =>
        cx.checkCopy u kind d r.1 pa slot bar (valuesOf 4 4 hs)))

/-- copy (R386). -/
def execCopy (d a b : Reg) (s : State) : Host.Outcome State Fault Refusal := run (.copy d a b) s (fun cx t => cx.issueCopy t 0 d a b)
/-- copy.tile (R387). -/
def execCopyTile (d a b : Reg) (s : State) : Host.Outcome State Fault Refusal :=
  run (.copyTile d a b) s (fun cx t => cx.issueCopy t 1 d a b)
/-- copy.gath (R388). -/
def execCopyGath (d a b : Reg) (s : State) : Host.Outcome State Fault Refusal :=
  run (.copyGath d a b) s (fun cx t => cx.issueCopy t 2 d a b)
/-- copy.scat (R389). -/
def execCopyScat (d a b : Reg) (s : State) : Host.Outcome State Fault Refusal :=
  run (.copyScat d a b) s (fun cx t => cx.issueCopy t 3 d a b)
/-- copy.red (R390). -/
def execCopyRed (d a b : Reg) (s : State) : Host.Outcome State Fault Refusal :=
  run (.copyRed d a b) s (fun cx t => cx.issueCopy t 4 d a b)
/-- copy.conv (R391). -/
def execCopyConv (d a b : Reg) (s : State) : Host.Outcome State Fault Refusal :=
  run (.copyConv d a b) s (fun cx t => cx.issueCopy t 5 d a b)

/-! ### The engine (R379, R386 to R391, R393) -/

def Copy.words (c : Copy) : List Nat := c.pb.map BitVec.toNat
def Copy.kind (c : Copy) : Nat := pbKind c.words

/-- For whom the engine moves a copy's data: the issuing thread, in the interval of the issue (R393). -/
def Copy.mover (c : Copy) (b : Block) : Mover := ⟨b.viewer c.system, b.slot, 31, c.lane, c.interval, pbHint c.words, 1, c.srcLocks ++ c.dstLocks⟩

/-- Changes a copy of a core. -/
def State.modCopy (s : State) (core bid opid : Nat) (f : Copy → Copy) : State :=
  s.modCore core (fun x => { x with copies := x.copies.map (fun c => if c.bid = bid && c.opid = opid then f c else c) })

/-- Ends a copy with a fault it has met (R396). -/
def Copy.failed (c : Copy) (h : Held) : Copy := { c with phase := 2, status := 2, cause := h.cause, fault := some h }

/-- What a copy reads and writes, where its parameters alone say it. -/
def Copy.extent (c : Copy) : Option (List (Nat × Nat × Nat × Int) × List (Nat × Nat × Nat × Int)) :=
  if c.kind = 2 || c.kind = 3 then none else some (sourceRanges c.words c.header, destRanges c.words c.header)

/-- Whether a byte lies in both of two lists of spots; they may where one cannot be told. -/
def spotsMeet (x y : Option (List (Nat × Nat))) : Bool :=
  match x, y with
  | some x, some y => x.any (fun p => y.any (fun q => p.1 < q.1 + q.2 && q.1 < p.1 + p.2))
  | _, _ => true

/-- Whether a copy may not move while an earlier one is unfinished: a byte that it reads or writes is one that the earlier one
writes, or one that it writes is one that the earlier one reads, under whatever address (R379). Indexed copies wait for every
earlier one. -/
def State.copyBehind (s : State) (c : Copy) (b : Block) (e : Copy) : Bool :=
  match s.block? e.bid with
  | none => false
  | some eb =>
    match c.extent, e.extent with
    | some x, some y =>
      let mine := s.rangeSpots (b.viewer c.system)
      let other := s.rangeSpots (eb.viewer e.system)
      spotsMeet (mine (x.1 ++ x.2)) (other y.2) || spotsMeet (mine x.2) (other y.1)
    | _, _ => true

/-- The copies of a core that stand before one. -/
def earlierCopies (bid opid : Nat) (cs : List Copy) : List Copy := cs.takeWhile (fun c => c.bid ≠ bid || c.opid ≠ opid)

/-- A copy with nothing left to move has ended (R395). -/
def Copy.settle (c : Copy) : Copy :=
  let past := if c.kind = 1 then c.work.isEmpty else pbRows c.words ≤ c.row || pbRowBytes c.words = 0
  if c.phase = 1 && past then { c with phase := 2 } else c

/-- What a tile copy will write, from the frame it has read (R387): the pieces in order, whether it corrected or formed a strip;
or the mismatch. -/
def tileWork (w : List Nat) (h : Header) (t : Tile) (old : Strip) : Except Mismatch (List (Nat × List Byte) × Nat × Bool) :=
  let put := fun (u : Tile) (s : Strip) (state : Nat) =>
    ((destHeader w h state).segments u (some s)).flatMap (fun e => cutBytes (pbDst w + e.1) e.2)
  if h.state = 1 then (t.checked old).map (fun r => (put r.1 r.2.1 1, r.2.2, false))
  else if pbCheck w && pbRecomp w then .ok (put t t.strip 1, 0, true)
  else .ok (put t (if h.state = 0 then Strip.zero t.m t.n else old) h.state, 0, false)

/-- Reads a source frame and prepares what is to be written. -/
def State.readFrame (s : State) (c : Copy) (b : Block) (h : Header) : State × Copy :=
  let w := c.words
  let src := pbSrc w
  let parts := (0, 16) :: h.parts (h.state ≠ 0)
  match State.engineRead (c.mover b) (parts.flatMap (fun r => chunksOf (src + r.1) r.2)) s with
  | .fault t f => (t, c.failed f)
  | .wait t => (t, c)
  | .missed t k => (t, { c with ticket := some k })
  | .ok t bs =>
    let at_ := fun (o n : Nat) =>
      let before := ((parts.takeWhile (fun p => p.1 ≠ o)).map Prod.snd).foldl (· + ·) 0
      (bs.drop before).take n
    match tileWork w h (h.tile at_) (stripOf h.geom (at_ h.y (stripBytes h.geom))) with
    | .error x => (t, c.failed (heldOf 0x19 src x.info))
    | .ok (work, n, again) =>
      let u := t.countCorr b.core n
      (if again then u.countRecomp b.core else u, { c with phase := 1, work := work })

/-- The index step of a gather or scatter (R388). -/
def State.readIndices (s : State) (c : Copy) (b : Block) : State × Copy :=
  let w := c.words
  match State.engineRead (c.mover b) (chunksOf (pbIdx w) (4 * pbRows w)) s with
  | .fault t f => (t, c.failed f)
  | .wait t => (t, c)
  | .missed t k => (t, { c with ticket := some k })
  | .ok t bs =>
    let ix := valuesOf 4 (pbRows w) bs
    match (List.range (pbRows w)).find? (fun r => pbLimit w ≤ ix.getD r 0) with
    | some r => (t, c.failed (heldOf 0x1C (pbIdx w + 4 * r) (r * 2 ^ 8 + c.opid * 2 ^ 32)))
    | none => (t, { c with phase := 1, indices := ix }.settle)

/-- Puts a copy back after a step of its engine. -/
def State.withCopy (s : State) (core : Nat) (c : Copy) : State := s.modCopy core c.bid c.opid (fun _ => c)

/-- A copy of a block, with its block. -/
def State.copyOf (s : State) (bid opid : Nat) : Option (Block × Copy) :=
  match s.block? bid with
  | none => none
  | some b => ((s.core b.core).copies.find? (fun c => c.bid = bid && c.opid = opid)).map (fun c => (b, c))

/-- COPY_START (R379, R431): the engine begins with a copy that nothing earlier stands against; it reads what comes first. -/
def execCopyStart (bid opid : Nat) (s : State) : Host.Outcome State Fault Refusal :=
  .next (match s.copyOf bid opid with
  | none => s
  | some (b, c) =>
    if c.phase ≠ 0 || c.ticket.isSome || (earlierCopies bid opid (s.core b.core).copies).any (s.copyBehind c b) ||
        s.loadsUnder b.core (c.srcLocks ++ c.dstLocks) then s
    else
      let r := if c.kind = 1 then (match headerOf c.header with
          | some h => s.readFrame c b h
          | none => (s, c))
        else if c.kind = 2 || c.kind = 3 then s.readIndices c b
        else (s, { c with phase := 1 }.settle)
      r.1.withCopy b.core r.2)

/-- The source range that is read through: the index list once it is read, a frame, or rows once all are moved. -/
def Copy.sourceRead (c : Copy) : List Nat :=
  if c.phase = 0 then []
  else if c.phase = 2 && c.status ≠ 1 then []
  else if c.kind = 1 || c.kind = 2 then c.srcLocks
  else if c.kind = 3 && c.srcLocks.length = 2 then c.srcLocks.take 1
  else if c.phase = 2 then c.srcLocks else []

/-- COPY_SOURCE_RELEASE (R393). -/
def execCopySourceRelease (bid opid : Nat) (s : State) : Host.Outcome State Fault Refusal :=
  .next (match s.copyOf bid opid with
  | none => s
  | some (b, c) =>
    match c.sourceRead with
    | [] => s
    | es => ((s.unlock b.core es).withCopy b.core { c with srcLocks := c.srcLocks.filter (fun e => !es.contains e) }).wakeMeeting b.core)

/-- Where an element of a convolution's row comes from: an address, or a value (R391). -/
inductive ConvFrom where
  | at_ (va : Nat)
  | value (x : Nat)
  deriving DecidableEq, Repr

/-- The image and the pixel of row r. -/
def convImage (w : List Nat) (r : Nat) : Nat := (w.getD 13 0 + r) / (pbHalf w 12 0 * pbHalf w 12 1)

/-- Element number `column` of row r. -/
def convElem (w : List Nat) (r column : Nat) : ConvFrom :=
  let height : Int := pbHalf w 8 0
  let width : Int := pbHalf w 8 1
  let chans := pbHalf w 9 0
  let ow := pbHalf w 12 1
  let p := w.getD 13 0 + r
  let image := convImage w r
  let oy := p / ow % pbHalf w 12 0
  let ox := p % ow
  let c := column % chans
  let kx := column / chans % pbByte w 10 1
  let ky := column / chans / pbByte w 10 1
  if pbHalf w 9 1 ≤ image then .value 0
  else
    let iy : Int := oy * pbByte w 10 2 - pbByte w 11 0 + ky * pbByte w 11 2
    let ix : Int := ox * pbByte w 10 3 - pbByte w 11 1 + kx * pbByte w 11 3
    if iy < 0 || height ≤ iy || ix < 0 || width ≤ ix then .value (w.getD 1 0 % 2 ^ (8 * pbSize w))
    else .at_ (addrPlus (pbSrc w) (((((image : Int) * height + iy) * width + ix) * chans + c) * pbSize w))

/-- The bytes of a row of a convolution from a column of bytes on, element by element. -/
def State.convBytes (m : Mover) (w : List Nat) (r : Nat) : List Nat → State → Moved (List Byte)
  | [], s => .ok s []
  | column :: rest, s =>
    let next := fun (t : State) (bs : List Byte) => match State.convBytes m w r rest t with
      | .ok u cs => Moved.ok u (bs ++ cs)
      | x => x
    match convElem w r column with
    | .value x => next s (bytesOf (pbSize w) x)
    | .at_ va =>
      match State.engineRead m (chunksOf va (pbSize w)) s with
      | .ok t bs => next t bs
      | x => x

/-- Adds source elements to destination elements, each as one atomic (R390). -/
def State.reduce (m : Mover) (w : List Nat) : List (Nat × Nat) → State → Moved Unit
  | [], s => .ok s ()
  | (va, x) :: rest, s =>
    let n := pbSize w
    let op := if pbFmt w ≤ 1 then 1 else 0
    match s.engineUpdate m 4 (op = 0) (some m.interval) va n (fun old => atomNew op n old x) with
    | .ok t _ => State.reduce m w rest t
    | x => x

/-- Moves the next piece of a row, one that lies in one destination line; of copy.red, one element. -/
def State.moveChunk (s : State) (c : Copy) (b : Block) (va n : Nat) : Moved Unit :=
  let w := c.words
  let m := c.mover b
  let src := addrPlus (rowSrc w c.indices c.row) c.col
  let size := pbSize w
  if c.kind = 5 then
    let skip := c.col % size
    let count := ceilDiv (skip + n) size
    match State.convBytes m w c.row ((List.range count).map (fun i => c.col / size + i)) s with
    | .ok t bs => t.engineWrite m va ((bs.drop skip).take n)
    | .fault t h => .fault t h
    | .wait t => .wait t
    | .missed t k => .missed t k
  else
    match State.engineRead m (chunksOf src n) s with
    | .ok t bs =>
      if c.kind = 4 then State.reduce m w ((valuesOf size (n / size) bs).zipIdx.map (fun e => (va + size * e.2, e.1))) t
      else t.engineWrite m va bs
    | .fault t h => .fault t h
    | .wait t => .wait t
    | .missed t k => .missed t k

/-- What a copy has still to write of its destination. -/
def Copy.remaining (c : Copy) : List (Nat × Nat × Nat × Int) :=
  let w := c.words
  if c.phase = 0 then destRanges w c.header
  else if c.kind = 1 then c.work.map (fun e => (e.1, e.2.length, 1, 0))
  else
    (if c.col = 0 then [] else [(addrPlus (rowDst w c.indices c.row) c.col, pbRowBytes w - c.col, 1, 0)]) ++
      (let r := if c.col = 0 then c.row else c.row + 1
       [(rowDst w c.indices r, pbRowBytes w, pbRows w - r, pbDStride w)])

/-- Stash lines that a copy has still bytes to bring to. -/
def State.linesComing (s : State) (c : Copy) : List (Nat × Nat) :=
  match s.block? c.bid with
  | some b => if c.phase = 2 || c.kind = 3 then [] else s.stashLines (b.viewer c.system) c.remaining
  | none => []

/-- The presence bits of stash lines are set, but for those that this copy or another one still has bytes to bring to (R241). -/
def State.setPresent (s : State) (c : Copy) (lines : List (Nat × Nat)) : State :=
  let others := s.cores.flatMap (fun k => k.2.copies.filter (fun x => x.bid ≠ c.bid || x.opid ≠ c.opid))
  s.setPresence (lines.filter (fun l => !(s.linesComing c).contains l && !others.any (fun x => (s.linesComing x).contains l)))

/-- A copy after a piece of n bytes of its row is written. -/
def Copy.moved (c : Copy) (n : Nat) : Copy :=
  let w := c.words
  let whole := c.col + n = pbRowBytes w
  let past := c.kind = 5 && c.col = 0 && pbHalf w 9 1 ≤ convImage w c.row
  let c1 := { c with
    bytes := c.bytes + n
    aux := if c.kind = 5 then (if past then c.aux + 1 else c.aux) else if whole then c.aux + 1 else c.aux }
  if whole then { c1 with row := c.row + 1, col := 0 }.settle else { c1 with col := c.col + n }

/-- One more piece of a copy arrives at its destination. -/
def State.movePiece (s : State) (c : Copy) (b : Block) : State :=
  let w := c.words
  let piece : Option (Nat × List Byte) := if c.kind = 1 then c.work.head? else none
  let va := match piece with
    | some p => p.1
    | none => addrPlus (rowDst w c.indices c.row) c.col
  let n := match piece with
    | some p => p.2.length
    | none => if c.kind = 4 then pbSize w else min (pbRowBytes w - c.col) (128 - va % 128)
  let r := match piece with
    | some p => s.engineWrite (c.mover b) p.1 p.2
    | none => s.moveChunk c b va n
  match r with
  | .wait t => t
  | .missed t k => t.withCopy b.core { c with ticket := some k }
  | .fault t h => t.withCopy b.core (c.failed h)
  | .ok t _ =>
    let c1 := if c.kind = 1 then { c with work := c.work.tail, bytes := c.bytes + n }.settle else c.moved n
    let t1 := t.withCopy b.core c1
    if c.kind = 3 then t1 else t1.setPresent c1 (t1.stashLines (b.viewer c.system) [(va, n, 1, 0)])

/-- COPY_LINE_ARRIVAL (R241, R386 to R391). -/
def execCopyLineArrival (bid opid : Nat) (s : State) : Host.Outcome State Fault Refusal :=
  .next (match s.copyOf bid opid with
  | none => s
  | some (b, c) => if c.phase ≠ 1 || c.ticket.isSome then s else s.movePiece c b)

/-! ### Faults and completion (R395 to R397) -/

/-- Later copies of the block that are still queued are cancelled (R396). -/
def State.cancelCopies (s : State) (core bid opid : Nat) : State :=
  s.modCore core (fun x => { x with copies :=
    (earlierCopies bid opid x.copies) ++ (x.copies.drop (earlierCopies bid opid x.copies).length).map (fun c =>
      if c.bid = bid && c.opid ≠ opid && c.phase = 0 then { c with phase := 2, status := 3, bytes := 0, ticket := none } else c) })

/-- COPY_FAULT (R396, R397): the fault is held for the copy-role gang. -/
def execCopyFault (bid opid : Nat) (s : State) : Host.Outcome State Fault Refusal :=
  .next (match s.copyOf bid opid with
  | none => s
  | some (b, c) =>
    match c.fault with
    | none => s
    | some h => ((s.withCopy b.core { c with fault := none }).cancelCopies b.core bid opid).holdCopyFault bid h)

/-- The completion record (R395). -/
def Copy.record (c : Copy) (time : Nat) : List Byte :=
  bytesOf 4 (c.status + c.cause * 2 ^ 8 + c.aux % 2 ^ 16 * 2 ^ 16) ++ bytesOf 4 c.bytes ++ bytesOf 4 c.opid ++ bytesOf 4 time

/-- The steps of R395 that a copy has still to make, by number: 2 record, 3 release, 4 PRODUCED, 5 barrier. -/
def State.copyStep (s : State) (c : Copy) (b : Block) (n : Nat) : Moved Unit :=
  let w := c.words
  let m := c.mover b
  let ring := pbRing w ≠ 0 && !c.ringOff
  if n = 2 then
    if !ring then .ok s ()
    else
      let at_ := pbRing w + 16 + 16 * c.slot
      let bs := c.record (s.clock % 2 ^ 32)
      match s.engineWrite m (at_ + 4) (bs.drop 4) with
      | .ok t _ => t.engineWrite m at_ (bs.take 4)
      | x => x
  else if n = 3 then
    let s1 := if 1 ≤ pbScope w then s.releaseHalf b else s
    if pbScope w = 4 then
      if s.remoteOut b.core then .wait s
      else match (s.core b.core).peerDropped with
      | some a => .fault s (heldOf 9 a 0)
      | none => .ok ((s1.modCore b.core (fun x => { x with peerWrites := [] })).advance b) ()
    else .ok (s1.advance b) ()
  else if n = 4 then
    if !ring then .ok s () else s.engineUpdate m 2 true none (pbRing w) 4 (fun x => (x + 1) % 2 ^ 32)
  else if c.bar = 0xFFFFFFFF then .ok s ()
  else s.engineArrive m c.bar (pbScope w)

/-- Makes the steps from one on; fuel counts them. True where the copy has completed. -/
def State.copySteps (core : Nat) : Nat → Copy → Block → State → State × Bool
  | 0, _, _, s => (s, true)
  | fuel + 1, c, b, s =>
    let n := c.done + 1
    if 6 ≤ n then (s, true)
    else if n = 3 && s.boundaryWaits b then (s.askWrap b, false)
    else
      let next := { c with done := n }
      let b1 := (s.block? c.bid).getD b
      match s.copyStep c b1 n with
      | .ok t _ => State.copySteps core fuel next b1 (t.withCopy core next)
      | .wait t => (t, false)
      | .missed t k => (t.withCopy core { c with ticket := some k }, false)
      | .fault t h =>
        let off := { next with ringOff := c.ringOff || n = 2 || n = 4 }
        State.copySteps core fuel off b1 (((t.withCopy core off).cancelCopies core c.bid c.opid).holdCopyFault c.bid h)

/-- Where a copy writes. -/
def Copy.written (c : Copy) : List (Nat × Nat × Nat × Int) :=
  if c.kind = 3 then (List.range (pbRows c.words)).map (fun r => (rowDst c.words c.indices r, pbRowBytes c.words, 1, 0))
  else destRanges c.words c.header

/-- The writes of a copy to peers have been acknowledged (R395, R455). -/
def State.acknowledged (s : State) (core : Nat) (v : Viewer) (c : Copy) : State :=
  let mine := s.rangeSpots v c.written
  s.modCore core (fun x => { x with peerWrites := x.peerWrites.filter (fun w => !spotsMeet mine (some [(w.2, 1)])) })

/-- COPY_COMPLETE (R395, R380): after every earlier copy of the block, once every write has been acknowledged. -/
def execCopyComplete (bid opid : Nat) (s : State) : Host.Outcome State Fault Refusal :=
  .next (match s.copyOf bid opid with
  | none => s
  | some (b, c) =>
    let core := b.core
    if c.phase ≠ 2 || c.fault.isSome || c.ticket.isSome || (earlierCopies bid opid (s.core core).copies).any (fun e => e.bid = bid) then s
    else
      let c0 := { c with done := max c.done 1, srcLocks := [], dstLocks := [] }
      let v := b.viewer c.system
      let s0 := if c.done = 0 then
          (((if c.status = 1 && c.kind ≠ 3 then s.setPresent c (s.stashLines v (destRanges c.words c.header)) else s).unlock core
            (c.srcLocks ++ c.dstLocks)).acknowledged core v c).withCopy core c0 else s
      let r := State.copySteps core 5 c0 ((s0.block? bid).getD b) s0
      if !r.2 then r.1.wakeMeeting core
      else
        ((r.1.modCore core (fun x => { x with copies := x.copies.filter (fun e => e.bid ≠ bid || e.opid ≠ opid) })).modBlock bid
          (fun x => { x with copies := x.copies - 1 })).wakeMeeting core)

end Sys2Proof.Machine
end

