-- ==== Sys2Proof/Machine/Fpu.lean ====
section
/-!
DEFINITION. Machine/Fpu.lean: the shape of a floating-point instruction: rounding mode, flags and traps of its lanes (R110,
R111, R168, R190).
-/

namespace Sys2Proof.Machine

open Sys2Proof

/-- fmode and ftrap as the instruction uses them: in a body, as they stood at u.hloop (R190). -/
def Cx.fmode (cx : Cx) : Nat := (cx.loop.map Loop.fmode).getD cx.g.fmode
def Cx.ftrap (cx : Cx) : Nat := (cx.loop.map Loop.ftrap).getD cx.g.ftrap

/-- Sticky flags of physical lanes (R110); a helper's are kept with it until its u.hjoin (R190). -/
def Cx.raiseFlags (cx : Cx) (s : State) (fs : List (Nat × Nat)) : State :=
  if cx.index = 0 then
    s.modGang cx.gid (fun g => { g with fflags := fs.foldl (fun t e =>
      if e.2 = 0 then t else Tab.upd t e.1 0 (fun x => x ||| e.2)) g.fflags })
  else
    s.modGang cx.gid (fun g => g.modHelper (cx.body.getD 0) cx.index (fun h => { h with flags := fs.foldl (fun x e => x ||| e.2) h.flags }))

/-- Performs a floating-point instruction: lanes that raise no enabled exception complete; the gang traps for the others
(R111). f gives a physical lane's value and exceptions. -/
def Cx.fpu (cx : Cx) (t : State) (d : Reg) (w : Nat) (f : Nat → Nat × Flags5) : State :=
  let rs := cx.lanes.map (fun p => (p, f p))
  let on_ := fun (r : Nat × Nat × Flags5) => r.2.2 &&& cx.ftrap
  let bad := maskOf ((rs.filter (fun r => on_ r ≠ 0)).map (fun r => cx.g.vis r.1))
  let good := rs.filter (fun r => !bad.getLsbD (cx.g.vis r.1))
  let t1 := cx.put t (good.flatMap (fun r => cx.outs d.toNat w r.1 r.2.1))
  let t2 := cx.raiseFlags t1 (good.map (fun r => (r.1, r.2.2)))
  if bad = 0 then cx.finish t2
  else
    let raised := rs.foldl (fun x r => x ||| on_ r) 0
    cx.fault t2 (lowestFpCause raised) bad 0 raised

def fpOp (i : Instr) (d : Reg) (w : Nat) (s : State) (f : Lanes → Nat → Nat × Flags5) : Host.Outcome State Fault Refusal :=
  run i s (fun cx t => cx.fpu t d w (f ⟨cx, t⟩))

/-- An FP32 operand: a register or a literal pattern. -/
def Lanes.f (x : Lanes) (p : Nat) (n : Reg) : Nat := (x.r p n).toNat
def Lanes.fsrc (x : Lanes) (p : Nat) (b : Src) : Nat := (x.src p b).toNat
/-- An FP64 operand: a pair, an FP32 literal widened, or a 64-bit literal (R114). -/
def Lanes.fsrc2 (x : Lanes) (p : Nat) (b : Src) : Nat :=
  match b with
  | .reg n => x.r2 p n
  | .lit32 l => widen32 l.toNat
  | .lit64 l => l.toNat
def Lanes.mode (x : Lanes) : RMode := x.cx.fmode
/-- A form-C immediate: a BF16 pattern read as FP32, and widened to FP64 (R113). -/
def imm32 (m : BitVec 16) : Nat := m.toNat * 2 ^ 16
def imm64 (m : BitVec 16) : Nat := widen32 (imm32 m)

end Sys2Proof.Machine
end

