-- ==== Sys2Proof/Machine/Fp32.lean ====
section
/-!
DEFINITION. Machine/Fp32.lean: the F32 arithmetic, minimum, maximum, compare and classify instructions (R169 to R176).
-/

namespace Sys2Proof.Machine

open Sys2Proof

/-- faddF32 (R169). -/
def execFaddF32 (d : Reg) (a : Reg) (b : Src) (s : State) : Host.Outcome State Fault Refusal :=
  fpOp (.faddF32 d a b) d 1 s (fun x p => Fmt.f32.add x.mode (x.f p a) (x.fsrc p b))

/-- fsubF32 (R169). -/
def execFsubF32 (d : Reg) (a : Reg) (b : Src) (s : State) : Host.Outcome State Fault Refusal :=
  fpOp (.fsubF32 d a b) d 1 s (fun x p => Fmt.f32.sub x.mode (x.f p a) (x.fsrc p b))

/-- fmulF32 (R169). -/
def execFmulF32 (d : Reg) (a : Reg) (b : Src) (s : State) : Host.Outcome State Fault Refusal :=
  fpOp (.fmulF32 d a b) d 1 s (fun x p => Fmt.f32.mul x.mode (x.f p a) (x.fsrc p b))

/-- ffmaF32 (R169). -/
def execFfmaF32 (d : Reg) (a : Reg) (b : Src) (s : State) : Host.Outcome State Fault Refusal :=
  fpOp (.ffmaF32 d a b) d 1 s (fun x p => Fmt.f32.fma x.mode false (x.f p a) (x.fsrc p b) (x.f p d))

/-- fminF32 (R174). -/
def execFminF32 (d : Reg) (a : Reg) (b : Src) (s : State) : Host.Outcome State Fault Refusal :=
  fpOp (.fminF32 d a b) d 1 s (fun x p => Fmt.f32.minmax false (x.f p a) (x.fsrc p b))

/-- fmaxF32 (R174). -/
def execFmaxF32 (d : Reg) (a : Reg) (b : Src) (s : State) : Host.Outcome State Fault Refusal :=
  fpOp (.fmaxF32 d a b) d 1 s (fun x p => Fmt.f32.minmax true (x.f p a) (x.fsrc p b))

/-- fdivF32 (R169, R171). -/
def execFdivF32 (d : Reg) (a : Reg) (b : Src) (s : State) : Host.Outcome State Fault Refusal :=
  fpOp (.fdivF32 d a b) d 1 s (fun x p => Fmt.f32.div x.mode (x.f p a) (x.fsrc p b))

/-- fsqrtF32 (R169). -/
def execFsqrtF32 (d : Reg) (a : Reg) (s : State) : Host.Outcome State Fault Refusal :=
  fpOp (.fsqrtF32 d a) d 1 s (fun x p => Fmt.f32.sqrt x.mode (x.f p a))

/-- fseteqF32 (R175). -/
def execFseteqF32 (d : Reg) (a : Reg) (b : Src) (s : State) : Host.Outcome State Fault Refusal :=
  fpOp (.fseteqF32 d a b) d 1 s (fun x p => cmpResult (Fmt.f32.seteq (x.f p a) (x.fsrc p b)))

/-- fsetltF32 (R175). -/
def execFsetltF32 (d : Reg) (a : Reg) (b : Src) (s : State) : Host.Outcome State Fault Refusal :=
  fpOp (.fsetltF32 d a b) d 1 s (fun x p => cmpResult (Fmt.f32.setlt false (x.f p a) (x.fsrc p b)))

/-- fsetleF32 (R175). -/
def execFsetleF32 (d : Reg) (a : Reg) (b : Src) (s : State) : Host.Outcome State Fault Refusal :=
  fpOp (.fsetleF32 d a b) d 1 s (fun x p => cmpResult (Fmt.f32.setlt true (x.f p a) (x.fsrc p b)))

/-- fsetunF32 (R175). -/
def execFsetunF32 (d : Reg) (a : Reg) (b : Src) (s : State) : Host.Outcome State Fault Refusal :=
  fpOp (.fsetunF32 d a b) d 1 s (fun x p => cmpResult (Fmt.f32.setun (x.f p a) (x.fsrc p b)))

/-- faddiF32 (R169, R113). -/
def execFaddiF32 (d : Reg) (imm : BitVec 16) (s : State) : Host.Outcome State Fault Refusal :=
  fpOp (.faddiF32 d imm) d 1 s (fun x p => Fmt.f32.add x.mode (x.f p d) (imm32 imm))

/-- fmuliF32 (R169, R113). -/
def execFmuliF32 (d : Reg) (imm : BitVec 16) (s : State) : Host.Outcome State Fault Refusal :=
  fpOp (.fmuliF32 d imm) d 1 s (fun x p => Fmt.f32.mul x.mode (x.f p d) (imm32 imm))

/-- fclassF32 (R176). -/
def execFclassF32 (d : Reg) (a : Reg) (s : State) : Host.Outcome State Fault Refusal :=
  fpOp (.fclassF32 d a) d 1 s (fun x p => (Fmt.f32.classify (x.f p a), 0))

/-- fnmaF32 (R169). -/
def execFnmaF32 (d : Reg) (a : Reg) (b : Src) (s : State) : Host.Outcome State Fault Refusal :=
  fpOp (.fnmaF32 d a b) d 1 s (fun x p => Fmt.f32.fma x.mode true (x.f p a) (x.fsrc p b) (x.f p d))

end Sys2Proof.Machine
end

