-- ==== Sys2Proof/Machine/Fp64.lean ====
section
/-!
DEFINITION. Machine/Fp64.lean: the F64 arithmetic, minimum, maximum, compare and classify instructions (R169 to R176).
-/

namespace Sys2Proof.Machine

open Sys2Proof

/-- faddF64 (R169). -/
def execFaddF64 (d : Reg) (a : Reg) (b : Src) (s : State) : Host.Outcome State Fault Refusal :=
  fpOp (.faddF64 d a b) d 2 s (fun x p => Fmt.f64.add x.mode (x.r2 p a) (x.fsrc2 p b))

/-- fsubF64 (R169). -/
def execFsubF64 (d : Reg) (a : Reg) (b : Src) (s : State) : Host.Outcome State Fault Refusal :=
  fpOp (.fsubF64 d a b) d 2 s (fun x p => Fmt.f64.sub x.mode (x.r2 p a) (x.fsrc2 p b))

/-- fmulF64 (R169). -/
def execFmulF64 (d : Reg) (a : Reg) (b : Src) (s : State) : Host.Outcome State Fault Refusal :=
  fpOp (.fmulF64 d a b) d 2 s (fun x p => Fmt.f64.mul x.mode (x.r2 p a) (x.fsrc2 p b))

/-- ffmaF64 (R169). -/
def execFfmaF64 (d : Reg) (a : Reg) (b : Src) (s : State) : Host.Outcome State Fault Refusal :=
  fpOp (.ffmaF64 d a b) d 2 s (fun x p => Fmt.f64.fma x.mode false (x.r2 p a) (x.fsrc2 p b) (x.r2 p d))

/-- fminF64 (R174). -/
def execFminF64 (d : Reg) (a : Reg) (b : Src) (s : State) : Host.Outcome State Fault Refusal :=
  fpOp (.fminF64 d a b) d 2 s (fun x p => Fmt.f64.minmax false (x.r2 p a) (x.fsrc2 p b))

/-- fmaxF64 (R174). -/
def execFmaxF64 (d : Reg) (a : Reg) (b : Src) (s : State) : Host.Outcome State Fault Refusal :=
  fpOp (.fmaxF64 d a b) d 2 s (fun x p => Fmt.f64.minmax true (x.r2 p a) (x.fsrc2 p b))

/-- fdivF64 (R169, R171). -/
def execFdivF64 (d : Reg) (a : Reg) (b : Src) (s : State) : Host.Outcome State Fault Refusal :=
  fpOp (.fdivF64 d a b) d 2 s (fun x p => Fmt.f64.div x.mode (x.r2 p a) (x.fsrc2 p b))

/-- fsqrtF64 (R169). -/
def execFsqrtF64 (d : Reg) (a : Reg) (s : State) : Host.Outcome State Fault Refusal :=
  fpOp (.fsqrtF64 d a) d 2 s (fun x p => Fmt.f64.sqrt x.mode (x.r2 p a))

/-- fseteqF64 (R175). -/
def execFseteqF64 (d : Reg) (a : Reg) (b : Src) (s : State) : Host.Outcome State Fault Refusal :=
  fpOp (.fseteqF64 d a b) d 1 s (fun x p => cmpResult (Fmt.f64.seteq (x.r2 p a) (x.fsrc2 p b)))

/-- fsetltF64 (R175). -/
def execFsetltF64 (d : Reg) (a : Reg) (b : Src) (s : State) : Host.Outcome State Fault Refusal :=
  fpOp (.fsetltF64 d a b) d 1 s (fun x p => cmpResult (Fmt.f64.setlt false (x.r2 p a) (x.fsrc2 p b)))

/-- fsetleF64 (R175). -/
def execFsetleF64 (d : Reg) (a : Reg) (b : Src) (s : State) : Host.Outcome State Fault Refusal :=
  fpOp (.fsetleF64 d a b) d 1 s (fun x p => cmpResult (Fmt.f64.setlt true (x.r2 p a) (x.fsrc2 p b)))

/-- fsetunF64 (R175). -/
def execFsetunF64 (d : Reg) (a : Reg) (b : Src) (s : State) : Host.Outcome State Fault Refusal :=
  fpOp (.fsetunF64 d a b) d 1 s (fun x p => cmpResult (Fmt.f64.setun (x.r2 p a) (x.fsrc2 p b)))

/-- faddiF64 (R169, R113). -/
def execFaddiF64 (d : Reg) (imm : BitVec 16) (s : State) : Host.Outcome State Fault Refusal :=
  fpOp (.faddiF64 d imm) d 2 s (fun x p => Fmt.f64.add x.mode (x.r2 p d) (imm64 imm))

/-- fmuliF64 (R169, R113). -/
def execFmuliF64 (d : Reg) (imm : BitVec 16) (s : State) : Host.Outcome State Fault Refusal :=
  fpOp (.fmuliF64 d imm) d 2 s (fun x p => Fmt.f64.mul x.mode (x.r2 p d) (imm64 imm))

/-- fclassF64 (R176). -/
def execFclassF64 (d : Reg) (a : Reg) (s : State) : Host.Outcome State Fault Refusal :=
  fpOp (.fclassF64 d a) d 1 s (fun x p => (Fmt.f64.classify (x.r2 p a), 0))

/-- fnmaF64 (R169). -/
def execFnmaF64 (d : Reg) (a : Reg) (b : Src) (s : State) : Host.Outcome State Fault Refusal :=
  fpOp (.fnmaF64 d a b) d 2 s (fun x p => Fmt.f64.fma x.mode true (x.r2 p a) (x.fsrc2 p b) (x.r2 p d))

end Sys2Proof.Machine
end

