-- ==== Sys2Proof/Machine/Helper.lean ====
section
/-!
DEFINITION. Machine/Helper.lean: recruiting lanes, the helper loop and its end (R191 to R208).
-/

namespace Sys2Proof.Machine

open Sys2Proof

/-! ### Lanes that can be lent -/

/-- A park in which a gang may lend its lanes (R192). -/
def Park.lends : Park → Bool
  | .barrier _ _ _ => true
  | .ring _ _ _ => true
  | .counter _ _ => true
  | .sleep _ => true
  | _ => false

/-- Lanes of a gang that serve a recruitment of the block: reserved or in a loop. -/
def State.lentLanes (s : State) (b : Block) (num : Nat) : List Nat :=
  b.gangs.flatMap (fun n => match s.gang? (gangId b.bid n) with
    | some g => g.recruits.flatMap (fun r => (r.2.helpers.filter (fun h => h.gang = num)).map Helper.lane)
    | none => [])

/-- Whether another gang's recruitment holds lanes of a gang: it issues nothing until they are back (R207). -/
def State.lendsOut (s : State) (b : Block) (num : Nat) : Bool :=
  b.gangs.any (fun n => n ≠ num && (match s.gang? (gangId b.bid n) with
    | some g => g.recruits.any (fun r => r.2.helpers.any (fun h => h.gang = num))
    | none => false))

/-- Whether a gang other than the recruiter's may lend (R192). -/
def Gang.lender (g : Gang) : Bool :=
  g.role ≠ 2 && !g.prot && (g.ended || (!g.inHandler && g.pending.isNone && !g.tree.splits.isEmpty &&
    g.tree.splits.all (fun p => p.2.park.lends)))

/-- The lanes that can be granted to a gang's thread, in the order of R192: gang and lane. The lane of a thread that itself holds
reserved helpers is lent like any other while its gang waits: DEDUCED (log entry 103). -/
def State.lendable (s : State) (b : Block) (g : Gang) : List (Nat × Nat) :=
  let free := fun (x : Gang) (p : Nat → Bool) =>
    let out := s.lentLanes b x.num
    ((List.range 32).filter (fun l => !x.dmask.getLsbD l && !out.contains l && p l)).map (fun l => (x.num, l))
  free g (fun l => g.exited.getLsbD l) ++ (b.gangs.filter (fun n => n ≠ g.num && n ≠ 31 && n % 4 = g.num % 4)).flatMap (fun n =>
    match s.gang? (gangId b.bid n) with
    | some x => if x.lender then free x (fun _ => true) else []
    | none => [])

/-- Active recruitments of a quad of a core (R132, R193). -/
def State.recruitments (s : State) (core quad : Nat) : Nat :=
  ((s.gangs.filter (fun p => p.2.num % 4 = quad && p.2.num ≠ 31 && (match s.block? p.2.bid with
    | some b => b.core = core
    | none => false))).map (fun p => (p.2.recruits.filter (fun r => !r.2.helpers.isEmpty)).length)).foldl (· + ·) 0

/-- Whether R193 refuses a recruitment; own is the recruitment that the thread itself held. -/
def Cx.refused (cx : Cx) (s : State) (count : Nat) : Bool :=
  (lanesOf cx.active).length ≠ 1 || cx.g.prot || cx.g.inHandler || cx.body.isSome || 4 ≤ s.recruitments cx.core (cx.g.num % 4) ||
    cx.g.role = 2 || count = 0

def helperFresh (index gang lane : Nat) : Helper := ⟨index, gang, lane, none, 0, none, 0, false, false, 0, 0⟩

/-- u.recruit (R194). Before it is refused to a split of several lanes, it releases the helpers of the lowest alone: DESIGN CHOICE
(log entry 104). -/
def execURecruit (d a : Reg) (s : State) : Host.Outcome State Fault Refusal :=
  run (.uRecruit d a) s (fun cx t =>
    let count := min (cx.rd t cx.lowPhys a.toNat).toNat 31
    let t1 := if cx.body.isSome then t else t.modGang cx.gid (fun g => g.dropReserved (maskOf [cx.low]))
    let got := if cx.refused t1 count then [] else (t1.lendable cx.b cx.g).take count
    let t2 := if got.isEmpty then t1 else t1.modGang cx.gid (fun g =>
      { g with recruits := Tab.put g.recruits cx.low ⟨got.zipIdx.map (fun e => helperFresh (e.2 + 1) e.1.1 e.1.2), none⟩ })
    cx.finish (cx.uniform t2 d 1 (fun _ => got.length)))

/-- u.hrel (R196). -/
def execUHrel (s : State) : Host.Outcome State Fault Refusal :=
  run .uHrel s (fun cx t => cx.finish (t.modGang cx.gid (fun g => g.dropReserved (maskOf [cx.low]))))

/-! ### The loop -/

/-- The iteration index of an iteration (R198). -/
def Loop.indexOf (l : Loop) (k : Nat) : Word := l.start + BitVec.ofNat 32 k * l.stride

/-- A participant's frame at the start of an iteration: h0, h1 and zeros, whatever is still to be written of it (R198, R83,
R289). -/
def Gang.frame (g : Gang) (lane index : Nat) (l : Loop) (k : Nat) : Gang :=
  g.writes 0 none ((g.phys lane).flatMap (fun p => (List.range 16).map (fun n =>
    (hKey lane index (g.copy p) n, if n = 0 then l.indexOf k else if n = 1 then BitVec.ofNat 32 index else 0))))

/-- The registers of a lane as an instruction issued at a cycle reads them. -/
def Gang.snapshot (g : Gang) (s : State) (cyc lane : Nat) : Tab Word :=
  g.fly.foldl (fun t f => if f.key < 16384 && (g.phys lane).contains (f.key / 512) then Tab.set t f.key (g.read s cyc f.key) 0 else t)
    (g.regs.filter (fun e => e.1 < 16384 && (g.phys lane).contains (e.1 / 512)))

/-- Changes the loop of a recruiting lane. -/
def Gang.modLoop (g : Gang) (lane : Nat) (f : Loop → Loop) : Gang :=
  { g with recruits := Tab.modify g.recruits lane (fun r => { r with loop := r.loop.map f }) }

/-- Iterations that may still be handed out to helpers and recruiter alike, and to the recruiter alone after a trap. -/
def Loop.left (l : Loop) : Bool := l.taken < l.count

/-- Helpers without an iteration take one each, or go when the loop is over for them (R198, R203). -/
def Gang.deal (g : Gang) (lane cyc : Nat) : Gang :=
  match Tab.look g.recruits lane with
  | none => g
  | some r => r.helpers.foldl (fun x h =>
      match (Tab.look x.recruits lane).bind Recruit.loop with
      | some l =>
        if h.iter.isNone && !h.released && !l.stopped && l.left then
          ((x.frame lane h.index l l.taken).modHelper lane h.index (fun y =>
            { y with iter := some l.taken, flags := 0, pc := l.first, packet := none, readyAt := cyc + 1 })).modLoop lane (fun y => { y with taken := y.taken + 1 })
        else x
      | none => x) g

/-- u.hloop (R197): with a count of zero the recruiter goes straight to the join. -/
def execUHloop (d a : Reg) (b : Src) (s : State) : Host.Outcome State Fault Refusal :=
  run (.uHloop d a b) s (fun cx t =>
    let p := cx.lowPhys
    let lane := cx.low
    let count := (cx.srcWord t p b).toNat
    let jpc := pcBase cx.pc + BitVec.ofNat 64 (16 * d.toNat) + 4
    let l : Loop := ⟨cx.rd t p a.toNat, cx.rd t p (a.toNat + 1), count, 0, 0, [], 0, 0, cx.next, jpc, none, cx.g.fmode, cx.g.ftrap, 0,
      false, [], cx.g.snapshot t cx.cyc lane, cx.g.layers.length⟩
    let helpers := ((Tab.look cx.g.recruits lane).map Recruit.helpers).getD []
    let enter := fun (g : Gang) => { g with recruits := Tab.put g.recruits lane ⟨helpers, some l⟩ }
    if count = 0 then cx.goto (t.modGang cx.gid enter) jpc
    else
      let first := fun (g : Gang) => ((enter g).modLoop lane (fun y => { y with taken := 1, iter0 := some 0 })).frame lane 0 l 0
      cx.finish (t.modGang cx.gid (fun g => (first g).deal lane (cx.cyc + 1))))

/-- One contribution combined into the accumulator, with the exceptions it raises (R202, R190). -/
def combine (op mode : Nat) (acc x : Word) : Word × Flags5 :=
  let f := fun (r : Nat × Flags5) => (BitVec.ofNat 32 r.1, r.2)
  if op = 1 then (acc + x, 0)
  else if op = 2 then f (Fmt.f32.add mode acc.toNat x.toNat)
  else if op = 3 then (minSigned acc x, 0)
  else if op = 4 then (maxSigned acc x, 0)
  else if op = 5 then (minUnsigned acc x, 0)
  else if op = 6 then (maxUnsigned acc x, 0)
  else if op = 7 then f (Fmt.f32.minmax false acc.toNat x.toNat)
  else if op = 8 then f (Fmt.f32.minmax true acc.toNat x.toNat)
  else if op = 9 then (acc &&& x, 0)
  else (acc ||| x, 0)

/-- The recruiter's copies of the accumulator: as combined so far, or vd as it stood at u.hloop. -/
def Cx.accumulators (cx : Cx) (l : Loop) (d : Nat) : List Word :=
  if l.acc.isEmpty then (cx.g.phys cx.low).map (fun p => Tab.getD l.snap (cx.g.codeKey none 0 p d) 0) else l.acc

/-- Exceptions of the iteration that ends are united into the recruiter's fflags (R190): a helper's, or those that a faulted
helper had raised in an iteration that became the recruiter's. -/
def Cx.uniteFlags (cx : Cx) (s : State) (lane : Nat) : State :=
  s.modGang cx.gid (fun g =>
    let r := Tab.look g.recruits lane
    let flags := if cx.index = 0 then ((r.bind Recruit.loop).map Loop.flags).getD 0
      else ((r.bind (fun r => r.helpers.find? (fun h => h.index = cx.index))).map Helper.flags).getD 0
    let x := if cx.index = 0 then g.modLoop lane (fun y => { y with flags := 0 })
      else g.modHelper lane cx.index (fun h => { h with flags := 0 })
    { x with fflags := if flags = 0 then x.fflags else Tab.upd x.fflags (x.prime lane) 0 (fun y => y ||| flags) })

/-- The next thing the recruiter does after its own iteration: the iterations of faulted helpers come first, then those
not yet taken, then waiting for the others (R198, R205, R203). -/
def Cx.nextIteration (cx : Cx) (s : State) : State :=
  let lane := cx.body.getD 0
  match s.gang? cx.gid with
  | none => s
  | some g =>
    match (Tab.look g.recruits lane).bind Recruit.loop with
    | none => s
    | some l =>
      if l.heldIters.isEmpty && l.left then
        let s1 := s.modGang cx.gid (fun x => (x.frame lane 0 l l.taken).modLoop lane (fun y => { y with taken := y.taken + 1, iter0 := some l.taken }))
        cx.goto s1 l.first
      else cx.park (s.modGang cx.gid (fun x => x.modLoop lane (fun y => { y with iter0 := none }))) .loop

/-- Whether every iteration of a loop has performed its u.hjoin (R203). -/
def Recruit.over (r : Recruit) : Bool :=
  match r.loop with
  | some l => !l.left && l.heldIters.isEmpty && l.iter0.isNone && r.helpers.all (fun h => h.iter.isNone)
  | none => false

/-- The lane of a frame register's key. -/
def frameLane (key : Nat) : Option Nat := if key < 16384 then none else some ((key - 16384) / 1024)

/-- Whether a split-phase load made in an iteration of a lane's loop has still to be answered. One whose fault is held waits for the
instruction that takes it (R288), not the loop for it: DEDUCED (log entry 111). -/
def Gang.frameLoads (g : Gang) (lane : Nat) : Bool :=
  g.ldas.any (fun x => (g.awaiting x).any (fun lw => frameLane (x.key lw) = some lane))

/-- A lane's frames are freed: registers, results in flight and errors in them go. -/
def Gang.freeFrames (g : Gang) (lane : Nat) : Gang :=
  { g with
    recruits := Tab.del g.recruits lane,
    regs := g.regs.filter (fun e => frameLane e.1 ≠ some lane),
    fly := g.fly.filter (fun f => frameLane f.key ≠ some lane),
    bad := g.bad.filter (fun k => frameLane k ≠ some lane) }

/-- Completion of a loop, once its accesses have retired: vd, helpers and frames (R203). The recruiter goes on after the join PC. The loop of a
dead recruiter is forgotten once its helpers have finished (R206). -/
def State.completeLoop (s : State) (gid lane : Nat) : State :=
  match s.gang? gid with
  | none => s
  | some g =>
    match Tab.look g.recruits lane, s.block? g.bid with
    | some r, some b =>
      match r.loop with
      | none => s
      | some l =>
        if g.dead.getLsbD lane then
          if r.helpers.isEmpty then s.modGang gid (fun x => { x with recruits := Tab.del x.recruits lane }) else s
        else if !r.over || g.frameLoads lane then s
        else
          let cyc := s.cycle b.core
          let vd := if l.op = 0 then [] else ((g.phys lane).map (fun p => g.codeKey none 0 p l.accReg)).zip l.acc
          let s1 := (s.writeRegs gid b.core cyc none vd).modGang gid (fun x => x.freeFrames lane)
          match g.tree.splits.find? (fun p => p.2.park = .loop && p.2.mask = maskOf [lane]) with
          | some p => s1.wakeNext gid p.1 cyc
          | none => s1
    | _, _ => s

/-- A helper at the end of its iteration: it is released, goes on with the next, or stays idle (R198, R203, R207). -/
def Cx.helperJoins (cx : Cx) (s : State) : State :=
  let lane := cx.body.getD 0
  let s1 := s.modGang cx.gid (fun g =>
    let x := g.modHelper lane cx.index (fun h => { h with iter := none, packet := none })
    let gone := match Tab.look x.recruits lane with
      | some r => r.helpers.any (fun h => h.index = cx.index && (h.released || (r.loop.map Loop.stopped).getD true))
      | none => false
    if gone then { x with recruits := Tab.modify x.recruits lane (fun r => { r with helpers := r.helpers.filter (fun h => h.index ≠ cx.index) }) }
    else x.deal lane cx.cyc)
  s1.completeLoop cx.gid lane

/-- u.hjoin (R202): a contribution, then the participant's next iteration. -/
def execUHjoin (d a b : Reg) (s : State) : Host.Outcome State Fault Refusal :=
  run (.uHjoin d a b) s (fun cx t =>
    match cx.loop with
    | none => cx.finish t
    | some l =>
      let lane := cx.body.getD 0
      let op := b.toNat
      let performs := l.count ≠ 0
      let accs := cx.accumulators l d.toNat
      let xs := (cx.g.phys lane).map (fun p => cx.rd t p a.toNat)
      let rs := (accs.zip xs).map (fun e => combine op cx.fmode e.1 e.2)
      let raised := rs.foldl (fun x r => x ||| r.2) 0
      if performs && op ≠ 0 && raised &&& cx.ftrap ≠ 0 then
        cx.fault t (lowestFpCause (raised &&& cx.ftrap)) cx.active 0 (raised &&& cx.ftrap)
      else
        let acc := if performs && op ≠ 0 then rs.map Prod.fst else accs
        let t1 := if performs && op ≠ 0 then cx.raiseFlags t (((cx.g.phys lane).zip rs).map (fun e => (e.1, e.2.2))) else t
        let t2 := (cx.uniteFlags t1 lane).modGang cx.gid (fun g => g.modLoop lane (fun y =>
          { y with acc := acc, op := op, accReg := d.toNat, done := y.done + (if performs then 1 else 0) }))
        if cx.index = 0 then (cx.nextIteration t2).completeLoop cx.gid lane else cx.helperJoins t2)

/-! ### Trap entry that has waited -/

/-- The faulted iteration that a recruiter takes next: its lane, its split's place and the iteration (R205). -/
def Gang.heldHelper (g : Gang) : Option (Nat × Nat × HeldIter) :=
  if g.inHandler then none
  else g.recruits.findSome? (fun r =>
    match r.2.loop, g.tree.splits.find? (fun p => p.2.park = .loop && p.2.mask = maskOf [r.1]) with
    | some l, some p =>
      if l.iter0.isSome || r.2.helpers.any (fun h => h.iter.isSome) then none
      else (l.heldIters.foldl (fun (a : Option HeldIter) h => match a with
        | none => some h
        | some x => if h.iter < x.iter then some h else some x) none).map (fun h => (r.1, p.1, h))
    | _, _ => none)

/-- The faulted iteration becomes the recruiter's (R205): the helper's frame is written over the recruiter's, with the errors that
its registers hold; loads still pending into the old frame do not reach the new one (R289). -/
def Gang.adopt (g : Gang) (lane : Nat) (h : HeldIter) : Gang :=
  let ill := (h.frame.filter (fun e => g.bad.contains (hKey lane h.index 0 e.1))).map (fun e => hKey lane 0 0 e.1)
  let x := (g.writes 0 none (h.frame.map (fun e => (hKey lane 0 0 e.1, e.2)))).modLoop lane (fun l =>
    { l with heldIters := l.heldIters.erase h, iter0 := some h.iter, flags := h.flags })
  { x with bad := x.bad ++ ill }

/-- TRAP_ENTRY (R209, R205, R206): a trap that waited for helpers, or for an operation issued before, is entered, or a helper's
fault is charged. -/
def execTrapEntry (bid g : Nat) (s : State) : Host.Outcome State Fault Refusal :=
  let gid := gangId bid g
  .next (match s.gang? gid with
  | none => s
  | some x =>
    match x.pending with
    | some t => if x.helpersBusy || x.opsBusy then s else s.trapEntry gid t
    | none =>
      match x.heldHelper with
      | none => s
      | some (lane, place, h) =>
        ((s.countLatent gid ((s.block? x.bid).map Block.core |>.getD 0) (h.frame.map (fun e => hKey lane 0 0 e.1))).modGang gid
          (fun y => y.adopt lane h)).takeTrap gid ⟨0x20, maskOf [lane], h.trap.pc, h.trap.addr,
          BitVec.ofNat 64 (h.trap.cause % 256 + h.index * 2 ^ 8 + h.iter * 2 ^ 32), place⟩)

/-- HELPER_FORCED_RELEASE (R207): a lender whose wait is over gets its lanes back, those in an iteration at its end. -/
def execHelperForcedRelease (bid g : Nat) (s : State) : Host.Outcome State Fault Refusal :=
  .next (match s.gang? (gangId bid g), s.block? bid with
  | some x, some b =>
    if x.ended || x.tree.splits.all (fun p => p.2.park.lends) then s
    else
      b.gangs.foldl (fun t n => if n = g then t else t.modGang (gangId bid n) (fun y =>
        { y with recruits := (y.recruits.map (fun r => (r.1, { r.2 with
            helpers := (r.2.helpers.filter (fun h => h.gang ≠ g || h.iter.isSome)).map (fun h =>
              if h.gang = g then { h with released := true } else h) }))).filter (fun r => r.2.loop.isSome || !r.2.helpers.isEmpty) })) s
  | _, _ => s)

end Sys2Proof.Machine
end

