-- ==== Sys2Proof/Machine/IntU.lean ====
section
/-!
DEFINITION. Machine/IntU.lean: the integer, logic and shift instructions of the U set (R79, R144).
-/

namespace Sys2Proof.Machine

open Sys2Proof

/-- u.add (R144, R142). -/
def execUAdd (d : Reg) (a : Reg) (b : Src) (s : State) : Host.Outcome State Fault Refusal :=
  uniformOp (.uAdd d a b) d 1 s (fun x p => (x.r p a + x.src p b).toNat)

/-- u.sub (R144, R142). -/
def execUSub (d : Reg) (a : Reg) (b : Src) (s : State) : Host.Outcome State Fault Refusal :=
  uniformOp (.uSub d a b) d 1 s (fun x p => (x.r p a - x.src p b).toNat)

/-- u.mul (R144, R142). -/
def execUMul (d : Reg) (a : Reg) (b : Src) (s : State) : Host.Outcome State Fault Refusal :=
  uniformOp (.uMul d a b) d 1 s (fun x p => (x.r p a * x.src p b).toNat)

/-- u.mulhi.i32 (R144, R142). -/
def execUMulhiI32 (d : Reg) (a : Reg) (b : Src) (s : State) : Host.Outcome State Fault Refusal :=
  uniformOp (.uMulhiI32 d a b) d 1 s (fun x p => (mulhiSigned (x.r p a) (x.src p b)).toNat)

/-- u.mulhi.n32 (R144, R142). -/
def execUMulhiN32 (d : Reg) (a : Reg) (b : Src) (s : State) : Host.Outcome State Fault Refusal :=
  uniformOp (.uMulhiN32 d a b) d 1 s (fun x p => (mulhiUnsigned (x.r p a) (x.src p b)).toNat)

/-- u.mad (R144, R142). -/
def execUMad (d : Reg) (a : Reg) (b : Src) (s : State) : Host.Outcome State Fault Refusal :=
  uniformOp (.uMad d a b) d 1 s (fun x p => (x.r p a * x.src p b + x.r p d).toNat)

/-- u.add.i64 (R144, R142). -/
def execUAddI64 (d : Reg) (a : Reg) (b : Src) (s : State) : Host.Outcome State Fault Refusal :=
  uniformOp (.uAddI64 d a b) d 2 s (fun x p => (x.r2 p a + x.src2 p b) % 2 ^ 64)

/-- u.sub.i64 (R144, R142). -/
def execUSubI64 (d : Reg) (a : Reg) (b : Src) (s : State) : Host.Outcome State Fault Refusal :=
  uniformOp (.uSubI64 d a b) d 2 s (fun x p => (x.r2 p a + 2 ^ 64 - x.src2 p b) % 2 ^ 64)

/-- u.mulw.i32 (R144, R142). -/
def execUMulwI32 (d : Reg) (a : Reg) (b : Src) (s : State) : Host.Outcome State Fault Refusal :=
  uniformOp (.uMulwI32 d a b) d 2 s (fun x p => (mulwSigned (x.r p a) (x.src p b)).toNat)

/-- u.mulw.n32 (R144, R142). -/
def execUMulwN32 (d : Reg) (a : Reg) (b : Src) (s : State) : Host.Outcome State Fault Refusal :=
  uniformOp (.uMulwN32 d a b) d 2 s (fun x p => (mulwUnsigned (x.r p a) (x.src p b)).toNat)

/-- u.min.i32 (R144, R142). -/
def execUMinI32 (d : Reg) (a : Reg) (b : Src) (s : State) : Host.Outcome State Fault Refusal :=
  uniformOp (.uMinI32 d a b) d 1 s (fun x p => (minSigned (x.r p a) (x.src p b)).toNat)

/-- u.max.i32 (R144, R142). -/
def execUMaxI32 (d : Reg) (a : Reg) (b : Src) (s : State) : Host.Outcome State Fault Refusal :=
  uniformOp (.uMaxI32 d a b) d 1 s (fun x p => (maxSigned (x.r p a) (x.src p b)).toNat)

/-- u.min.n32 (R144, R142). -/
def execUMinN32 (d : Reg) (a : Reg) (b : Src) (s : State) : Host.Outcome State Fault Refusal :=
  uniformOp (.uMinN32 d a b) d 1 s (fun x p => (minUnsigned (x.r p a) (x.src p b)).toNat)

/-- u.max.n32 (R144, R142). -/
def execUMaxN32 (d : Reg) (a : Reg) (b : Src) (s : State) : Host.Outcome State Fault Refusal :=
  uniformOp (.uMaxN32 d a b) d 1 s (fun x p => (maxUnsigned (x.r p a) (x.src p b)).toNat)

/-- u.addi (R144, R143). -/
def execUAddi (d : Reg) (imm : BitVec 16) (s : State) : Host.Outcome State Fault Refusal :=
  uniformOp (.uAddi d imm) d 1 s (fun x p => (x.r p d + imm.signExtend 32).toNat)

/-- u.ldi (R144, R143). -/
def execULdi (d : Reg) (imm : BitVec 16) (s : State) : Host.Outcome State Fault Refusal :=
  uniformOp (.uLdi d imm) d 1 s (fun x p => (imm.signExtend 32).toNat)

/-- u.and (R144, R145). -/
def execUAnd (d : Reg) (a : Reg) (b : Src) (s : State) : Host.Outcome State Fault Refusal :=
  uniformOp (.uAnd d a b) d 1 s (fun x p => (x.r p a &&& x.src p b).toNat)

/-- u.or (R144, R145). -/
def execUOr (d : Reg) (a : Reg) (b : Src) (s : State) : Host.Outcome State Fault Refusal :=
  uniformOp (.uOr d a b) d 1 s (fun x p => (x.r p a ||| x.src p b).toNat)

/-- u.xor (R144, R145). -/
def execUXor (d : Reg) (a : Reg) (b : Src) (s : State) : Host.Outcome State Fault Refusal :=
  uniformOp (.uXor d a b) d 1 s (fun x p => (x.r p a ^^^ x.src p b).toNat)

/-- u.andn (R144, R145). -/
def execUAndn (d : Reg) (a : Reg) (b : Src) (s : State) : Host.Outcome State Fault Refusal :=
  uniformOp (.uAndn d a b) d 1 s (fun x p => (x.r p a &&& ~~~(x.src p b)).toNat)

/-- u.shl (R144, R145). -/
def execUShl (d : Reg) (a : Reg) (b : Src) (s : State) : Host.Outcome State Fault Refusal :=
  uniformOp (.uShl d a b) d 1 s (fun x p => (shlBy (x.r p a) (x.src p b).toNat).toNat)

/-- u.shr.n32 (R144, R145). -/
def execUShrN32 (d : Reg) (a : Reg) (b : Src) (s : State) : Host.Outcome State Fault Refusal :=
  uniformOp (.uShrN32 d a b) d 1 s (fun x p => (shrUnsigned (x.r p a) (x.src p b).toNat).toNat)

/-- u.shr.i32 (R144, R145). -/
def execUShrI32 (d : Reg) (a : Reg) (b : Src) (s : State) : Host.Outcome State Fault Refusal :=
  uniformOp (.uShrI32 d a b) d 1 s (fun x p => (shrSigned (x.r p a) (x.src p b).toNat).toNat)

/-- u.shli (R144, R146). -/
def execUShli (d : Reg) (a : Reg) (imm8 : BitVec 8) (s : State) : Host.Outcome State Fault Refusal :=
  uniformOp (.uShli d a imm8) d 1 s (fun x p => (shlBy (x.r p a) imm8.toNat).toNat)

/-- u.shri.n32 (R144, R146). -/
def execUShriN32 (d : Reg) (a : Reg) (imm8 : BitVec 8) (s : State) : Host.Outcome State Fault Refusal :=
  uniformOp (.uShriN32 d a imm8) d 1 s (fun x p => (shrUnsigned (x.r p a) imm8.toNat).toNat)

/-- u.shri.i32 (R144, R146). -/
def execUShriI32 (d : Reg) (a : Reg) (imm8 : BitVec 8) (s : State) : Host.Outcome State Fault Refusal :=
  uniformOp (.uShriI32 d a imm8) d 1 s (fun x p => (shrSigned (x.r p a) imm8.toNat).toNat)

/-- u.bfe.n32 (R144, R147). -/
def execUBfeN32 (d : Reg) (a : Reg) (b : Src) (s : State) : Host.Outcome State Fault Refusal :=
  uniformOp (.uBfeN32 d a b) d 1 s (fun x p => (bfe false (x.r p a) (x.src p b)).toNat)

/-- u.bfe.i32 (R144, R147). -/
def execUBfeI32 (d : Reg) (a : Reg) (b : Src) (s : State) : Host.Outcome State Fault Refusal :=
  uniformOp (.uBfeI32 d a b) d 1 s (fun x p => (bfe true (x.r p a) (x.src p b)).toNat)

/-- u.bfi (R144, R148). -/
def execUBfi (d : Reg) (a : Reg) (b : Src) (s : State) : Host.Outcome State Fault Refusal :=
  uniformOp (.uBfi d a b) d 1 s (fun x p => (bfi (x.r p d) (x.r p a) (x.src p b)).toNat)

/-- u.popc (R144, R149). -/
def execUPopc (d : Reg) (a : Reg) (s : State) : Host.Outcome State Fault Refusal :=
  uniformOp (.uPopc d a) d 1 s (fun x p => (popc (x.r p a)).toNat)

/-- u.clz (R144, R149). -/
def execUClz (d : Reg) (a : Reg) (s : State) : Host.Outcome State Fault Refusal :=
  uniformOp (.uClz d a) d 1 s (fun x p => (clz (x.r p a)).toNat)

/-- u.brev (R144, R149). -/
def execUBrev (d : Reg) (a : Reg) (s : State) : Host.Outcome State Fault Refusal :=
  uniformOp (.uBrev d a) d 1 s (fun x p => (brev (x.r p a)).toNat)

end Sys2Proof.Machine
end

