-- ==== Sys2Proof/Machine/IntV.lean ====
section
/-!
DEFINITION. Machine/IntV.lean: the integer, logic, shift, compare, select and move instructions of the V set (R142 to R152).
-/

namespace Sys2Proof.Machine

open Sys2Proof

/-- add (R142). -/
def execAdd (d : Reg) (a : Reg) (b : Src) (s : State) : Host.Outcome State Fault Refusal :=
  vectorOp (.add d a b) d 1 s (fun x p => (x.r p a + x.src p b).toNat)

/-- sub (R142). -/
def execSub (d : Reg) (a : Reg) (b : Src) (s : State) : Host.Outcome State Fault Refusal :=
  vectorOp (.sub d a b) d 1 s (fun x p => (x.r p a - x.src p b).toNat)

/-- mul (R142). -/
def execMul (d : Reg) (a : Reg) (b : Src) (s : State) : Host.Outcome State Fault Refusal :=
  vectorOp (.mul d a b) d 1 s (fun x p => (x.r p a * x.src p b).toNat)

/-- mulhi.i32 (R142). -/
def execMulhiI32 (d : Reg) (a : Reg) (b : Src) (s : State) : Host.Outcome State Fault Refusal :=
  vectorOp (.mulhiI32 d a b) d 1 s (fun x p => (mulhiSigned (x.r p a) (x.src p b)).toNat)

/-- mulhi.n32 (R142). -/
def execMulhiN32 (d : Reg) (a : Reg) (b : Src) (s : State) : Host.Outcome State Fault Refusal :=
  vectorOp (.mulhiN32 d a b) d 1 s (fun x p => (mulhiUnsigned (x.r p a) (x.src p b)).toNat)

/-- mad (R142). -/
def execMad (d : Reg) (a : Reg) (b : Src) (s : State) : Host.Outcome State Fault Refusal :=
  vectorOp (.mad d a b) d 1 s (fun x p => (x.r p a * x.src p b + x.r p d).toNat)

/-- add.i64 (R142). -/
def execAddI64 (d : Reg) (a : Reg) (b : Src) (s : State) : Host.Outcome State Fault Refusal :=
  vectorOp (.addI64 d a b) d 2 s (fun x p => (x.r2 p a + x.src2 p b) % 2 ^ 64)

/-- sub.i64 (R142). -/
def execSubI64 (d : Reg) (a : Reg) (b : Src) (s : State) : Host.Outcome State Fault Refusal :=
  vectorOp (.subI64 d a b) d 2 s (fun x p => (x.r2 p a + 2 ^ 64 - x.src2 p b) % 2 ^ 64)

/-- mulw.i32 (R142). -/
def execMulwI32 (d : Reg) (a : Reg) (b : Src) (s : State) : Host.Outcome State Fault Refusal :=
  vectorOp (.mulwI32 d a b) d 2 s (fun x p => (mulwSigned (x.r p a) (x.src p b)).toNat)

/-- mulw.n32 (R142). -/
def execMulwN32 (d : Reg) (a : Reg) (b : Src) (s : State) : Host.Outcome State Fault Refusal :=
  vectorOp (.mulwN32 d a b) d 2 s (fun x p => (mulwUnsigned (x.r p a) (x.src p b)).toNat)

/-- min.i32 (R142). -/
def execMinI32 (d : Reg) (a : Reg) (b : Src) (s : State) : Host.Outcome State Fault Refusal :=
  vectorOp (.minI32 d a b) d 1 s (fun x p => (minSigned (x.r p a) (x.src p b)).toNat)

/-- max.i32 (R142). -/
def execMaxI32 (d : Reg) (a : Reg) (b : Src) (s : State) : Host.Outcome State Fault Refusal :=
  vectorOp (.maxI32 d a b) d 1 s (fun x p => (maxSigned (x.r p a) (x.src p b)).toNat)

/-- min.n32 (R142). -/
def execMinN32 (d : Reg) (a : Reg) (b : Src) (s : State) : Host.Outcome State Fault Refusal :=
  vectorOp (.minN32 d a b) d 1 s (fun x p => (minUnsigned (x.r p a) (x.src p b)).toNat)

/-- max.n32 (R142). -/
def execMaxN32 (d : Reg) (a : Reg) (b : Src) (s : State) : Host.Outcome State Fault Refusal :=
  vectorOp (.maxN32 d a b) d 1 s (fun x p => (maxUnsigned (x.r p a) (x.src p b)).toNat)

/-- addi (R143). -/
def execAddi (d : Reg) (imm : BitVec 16) (s : State) : Host.Outcome State Fault Refusal :=
  vectorOp (.addi d imm) d 1 s (fun x p => (x.r p d + imm.signExtend 32).toNat)

/-- ldi (R143). -/
def execLdi (d : Reg) (imm : BitVec 16) (s : State) : Host.Outcome State Fault Refusal :=
  vectorOp (.ldi d imm) d 1 s (fun x p => (imm.signExtend 32).toNat)

/-- and (R145). -/
def execAnd (d : Reg) (a : Reg) (b : Src) (s : State) : Host.Outcome State Fault Refusal :=
  vectorOp (.and d a b) d 1 s (fun x p => (x.r p a &&& x.src p b).toNat)

/-- or (R145). -/
def execOr (d : Reg) (a : Reg) (b : Src) (s : State) : Host.Outcome State Fault Refusal :=
  vectorOp (.or d a b) d 1 s (fun x p => (x.r p a ||| x.src p b).toNat)

/-- xor (R145). -/
def execXor (d : Reg) (a : Reg) (b : Src) (s : State) : Host.Outcome State Fault Refusal :=
  vectorOp (.xor d a b) d 1 s (fun x p => (x.r p a ^^^ x.src p b).toNat)

/-- andn (R145). -/
def execAndn (d : Reg) (a : Reg) (b : Src) (s : State) : Host.Outcome State Fault Refusal :=
  vectorOp (.andn d a b) d 1 s (fun x p => (x.r p a &&& ~~~(x.src p b)).toNat)

/-- shl (R145). -/
def execShl (d : Reg) (a : Reg) (b : Src) (s : State) : Host.Outcome State Fault Refusal :=
  vectorOp (.shl d a b) d 1 s (fun x p => (shlBy (x.r p a) (x.src p b).toNat).toNat)

/-- shr.n32 (R145). -/
def execShrN32 (d : Reg) (a : Reg) (b : Src) (s : State) : Host.Outcome State Fault Refusal :=
  vectorOp (.shrN32 d a b) d 1 s (fun x p => (shrUnsigned (x.r p a) (x.src p b).toNat).toNat)

/-- shr.i32 (R145). -/
def execShrI32 (d : Reg) (a : Reg) (b : Src) (s : State) : Host.Outcome State Fault Refusal :=
  vectorOp (.shrI32 d a b) d 1 s (fun x p => (shrSigned (x.r p a) (x.src p b).toNat).toNat)

/-- shli (R146). -/
def execShli (d : Reg) (a : Reg) (imm8 : BitVec 8) (s : State) : Host.Outcome State Fault Refusal :=
  vectorOp (.shli d a imm8) d 1 s (fun x p => (shlBy (x.r p a) imm8.toNat).toNat)

/-- shri.n32 (R146). -/
def execShriN32 (d : Reg) (a : Reg) (imm8 : BitVec 8) (s : State) : Host.Outcome State Fault Refusal :=
  vectorOp (.shriN32 d a imm8) d 1 s (fun x p => (shrUnsigned (x.r p a) imm8.toNat).toNat)

/-- shri.i32 (R146). -/
def execShriI32 (d : Reg) (a : Reg) (imm8 : BitVec 8) (s : State) : Host.Outcome State Fault Refusal :=
  vectorOp (.shriI32 d a imm8) d 1 s (fun x p => (shrSigned (x.r p a) imm8.toNat).toNat)

/-- bfe.n32 (R147). -/
def execBfeN32 (d : Reg) (a : Reg) (b : Src) (s : State) : Host.Outcome State Fault Refusal :=
  vectorOp (.bfeN32 d a b) d 1 s (fun x p => (bfe false (x.r p a) (x.src p b)).toNat)

/-- bfe.i32 (R147). -/
def execBfeI32 (d : Reg) (a : Reg) (b : Src) (s : State) : Host.Outcome State Fault Refusal :=
  vectorOp (.bfeI32 d a b) d 1 s (fun x p => (bfe true (x.r p a) (x.src p b)).toNat)

/-- bfi (R148). -/
def execBfi (d : Reg) (a : Reg) (b : Src) (s : State) : Host.Outcome State Fault Refusal :=
  vectorOp (.bfi d a b) d 1 s (fun x p => (bfi (x.r p d) (x.r p a) (x.src p b)).toNat)

/-- popc (R149). -/
def execPopc (d : Reg) (a : Reg) (s : State) : Host.Outcome State Fault Refusal :=
  vectorOp (.popc d a) d 1 s (fun x p => (popc (x.r p a)).toNat)

/-- clz (R149). -/
def execClz (d : Reg) (a : Reg) (s : State) : Host.Outcome State Fault Refusal :=
  vectorOp (.clz d a) d 1 s (fun x p => (clz (x.r p a)).toNat)

/-- brev (R149). -/
def execBrev (d : Reg) (a : Reg) (s : State) : Host.Outcome State Fault Refusal :=
  vectorOp (.brev d a) d 1 s (fun x p => (brev (x.r p a)).toNat)

/-- seteq (R150). -/
def execSeteq (d : Reg) (a : Reg) (b : Src) (s : State) : Host.Outcome State Fault Refusal :=
  vectorOp (.seteq d a b) d 1 s (fun x p => (Word.ofBool (x.r p a = x.src p b)).toNat)

/-- setne (R150). -/
def execSetne (d : Reg) (a : Reg) (b : Src) (s : State) : Host.Outcome State Fault Refusal :=
  vectorOp (.setne d a b) d 1 s (fun x p => (Word.ofBool (x.r p a ≠ x.src p b)).toNat)

/-- setlt.i32 (R150). -/
def execSetltI32 (d : Reg) (a : Reg) (b : Src) (s : State) : Host.Outcome State Fault Refusal :=
  vectorOp (.setltI32 d a b) d 1 s (fun x p => (Word.ofBool ((x.r p a).toInt < (x.src p b).toInt)).toNat)

/-- setle.i32 (R150). -/
def execSetleI32 (d : Reg) (a : Reg) (b : Src) (s : State) : Host.Outcome State Fault Refusal :=
  vectorOp (.setleI32 d a b) d 1 s (fun x p => (Word.ofBool ((x.r p a).toInt ≤ (x.src p b).toInt)).toNat)

/-- setlt.n32 (R150). -/
def execSetltN32 (d : Reg) (a : Reg) (b : Src) (s : State) : Host.Outcome State Fault Refusal :=
  vectorOp (.setltN32 d a b) d 1 s (fun x p => (Word.ofBool ((x.r p a).toNat < (x.src p b).toNat)).toNat)

/-- setle.n32 (R150). -/
def execSetleN32 (d : Reg) (a : Reg) (b : Src) (s : State) : Host.Outcome State Fault Refusal :=
  vectorOp (.setleN32 d a b) d 1 s (fun x p => (Word.ofBool ((x.r p a).toNat ≤ (x.src p b).toNat)).toNat)

/-- setlt.i64 (R150). -/
def execSetltI64 (d : Reg) (a : Reg) (b : Src) (s : State) : Host.Outcome State Fault Refusal :=
  vectorOp (.setltI64 d a b) d 1 s (fun x p => (Word.ofBool (sext (x.r2 p a) 64 < sext (x.src2 p b) 64)).toNat)

/-- seteq.i64 (R150). -/
def execSeteqI64 (d : Reg) (a : Reg) (b : Src) (s : State) : Host.Outcome State Fault Refusal :=
  vectorOp (.seteqI64 d a b) d 1 s (fun x p => (Word.ofBool (x.r2 p a = x.src2 p b)).toNat)

/-- sel (R151). -/
def execSel (d : Reg) (a : Reg) (b : Src) (s : State) : Host.Outcome State Fault Refusal :=
  vectorOp (.sel d a b) d 1 s (fun x p => (if x.r p d ≠ 0 then x.r p a else x.src p b).toNat)

/-- mov (R152). -/
def execMov (d : Reg) (b : Src) (s : State) : Host.Outcome State Fault Refusal :=
  vectorOp (.mov d b) d 1 s (fun x p => (x.src p b).toNat)

/-- mov.i64 (R152). -/
def execMovI64 (d : Reg) (b : Src) (s : State) : Host.Outcome State Fault Refusal :=
  vectorOp (.movI64 d b) d 2 s (fun x p => x.src2 p b)

/-- movh (R143). -/
def execMovh (d : Reg) (imm : BitVec 16) (s : State) : Host.Outcome State Fault Refusal :=
  vectorOp (.movh d imm) d 1 s (fun x p => (movhWord (x.r p d) imm).toNat)

end Sys2Proof.Machine
end

