-- ==== Sys2Proof/Machine/Lane.lean ====
section
/-!
DEFINITION. Machine/Lane.lean: the lane-exchange, vote and reduction instructions (R159 to R166), and movx and movxr (R153
to R156).
-/

namespace Sys2Proof.Machine

open Sys2Proof

/-- A shuffle (R159): the source lane's a, the lane's own a out of range, or zero from a dead lane, which sets dsf. -/
def shuffle (i : Instr) (d a : Reg) (b : Src) (f : SourceLane) (s : State) : Host.Outcome State Fault Refusal :=
  run i s (fun cx t =>
    let from_ := fun (p : Nat) => cx.shuffleFrom t b f p
    let dead := fun (l : Nat) => cx.g.dead.getLsbD l
    let phys := fun (p l : Nat) => (cx.g.phys l).getD (cx.g.copy p) 0
    let flagged := maskOf ((cx.lanes.filter (fun p => match from_ p with
      | some l => dead l
      | none => false)).map cx.g.vis)
    let t1 := cx.lanewise t d 1 (fun p => some (match from_ p with
      | none => (cx.rd t p a.toNat).toNat
      | some l => if dead l then 0 else (cx.rd t (phys p l) a.toNat).toNat))
    cx.finish (t1.modGang cx.gid (fun g => { g with dsf := g.dsf ||| flagged })))

/-- xch.at (R159). -/
def execXchAt (d a : Reg) (b : Src) (s : State) : Host.Outcome State Fault Refusal := shuffle (.xchAt d a b) d a b sourceAt s
/-- xch.below (R159). -/
def execXchBelow (d a : Reg) (b : Src) (s : State) : Host.Outcome State Fault Refusal :=
  shuffle (.xchBelow d a b) d a b sourceBelow s
/-- xch.above (R159). -/
def execXchAbove (d a : Reg) (b : Src) (s : State) : Host.Outcome State Fault Refusal :=
  shuffle (.xchAbove d a b) d a b sourceAbove s
/-- xch.mirror (R159). -/
def execXchMirror (d a : Reg) (b : Src) (s : State) : Host.Outcome State Fault Refusal :=
  shuffle (.xchMirror d a b) d a b sourceMirror s

/-- Register a of every performing lane, for one copy: visible lane and value. -/
def Cx.gathered (cx : Cx) (s : State) (a : Reg) (p : Nat) : List (Nat × Word) :=
  (lanesOf cx.perform).map (fun l => (l, cx.rd s ((cx.g.phys l).getD (cx.g.copy p) 0) a.toNat))

/-- vmask (R163). -/
def execVmask (d a : Reg) (s : State) : Host.Outcome State Fault Refusal :=
  run (.vmask d a) s (fun cx t => cx.finish (cx.lanewise t d 1 (fun p =>
    some (maskOf (((cx.gathered t a p).filter (fun e => e.2 ≠ 0)).map Prod.fst)).toNat)))

/-- vgroup (R164). -/
def execVgroup (d a : Reg) (s : State) : Host.Outcome State Fault Refusal :=
  run (.vgroup d a) s (fun cx t => cx.finish (cx.lanewise t d 1 (fun p =>
    some (maskOf (((cx.gathered t a p).filter (fun e => e.2 = cx.rd t p a.toNat)).map Prod.fst)).toNat)))

/-- The reductions of R165, operations 0 to 7. -/
def reduceLanes (op : Nat) (xs : List Word) : Word :=
  match xs with
  | [] => 0
  | x :: rest =>
    if op = 0 then rest.foldl (· + ·) x
    else if op = 1 then rest.foldl minSigned x
    else if op = 2 then rest.foldl maxSigned x
    else if op = 3 then rest.foldl minUnsigned x
    else if op = 4 then rest.foldl maxUnsigned x
    else if op = 5 then rest.foldl (· &&& ·) x
    else if op = 6 then rest.foldl (· ||| ·) x
    else rest.foldl (· ^^^ ·) x

/-- lred (R165). -/
def execLred (d a : Reg) (imm8 : BitVec 8) (s : State) : Host.Outcome State Fault Refusal :=
  run (.lred d a imm8) s (fun cx t =>
    if imm8 = 8 then
      let t1 := cx.lanewise t d 1 (fun _ => some (cx.g.dsf &&& cx.perform).toNat)
      cx.finish (t1.modGang cx.gid (fun g => { g with dsf := g.dsf &&& ~~~cx.perform }))
    else cx.finish (cx.lanewise t d 1 (fun p => some (reduceLanes imm8.toNat ((cx.gathered t a p).map Prod.snd)).toNat)))

/-- movx (R153): writes a register chosen at run time. -/
def execMovx (d a : Reg) (b : Src) (s : State) : Host.Outcome State Fault Refusal :=
  run (.movx d a b) s (fun cx t =>
    cx.finish (cx.put t (cx.lanes.map (fun p => (vKey p (cx.target t d a p), cx.srcWord t p b)))))

/-- movxr (R154): reads a register chosen at run time. -/
def execMovxr (d a b : Reg) (s : State) : Host.Outcome State Fault Refusal :=
  run (.movxr d a b) s (fun cx t =>
    cx.finish (cx.lanewise t d 1 (fun p => some (cx.g.read t cx.cyc (vKey p (cx.target t b a p))).toNat)))

end Sys2Proof.Machine
end

