-- ==== Sys2Proof/Decode.lean ====
section
/-!
DEFINITION. Decode.lean: an instruction from a slot's word and its literal (R72 to R80), total on any word and rejecting
by name, and the encoder written from the same tables. Field VALUES that an entry calls invalid are kept in the
instruction; WellFormed.lean refuses them.
-/

namespace Sys2Proof

/-- Why a word is no instruction: a reserved opcode, a field that must be zero, or a breach of the literal rule R73. Each
raises cause 0x01 (R80). -/
inductive DecodeError where
  | reservedOpcode
  | nonZeroField
  | literalNotAdmitted
  | literalMissing
  | wideLiteral
  deriving DecidableEq, Repr

/-- The four bytes of an instruction word (R72). -/
def pack (op d a b : BitVec 8) : Word := op ++ d ++ a ++ b
def opField (w : Word) : BitVec 8 := w.extractLsb' 24 8
def dField (w : Word) : BitVec 8 := w.extractLsb' 16 8
def aField (w : Word) : BitVec 8 := w.extractLsb' 8 8
def bField (w : Word) : BitVec 8 := w.extractLsb' 0 8

/-- imm16 of form C, from the a and b bytes, and back. -/
def imm16 (a b : BitVec 8) : BitVec 16 := a ++ b
def immHi (m : BitVec 16) : BitVec 8 := m.extractLsb' 8 8
def immLo (m : BitVec 16) : BitVec 8 := m.extractLsb' 0 8

/-- The target and join fields of form J, from the three bytes, and back. -/
def jHi (d a : BitVec 8) : BitVec 12 := d ++ a.extractLsb' 4 4
def jLo (a b : BitVec 8) : BitVec 12 := a.extractLsb' 0 4 ++ b
def jA (t : BitVec 12) : BitVec 8 := t.extractLsb' 4 8
def jB (t j : BitVec 12) : BitVec 8 := t.extractLsb' 0 4 ++ j.extractLsb' 8 4
def jC (j : BitVec 12) : BitVec 8 := j.extractLsb' 0 8

def bit0 (x : BitVec 8) : Bool := x.getLsbD 0
def bit1 (x : BitVec 8) : Bool := x.getLsbD 1
def bit7 (x : BitVec 8) : Bool := x.getLsbD 7
def ofBit0 (x : Bool) : BitVec 8 := if x then 1 else 0

/-- The access word (R76). -/
def Access.word (x : Access) : Word := x.offset ++ x.label ++ x.scope ++ x.size ++ x.hint ++ x.op
def Access.ofWord (w : Word) : Access :=
  ⟨w.extractLsb' 16 16, w.extractLsb' 13 3, w.extractLsb' 10 3, w.extractLsb' 7 3, w.extractLsb' 5 2, w.extractLsb' 0 5⟩

/-- What an instruction without a literal asks of its slot (R73). -/
def noLit (lit : Lit) (i : Instr) : Except DecodeError Instr :=
  match lit with
  | .none => .ok i
  | _ => .error .literalNotAdmitted

/-- A field that must be zero (R8, R80). -/
def zero {n : Nat} (x : BitVec n) (r : Except DecodeError Instr) : Except DecodeError Instr :=
  if x = 0 then r else .error .nonZeroField

/-- The b operand: its register, or the literal that stands for it, whose b field is then zero (R73). -/
def srcOf (wide : Bool) (b : Reg) (lit : Lit) (k : Src → Instr) : Except DecodeError Instr :=
  match lit with
  | .none => .ok (k (.reg b))
  | .l32 w => zero b (.ok (k (.lit32 w)))
  | .l64 w => if wide then zero b (.ok (k (.lit64 w))) else .error .wideLiteral

/-- The mandatory access word of a memory instruction (R73). -/
def accessOf (lit : Lit) (k : Access → Instr) : Except DecodeError Instr :=
  match lit with
  | .l32 w => .ok (k (Access.ofWord w))
  | .none => .error .literalMissing
  | .l64 _ => .error .wideLiteral

/-- tret: its operation in imm8 (R214). -/
def tretOf (b : Reg) (lit : Lit) : Except DecodeError Instr :=
  if b = 0 then noLit lit .tretRetry
  else if b = 1 then noLit lit .tretSkip
  else if b = 2 then noLit lit .tretEnd
  else .error .nonZeroField

/-- tlbinv: its kind in d (R425). -/
def tlbinvOf (d a b : Reg) (lit : Lit) : Except DecodeError Instr :=
  if d = 0 then noLit lit (.tlbinvPage a b)
  else if d = 1 then zero a (noLit lit (.tlbinvAsid b))
  else if d = 2 then zero a (zero b (noLit lit .tlbinvAll))
  else .error .nonZeroField

/-- Opcodes 0x00 to 0x0F, with the set bit as the highest bit (R78, R79). -/
def row0 (lo : Nat) (d a b : Reg) (lit : Lit) : Except DecodeError Instr :=
  match lo with
  | 0x0 => srcOf false b lit (fun x => .add d a x)
  | 0x1 => srcOf false b lit (fun x => .sub d a x)
  | 0x2 => srcOf false b lit (fun x => .mul d a x)
  | 0x3 => srcOf false b lit (fun x => .mulhiI32 d a x)
  | 0x4 => srcOf false b lit (fun x => .mulhiN32 d a x)
  | 0x5 => srcOf false b lit (fun x => .mad d a x)
  | 0x6 => srcOf true b lit (fun x => .addI64 d a x)
  | 0x7 => srcOf true b lit (fun x => .subI64 d a x)
  | 0x8 => srcOf false b lit (fun x => .mulwI32 d a x)
  | 0x9 => srcOf false b lit (fun x => .mulwN32 d a x)
  | 0xA => srcOf false b lit (fun x => .minI32 d a x)
  | 0xB => srcOf false b lit (fun x => .maxI32 d a x)
  | 0xC => srcOf false b lit (fun x => .minN32 d a x)
  | 0xD => srcOf false b lit (fun x => .maxN32 d a x)
  | 0xE => noLit lit (.addi d (imm16 a b))
  | 0xF => noLit lit (.ldi d (imm16 a b))
  | _ => .error .reservedOpcode

/-- Opcodes 0x10 to 0x1F, with the set bit as the highest bit (R78, R79). -/
def row1 (lo : Nat) (d a b : Reg) (lit : Lit) : Except DecodeError Instr :=
  match lo with
  | 0x0 => srcOf false b lit (fun x => .and d a x)
  | 0x1 => srcOf false b lit (fun x => .or d a x)
  | 0x2 => srcOf false b lit (fun x => .xor d a x)
  | 0x3 => srcOf false b lit (fun x => .andn d a x)
  | 0x4 => srcOf false b lit (fun x => .shl d a x)
  | 0x5 => srcOf false b lit (fun x => .shrN32 d a x)
  | 0x6 => srcOf false b lit (fun x => .shrI32 d a x)
  | 0x7 => noLit lit (.shli d a b)
  | 0x8 => noLit lit (.shriN32 d a b)
  | 0x9 => noLit lit (.shriI32 d a b)
  | 0xA => srcOf false b lit (fun x => .bfeN32 d a x)
  | 0xB => srcOf false b lit (fun x => .bfeI32 d a x)
  | 0xC => srcOf false b lit (fun x => .bfi d a x)
  | 0xD => zero b (noLit lit (.popc d a))
  | 0xE => zero b (noLit lit (.clz d a))
  | 0xF => zero b (noLit lit (.brev d a))
  | _ => .error .reservedOpcode

/-- Opcodes 0x20 to 0x2F, with the set bit as the highest bit (R78, R79). -/
def row2 (lo : Nat) (d a b : Reg) (lit : Lit) : Except DecodeError Instr :=
  match lo with
  | 0x0 => srcOf false b lit (fun x => .seteq d a x)
  | 0x1 => srcOf false b lit (fun x => .setne d a x)
  | 0x2 => srcOf false b lit (fun x => .setltI32 d a x)
  | 0x3 => srcOf false b lit (fun x => .setleI32 d a x)
  | 0x4 => srcOf false b lit (fun x => .setltN32 d a x)
  | 0x5 => srcOf false b lit (fun x => .setleN32 d a x)
  | 0x6 => srcOf true b lit (fun x => .setltI64 d a x)
  | 0x7 => srcOf true b lit (fun x => .seteqI64 d a x)
  | 0x8 => srcOf false b lit (fun x => .xchAt d a x)
  | 0x9 => srcOf false b lit (fun x => .xchBelow d a x)
  | 0xA => srcOf false b lit (fun x => .xchAbove d a x)
  | 0xB => srcOf false b lit (fun x => .xchMirror d a x)
  | 0xC => zero b (noLit lit (.vmask d a))
  | 0xD => zero b (noLit lit (.vgroup d a))
  | 0xE => noLit lit (.lred d a b)
  | _ => .error .reservedOpcode

/-- Opcodes 0x30 to 0x3F, with the set bit as the highest bit (R78, R79). -/
def row3 (lo : Nat) (d a b : Reg) (lit : Lit) : Except DecodeError Instr :=
  match lo with
  | 0x0 => srcOf false b lit (fun x => .faddF32 d a x)
  | 0x1 => srcOf false b lit (fun x => .fsubF32 d a x)
  | 0x2 => srcOf false b lit (fun x => .fmulF32 d a x)
  | 0x3 => srcOf false b lit (fun x => .ffmaF32 d a x)
  | 0x4 => srcOf false b lit (fun x => .fminF32 d a x)
  | 0x5 => srcOf false b lit (fun x => .fmaxF32 d a x)
  | 0x6 => srcOf false b lit (fun x => .fdivF32 d a x)
  | 0x7 => zero b (noLit lit (.fsqrtF32 d a))
  | 0x8 => srcOf false b lit (fun x => .fseteqF32 d a x)
  | 0x9 => srcOf false b lit (fun x => .fsetltF32 d a x)
  | 0xA => srcOf false b lit (fun x => .fsetleF32 d a x)
  | 0xB => srcOf false b lit (fun x => .fsetunF32 d a x)
  | 0xC => noLit lit (.faddiF32 d (imm16 a b))
  | 0xD => noLit lit (.fmuliF32 d (imm16 a b))
  | 0xE => zero b (noLit lit (.fclassF32 d a))
  | 0xF => srcOf false b lit (fun x => .fnmaF32 d a x)
  | _ => .error .reservedOpcode

/-- Opcodes 0x40 to 0x4F, with the set bit as the highest bit (R78, R79). -/
def row4 (lo : Nat) (d a b : Reg) (lit : Lit) : Except DecodeError Instr :=
  match lo with
  | 0x0 => srcOf true b lit (fun x => .faddF64 d a x)
  | 0x1 => srcOf true b lit (fun x => .fsubF64 d a x)
  | 0x2 => srcOf true b lit (fun x => .fmulF64 d a x)
  | 0x3 => srcOf true b lit (fun x => .ffmaF64 d a x)
  | 0x4 => srcOf true b lit (fun x => .fminF64 d a x)
  | 0x5 => srcOf true b lit (fun x => .fmaxF64 d a x)
  | 0x6 => srcOf true b lit (fun x => .fdivF64 d a x)
  | 0x7 => zero b (noLit lit (.fsqrtF64 d a))
  | 0x8 => srcOf true b lit (fun x => .fseteqF64 d a x)
  | 0x9 => srcOf true b lit (fun x => .fsetltF64 d a x)
  | 0xA => srcOf true b lit (fun x => .fsetleF64 d a x)
  | 0xB => srcOf true b lit (fun x => .fsetunF64 d a x)
  | 0xC => noLit lit (.faddiF64 d (imm16 a b))
  | 0xD => noLit lit (.fmuliF64 d (imm16 a b))
  | 0xE => zero b (noLit lit (.fclassF64 d a))
  | 0xF => srcOf true b lit (fun x => .fnmaF64 d a x)
  | _ => .error .reservedOpcode

/-- Opcodes 0x50 to 0x5F, with the set bit as the highest bit (R78, R79). -/
def row5 (lo : Nat) (d a b : Reg) (lit : Lit) : Except DecodeError Instr :=
  match lo with
  | 0x0 => srcOf false b lit (fun x => .haddF16x2 d a x)
  | 0x1 => srcOf false b lit (fun x => .hmulF16x2 d a x)
  | 0x2 => srcOf false b lit (fun x => .hfmaF16x2 d a x)
  | 0x3 => srcOf false b lit (fun x => .haddBf16x2 d a x)
  | 0x4 => srcOf false b lit (fun x => .hmulBf16x2 d a x)
  | 0x5 => srcOf false b lit (fun x => .hfmaBf16x2 d a x)
  | 0x6 => noLit lit (.cvt d a (bit7 b) (b.extractLsb' 5 2) (b.extractLsb' 0 5))
  | 0x7 => zero (b.extractLsb' 2 3) (noLit lit (.qbx d a (bit7 b) (b.extractLsb' 5 2) (bit1 b) (bit0 b)))
  | 0x8 => zero b (noLit lit (.frcpF32 d a))
  | 0x9 => zero b (noLit lit (.frsqF32 d a))
  | 0xA => zero b (noLit lit (.fexp2F32 d a))
  | 0xB => zero b (noLit lit (.flog2F32 d a))
  | 0xC => zero b (noLit lit (.fsinF32 d a))
  | 0xD => zero b (noLit lit (.fcosF32 d a))
  | 0xE => zero b (noLit lit (.frcpF64 d a))
  | 0xF => zero b (noLit lit (.frsqF64 d a))
  | _ => .error .reservedOpcode

/-- Opcodes 0x60 to 0x6F, with the set bit as the highest bit (R78, R79). -/
def row6 (lo : Nat) (d a b : Reg) (lit : Lit) : Except DecodeError Instr :=
  match lo with
  | 0x0 => zero b (accessOf lit (fun x => .ld d a x))
  | 0x1 => zero b (accessOf lit (fun x => .st d a x))
  | 0x2 => accessOf lit (fun x => .lda d a b x)
  | 0x3 => accessOf lit (fun x => .atom d a b x)
  | 0x4 => accessOf lit (fun x => .cas d a b x)
  | 0x5 => accessOf lit (fun x => .cas2 d a b x)
  | 0x6 => zero d (zero b (accessOf lit (fun x => .pf a x)))
  | 0x7 => zero d (zero b (accessOf lit (fun x => .evict a x)))
  | _ => .error .reservedOpcode

/-- Opcodes 0x70 to 0x7F, with the set bit as the highest bit (R78, R79). -/
def row7 (lo : Nat) (d a b : Reg) (lit : Lit) : Except DecodeError Instr :=
  match lo with
  | 0x0 => zero a (srcOf false b lit (fun x => .mov d x))
  | 0x1 => zero a (srcOf true b lit (fun x => .movI64 d x))
  | 0x2 => srcOf false b lit (fun x => .movx d a x)
  | 0x3 => noLit lit (.movxr d a b)
  | 0x4 => srcOf false b lit (fun x => .sel d a x)
  | 0x5 => noLit lit (.sread d (imm16 a b))
  | 0x6 => noLit lit (.swrite d (imm16 a b))
  | 0x7 => noLit lit (.movh d (imm16 a b))
  | _ => .error .reservedOpcode

/-- Opcodes 0x80 to 0x8F, with the set bit as the highest bit (R78, R79). -/
def row8 (lo : Nat) (d a b : Reg) (lit : Lit) : Except DecodeError Instr :=
  match lo with
  | 0x0 => srcOf false b lit (fun x => .uAdd d a x)
  | 0x1 => srcOf false b lit (fun x => .uSub d a x)
  | 0x2 => srcOf false b lit (fun x => .uMul d a x)
  | 0x3 => srcOf false b lit (fun x => .uMulhiI32 d a x)
  | 0x4 => srcOf false b lit (fun x => .uMulhiN32 d a x)
  | 0x5 => srcOf false b lit (fun x => .uMad d a x)
  | 0x6 => srcOf true b lit (fun x => .uAddI64 d a x)
  | 0x7 => srcOf true b lit (fun x => .uSubI64 d a x)
  | 0x8 => srcOf false b lit (fun x => .uMulwI32 d a x)
  | 0x9 => srcOf false b lit (fun x => .uMulwN32 d a x)
  | 0xA => srcOf false b lit (fun x => .uMinI32 d a x)
  | 0xB => srcOf false b lit (fun x => .uMaxI32 d a x)
  | 0xC => srcOf false b lit (fun x => .uMinN32 d a x)
  | 0xD => srcOf false b lit (fun x => .uMaxN32 d a x)
  | 0xE => noLit lit (.uAddi d (imm16 a b))
  | 0xF => noLit lit (.uLdi d (imm16 a b))
  | _ => .error .reservedOpcode

/-- Opcodes 0x90 to 0x9F, with the set bit as the highest bit (R78, R79). -/
def row9 (lo : Nat) (d a b : Reg) (lit : Lit) : Except DecodeError Instr :=
  match lo with
  | 0x0 => srcOf false b lit (fun x => .uAnd d a x)
  | 0x1 => srcOf false b lit (fun x => .uOr d a x)
  | 0x2 => srcOf false b lit (fun x => .uXor d a x)
  | 0x3 => srcOf false b lit (fun x => .uAndn d a x)
  | 0x4 => srcOf false b lit (fun x => .uShl d a x)
  | 0x5 => srcOf false b lit (fun x => .uShrN32 d a x)
  | 0x6 => srcOf false b lit (fun x => .uShrI32 d a x)
  | 0x7 => noLit lit (.uShli d a b)
  | 0x8 => noLit lit (.uShriN32 d a b)
  | 0x9 => noLit lit (.uShriI32 d a b)
  | 0xA => srcOf false b lit (fun x => .uBfeN32 d a x)
  | 0xB => srcOf false b lit (fun x => .uBfeI32 d a x)
  | 0xC => srcOf false b lit (fun x => .uBfi d a x)
  | 0xD => zero b (noLit lit (.uPopc d a))
  | 0xE => zero b (noLit lit (.uClz d a))
  | 0xF => zero b (noLit lit (.uBrev d a))
  | _ => .error .reservedOpcode

/-- Opcodes 0xA0 to 0xAF, with the set bit as the highest bit (R78, R79). -/
def rowA (lo : Nat) (d a b : Reg) (lit : Lit) : Except DecodeError Instr :=
  match lo with
  | 0x0 => noLit lit (.bra (jHi d a) (jLo a b))
  | 0x1 => zero (d.extractLsb' 1 7) (if bit0 d then srcOf false b lit (fun x => .brx true a x) else zero b (noLit lit (.brx false a (.reg 0))))
  | 0x2 => zero (a.extractLsb' 0 4) (noLit lit (.call (jHi d a) b))
  | 0x3 => zero d (zero b (noLit lit (.ret a)))
  | 0x4 => zero d (zero a (zero b (noLit lit .join)))
  | 0x5 => noLit lit (.joinw d (imm16 a b))
  | 0x6 => zero d (zero a (zero b (noLit lit .yield)))
  | 0x7 => zero d (zero a (zero b (noLit lit .exit)))
  | 0x8 => zero d (noLit lit (.trap (imm16 a b)))
  | 0x9 => zero d (noLit lit (.brk (imm16 a b)))
  | 0xA => zero a (zero b (noLit lit (.emsave d)))
  | 0xB => zero d (zero b (noLit lit (.emset a)))
  | _ => .error .reservedOpcode

/-- Opcodes 0xB0 to 0xBF, with the set bit as the highest bit (R78, R79). -/
def rowB (lo : Nat) (d a b : Reg) (lit : Lit) : Except DecodeError Instr :=
  match lo with
  | 0x0 => srcOf false b lit (fun x => .barInit d a x)
  | 0x1 => srcOf false b lit (fun x => .barArrive d a x)
  | 0x2 => srcOf false b lit (fun x => .barWait d a x)
  | 0x3 => zero d (zero a (zero (b.extractLsb' 3 5) (noLit lit (.fence (b.extractLsb' 0 3)))))
  | 0x4 => zero d (zero a (zero b (noLit lit .uIsplit)))
  | 0x5 => noLit lit (.waitc d (imm16 a b))
  | 0x6 => srcOf false b lit (fun x => .uWaitring d a x)
  | 0x7 => srcOf false b lit (fun x => .barSync d a x)
  | 0x8 => zero b (noLit lit (.uRecruit d a))
  | 0x9 => srcOf false b lit (fun x => .uHloop d a x)
  | 0xA => noLit lit (.uHjoin d a b)
  | 0xB => zero d (zero a (zero b (noLit lit .uHrel)))
  | _ => .error .reservedOpcode

/-- Opcodes 0xC0 to 0xCF, with the set bit as the highest bit (R78, R79). -/
def rowC (lo : Nat) (d a b : Reg) (lit : Lit) : Except DecodeError Instr :=
  match lo with
  | 0x0 => zero b (noLit lit (.setshape d a))
  | 0x1 => noLit lit (.mma d a b)
  | 0x2 => zero b (noLit lit (.mgath d a))
  | 0x3 => zero (b.extractLsb' 2 6) (noLit lit (.mdrain d a (bit1 b) (bit0 b)))
  | 0x4 => noLit lit (.mzero d a b)
  | 0x5 => zero b (accessOf lit (fun x => .tld d a x))
  | 0x6 => accessOf lit (fun x => .tst d a b x)
  | 0x7 => zero a (srcOf false b lit (fun x => .cksum d x))
  | 0x8 => zero a (zero b (noLit lit (.ckchk d)))
  | 0x9 => srcOf false b lit (fun x => .ckinj d a x)
  | _ => .error .reservedOpcode

/-- Opcodes 0xD0 to 0xDF, with the set bit as the highest bit (R78, R79). -/
def rowD (lo : Nat) (d a b : Reg) (lit : Lit) : Except DecodeError Instr :=
  match lo with
  | 0x0 => noLit lit (.copy d a b)
  | 0x1 => noLit lit (.copyTile d a b)
  | 0x2 => noLit lit (.copyGath d a b)
  | 0x3 => noLit lit (.copyScat d a b)
  | 0x4 => noLit lit (.copyRed d a b)
  | 0x5 => noLit lit (.copyConv d a b)
  | _ => .error .reservedOpcode

/-- Opcodes 0xE0 to 0xEF, with the set bit as the highest bit (R78, R79). -/
def rowE (lo : Nat) (d a b : Reg) (lit : Lit) : Except DecodeError Instr :=
  match lo with
  | 0x0 => srcOf false b lit (fun x => .launch d a x)
  | 0x1 => srcOf false b lit (fun x => .amsend d a x)
  | 0x2 => zero d (zero a (zero (b.extractLsb' 1 7) (noLit lit (.trctl (bit0 b)))))
  | 0x3 => zero d (noLit lit (.trmark (imm16 a b)))
  | 0x8 => zero b (accessOf lit (fun x => .uLd d a x))
  | 0x9 => zero b (accessOf lit (fun x => .uSt d a x))
  | 0xA => accessOf lit (fun x => .uAtom d a b x)
  | 0xB => zero d (accessOf lit (fun x => .smap a b x))
  | 0xC => zero d (zero a (zero b (accessOf lit (fun x => .sunmap x))))
  | 0xD => zero d (zero a (zero b (accessOf lit (fun x => .sflush x))))
  | 0xE => accessOf lit (fun x => .uCas d a b x)
  | _ => .error .reservedOpcode

/-- Opcodes 0xF0 to 0xFF, with the set bit as the highest bit (R78, R79). -/
def rowF (lo : Nat) (d a b : Reg) (lit : Lit) : Except DecodeError Instr :=
  match lo with
  | 0x0 => zero d (zero a (tretOf b lit))
  | 0x1 => zero b (noLit lit (.locq d a))
  | 0x2 => tlbinvOf d a b lit
  | 0x3 => noLit lit (.asidset d a b)
  | 0x4 => zero b (noLit lit (.mgate d a))
  | 0x5 => noLit lit (.cntrd d (imm16 a b))
  | 0x6 => noLit lit (.cntset d (imm16 a b))
  | 0x7 => zero d (zero a (zero b (noLit lit .nop)))
  | 0x8 => zero d (noLit lit (.sleep (imm16 a b)))
  | _ => .error .reservedOpcode

/-- The instruction of an opcode and its three operand bytes (R78 to R80). -/
def decodeBytes (op : BitVec 8) (d a b : Reg) (lit : Lit) : Except DecodeError Instr :=
  match op.toNat / 16 with
  | 0x0 => row0 (op.toNat % 16) d a b lit
  | 0x1 => row1 (op.toNat % 16) d a b lit
  | 0x2 => row2 (op.toNat % 16) d a b lit
  | 0x3 => row3 (op.toNat % 16) d a b lit
  | 0x4 => row4 (op.toNat % 16) d a b lit
  | 0x5 => row5 (op.toNat % 16) d a b lit
  | 0x6 => row6 (op.toNat % 16) d a b lit
  | 0x7 => row7 (op.toNat % 16) d a b lit
  | 0x8 => row8 (op.toNat % 16) d a b lit
  | 0x9 => row9 (op.toNat % 16) d a b lit
  | 0xA => rowA (op.toNat % 16) d a b lit
  | 0xB => rowB (op.toNat % 16) d a b lit
  | 0xC => rowC (op.toNat % 16) d a b lit
  | 0xD => rowD (op.toNat % 16) d a b lit
  | 0xE => rowE (op.toNat % 16) d a b lit
  | 0xF => rowF (op.toNat % 16) d a b lit
  | _ => .error .reservedOpcode

/-- The instruction of a slot: its word and the literal that belongs to it. -/
def decodeSlot (w : Word) (lit : Lit) : Except DecodeError Instr :=
  decodeBytes (opField w) (dField w) (aField w) (bField w) lit

/-- A word and its literal, for an instruction whose b operand may be a literal. -/
def packSrc (op d a : BitVec 8) : Src → Word × Lit
  | .reg b => (pack op d a b, .none)
  | .lit32 w => (pack op d a 0, .l32 w)
  | .lit64 w => (pack op d a 0, .l64 w)

/-- The word and the literal of an instruction; none for an event. -/
def encode : Instr → Option (Word × Lit)
  | .add d a b => some (packSrc 0x00#8 d a b)
  | .sub d a b => some (packSrc 0x01#8 d a b)
  | .mul d a b => some (packSrc 0x02#8 d a b)
  | .mulhiI32 d a b => some (packSrc 0x03#8 d a b)
  | .mulhiN32 d a b => some (packSrc 0x04#8 d a b)
  | .mad d a b => some (packSrc 0x05#8 d a b)
  | .addI64 d a b => some (packSrc 0x06#8 d a b)
  | .subI64 d a b => some (packSrc 0x07#8 d a b)
  | .mulwI32 d a b => some (packSrc 0x08#8 d a b)
  | .mulwN32 d a b => some (packSrc 0x09#8 d a b)
  | .minI32 d a b => some (packSrc 0x0A#8 d a b)
  | .maxI32 d a b => some (packSrc 0x0B#8 d a b)
  | .minN32 d a b => some (packSrc 0x0C#8 d a b)
  | .maxN32 d a b => some (packSrc 0x0D#8 d a b)
  | .addi d imm => some (pack 0x0E#8 d (immHi imm) (immLo imm), .none)
  | .ldi d imm => some (pack 0x0F#8 d (immHi imm) (immLo imm), .none)
  | .and d a b => some (packSrc 0x10#8 d a b)
  | .or d a b => some (packSrc 0x11#8 d a b)
  | .xor d a b => some (packSrc 0x12#8 d a b)
  | .andn d a b => some (packSrc 0x13#8 d a b)
  | .shl d a b => some (packSrc 0x14#8 d a b)
  | .shrN32 d a b => some (packSrc 0x15#8 d a b)
  | .shrI32 d a b => some (packSrc 0x16#8 d a b)
  | .shli d a imm => some (pack 0x17#8 d a imm, .none)
  | .shriN32 d a imm => some (pack 0x18#8 d a imm, .none)
  | .shriI32 d a imm => some (pack 0x19#8 d a imm, .none)
  | .bfeN32 d a b => some (packSrc 0x1A#8 d a b)
  | .bfeI32 d a b => some (packSrc 0x1B#8 d a b)
  | .bfi d a b => some (packSrc 0x1C#8 d a b)
  | .popc d a => some (pack 0x1D#8 d a 0, .none)
  | .clz d a => some (pack 0x1E#8 d a 0, .none)
  | .brev d a => some (pack 0x1F#8 d a 0, .none)
  | .uAdd d a b => some (packSrc 0x80#8 d a b)
  | .uSub d a b => some (packSrc 0x81#8 d a b)
  | .uMul d a b => some (packSrc 0x82#8 d a b)
  | .uMulhiI32 d a b => some (packSrc 0x83#8 d a b)
  | .uMulhiN32 d a b => some (packSrc 0x84#8 d a b)
  | .uMad d a b => some (packSrc 0x85#8 d a b)
  | .uAddI64 d a b => some (packSrc 0x86#8 d a b)
  | .uSubI64 d a b => some (packSrc 0x87#8 d a b)
  | .uMulwI32 d a b => some (packSrc 0x88#8 d a b)
  | .uMulwN32 d a b => some (packSrc 0x89#8 d a b)
  | .uMinI32 d a b => some (packSrc 0x8A#8 d a b)
  | .uMaxI32 d a b => some (packSrc 0x8B#8 d a b)
  | .uMinN32 d a b => some (packSrc 0x8C#8 d a b)
  | .uMaxN32 d a b => some (packSrc 0x8D#8 d a b)
  | .uAddi d imm => some (pack 0x8E#8 d (immHi imm) (immLo imm), .none)
  | .uLdi d imm => some (pack 0x8F#8 d (immHi imm) (immLo imm), .none)
  | .uAnd d a b => some (packSrc 0x90#8 d a b)
  | .uOr d a b => some (packSrc 0x91#8 d a b)
  | .uXor d a b => some (packSrc 0x92#8 d a b)
  | .uAndn d a b => some (packSrc 0x93#8 d a b)
  | .uShl d a b => some (packSrc 0x94#8 d a b)
  | .uShrN32 d a b => some (packSrc 0x95#8 d a b)
  | .uShrI32 d a b => some (packSrc 0x96#8 d a b)
  | .uShli d a imm => some (pack 0x97#8 d a imm, .none)
  | .uShriN32 d a imm => some (pack 0x98#8 d a imm, .none)
  | .uShriI32 d a imm => some (pack 0x99#8 d a imm, .none)
  | .uBfeN32 d a b => some (packSrc 0x9A#8 d a b)
  | .uBfeI32 d a b => some (packSrc 0x9B#8 d a b)
  | .uBfi d a b => some (packSrc 0x9C#8 d a b)
  | .uPopc d a => some (pack 0x9D#8 d a 0, .none)
  | .uClz d a => some (pack 0x9E#8 d a 0, .none)
  | .uBrev d a => some (pack 0x9F#8 d a 0, .none)
  | .seteq d a b => some (packSrc 0x20#8 d a b)
  | .setne d a b => some (packSrc 0x21#8 d a b)
  | .setltI32 d a b => some (packSrc 0x22#8 d a b)
  | .setleI32 d a b => some (packSrc 0x23#8 d a b)
  | .setltN32 d a b => some (packSrc 0x24#8 d a b)
  | .setleN32 d a b => some (packSrc 0x25#8 d a b)
  | .setltI64 d a b => some (packSrc 0x26#8 d a b)
  | .seteqI64 d a b => some (packSrc 0x27#8 d a b)
  | .xchAt d a b => some (packSrc 0x28#8 d a b)
  | .xchBelow d a b => some (packSrc 0x29#8 d a b)
  | .xchAbove d a b => some (packSrc 0x2A#8 d a b)
  | .xchMirror d a b => some (packSrc 0x2B#8 d a b)
  | .vmask d a => some (pack 0x2C#8 d a 0, .none)
  | .vgroup d a => some (pack 0x2D#8 d a 0, .none)
  | .lred d a imm => some (pack 0x2E#8 d a imm, .none)
  | .faddF32 d a b => some (packSrc 0x30#8 d a b)
  | .fsubF32 d a b => some (packSrc 0x31#8 d a b)
  | .fmulF32 d a b => some (packSrc 0x32#8 d a b)
  | .ffmaF32 d a b => some (packSrc 0x33#8 d a b)
  | .fminF32 d a b => some (packSrc 0x34#8 d a b)
  | .fmaxF32 d a b => some (packSrc 0x35#8 d a b)
  | .fdivF32 d a b => some (packSrc 0x36#8 d a b)
  | .fsqrtF32 d a => some (pack 0x37#8 d a 0, .none)
  | .fseteqF32 d a b => some (packSrc 0x38#8 d a b)
  | .fsetltF32 d a b => some (packSrc 0x39#8 d a b)
  | .fsetleF32 d a b => some (packSrc 0x3A#8 d a b)
  | .fsetunF32 d a b => some (packSrc 0x3B#8 d a b)
  | .faddiF32 d imm => some (pack 0x3C#8 d (immHi imm) (immLo imm), .none)
  | .fmuliF32 d imm => some (pack 0x3D#8 d (immHi imm) (immLo imm), .none)
  | .fclassF32 d a => some (pack 0x3E#8 d a 0, .none)
  | .fnmaF32 d a b => some (packSrc 0x3F#8 d a b)
  | .faddF64 d a b => some (packSrc 0x40#8 d a b)
  | .fsubF64 d a b => some (packSrc 0x41#8 d a b)
  | .fmulF64 d a b => some (packSrc 0x42#8 d a b)
  | .ffmaF64 d a b => some (packSrc 0x43#8 d a b)
  | .fminF64 d a b => some (packSrc 0x44#8 d a b)
  | .fmaxF64 d a b => some (packSrc 0x45#8 d a b)
  | .fdivF64 d a b => some (packSrc 0x46#8 d a b)
  | .fsqrtF64 d a => some (pack 0x47#8 d a 0, .none)
  | .fseteqF64 d a b => some (packSrc 0x48#8 d a b)
  | .fsetltF64 d a b => some (packSrc 0x49#8 d a b)
  | .fsetleF64 d a b => some (packSrc 0x4A#8 d a b)
  | .fsetunF64 d a b => some (packSrc 0x4B#8 d a b)
  | .faddiF64 d imm => some (pack 0x4C#8 d (immHi imm) (immLo imm), .none)
  | .fmuliF64 d imm => some (pack 0x4D#8 d (immHi imm) (immLo imm), .none)
  | .fclassF64 d a => some (pack 0x4E#8 d a 0, .none)
  | .fnmaF64 d a b => some (packSrc 0x4F#8 d a b)
  | .haddF16x2 d a b => some (packSrc 0x50#8 d a b)
  | .hmulF16x2 d a b => some (packSrc 0x51#8 d a b)
  | .hfmaF16x2 d a b => some (packSrc 0x52#8 d a b)
  | .haddBf16x2 d a b => some (packSrc 0x53#8 d a b)
  | .hmulBf16x2 d a b => some (packSrc 0x54#8 d a b)
  | .hfmaBf16x2 d a b => some (packSrc 0x55#8 d a b)
  | .cvt d a ovr rm conv => some (pack 0x56#8 d a (BitVec.ofBool ovr ++ rm ++ conv), .none)
  | .qbx d a ovr rm len16 bx4 => some (pack 0x57#8 d a (BitVec.ofBool ovr ++ rm ++ 0#3 ++ BitVec.ofBool len16 ++ BitVec.ofBool bx4), .none)
  | .frcpF32 d a => some (pack 0x58#8 d a 0, .none)
  | .frsqF32 d a => some (pack 0x59#8 d a 0, .none)
  | .fexp2F32 d a => some (pack 0x5A#8 d a 0, .none)
  | .flog2F32 d a => some (pack 0x5B#8 d a 0, .none)
  | .fsinF32 d a => some (pack 0x5C#8 d a 0, .none)
  | .fcosF32 d a => some (pack 0x5D#8 d a 0, .none)
  | .frcpF64 d a => some (pack 0x5E#8 d a 0, .none)
  | .frsqF64 d a => some (pack 0x5F#8 d a 0, .none)
  | .ld d a acc => some (pack 0x60#8 d a 0, .l32 acc.word)
  | .st d a acc => some (pack 0x61#8 d a 0, .l32 acc.word)
  | .lda d a b acc => some (pack 0x62#8 d a b, .l32 acc.word)
  | .atom d a b acc => some (pack 0x63#8 d a b, .l32 acc.word)
  | .cas d a b acc => some (pack 0x64#8 d a b, .l32 acc.word)
  | .cas2 d a b acc => some (pack 0x65#8 d a b, .l32 acc.word)
  | .pf a acc => some (pack 0x66#8 0 a 0, .l32 acc.word)
  | .evict a acc => some (pack 0x67#8 0 a 0, .l32 acc.word)
  | .mov d b => some (packSrc 0x70#8 d 0 b)
  | .movI64 d b => some (packSrc 0x71#8 d 0 b)
  | .movx d a b => some (packSrc 0x72#8 d a b)
  | .movxr d a b => some (pack 0x73#8 d a b, .none)
  | .sel d a b => some (packSrc 0x74#8 d a b)
  | .sread d imm => some (pack 0x75#8 d (immHi imm) (immLo imm), .none)
  | .swrite d imm => some (pack 0x76#8 d (immHi imm) (immLo imm), .none)
  | .movh d imm => some (pack 0x77#8 d (immHi imm) (immLo imm), .none)
  | .bra t j => some (pack 0xA0#8 (jA t) (jB t j) (jC j), .none)
  | .brx x a b => some (packSrc 0xA1#8 (ofBit0 x) a b)
  | .call t l => some (pack 0xA2#8 (jA t) (jB t 0) l, .none)
  | .ret a => some (pack 0xA3#8 0 a 0, .none)
  | .join => some (pack 0xA4#8 0 0 0, .none)
  | .joinw d imm => some (pack 0xA5#8 d (immHi imm) (immLo imm), .none)
  | .yield => some (pack 0xA6#8 0 0 0, .none)
  | .exit => some (pack 0xA7#8 0 0 0, .none)
  | .trap imm => some (pack 0xA8#8 0 (immHi imm) (immLo imm), .none)
  | .brk imm => some (pack 0xA9#8 0 (immHi imm) (immLo imm), .none)
  | .emsave d => some (pack 0xAA#8 d 0 0, .none)
  | .emset a => some (pack 0xAB#8 0 a 0, .none)
  | .barInit d a b => some (packSrc 0xB0#8 d a b)
  | .barArrive d a b => some (packSrc 0xB1#8 d a b)
  | .barWait d a b => some (packSrc 0xB2#8 d a b)
  | .fence scope => some (pack 0xB3#8 0 0 (scope.setWidth 8), .none)
  | .uIsplit => some (pack 0xB4#8 0 0 0, .none)
  | .waitc d imm => some (pack 0xB5#8 d (immHi imm) (immLo imm), .none)
  | .uWaitring d a b => some (packSrc 0xB6#8 d a b)
  | .barSync d a b => some (packSrc 0xB7#8 d a b)
  | .uRecruit d a => some (pack 0xB8#8 d a 0, .none)
  | .uHloop d a b => some (packSrc 0xB9#8 d a b)
  | .uHjoin d a b => some (pack 0xBA#8 d a b, .none)
  | .uHrel => some (pack 0xBB#8 0 0 0, .none)
  | .setshape d a => some (pack 0xC0#8 d a 0, .none)
  | .mma d a b => some (pack 0xC1#8 d a b, .none)
  | .mgath d a => some (pack 0xC2#8 d a 0, .none)
  | .mdrain d a clear recomp => some (pack 0xC3#8 d a (0#6 ++ BitVec.ofBool clear ++ BitVec.ofBool recomp), .none)
  | .mzero d a b => some (pack 0xC4#8 d a b, .none)
  | .tld d a acc => some (pack 0xC5#8 d a 0, .l32 acc.word)
  | .tst d a b acc => some (pack 0xC6#8 d a b, .l32 acc.word)
  | .cksum d b => some (packSrc 0xC7#8 d 0 b)
  | .ckchk d => some (pack 0xC8#8 d 0 0, .none)
  | .ckinj d a b => some (packSrc 0xC9#8 d a b)
  | .copy d a b => some (pack 0xD0#8 d a b, .none)
  | .copyTile d a b => some (pack 0xD1#8 d a b, .none)
  | .copyGath d a b => some (pack 0xD2#8 d a b, .none)
  | .copyScat d a b => some (pack 0xD3#8 d a b, .none)
  | .copyRed d a b => some (pack 0xD4#8 d a b, .none)
  | .copyConv d a b => some (pack 0xD5#8 d a b, .none)
  | .launch d a b => some (packSrc 0xE0#8 d a b)
  | .amsend d a b => some (packSrc 0xE1#8 d a b)
  | .trctl on => some (pack 0xE2#8 0 0 (ofBit0 on), .none)
  | .trmark imm => some (pack 0xE3#8 0 (immHi imm) (immLo imm), .none)
  | .uLd d a acc => some (pack 0xE8#8 d a 0, .l32 acc.word)
  | .uSt d a acc => some (pack 0xE9#8 d a 0, .l32 acc.word)
  | .uAtom d a b acc => some (pack 0xEA#8 d a b, .l32 acc.word)
  | .smap a b acc => some (pack 0xEB#8 0 a b, .l32 acc.word)
  | .sunmap acc => some (pack 0xEC#8 0 0 0, .l32 acc.word)
  | .sflush acc => some (pack 0xED#8 0 0 0, .l32 acc.word)
  | .uCas d a b acc => some (pack 0xEE#8 d a b, .l32 acc.word)
  | .tretRetry => some (pack 0xF0#8 0 0 0, .none)
  | .tretSkip => some (pack 0xF0#8 0 0 1, .none)
  | .tretEnd => some (pack 0xF0#8 0 0 2, .none)
  | .locq d a => some (pack 0xF1#8 d a 0, .none)
  | .tlbinvPage a b => some (pack 0xF2#8 0 a b, .none)
  | .tlbinvAsid b => some (pack 0xF2#8 1 0 b, .none)
  | .tlbinvAll => some (pack 0xF2#8 2 0 0, .none)
  | .asidset d a b => some (pack 0xF3#8 d a b, .none)
  | .mgate d a => some (pack 0xF4#8 d a 0, .none)
  | .cntrd d imm => some (pack 0xF5#8 d (immHi imm) (immLo imm), .none)
  | .cntset d imm => some (pack 0xF6#8 d (immHi imm) (immLo imm), .none)
  | .nop => some (pack 0xF7#8 0 0 0, .none)
  | .sleep imm => some (pack 0xF8#8 0 (immHi imm) (immLo imm), .none)
  | .gangStateError _ _ => none
  | .scoreboardSquash _ _ _ => none
  | .trapEntry _ _ => none
  | .joinwTimeout _ _ _ => none
  | .starvationLimit _ _ => none
  | .issueSelect _ _ => none
  | .sleepExpiry _ _ _ => none
  | .barrierWaitWake _ _ _ => none
  | .waitcWake _ _ _ => none
  | .waitringWake _ _ _ => none
  | .resourceWake _ _ _ => none
  | .firstTouchFill _ _ => none
  | .ldaReply _ _ _ _ _ => none
  | .helperForcedRelease _ _ => none
  | .matrixOpStart _ => none
  | .matrixSourceRelease _ _ => none
  | .matrixOpComplete _ => none
  | .copyStart _ _ => none
  | .copySourceRelease _ _ => none
  | .copyLineArrival _ _ => none
  | .copyComplete _ _ => none
  | .copyFault _ _ => none
  | .blockPlace _ => none
  | .boundaryDrain _ => none
  | .contextStage _ _ => none
  | .blockStart _ => none
  | .blockEnd _ => none
  | .teamAbort _ => none
  | .schedulerTake => none
  | .tokenEvict _ _ => none
  | .handlerSpawn _ => none
  | .messageArrival _ => none
  | .launchPortWrite _ _ _ => none
  | .qcmdNop _ _ => none
  | .qcmdBind _ _ => none
  | .qcmdUnbind _ _ => none
  | .qcmdEnable _ _ => none
  | .qcmdDisable _ _ => none
  | .qstatWrite _ _ => none
  | .qspillWrite _ _ => none
  | .preemptRequest _ _ _ _ _ => none
  | .restoreRequest _ _ => none
  | .endRequest _ => none
  | .preemptDiscardedOp _ => none
  | .teamDiscard _ => none
  | .teamSave _ => none
  | .teamRestore _ => none
  | .resumeRetry _ _ => none
  | .resumeRefuse _ _ => none
  | .resumeEnd _ _ => none
  | .resumeDiscarded _ _ => none
  | .closeRequest _ _ => none
  | .implicitSplit _ => none
  | .lineEvict _ => none
  | .slotRenewal _ => none
  | .slotPurge _ => none
  | .atticSweep _ => none
  | .migrationFiller _ => none
  | .inboundWrite _ _ _ => none
  | .inboundRouteAck _ _ => none
  | .hostBar2Read _ _ => none
  | .hostSnoop _ _ _ => none
  | .linkUp _ => none
  | .linkDown => none
  | .errstatWrite _ => none
  | .trrpWrite _ _ => none
  | .registerWrite _ _ => none
  | .tracePeriodicSync _ => none
  | .traceLossWrite _ => none
  | .remoteWriteArrival _ _ _ => none
  | .remoteAtomicArrival _ _ _ _ _ _ _ _ => none
  | .remoteAtomicRetry _ _ _ _ => none
  | .frameResend _ _ => none
  | .routeTableWrite _ _ _ _ => none
  | .mgmtQueueDisable _ => none
  | .mgmtQueueEnable _ => none
  | .mgmtDieReset _ _ => none
  | .mgmtDieEnable _ => none
  | .mgmtFaultQueueRead _ => none
  | .mgmtControllerReset => none
  | .ballastWrite _ => none
  | .hbmRateChange _ _ => none
  | .hbmRetrainDone _ _ => none
  | .hbmStackReset _ => none
  | .sensorSample _ _ _ => none
  | .thermalDecision _ => none
  | .clockChange _ => none
  | .governorTest _ => none
  | .powerUp => none
  | .firmwareImageLoad _ _ _ _ => none
  | .spdmRequest _ => none
  | .memoryPoison _ => none
  | .ioParityError _ _ => none
  | .mgmtControllerResetRelease => none
  | .retrainingDeferralExpiry _ => none
  | .recordingControl _ _ _ => none

/-- The instruction the decoder reads from a table word: the low 32 bits are the instruction word, and the bits above
them, where the row has any, its literal; a memory instruction given no literal bits has an access word of zeros. -/
def decodeTableWord (nbits w : Nat) : Option Instr :=
  let word := BitVec.ofNat 32 w
  let lit : Lit :=
    if nbits ≤ 32 then
      (match decodeSlot word .none with
       | .error .literalMissing => .l32 0
       | _ => .none)
    else if nbits ≤ 64 then .l32 (BitVec.ofNat 32 (w / 2 ^ 32))
    else .l64 (BitVec.ofNat 64 (w / 2 ^ 32))
  match decodeSlot word lit with
  | .ok i => some i
  | .error _ => none

end Sys2Proof
end

