-- ==== Sys2Proof/Machine/Matrix.lean ====
section
/-!
DEFINITION. Machine/Matrix.lean: what a matrix operation computes (R117 to R119, R322, R323, R368) and what its format block
or descriptor says (R358 to R360, R372, R373).
-/

namespace Sys2Proof.Machine

open Sys2Proof

/-! ### The grant (R355, R356) -/

def shapeM (x : Word) : Nat := bits x.toNat 7 0
def shapeN (x : Word) : Nat := bits x.toNat 15 8
def shapeK (x : Word) : Nat := bits x.toNat 25 16
def shapeFmt (x : Word) : Nat := bits x.toNat 31 27

/-- What setshape grants to a request on a core (R356). -/
def grantOf (core : Nat) (x : Word) : Word :=
  let m := min (shapeM x - shapeM x % 8) (Config.coreMaxM core)
  let n := min (shapeN x - shapeN x % 8) 128
  let k := min (shapeK x - shapeK x % (4 * kStep (shapeFmt x))) 512
  BitVec.ofNat 32 (m + n * 2 ^ 8 + k * 2 ^ 16 + shapeFmt x * 2 ^ 27)

/-! ### The format block (R359, R360) -/

structure FormatBlock where
  aoff : Nat
  astride : Nat
  af : Nat
  bf : Nat
  ascoff : Nat
  cf : Nat
  len16 : Bool
  zinit : Bool
  sat : Bool
  chkb : Bool
  recomp : Bool
  deriving DecidableEq, Repr

def FormatBlock.ofWords (w : List Nat) : FormatBlock :=
  let x := fun (i : Nat) => w.getD i 0
  ⟨x 0, x 1 % 2 ^ 16, bits (x 1) 20 16, bits (x 1) 25 21, x 2, bits (x 3) 4 0, bit (x 3) 5, bit (x 3) 6, bit (x 3) 7, bit (x 3) 8, bit (x 3) 9⟩

/-- The combinations of R360. -/
def admitsFormats (a b c : Nat) : Bool :=
  if a ≤ 1 then b = a && c = a
  else if a ≤ 3 then b = a && 1 ≤ c && c ≤ 3
  else if a ≤ 5 then (b = 4 || b = 5) && (c = 1 || c = 2)
  else if a ≤ 7 then b = a && (c = 1 || c = 2)
  else if a ≤ 9 then (b = 8 || b = 9) && c = 0x0E
  else if a ≤ 0x0B then (b = 0x0A || b = 0x0B) && c = 0x0E
  else false

def FormatBlock.len (f : FormatBlock) : Nat := if f.len16 then 16 else 32
/-- Bytes of an A row, and of its scales. -/
def FormatBlock.rowBytes (f : FormatBlock) (k : Nat) : Nat := ceilDiv (k * fmtBits f.af) 8
def FormatBlock.scaleBytes (f : FormatBlock) (k : Nat) : Nat := if fmtBx f.af then 2 * (k / f.len) else 0

/-- Whether the words are a valid format block for a shape and a stash need (R360). -/
def FormatBlock.valid (w : List Nat) (shape : Word) (need : Nat) : Bool :=
  let f := FormatBlock.ofWords w
  let m := shapeM shape
  let k := shapeK shape
  let bx := fmtBx f.af
  admitsFormats f.af f.bf f.cf && kStep f.af = kStep (shapeFmt shape) && (!f.len16 || bx) && (!bx || k / 4 % f.len = 0) &&
    (!f.sat || fmtInt f.cf) && (!f.recomp || f.chkb) && f.astride % 16 = 0 && f.rowBytes k ≤ f.astride && f.aoff % 16 = 0 &&
    f.ascoff % 2 = 0 && (bx || f.ascoff = 0) && w.getD 1 0 < 2 ^ 26 && w.getD 3 0 < 2 ^ 10 && (w.drop 4).all (· = 0) &&
    (m = 0 || k = 0 || (f.aoff + (m - 1) * f.astride + f.rowBytes k ≤ need && (!bx || f.ascoff + m * f.scaleBytes k ≤ need)))

/-! ### The descriptor of mgath (R372) -/

structure Gather where
  rowptr : Nat
  colidx : Nat
  values : Nat
  vfmt : Nat
  limit : Nat
  deriving DecidableEq, Repr

def Gather.ofWords (w : List Nat) : Gather := ⟨w.getD 0 0, w.getD 1 0, w.getD 2 0, bits (w.getD 3 0) 4 0, w.getD 4 0⟩
def Gather.size (d : Gather) : Nat := fmtBits d.vfmt / 8

def Gather.valid (w : List Nat) : Bool :=
  let d := Gather.ofWords w
  (d.vfmt ≤ 5 || d.vfmt = 0x0A || d.vfmt = 0x0B) && d.rowptr % 4 = 0 && d.colidx % 2 = 0 && d.values % d.size = 0 &&
    w.getD 3 0 < 2 ^ 5 && (w.drop 5).all (· = 0)

/-! ### One quad's accumulation (R117 to R119, R368) -/

/-- One K-step into an accumulator element: its new value, and whether it was clamped. -/
def accumulate (cf : Nat) (satur : Bool) (c : Nat) (ps : List Term) : Nat × Bool :=
  if fmtInt cf then
    let v := match exactSum true ps with
      | .int x => sext c 32 + x
      | .fp _ => sext c 32
    if satur then
      let y := sat v (-(2 ^ 31)) (2 ^ 31 - 1)
      (wrap y 32, y ≠ v)
    else (wrap v 32, false)
  else
    match exactSum false (.fp ((fmtOf cf).decode c) :: ps) with
    | .fp x => (((fmtOf cf).deliver 0 false x).1, false)
    | .int _ => (c, false)

def termAt (xs : List Term) (k : Nat) : Term := xs.getD k (.int 0)

/-- The k of K-step t. -/
def stepKs (s t : Nat) : List Nat := (List.range s).map (fun e => t * s + e)

/-- One element through every K-step. -/
def dotSteps (cf s steps : Nat) (satur : Bool) (c : Nat) (f : Nat → Term) : Nat × Bool :=
  (List.range steps).foldl (fun (x : Nat × Bool) t =>
    let r := accumulate cf satur x.1 ((stepKs s t).map f)
    (r.1, x.2 || r.2)) (c, false)

/-- One strip entry through every K-step: one rounding for each (R368). -/
def stripSteps (cf s steps : Nat) (u : Nat) (f : Nat → Term) : Nat :=
  (List.range steps).foldl (fun x t => stripAdd cf x (exactSum (fmtInt cf) ((stepKs s t).map f))) u

/-- What an mma leaves in one quad: elements, predictions, and the rows and columns that clamped. -/
structure QuadOut where
  elems : List (List Nat)
  strip : Strip
  rows : List Nat
  cols : List Nat
  deriving DecidableEq, Repr

/-- One quad's part of an mma: a holds m rows of A over k, b the rows of B over j for each k, c and p the elements and the
predictions at start. -/
def mmaQuad (cf s kk n : Nat) (satur : Bool) (a b : List (List Term)) (c : List (List Nat)) (p : Strip) : QuadOut :=
  let steps := kk / s
  let bAt := fun (k j : Nat) => termAt (b.getD k []) j
  let isInt := fmtInt cf
  let absAll := fun (xs : List Term) => xs.map Term.abs
  let colA := (List.range kk).map (fun k => a.map (fun r => termAt r k))
  let aSum := colA.map (exactSum isInt)
  let aMag := colA.map (fun xs => exactSum isInt (absAll xs))
  let bSum := b.map (exactSum isInt)
  let bMag := b.map (fun xs => exactSum isInt (absAll xs))
  let cells := a.zipIdx.map (fun (r : List Term × Nat) => (List.range n).map (fun j =>
    dotSteps cf s steps satur ((c.getD r.2 []).getD j 0) (fun k => (termAt r.1 k).times (bAt k j))))
  let colStep := fun (us : List Nat) (f : Nat → Nat → Term) => (List.range n).map (fun j => stripSteps cf s steps (us.getD j 0) (f j))
  let rowStep := fun (us : List Nat) (f : List Term → Nat → Term) => a.zipIdx.map (fun (r : List Term × Nat) =>
    stripSteps cf s steps (us.getD r.2 0) (f r.1))
  { elems := cells.map (fun r => r.map Prod.fst)
    strip := {
      cs := colStep p.cs (fun j k => (termAt aSum k).times (bAt k j))
      cm := colStep p.cm (fun j k => (termAt aMag k).times (bAt k j).abs)
      rs := rowStep p.rs (fun r k => (termAt r k).times (termAt bSum k))
      rm := rowStep p.rm (fun r k => (termAt r k).abs.times (termAt bMag k)) }
    rows := (List.range cells.length).filter (fun i => (cells.getD i []).any Prod.snd)
    cols := (List.range n).filter (fun j => cells.any (fun r => (r.getD j (0, false)).2)) }

/-! ### The tolerance rule (R322, R323) -/

/-- p of R322. -/
def tolerance (cf : Nat) : Nat := if cf = 0 then 53 else if cf = 1 then 24 else if cf = 2 then 11 else 8

/-- Whether a sum exceeds its tolerance. -/
def exceeds (cf kdepth sigma rho w : Nat) : Bool :=
  if fmtInt cf then sigma ≠ rho
  else
    let f := stripFmt cf
    match f.decode sigma, f.decode rho, f.decode w with
    | .fin a m e, .fin b n g, .fin _ k h =>
      let z := min e g
      let d := (signedAt a m e z - signedAt b n g z).natAbs
      scaledLt ((kdepth + 4) * k) (h - tolerance cf) d z
    | .fin _ _ _, .fin _ _ _, _ => false
    | _, _, _ => sigma ≠ rho

/-- The element rebuilt from its row (R323). -/
def rebuild (cf rho : Nat) (row : List Term) (j : Nat) : Nat :=
  let s := stripSum cf (row.eraseIdx j)
  if fmtInt cf then wrap ((rho : Int) - s) 32
  else ((fmtOf cf).deliver 0 false (((stripFmt cf).decode rho).plus ((stripFmt cf).decode s).negate)).1

/-- The rows and the columns of a block that exceed their tolerance; those that clamped are not checked (R323). -/
def exceeding (t : Tile) (r : AccRec) (p : Strip) : List Nat × List Nat :=
  let s := t.strip
  ((List.range t.m).filter (fun i =>
      !r.clampRows.contains i && exceeds t.fmt r.kdepth (s.rs.getD i 0) (p.rs.getD i 0) (p.rm.getD i 0)),
    (List.range t.n).filter (fun j =>
      !r.clampCols.contains j && exceeds t.fmt r.kdepth (s.cs.getD j 0) (p.cs.getD j 0) (p.cm.getD j 0)))

/-- The column of the element that is rebuilt (R323). -/
def rebuiltColumn (t : Tile) (r : AccRec) (p : Strip) : Option Nat :=
  match exceeding t r p with
  | ([_], [j]) => some j
  | _ => none

/-- What the tolerance rule makes of a block: elements to drain and corrections, or what exceeds. -/
def toleranceCheck (t : Tile) (r : AccRec) (p : Strip) : Except Mismatch (Tile × Nat) :=
  let rows := (exceeding t r p).1
  let cols := (exceeding t r p).2
  match rows, cols with
  | [], [] => .ok (t, 0)
  | [i], [j] => .ok (t.set i j (rebuild t.fmt (p.rs.getD i 0) (t.terms.getD i []) j), 1)
  | _, _ => .error ⟨rows, cols, true, false⟩

/-! ### mgath (R372, R373) -/

/-- One quarter of the matrix as read: the row pointers of its rows and one more, and what it could read of the entries. -/
structure GatherRows where
  ptr : List Nat
  col : List Nat
  val : List Nat
  deriving DecidableEq, Repr

/-- TINFO and address of a failure of R373. -/
def gatherFail (addr k e reason : Nat) : Held := heldOf 0x1C addr (k + e % 2 ^ 16 * 2 ^ 16 + reason * 2 ^ 32)

/-- The first failure among the entries of row k; ptr0 is the entry that col starts at. -/
def Gather.rowFail (d : Gather) (n ptr0 k lo hi : Nat) (col : List Nat) (need : Nat) : Option Held :=
  let es := (List.range (min (hi - lo) (need + 1))).map (fun i => lo + i)
  let colAt := fun (e : Nat) => col.getD (e - ptr0) 0
  es.findSome? (fun e =>
    let a := localBase + d.colidx + 2 * e
    if need < d.colidx + 2 * e + 2 then some (gatherFail a k e 2)
    else if need < d.values + d.size * e + d.size then some (gatherFail (localBase + d.values + d.size * e) k e 2)
    else if n ≤ colAt e then some (gatherFail a k e 0)
    else if (List.range (e - lo)).any (fun i => colAt (lo + i) = colAt e) then some (gatherFail a k e 3)
    else none)

/-- The first failure of a quarter whose first row is k0 (R373). -/
def Gather.fail (d : Gather) (n k0 rows need : Nat) (g : GatherRows) : Option Held :=
  (List.range rows).findSome? (fun i =>
    let k := k0 + i
    let lo := g.ptr.getD i 0
    let hi := g.ptr.getD (i + 1) 0
    let a := localBase + d.rowptr + 4 * (k + 1)
    if i = 0 && need < d.rowptr + 4 * (k + 1) then some (gatherFail (localBase + d.rowptr + 4 * k) k 0 2)
    else if need < d.rowptr + 4 * (k + 2) then some (gatherFail a k 0 2)
    else if hi < lo then some (gatherFail a k lo 1)
    else d.rowFail n (g.ptr.getD 0 0) k lo hi g.col need)

/-- The tile of a quarter: element (j, k') (R372). -/
def Gather.tile (d : Gather) (n rows : Nat) (g : GatherRows) : Tile :=
  let p0 := g.ptr.getD 0 0
  ⟨geomWord n rows d.vfmt false, (List.range n).map (fun j => (List.range rows).map (fun i =>
    ((List.range (g.ptr.getD (i + 1) 0 - g.ptr.getD i 0)).map (fun e => g.ptr.getD i 0 + e - p0)).foldl (fun x e =>
      if g.col.getD e 0 = j then g.val.getD e 0 else x) 0)), []⟩

end Sys2Proof.Machine
end

