-- ==== Sys2Proof/Machine/MatrixInstr.lean ====
section
/-!
DEFINITION. Machine/MatrixInstr.lean: the matrix instructions, the rendezvous of a quartet (R354 to R374), and the matrix
engine's steps (R364 to R377, R58).
-/

namespace Sys2Proof.Machine

open Sys2Proof

/-- setshape (R356). -/
def execSetshape (d a : Reg) (s : State) : Host.Outcome State Fault Refusal :=
  run (.setshape d a) s (fun cx t =>
    let g := grantOf cx.core (cx.rd t cx.lowPhys a.toNat)
    cx.finish (cx.uniform (t.modGang cx.gid (fun x => { x with shape := g })) d 1 (fun _ => g.toNat)))

/-! ### The rendezvous (R361, R362) -/

/-- A gang's part of a post: opcode, C or B base, b field, values of its register operands, and its place and PC. -/
structure Member where
  gid : Nat
  g : Gang
  op : Nat
  d : Nat
  b : Nat
  vals : List Nat
  place : Nat
  pc : Dword

/-- A quartet at a rendezvous: a partner has ended, some are still to come, or all are there. -/
inductive Meeting where
  | ended
  | waiting
  | all (ms : List Member)

/-- What a gang that waits at its rendezvous brings. -/
def Gang.meeting (g : Gang) (gid : Nat) : Option Member :=
  g.tree.splits.findSome? (fun p => match p.2.park with
    | .rendezvous op d b vals => some ⟨gid, g, op, d, b, vals, p.1, p.2.pc⟩
    | _ => none)

/-- The quartet of the issuing gang, with what each member brings. -/
def Cx.meeting (cx : Cx) (s : State) (me : Member) : Meeting :=
  let gids := (List.range 4).map (fun q => gangId cx.bid (cx.g.num / 4 * 4 + q))
  if gids.any (fun i => match s.gang? i with
    | some g => g.ended
    | none => true) then .ended
  else
    let ms := gids.filterMap (fun i => if i = cx.gid then some me else (s.gang? i).bind (fun g => g.meeting i))
    if ms.length = 4 then .all ms else .waiting

/-- A fault that all four gangs take, each with its live lanes (R362). -/
def Cx.quartetFault (cx : Cx) (s : State) (ms : List Member) (cause addr info : Nat) : State :=
  ms.foldl (fun t m =>
    if m.gid = cx.gid then cx.fault t cause cx.g.live addr info
    else t.takeTrap m.gid ⟨cause, m.g.live, m.pc, BitVec.ofNat 64 addr, BitVec.ofNat 64 info, m.place⟩) s

/-- MREASON of R363. -/
def mreason (n : Nat) : Nat := n * 2 ^ 16

def noBarrier : Nat := 0xFFFFFFFF

/-- The lowest live lane of a gang, as a physical lane. -/
def Gang.lowest (g : Gang) : Nat := g.prime (lowLane g.live)

/-- For whom the engine moves a quad's data (R375). -/
def MatOp.mover (o : MatOp) (b : Block) (q : Nat) : Mover :=
  ⟨b.viewer false, b.slot, o.quartet * 4 + q, o.lanes.getD q 0, o.intervals.getD q 0, 0, 2, o.srcLocks ++ o.dstLocks⟩

/-- The frame of an mdrain. -/
def drainHeader (m n cf state : Nat) : Header :=
  let g := geomWord m n cf false
  ⟨g, leastStride g, state⟩

/-- A member's block of a geometry, outside the registers it may name. -/
def Member.bad (m : Member) (base count : Nat) : Option Nat := if base % 2 = 1 then some base else pastBudget base count m.g.budget

/-- What each gang's C block is at the post of an mma (R368, R369): a code, or TINFO of cause 0x1A. -/
def mmaBefore (m : Member) (f : FormatBlock) (geom : Word) (shape : Word) : Except Nat Nat :=
  if shapeM shape = 0 || shapeN shape = 0 then .ok 5
  else if f.zinit then .ok (if shapeK shape = 0 then 4 else 0)
  else
    match m.g.accAt m.d with
    | some r => if r.geom ≠ geom then .error (5 + m.d * 2 ^ 8) else .ok (if shapeK shape = 0 then 5 else 1)
    | none =>
      if shapeK shape = 0 then .ok 5
      else match m.g.tagAt m.d with
      | some t => .ok (if t.geom = geom && !t.stale then 2 else 3)
      | none => .ok 3

/-- Step 6 of R362 for one gang: the check of its B block. -/
def mmaB (m : Member) (f : FormatBlock) (geom : Word) : Option Nat :=
  let bx := fmtBx f.bf
  let must := f.chkb && !f.recomp
  match m.g.tagAt m.b with
  | none => if bx || must then some (1 + m.b * 2 ^ 8) else none
  | some t =>
    if t.geom ≠ geom then (if bx || must then some (5 + m.b * 2 ^ 8) else none)
    else if t.stale && must then some (0 + m.b * 2 ^ 8) else none

/-- What an mdrain finds of a gang's block (R371): a code, or TINFO of cause 0x1A. -/
def drainBefore (m : Member) (recomp : Bool) : Except Nat (Nat × Word × AccRec) :=
  match m.g.accAt m.d with
  | some r => .ok (1, r.geom, r)
  | none =>
    match m.g.tagAt m.d with
    | some t =>
      if !t.stale then .ok (2, t.geom, ⟨m.d, t.geom, 0, [], []⟩)
      else if recomp then .ok (3, t.geom, ⟨m.d, t.geom, 0, [], []⟩)
      else .error (0 + m.d * 2 ^ 8)
    | none => .error (1 + m.d * 2 ^ 8)

/-- All of a list, or the first error. -/
def allOk {α : Type} : List (Except Nat α) → Except Nat (List α)
  | [] => .ok []
  | .ok x :: xs => (allOk xs).map (fun ys => x :: ys)
  | .error e :: _ => .error e

/-- The operation as it enters the FIFO, before its own fields. -/
def Cx.newOp (cx : Cx) (s : State) (ms : List Member) (shape : Word) (kind : Nat) (w : List Word) (addr bar : Nat) : MatOp where
  kind := kind
  bid := cx.bid
  quartet := cx.g.num / 4
  m := shapeM shape
  n := shapeN shape
  k := shapeK shape
  cbase := ms.map Member.d
  bbase := ms.map Member.b
  cregs := 0
  bregs := 0
  block := w
  blockAddr := addr
  bar := bar
  cfmt := 0
  flagA := false
  flagB := false
  intervals := ms.map (fun _ => (s.board cx.b.slot).interval)
  lanes := ms.map (fun m => m.g.lowest)
  before := []
  records := []
  cancelled := false
  started := false
  pcs := ms.map Member.pc
  slot := cx.b.slot
  cyc := cx.cyc
  srcLocks := []
  dstLocks := []
  image := []
  ticket := none
  fail := none

/-- A source or destination range of the matrix engine (R374, R430). -/
def Cx.matLock (cx : Cx) (dest : Bool) (off rowBytes rows stride : Nat) : RangeLock :=
  ⟨dest, true, true, cx.b.slot, cx.b.stashBase + off, rowBytes, rows, stride, 0⟩

/-- Posts of one cycle stand in the order of slot and quartet (R364). -/
def insertOp (o : MatOp) : List MatOp → List MatOp
  | [] => [o]
  | x :: xs =>
    if !x.started && x.cyc = o.cyc && (o.slot < x.slot || (o.slot = x.slot && o.quartet < x.quartet)) then o :: x :: xs
    else x :: insertOp o xs

/-- The record changes that a post makes in one gang (R366, R367, R370, R371). -/
def postRecord (o : MatOp) (before : Nat) (d : Nat) (g : Gang) : Gang :=
  let geom := geomWord (o.m / 4) o.n o.cfmt false
  if before = 5 then g
  else if o.kind = 0x41 then
    if before = 4 then g.freeAcc d
    else if before = 1 then { g with accs := g.accs.map (fun a => if a.base = d then { a with kdepth := satAdd 24 a.kdepth o.k } else a) }
    else g.newAcc ⟨d, geom, satAdd 24 0 o.k, [], []⟩
  else if o.kind = 0x43 then
    if o.flagB then g.newAcc ⟨d, geom, 0, [], []⟩ else g.freeAcc d
  else if o.kind = 0x44 then g.newAcc ⟨d, geom, 0, [], []⟩
  else g

/-- All four gangs stay parked until an entry of the FIFO or of the lock table is free, or a stash line is there (R362, R405); each
issues its posting instruction again. -/
def Cx.parkAll (cx : Cx) (s : State) (ms : List Member) : State :=
  ms.foldl (fun t m => if m.gid = cx.gid then cx.park t .resource
    else t.modSplit m.gid m.place (fun x => { x with park := .resource, again := true })) s

/-- The post: locks, FIFO entry, records, and all four gangs go on (R362, R364, R366, R374). -/
def Cx.enqueue (cx : Cx) (s : State) (ms : List Member) (o : MatOp) (src dst : List RangeLock) : State :=
  match s.freeLocks cx.core (src.length + dst.length) with
  | none => cx.parkAll s ms
  | some free =>
    let o1 := { o with srcLocks := free.take src.length, dstLocks := free.drop src.length }
    let s1 := s.lockAll cx.core (free.zip (src ++ dst))
    let s2 := (s1.modCore cx.core (fun c => { c with fifo := insertOp o1 c.fifo })).modBlock cx.bid (fun b => { b with mops := b.mops + 1 })
    let s3 := ms.zipIdx.foldl (fun t e => t.modGang e.1.gid (fun g =>
      { postRecord o1 (o1.before.getD e.2 5) e.1.d g with posts := g.posts + 1 })) s2
    ms.foldl (fun t m => if m.gid = cx.gid then cx.finish t else t.wakeNext m.gid m.place cx.cyc) s3

/-- mma, once its format block is read (R362 steps 5 and 6, R368). -/
def Cx.postMma (cx : Cx) (s : State) (ms : List Member) (w : List Nat) (addr bar : Nat) : State :=
  let shape := cx.g.shape
  let f := FormatBlock.ofWords w
  let m := shapeM shape / 4
  let n := shapeN shape
  let k := shapeK shape
  if !FormatBlock.valid w shape cx.b.stashNeed then cx.quartetFault s ms 1 0 (mreason 4)
  else
    let cgeom := geomWord m n f.cf false
    let bgeom := geomWord n (k / 4) f.bf f.len16
    let cregs := if m = 0 || n = 0 then 0 else blockRegs cx.g.width cgeom
    let bregs := if n = 0 || k = 0 then 0 else blockRegs cx.g.width bgeom
    match ms.findSome? (fun x => orElse (if cregs = 0 then none else x.bad x.d cregs) (if bregs = 0 then none else x.bad x.b bregs)) with
    | some r => cx.quartetFault s ms 1 0 r
    | none =>
      match (if bregs = 0 then none else ms.findSome? (fun x => mmaB x f bgeom)) with
      | some i => cx.quartetFault s ms 0x1A 0 i
      | none =>
        match allOk (ms.map (fun x => mmaBefore x f cgeom shape)) with
        | .error i => cx.quartetFault s ms 0x1A 0 i
        | .ok before =>
          let o := { cx.newOp s ms shape 0x41 (w.map (BitVec.ofNat 32)) addr bar with
            cregs := cregs, bregs := if m = 0 then 0 else bregs, cfmt := f.cf, before := before }
          let some_ := m ≠ 0 && n ≠ 0 && k ≠ 0
          let src := if !some_ then [] else
            cx.matLock false f.aoff (f.rowBytes k) (4 * m) f.astride ::
              (if f.scaleBytes k = 0 then [] else [cx.matLock false f.ascoff (4 * m * f.scaleBytes k) 1 0])
          cx.enqueue s ms o src []

/-- The extents of the three arrays of an mgath, as far as they lie in the stash; the arrays of entries as long as NNZLIM
allows (log entry 24). -/
def gatherRanges (d : Gather) (k need : Nat) : List (Nat × Nat) :=
  [(d.rowptr, 4 * (k + 1)), (d.colidx, 2 * d.limit), (d.values, d.size * d.limit)].map (fun r => (r.1, min r.2 (need - r.1)))

/-- mgath, once its descriptor is read (R372). -/
def Cx.postGather (cx : Cx) (s : State) (ms : List Member) (w : List Nat) (addr bar : Nat) : State :=
  let shape := cx.g.shape
  let d := Gather.ofWords w
  let n := shapeN shape
  let k := shapeK shape
  if !Gather.valid w then cx.quartetFault s ms 1 0 (mreason 4)
  else
    let geom := geomWord n (k / 4) d.vfmt false
    let none_ := n = 0 || k = 0
    let regs := if none_ then 0 else blockRegs cx.g.width geom
    match (if none_ then none else ms.findSome? (fun x => x.bad x.d regs)) with
    | some r => cx.quartetFault s ms 1 0 r
    | none =>
      let o := { cx.newOp s ms shape 0x42 (w.map (BitVec.ofNat 32)) addr bar with
        bbase := ms.map Member.d, bregs := regs, before := ms.map (fun _ => if none_ then 5 else 0) }
      let src := if none_ then [] else
        ((gatherRanges d k cx.b.stashNeed).filter (fun r => r.2 ≠ 0)).map (fun r => cx.matLock false r.1 r.2 1 0)
      cx.enqueue s ms o src []

/-- mdrain (R371). -/
def Cx.postDrain (cx : Cx) (s : State) (ms : List Member) (bits_ addr bar : Nat) : State :=
  let shape := cx.g.shape
  if shapeM shape = 0 || shapeN shape = 0 then
    cx.enqueue s ms { cx.newOp s ms shape 0x43 [] addr bar with before := ms.map (fun _ => 5) } [] []
  else
    match allOk (ms.map (fun x => drainBefore x (bit bits_ 0))) with
    | .error i => cx.quartetFault s ms 0x1A (localBase + addr) i
    | .ok rs =>
      let geom := (rs.head?.map (fun r => r.2.1)).getD 0
      let cf := geomFmt geom
      match rs.zip ms |>.find? (fun r => r.1.2.1 ≠ geom) with
      | some r => cx.quartetFault s ms 0x1A (localBase + addr) (5 + r.2.d * 2 ^ 8)
      | none =>
        if 128 < 4 * geomRows geom || !(cf ≤ 3 || cf = 0x0E) then
          cx.quartetFault s ms 0x1A (localBase + addr) (5 + (ms.head?.elim 0 Member.d) * 2 ^ 8)
        else
          let o := { cx.newOp s ms shape 0x43 [] addr bar with
            m := 4 * geomRows geom, n := geomCols geom, cregs := blockRegs cx.g.width geom, cfmt := cf,
            flagA := bit bits_ 0, flagB := bit bits_ 1, before := rs.map Prod.fst, records := rs.map (fun r => r.2.2) }
          cx.enqueue s ms o [] [cx.matLock true addr (drainHeader (4 * geomRows geom) (geomCols geom) cf 1).size 1 0]

/-- mzero (R370). -/
def Cx.postZero (cx : Cx) (s : State) (ms : List Member) (cf bar : Nat) : State :=
  let shape := cx.g.shape
  let m := shapeM shape / 4
  let n := shapeN shape
  let none_ := m = 0 || n = 0
  let regs := if none_ then 0 else blockRegs cx.g.width (geomWord m n cf false)
  cx.enqueue s ms { cx.newOp s ms shape 0x44 [] 0 bar with
    cregs := regs, cfmt := cf, before := ms.map (fun _ => if none_ then 5 else 4) } [] []

/-- The extent of an mdrain's frame as far as its blocks tell it. -/
def drainSize (ms : List Member) (shape : Word) : Nat :=
  if shapeM shape = 0 || shapeN shape = 0 then 16
  else
    ((ms.findSome? (fun m => orElse ((m.g.accAt m.d).map AccRec.geom) ((m.g.tagAt m.d).map Tag.geom))).map (fun g =>
      (drainHeader (4 * geomRows g) (geomCols g) (geomFmt g) 1).size)).getD 16

/-- The quartet's checks and its post, made when the fourth gang arrives (R362). -/
def Cx.quartetPost (cx : Cx) (s : State) (me : Member) (ms : List Member) : State :=
  let shape := cx.g.shape
  let op := me.op
  let addr := if op = 0x44 then 0 else me.vals.getD 0 0
  let bar := me.vals.getLastD noBarrier
  let size := if op = 0x43 then drainSize ms shape else 32
  let al := if op = 0x43 then 16 else 32
  let hasBar := bar ≠ noBarrier
  let hasAddr := op ≠ 0x44
  let again := cx.parkAll s ms
  if ms.any (fun m => m.op ≠ op || m.vals ≠ me.vals || m.g.shape ≠ shape || (op ≠ 0x41 && m.b ≠ me.b)) then
    cx.quartetFault s ms 1 0 (mreason 2)
  else if hasAddr && addr % al ≠ 0 then cx.quartetFault s ms 5 (localBase + addr) 0
  else if hasBar && bar % 8 ≠ 0 then cx.quartetFault s ms 5 (localBase + bar) 0
  else if hasAddr && !cx.b.direct addr size then cx.quartetFault s ms 9 (localBase + addr) 0
  else if hasBar && !cx.b.direct bar 8 then cx.quartetFault s ms 9 (localBase + bar) 0
  else if 8 ≤ (s.core cx.core).fifo.length then again
  else if op = 0x43 then cx.postDrain s ms me.b addr bar
  else if op = 0x44 then cx.postZero s ms me.b bar
  else
    let g0 := (ms.head?.map Member.g).getD cx.g
    let tou : Toucher := ⟨cx.core, cx.b.slot, g0.num, g0.lowest, 0, 0, true, false, none⟩
    match s.check cx.viewer (tileHow false) (fun _ => tou) true noOwn (cx.stashReqs [(addr, 32)]) with
    | .fault t f => cx.quartetFault t ms f.cause f.addr f.info
    | .untranslated _ _ _ _ _ _ => again
    | .wait _ => again
    | .go t ps =>
      let u := ps.foldl (fun u e => e.2.foldl (fun q p => q.announcePiece cx.viewer tou p none) u) t
      let w := valuesOf 4 8 (u.stashBytes cx.b addr 32)
      if op = 0x41 then cx.postMma u ms w addr bar else cx.postGather u ms w addr bar

/-- A posting instruction arrives at its rendezvous (R361, R362). -/
def Cx.post (cx : Cx) (s : State) (op d b : Nat) (vals : List Nat) : State :=
  let me : Member := ⟨cx.gid, cx.g, op, d, b, vals, cx.place, cx.pc⟩
  match cx.meeting s me with
  | .ended => cx.fault s 1 cx.g.live 0 (mreason 3)
  | .waiting => cx.park s (.rendezvous op d b vals)
  | .all ms => cx.quartetPost s me ms

/-- The values of an operand pair. -/
def Cx.pairVals (cx : Cx) (s : State) (a : Reg) : List Nat :=
  [(cx.rd s cx.lowPhys a.toNat).toNat, (cx.rd s cx.lowPhys (a.toNat + 1)).toNat]

/-- mma (R368). -/
def execMma (d a b : Reg) (s : State) : Host.Outcome State Fault Refusal :=
  run (.mma d a b) s (fun cx t => cx.post t 0x41 d.toNat b.toNat (cx.pairVals t a))
/-- mgath (R372). -/
def execMgath (d a : Reg) (s : State) : Host.Outcome State Fault Refusal :=
  run (.mgath d a) s (fun cx t => cx.post t 0x42 d.toNat 0 (cx.pairVals t a))
/-- mdrain (R371). -/
def execMdrain (d a : Reg) (clear recomp : Bool) (s : State) : Host.Outcome State Fault Refusal :=
  run (.mdrain d a clear recomp) s (fun cx t =>
    cx.post t 0x43 d.toNat ((if recomp then 1 else 0) + (if clear then 2 else 0)) (cx.pairVals t a))
/-- mzero (R370). -/
def execMzero (d a b : Reg) (s : State) : Host.Outcome State Fault Refusal :=
  run (.mzero d a b) s (fun cx t => cx.post t 0x44 d.toNat b.toNat [(cx.rd t cx.lowPhys a.toNat).toNat])

/-! ### The engine's reads (R358, R364, R372, R375) -/

/-- Parts to read for a quad of an mma, by stash offset and length: A rows, A scales and B scales. -/
def MatOp.mmaParts (o : MatOp) (g : Gang) (q : Nat) : List (List (Nat × Nat)) :=
  let f := FormatBlock.ofWords (o.block.map BitVec.toNat)
  let m := o.m / 4
  let bgeom := geomWord o.n (o.k / 4) f.bf f.len16
  let scoff := ((g.tagAt (o.bbase.getD q 0)).map Tag.scoff).getD 0
  [(List.range m).map (fun i => (f.aoff + (q * m + i) * f.astride, f.rowBytes o.k)),
    if f.scaleBytes o.k = 0 then [] else [(f.ascoff + q * m * f.scaleBytes o.k, m * f.scaleBytes o.k)],
    scaleParts bgeom scoff]

/-- Reads several lists of parts, one image for each. -/
def State.readParts (m : Mover) : List (List (Nat × Nat)) → State → Moved (List (List Byte))
  | [], s => .ok s []
  | p :: rest, s =>
    match State.engineRead m (p.flatMap (fun r => chunksOf (localBase + r.1) r.2)) s with
    | .ok s1 bs =>
      match State.readParts m rest s1 with
      | .ok s2 xs => .ok s2 (bs :: xs)
      | .fault s2 h => .fault s2 h
      | .wait s2 => .wait s2
      | .missed s2 k => .missed s2 k
    | .fault s1 h => .fault s1 h
    | .wait s1 => .wait s1
    | .missed s1 k => .missed s1 k

/-- Reads one quad's sources of an mgath: row pointers as far as they lie in the stash, then its entries likewise. -/
def State.readGather (s : State) (o : MatOp) (b : Block) (q : Nat) : Moved (List (List Byte)) :=
  let d := Gather.ofWords (o.block.map BitVec.toNat)
  let m := o.mover b q
  let fit := fun (off n unit : Nat) => min n ((b.stashNeed - off) / unit * unit)
  let p0 := d.rowptr + q * (o.k / 4) * 4
  match State.readParts m [[(p0, fit p0 (4 * (o.k / 4 + 1)) 4)]] s with
  | .ok s1 [ps] =>
    let ptr := valuesOf 4 (ps.length / 4) ps
    let lo := ptr.headD 0
    let n := min (ptr.foldl max lo - lo) b.stashNeed
    let c0 := d.colidx + 2 * lo
    let v0 := d.values + d.size * lo
    match State.readParts m [[(c0, fit c0 (2 * n) 2)], [(v0, fit v0 (d.size * n) d.size)]] s1 with
    | .ok s2 xs => .ok s2 (ps :: xs)
    | x => x
  | .ok s1 _ => .ok s1 []
  | x => x

/-- One quad's sources. -/
def State.readQuad (s : State) (o : MatOp) (b : Block) (q : Nat) : Moved (List (List Byte)) :=
  if o.before.getD q 5 = 5 || o.k = 0 then .ok s [[], [], []]
  else if o.kind = 0x41 then
    match s.gang? (gangId o.bid (o.quartet * 4 + q)) with
    | some g => State.readParts (o.mover b q) (o.mmaParts g q) s
    | none => .ok s [[], [], []]
  else if o.kind = 0x42 then s.readGather o b q
  else .ok s [[], [], []]

def State.readQuads (o : MatOp) (b : Block) : List Nat → State → Moved (List (List Byte))
  | [], s => .ok s []
  | q :: qs, s =>
    match s.readQuad o b q with
    | .ok s1 xs =>
      match State.readQuads o b qs s1 with
      | .ok s2 ys => .ok s2 (xs ++ ys)
      | x => x
    | x => x

/-- Changes the operation at the head of a FIFO. -/
def State.modHead (s : State) (core : Nat) (f : MatOp → MatOp) : State :=
  s.modCore core (fun c => { c with fifo := match c.fifo with
    | o :: rest => f o :: rest
    | [] => [] })

/-- MATRIX_OP_START (R364, R431): the engine takes the head of the FIFO and reads its sources. -/
def execMatrixOpStart (core : Nat) (s : State) : Host.Outcome State Fault Refusal :=
  .next (match (s.core core).fifo with
  | [] => s
  | o :: _ =>
    match s.block? o.bid with
    | none => s
    | some b =>
      if o.started || o.ticket.isSome then s
      else if s.loadsUnder core (o.srcLocks ++ o.dstLocks) then s
      else if o.cancelled then s.modHead core (fun x => { x with started := true })
      else if o.fail.isSome then s.modHead core (fun x => { x with started := true })
      else
        match State.readQuads o b (List.range 4) s with
        | .ok t xs => t.modHead core (fun x => { x with started := true, image := xs })
        | .fault t h => t.modHead core (fun x => { x with started := true, fail := some h })
        | .wait t => t
        | .missed t k => t.modHead core (fun x => { x with ticket := some k }))

/-- MATRIX_SOURCE_RELEASE (R374): a source range whose last word has been read is unlocked. -/
def execMatrixSourceRelease (core range : Nat) (s : State) : Host.Outcome State Fault Refusal :=
  .next (match (s.core core).fifo with
  | [] => s
  | o :: _ =>
    if o.started && o.srcLocks.contains range then
      ((s.unlock core [range]).modHead core (fun x => { x with srcLocks := x.srcLocks.filter (· ≠ range) })).wakeMeeting core
    else s)

/-! ### Results -/

/-- Writes block registers for the engine; the record of the block itself stays, and where an mma writes, every record (R367). -/
def Gang.engineBlock (g : Gang) (cyc d : Nat) (mma : Bool) (ws : List (Nat × Nat × Word)) : Gang :=
  let h := g.writeBlock cyc ws
  { h with accs := g.accs.filter (fun a => mma || a.base = d || h.accs.contains a) }

/-- A tag made for a block whose record stays. -/
def Gang.retag (g : Gang) (t : Tag) : Gang :=
  let h := g.setTag t
  { h with accs := g.accs.filter (fun a => a.base = t.base || h.accs.contains a) }

/-- A block cleared as mzero clears it (R370). -/
def Gang.clearBlock (g : Gang) (cyc d : Nat) (mma : Bool) (geom : Word) : Gang :=
  let m := geomRows geom
  let n := geomCols geom
  let t : Tile := ⟨geom, List.replicate m (List.replicate n 0), []⟩
  (g.engineBlock cyc d mma (elemWrites g.width d t ++ stripWrites g.width d geom (Strip.zero m n))).retag ⟨d, geom, 0, false⟩

/-- The lowest dead physical lane below a bound, as a failure of R58. -/
def Gang.deadBelow (g : Gang) (n addr : Nat) : Option Held :=
  ((List.range (min n g.width)).find? (fun l => g.dmask.getLsbD l)).map (fun l => heldOf 0x18 addr (l + 3 * 2 ^ 32))

/-- The same of one lane. -/
def Gang.deadAt (g : Gang) (lane addr : Nat) : Option Held :=
  if g.dmask.getLsbD lane then some (heldOf 0x18 addr (lane + 3 * 2 ^ 32)) else none

/-- Live lanes that read a register of a block with an uncorrectable error, each with the first such register (R219). -/
def Gang.badLanes (g : Gang) (d : Nat) (geom : Word) (count : Nat) : List (Nat × Nat) :=
  (g.expand (tileMask g.width geom &&& g.live)).filterMap (fun p =>
    (((List.range count).map (d + ·)).find? (fun r => g.bad.contains (vKey p r))).map (fun r => (p, r)))

/-- The first quad in which something is found. -/
def firstQuad {α : Type} (f : Nat → Option α) : Option α := (List.range 4).findSome? f

def MatOp.gid (o : MatOp) (q : Nat) : Nat := gangId o.bid (o.quartet * 4 + q)
def MatOp.cgeom (o : MatOp) : Word := geomWord (o.m / 4) o.n o.cfmt false
/-- TADDR of a cause 0x18 of the operation (R321). -/
def MatOp.addr (o : MatOp) : Nat := if o.kind = 0x44 then 0 else localBase + o.blockAddr

/-- The registers that the engine reads of a quad's C and B blocks: base, geometry and count (R368, R371). -/
def MatOp.reads (o : MatOp) (g : Gang) (q : Nat) : List (Nat × Word × Nat) :=
  let elems := fun (x : Word) => colGroups g.width x * groupRegs x
  let f := FormatBlock.ofWords (o.block.map BitVec.toNat)
  let bgeom := geomWord o.n (o.k / 4) f.bf f.len16
  let code := o.before.getD q 5
  let c := if o.kind = 0x44 || code = 0 || 4 ≤ code then [] else
    [(o.cbase.getD q 0, o.cgeom, if code = 3 then elems o.cgeom else blockRegs g.width o.cgeom)]
  if o.kind = 0x42 || code = 5 || (o.kind = 0x41 && o.k = 0) then []
  else if o.kind = 0x41 then
    c ++ [(o.bbase.getD q 0, bgeom, if f.chkb && !f.recomp then blockRegs g.width bgeom else elems bgeom)]
  else c

/-- Lanes whose registers the engine reads with an uncorrectable error die before the operation is performed (R219). -/
def State.engineDeaths (s : State) (o : MatOp) : State :=
  if o.cancelled || o.fail.isSome then s
  else (List.range 4).foldl (fun t q => match t.gang? (o.gid q) with
    | none => t
    | some g =>
      let bad := (o.reads g q).flatMap (fun r => g.badLanes r.1 r.2.1 r.2.2)
      let lanes := bad.foldl (fun ds e => if ds.any (fun d => d.1 = e.1) then ds else ds ++ [e]) []
      if lanes.isEmpty then t else t.killLanes (o.gid q) 0 lanes (o.pcs.getD q 0)) s

/-- Each quad's gang changed in turn, or the first failure. -/
def State.eachQuad (o : MatOp) (f : State → Nat → Gang → Except Held State) : List Nat → State → Except Held State
  | [], s => .ok s
  | q :: qs, s =>
    match s.gang? (o.gid q) with
    | none => State.eachQuad o f qs s
    | some g =>
      match f s q g with
      | .ok t => State.eachQuad o f qs t
      | .error h => .error h

/-- A quad's A terms, from its rows and scales as read (R358). -/
def MatOp.aTerms (o : MatOp) (q : Nat) : List (List Term) :=
  let f := FormatBlock.ofWords (o.block.map BitVec.toNat)
  let rows := o.image.getD (3 * q) []
  let sc := (o.image.getD (3 * q + 1) []).map BitVec.toNat
  let rb := f.rowBytes o.k
  (List.range (o.m / 4)).map (fun i =>
    (unpackRow (fmtBits f.af) o.k (ofBytes ((rows.drop (i * rb)).take rb))).zipIdx.map (fun e =>
      let at_ := 2 * (i * (o.k / f.len) + e.2 / f.len)
      termOf f.af e.1 (sc.getD at_ 0) (sc.getD (at_ + 1) 0)))

/-- A quad's B block as the engine reads it, corrected where it is checked, with its gang after any recompute (R319, R368). -/
def MatOp.bBlock (o : MatOp) (s : State) (cyc q : Nat) (g : Gang) : Except Held (Tile × Gang × Nat × Bool) :=
  let f := FormatBlock.ofWords (o.block.map BitVec.toNat)
  let geom := geomWord o.n (o.k / 4) f.bf f.len16
  let d := o.bbase.getD q 0
  let rd := g.blockRead s cyc
  let t := blockTile g.width d geom rd ((o.image.getD (3 * q + 2) []).map BitVec.toNat)
  let valid := match g.tagAt d with
    | some x => x.geom = geom && !x.stale
    | none => false
  if !f.chkb then .ok (t, g, 0, false)
  else if f.recomp && !valid then
    let scoff := ((g.tagAt d).map Tag.scoff).getD 0
    .ok (t, (g.writeBlock cyc (stripWrites g.width d geom t.strip)).setTag ⟨d, geom, scoff, false⟩, 0, true)
  else
    match t.checked (blockStrip g.width d geom rd) with
    | .ok (u, _, n) => .ok (u, g, n, false)
    | .error x => .error (heldOf 0x18 o.addr x.info)

/-- The B rows over j, for each k of the whole operation (R357). -/
def bRows (n : Nat) (ts : List Tile) : List (List Term) :=
  ts.flatMap (fun t => (List.range (geomCols t.geom)).map (fun k => (List.range n).map (fun j => t.term j k (t.at_ j k))))

/-- A block's elements, predictions and corrections at the start of an mma (R368). -/
def MatOp.startBlock (o : MatOp) (s : State) (cyc q : Nat) (g : Gang) : Except Held (Tile × Strip × Nat) :=
  let d := o.cbase.getD q 0
  let geom := o.cgeom
  let rd := g.blockRead s cyc
  let t := blockTile g.width d geom rd []
  let held := blockStrip g.width d geom rd
  match o.before.getD q 5 with
  | 0 => .ok (⟨geom, List.replicate (o.m / 4) (List.replicate o.n 0), []⟩, Strip.zero (o.m / 4) o.n, 0)
  | 1 => .ok (t, held, 0)
  | 2 =>
    match t.checked held with
    | .ok r => .ok r
    | .error x => .error (heldOf 0x18 o.addr x.info)
  | _ => .ok (t, t.strip, 0)

/-- Rows and columns that clamped are noted in the record, or in what a later mdrain has read of it, and in no record that a later post
has begun afresh (R366, R368, R371). -/
def noteClamps (q d : Nat) (rows cols : List Nat) : List MatOp → List MatOp × Bool
  | [] => ([], true)
  | o :: rest =>
    let code := o.before.getD q 5
    let mine := o.cbase.getD q 0 = d && code ≠ 5
    if mine && o.kind = 0x43 then
      ((if code ≠ 1 then o else { o with records := o.records.zipIdx.map (fun (r : AccRec × Nat) => if r.2 = q then
        { r.1 with clampRows := (r.1.clampRows ++ rows).dedup, clampCols := (r.1.clampCols ++ cols).dedup } else r.1) }) :: rest, false)
    else if mine && (o.kind = 0x44 || (o.kind = 0x41 && code ≠ 1)) then (o :: rest, false)
    else
      let r := noteClamps q d rows cols rest
      (o :: r.1, r.2)

def State.noteClamp (s : State) (core : Nat) (o : MatOp) (q : Nat) (out : QuadOut) : State :=
  let d := o.cbase.getD q 0
  let same := fun (x : MatOp) => x.bid = o.bid && x.quartet = o.quartet
  let fifo := (s.core core).fifo
  let r := noteClamps q d out.rows out.cols (fifo.tail.filter same)
  let s1 := s.modCore core (fun c => { c with fifo := c.fifo.map (fun x =>
    if same x then (r.1.find? (fun y => y.kind = x.kind && y.blockAddr = x.blockAddr && y.cyc = x.cyc && y.cbase = x.cbase)).getD x else x) })
  if !r.2 then s1
  else s1.modGang (o.gid q) (fun g => { g with accs := g.accs.map (fun a => if a.base = d then
    { a with clampRows := (a.clampRows ++ out.rows).dedup, clampCols := (a.clampCols ++ out.cols).dedup } else a) })

/-- mma at completion (R368, R369, R58); its K-steps are counted once for the quartet (R440; log entry 107). -/
def State.mmaDone (s : State) (core : Nat) (o : MatOp) : Except Held State :=
  let cyc := s.cycle core
  let f := FormatBlock.ofWords (o.block.map BitVec.toNat)
  let gang := fun (t : State) (q : Nat) => t.gang? (o.gid q)
  if o.before.all (· = 5) then .ok s
  else if o.k = 0 then
    match firstQuad (fun q => (gang s q).bind (fun g => g.deadBelow o.n o.addr)) with
    | some h => .error h
    | none => .ok ((List.range 4).foldl (fun t q =>
        t.writeGang (o.gid q) core (fun g => g.clearBlock cyc (o.cbase.getD q 0) true o.cgeom)) s)
  else
    match firstQuad (fun q => (gang s q).bind (fun g => orElse (g.deadBelow (o.k / 4) o.addr) (g.deadBelow o.n o.addr))) with
    | some h => .error h
    | none =>
      let bs := (List.range 4).map (fun q => match gang s q with
        | some g => o.bBlock s cyc q g
        | none => .error (heldOf 0x18 o.addr 0))
      match bs.findSome? (fun x => match x with
        | .error h => some h
        | .ok _ => none) with
      | some h => .error h
      | none =>
        let good := bs.filterMap (fun x => match x with
          | .ok r => some r
          | .error _ => none)
        let b := bRows o.n (good.map Prod.fst)
        let s1 := good.zipIdx.foldl (fun (t : State) (e : (Tile × Gang × Nat × Bool) × Nat) =>
          let u := (t.writeGang (o.gid e.2) core (fun _ => e.1.2.1)).countCorr core e.1.2.2.1
          if e.1.2.2.2 then u.countRecomp core else u) (s.perf (dieOf core) 2 (ceilDiv o.k (kStep f.af)))
        State.eachQuad o (fun t q g =>
          match o.startBlock t cyc q g with
          | .error h => .error h
          | .ok (c, p, n) =>
            let out := mmaQuad o.cfmt (kStep f.af) o.k o.n f.sat (o.aTerms q) b c.elems p
            let d := o.cbase.getD q 0
            let tile : Tile := ⟨o.cgeom, out.elems, []⟩
            let u := (t.countCorr core n).writeGang (o.gid q) core (fun x =>
              let y := x.engineBlock cyc d true (elemWrites x.width d tile ++ stripWrites x.width d o.cgeom out.strip)
              y.retag ⟨d, o.cgeom, 0, true⟩)
            .ok (if out.rows.isEmpty then u else u.noteClamp core o q out)) (List.range 4) s1

/-- mzero at completion (R370). -/
def State.mzeroDone (s : State) (core : Nat) (o : MatOp) : Except Held State :=
  if o.before.all (· = 5) then .ok s
  else
    match firstQuad (fun q => (s.gang? (o.gid q)).bind (fun g => g.deadBelow o.n o.addr)) with
    | some h => .error h
    | none => .ok ((List.range 4).foldl (fun t q => t.writeGang (o.gid q) core (fun g =>
        g.clearBlock (s.cycle core) (o.cbase.getD q 0) false o.cgeom)) s)

/-- mgath at completion (R372, R373); a dead lane that would receive a part of B fails it (R58, R321). -/
def State.mgathDone (s : State) (core : Nat) (o : MatOp) (b : Block) : Except Held State :=
  let d := Gather.ofWords (o.block.map BitVec.toNat)
  let rows := o.k / 4
  let quad := fun (q : Nat) =>
    let at_ := fun (i : Nat) => o.image.getD (3 * q + i) []
    (⟨valuesOf 4 ((at_ 0).length / 4) (at_ 0), valuesOf 2 ((at_ 1).length / 2) (at_ 1),
      valuesOf d.size ((at_ 2).length / d.size) (at_ 2)⟩ : GatherRows)
  if o.before.all (· = 5) then .ok s
  else
    let last := (quad 3).ptr.getD rows 0
    match orElse (firstQuad (fun q => (s.gang? (o.gid q)).bind (fun g => g.deadBelow rows o.addr))) (orElse (firstQuad (fun q => d.fail o.n (q * rows) rows b.stashNeed (quad q)))
        (if d.limit < last then some (gatherFail (localBase + d.rowptr + 4 * o.k) o.k 0 2) else none)) with
    | some h => .error h
    | none => .ok ((List.range 4).foldl (fun t q => t.writeGang (o.gid q) core (fun g =>
        let tile := d.tile o.n rows (quad q)
        let base := o.bbase.getD q 0
        (g.writeBlock (s.cycle core) (elemWrites g.width base tile)).staleTag base tile.geom)) s)

/-- One quad's block at a drain: the elements to drain, corrections, whether the strip was formed for want of one, and whether
the register block itself is corrected (R371, R323, R320). -/
def MatOp.drainBlock (o : MatOp) (s : State) (cyc q : Nat) (g : Gang) : Except Mismatch (Tile × Nat × Bool × Bool) :=
  let d := o.cbase.getD q 0
  let rd := g.blockRead s cyc
  let t := blockTile g.width d o.cgeom rd []
  let held := blockStrip g.width d o.cgeom rd
  match o.before.getD q 5 with
  | 1 => (toleranceCheck t (o.records.getD q ⟨d, o.cgeom, 0, [], []⟩) held).map (fun r => (r.1, r.2, false, true))
  | 2 => (t.checked held).map (fun r => (r.1, r.2.2, false, false))
  | _ => .ok (t, 0, true, false)

/-- The failures of the four quads as one, in rows of the whole of C (R321). -/
def wholeMismatch (m : Nat) (xs : List (Nat × Mismatch)) : Mismatch :=
  let cols := (xs.flatMap (fun x => x.2.cols)).dedup
  ⟨xs.flatMap (fun x => x.2.rows.map (fun i => x.1 * m + i)), (List.range 128).filter (fun j => cols.contains j),
    xs.any (fun x => x.2.sums), xs.any (fun x => x.2.mags)⟩

/-- The frame of a drain as the engine writes it, each quad's rows on behalf of its own gang: header, rows and strip (R371). -/
def State.drainFrame (s : State) (o : MatOp) (b : Block) (c : Tile) : Moved Unit :=
  let h := drainHeader o.m o.n o.cfmt 1
  let segs := (h.segments c (some c.strip)).zipIdx.flatMap (fun e =>
    (cutBytes (localBase + o.blockAddr + e.1.1) e.1.2).map (fun p => (if e.2 < o.m then e.2 / (o.m / 4) else 0, p)))
  segs.foldl (fun (acc : Moved Unit) e => match acc with
    | .ok t _ => t.engineWrite (o.mover b e.1) e.2.1 e.2.2
    | x => x) (.ok s ())

/-- mdrain at completion (R371, R58); none where the engine must wait for the stash. -/
def State.mdrainDone (s : State) (core : Nat) (o : MatOp) (b : Block) : Option (Except Held State) :=
  let cyc := s.cycle core
  if o.before.all (· = 5) then some (.ok s)
  else
    let quads := (List.range 4).filterMap (fun q => (s.gang? (o.gid q)).map (fun g => (q, g, o.drainBlock s cyc q g)))
    let bad := quads.filterMap (fun x => match x.2.2 with
      | .error e => some (x.1, e)
      | .ok _ => none)
    let good := quads.filterMap (fun x => match x.2.2 with
      | .ok r => some (x.1, x.2.1, r)
      | .error _ => none)
    let cleared := if o.flagB then firstQuad (fun q => (s.gang? (o.gid q)).bind (fun g => g.deadBelow o.n o.addr)) else none
    -- the lane that a rebuilt element is written into (R323, R486)
    let rebuilt := good.findSome? (fun x => if x.2.2.2.2.2 then
        ((rebuiltColumn (blockTile x.2.1.width (o.cbase.getD x.1 0) o.cgeom (x.2.1.blockRead s cyc) [])
          (o.records.getD x.1 ⟨0, o.cgeom, 0, [], []⟩) (blockStrip x.2.1.width (o.cbase.getD x.1 0) o.cgeom (x.2.1.blockRead s cyc))).bind
          (fun j => x.2.1.deadAt (j % x.2.1.width) o.addr)) else none)
    let dead := orElse cleared rebuilt
    if dead.isSome then dead.map .error
    else if !bad.isEmpty then some (.error (heldOf 0x18 o.addr (wholeMismatch (o.m / 4) bad).info))
    else
      match s.drainFrame o b ⟨(drainHeader o.m o.n o.cfmt 1).geom, good.flatMap (fun x => x.2.2.1.elems), []⟩ with
      | .fault _ e => some (.error e)
      | .wait _ => none
      | .missed _ _ => none
      | .ok t _ =>
        some (.ok (good.foldl (fun (u : State) (x : Nat × Gang × Tile × Nat × Bool × Bool) =>
          let d := o.cbase.getD x.1 0
          let u1 := u.countCorr core x.2.2.2.1
          let u2 := if x.2.2.2.2.1 then u1.countRecomp core else u1
          u2.writeGang (o.gid x.1) core (fun g =>
            let kept := if x.2.2.2.2.2 then x.2.2.1 else blockTile g.width d o.cgeom (g.blockRead s cyc) []
            let g1 := (g.engineBlock cyc d false (elemWrites g.width d kept ++ stripWrites g.width d o.cgeom kept.strip)).retag ⟨d, o.cgeom, 0, false⟩
            if o.flagB then g1.clearBlock cyc d false o.cgeom else g1)) t))

/-! ### Completion and failure (R376, R377) -/

/-- The registers of an operation's blocks in a quad. -/
def MatOp.ranges (o : MatOp) (q : Nat) : List (Nat × Nat) :=
  (if o.cregs = 0 then [] else [(o.cbase.getD q 0, o.cregs)]) ++ (if o.bregs = 0 then [] else [(o.bbase.getD q 0, o.bregs)])

/-- A failure: C blocks stale, records freed, the quartet's later posts cancelled, and the fault held in its four gangs. -/
def State.failOp (s : State) (core : Nat) (o : MatOp) (h : Held) : State :=
  let later := fun (x : MatOp) => x.bid = o.bid && x.quartet = o.quartet
  let gone := (s.core core).fifo.tail.filter later
  let s1 := s.modCore core (fun c => { c with fifo := match c.fifo with
    | x :: rest => x :: rest.map (fun y => if later y then { y with cancelled := true } else y)
    | [] => [] })
  (List.range 4).foldl (fun t q => t.modGang (o.gid q) (fun g =>
    let g1 := if o.cregs = 0 then g else (g.freeAcc (o.cbase.getD q 0)).staleTag (o.cbase.getD q 0) o.cgeom
    { g1 with heldMatrix := g1.heldMatrix ++ [{ h with ranges := (o :: gone).flatMap (fun x => x.ranges q) }] })) s1

/-- The operation's own effect, or its failure; none while it must wait. -/
def State.opDone (s : State) (core : Nat) (o : MatOp) (b : Block) : Option (Except Held State) :=
  match o.fail with
  | some h => some (.error h)
  | none =>
    if o.cancelled then some (.ok s)
    else if o.kind = 0x41 then some (s.mmaDone core o)
    else if o.kind = 0x42 then some (s.mgathDone core o b)
    else if o.kind = 0x43 then s.mdrainDone core o b
    else some (s.mzeroDone core o)

/-- The operation leaves the FIFO. -/
def State.popOp (s : State) (core : Nat) (o : MatOp) : State :=
  ((s.modCore core (fun c => { c with fifo := c.fifo.tail })).modBlock o.bid (fun b => { b with mops := b.mops - 1 })).wakeMeeting core

/-- MATRIX_OP_COMPLETE (R376, R377). -/
def execMatrixOpComplete (core : Nat) (s : State) : Host.Outcome State Fault Refusal :=
  .next (match (s.core core).fifo with
  | [] => s
  | o :: _ =>
    match s.block? o.bid with
    | none => s
    | some b =>
      if !o.started then s
      else if o.bar ≠ noBarrier && s.boundaryWaits b then s.askWrap b
      else
        let s0 := s.engineDeaths o
        match s0.opDone core o b with
        | none => s
        | some r =>
          let failed := match r with
            | .ok _ => false
            | .error _ => true
          let s1 := match r with
            | .ok t => t
            | .error h => s0.failOp core o h
          let s2 := s1.unlock core (o.srcLocks ++ o.dstLocks)
          if o.bar = noBarrier then s2.popOp core o
          else
            match (s2.advance b).engineArrive (o.mover b 0) o.bar 0 with
            | .ok t _ => (t.countRelease o.bid).popOp core o
            | .fault t h => (if failed then t else t.failOp core o h).popOp core o
            | .wait _ => s
            | .missed _ _ => s)

end Sys2Proof.Machine
end

