-- ==== Sys2Proof/Machine/MemInstr.lean ====
section
/-!
DEFINITION. Machine/MemInstr.lean: the memory instructions (R279 to R298), the stash map (R306, R307), and the replies of
split-phase loads (R287 to R289).
-/

namespace Sys2Proof.Machine

open Sys2Proof

/-! ### Loads, stores and atomics -/

/-- ld (R285). -/
def execLd (d a : Reg) (acc : Access) (s : State) : Host.Outcome State Fault Refusal := loadOp (.ld d a acc) false d a acc s
/-- u.ld (R281, R285). -/
def execULd (d a : Reg) (acc : Access) (s : State) : Host.Outcome State Fault Refusal := loadOp (.uLd d a acc) true d a acc s
/-- st (R286). -/
def execSt (d a : Reg) (acc : Access) (s : State) : Host.Outcome State Fault Refusal := storeOp (.st d a acc) false d a acc s
/-- u.st (R281, R286). -/
def execUSt (d a : Reg) (acc : Access) (s : State) : Host.Outcome State Fault Refusal := storeOp (.uSt d a acc) true d a acc s
/-- atom (R290, R291). -/
def execAtom (d a b : Reg) (acc : Access) (s : State) : Host.Outcome State Fault Refusal :=
  atomOp (.atom d a b acc) false d a b acc s
/-- u.atom (R281, R290). -/
def execUAtom (d a b : Reg) (acc : Access) (s : State) : Host.Outcome State Fault Refusal :=
  atomOp (.uAtom d a b acc) true d a b acc s
/-- cas (R292). -/
def execCas (d a b : Reg) (acc : Access) (s : State) : Host.Outcome State Fault Refusal := casOp (.cas d a b acc) false d a b acc s
/-- cas2 (R292): 16 bytes. -/
def execCas2 (d a b : Reg) (acc : Access) (s : State) : Host.Outcome State Fault Refusal :=
  casOp (.cas2 d a b acc) false d a b acc s
/-- u.cas (R281, R292). -/
def execUCas (d a b : Reg) (acc : Access) (s : State) : Host.Outcome State Fault Refusal := casOp (.uCas d a b acc) true d a b acc s

/-! ### Prefetch and eviction -/

/-- The line that a lane's prefetch names is fetched; what would fault a load does nothing (R297). -/
def Cx.prefetch (cx : Cx) (x : Access) (s : State) (r : Req) : State :=
  match s.check cx.viewer (loadHow x) (cx.toucher 0 true false) true noOwn [r] with
  | .fault _ _ => s
  | .untranslated _ _ _ _ _ _ => s
  | .wait t => t
  | .go t ps =>
    (ps.flatMap Prod.snd).foldl (fun u p => match p.place with
      | .hbm pa attr => if u.byL1 cx.viewer (loadHow x) attr && x.hint ≠ 3 then u.fillL1 cx.core x.hint.toNat pa p.n else u
      | .cellar pa attr => if u.byL1 cx.viewer (loadHow x) attr && x.hint ≠ 3 then u.fillL1 cx.core x.hint.toNat pa p.n else u
      | _ => u) t

/-- The lanes in which a load would be performed that reads registers or a predicate too early, or copies of one that disagree
(R84, R221). -/
def Cx.hindered (cx : Cx) (s : State) (i : Instr) : Mask := ((cx.tooEarly s i).map Prod.fst).getD 0 ||| cx.predicateSplit s i

/-- pf (R297): a lane in which a load would fault does nothing. -/
def execPf (a : Reg) (acc : Access) (s : State) : Host.Outcome State Fault Refusal :=
  run (.pf a acc) s (fun cx t =>
    let rs := (cx.reqs t false a acc.offset 1).filter (fun r => !(cx.hindered t (.pf a acc)).getLsbD r.vis)
    cx.finish (rs.foldl (cx.prefetch acc) t))

/-- The L1 line of a lane's address is written back, and dropped unless it stays clean (R298). -/
def Cx.evictLine (cx : Cx) (keep : Bool) (s : State) (r : Req) : State :=
  let out := fun (pa : Nat) =>
    if keep then (s.l1Line cx.core (pa / 128)).elim s (fun x => s.backLine cx.core x) else s.evictL1 cx.core (pa / 128)
  match s.address cx.viewer ⟨false, false, false⟩ r.va 1 with
  | .pieces [⟨_, _, .hbm pa attr⟩] => if attr = 2 then s else out pa
  | .pieces [⟨_, _, .cellar pa attr⟩] => if attr = 2 then s else out pa
  | _ => s

/-- evict and evict.wb (R298). -/
def execEvict (a : Reg) (acc : Access) (s : State) : Host.Outcome State Fault Refusal :=
  run (.evict a acc) s (fun cx t => cx.finish ((cx.reqs t false a acc.offset 1).foldl (cx.evictLine (acc.op.getLsbD 0)) t))

/-! ### Split-phase loads -/

/-- A new pending load of the gang: nothing has been written yet (R287). -/
def Cx.pendLoad (cx : Cx) (s : State) (d b : Reg) (x : Access) (ps : List (Req × List Piece)) : State :=
  s.modGang cx.gid (fun g => { g with
    nextLda := g.nextLda + 1,
    ldas := g.ldas ++ [{
      id := g.nextLda, counter := b.toNat, acc := x,
      keys := cx.lanes.map (fun p => (p, cx.key p d.toNat)),
      addrs := ps.map (fun e => (e.1.phys, e.1.va, e.2)),
      pending := cx.lanes.flatMap (fun p => (List.range x.regs).map (fun w => (p, w))),
      captured := [], dropped := [], held := [], interval := (s.board cx.b.slot).interval, counted := false, taken := none }] })

/-- lda (R287): precise faults at issue, replies later. A helper's load is answered before it goes on (R288). -/
def execLda (d a b : Reg) (acc : Access) (s : State) : Host.Outcome State Fault Refusal :=
  run (.lda d a b acc) s (fun cx t =>
    let rs := cx.reqs t false a acc.offset (Access.bytes acc)
    if cx.perform = 0 then cx.finish (t.modGang cx.gid (fun g => g.bump b.toNat))
    else if cx.index ≠ 0 then
      cx.access t (loadHow acc) ⟨false, false, 0⟩ noOwn rs (fun u ps =>
        let r := cx.readLoad (loadHow acc) u ps
        cx.finish ((cx.deliver r.1 false d acc.regs (r.2.map (fun e => (e.1, loaded acc e.2)))).modGang cx.gid (fun g => g.bump b.toNat)))
    else
      match t.check cx.viewer (loadHow acc) (cx.toucher acc.label.toNat true false) false noOwn rs with
      | .fault u f => cx.fault u f.cause f.lanes f.addr f.info
      | .untranslated u va level reason agent lanes => cx.untranslated u false false va level reason agent lanes
      | .wait u => cx.park u .resource
      | .go u ps => cx.finish (cx.pendLoad u d b acc ps))

/-- Who a lane of a split-phase load is, as the halves of a read name it (R468). -/
def Lda.reader (x : Lda) (q : Nat) : Nat × Nat × Nat := (300 + x.id, q, 0)

/-- A lane's access of a pending load at its home: its bytes, the first of its halves (R468), or the fault that is held (R288). None
while a home, or a mapped line, has still to fetch the line. -/
def State.performLda (s : State) (gid : Nat) (g : Gang) (b : Block) (x : Lda) (q : Nat) : Option (State × Option Held) :=
  let h := loadHow x.acc
  let v := b.viewer true
  let e := Tab.getD x.addrs q (0, [])
  let t : Toucher := ⟨b.core, b.slot, g.num, q, classOf h.label, h.label, h.reads, h.writes, none⟩
  if e.2.any s.pieceAbsent then none
  else
    match s.atHomes b.asid h.hint (s.homeLines v e.2) with
    | none => none
    | some s1 =>
      match s1.raceOf v t e.2 with
      | some (a, i) => some (s1.perf (dieOf b.core) 13 1, some ⟨0x0B, 0, BitVec.ofNat 64 a, BitVec.ofNat 64 i, []⟩)
      | none =>
        match s1.lostAt v h e.2 with
        | some a => some (s1.parityMet e.2, some ⟨0x0C, 0, BitVec.ofNat 64 a, 0, []⟩)
        | none =>
          let me : Req := ⟨g.vis q, q, e.1, Access.bytes x.acc⟩
          let early := g.halves.filter (fun y => y.reader = x.reader q)
          let half := s1.firstHalves b.core (x.reader q) [(me, e.2)]
          if s1.tears h [(me, e.2)] && early.isEmpty then some (half.1.modGang gid (fun y => { y with halves := y.halves ++ half.2 }), none)
          else
            let r := State.readAt v h t s1 e.2
            let bs := if s1.tears h [(me, e.2)] then joinHalves early me r.2 else r.2
            some (r.1.modGang gid (fun y => { y.modLda x.id (fun z =>
              { z with captured := Tab.put z.captured q (natToWords x.acc.regs (loaded x.acc bs)) }) with
                halves := y.halves.filter (fun z => z.reader ≠ x.reader q) }), none)

/-- One word of a reply written into a physical lane: earlier loads give the register up, this one and later ones keep it
pending (R289). -/
def Gang.replyWord (g : Gang) (cyc : Nat) (x : Lda) (q p w : Nat) : Gang :=
  let key := x.key (p, w)
  let v := (Tab.getD x.captured q []).getD w 0
  let g1 := if x.dropped.contains (p, w) then g
    else { g.write cyc none key v with ldas := g.ldas.map (fun y => if y.id < x.id then y.overwrite key else y) }
  (g1.modLda x.id (fun y => { y with pending := y.pending.filter (· ≠ (p, w)) })).closeLda x.id

/-- Whether an earlier load of the same lane, of a common byte by whatever address, has still to be performed (R240, R275). -/
def Gang.loadBefore (g : Gang) (x : Lda) (q : Nat) : Bool :=
  g.ldas.any (fun y => y.id < x.id && (Tab.look y.captured q).isNone && y.pending.any (fun lw => g.prime (g.vis lw.1) = q) &&
    (match Tab.look y.addrs q, Tab.look x.addrs q with
      | some a, some b => (a.1 < b.1 + Access.bytes x.acc && b.1 < a.1 + Access.bytes y.acc) || a.2.any (fun p => b.2.any p.meets)
      | _, _ => false))

/-- The loop whose last access has retired completes (R203): the load was made in an iteration if its destination lies in a frame. -/
def State.retire (s : State) (gid key : Nat) : State :=
  match frameLane key with
  | some lane => s.completeLoop gid lane
  | none => s

/-- LDA_REPLY (R287): a reply writes one register of one lane, or a lane's fault is held (R288). -/
def execLdaReply (bid g id lane word : Nat) (s : State) : Host.Outcome State Fault Refusal :=
  let gid := gangId bid g
  .next (match s.gang? gid, s.block? bid with
  | some y, some b =>
    match y.ldas.find? (fun x => x.id = id && (y.awaiting x).contains (lane, word)) with
    | none => s
    | some x =>
      let q := y.prime (y.vis lane)
      let reply := fun (t : State) (x : Lda) =>
        ((t.countLatent gid b.core (if x.dropped.contains (lane, word) then [] else [x.key (lane, word)])).modGang gid (fun z =>
          z.replyWord (s.cycle b.core) x q lane word)).retire gid (x.key (lane, word))
      if (Tab.look x.captured q).isSome then reply s x
      else if y.loadBefore x q then s
      else
        match s.performLda gid y b x q with
        | none => (s.startFills ((Tab.getD x.addrs q (0, [])).2)).wantRoom bid (s.homeLines (b.viewer true) ((Tab.getD x.addrs q (0, [])).2))
        | some (s1, none) =>
          match (s1.gang? gid).bind (fun z => z.ldas.find? (fun e => e.id = id)) with
          | none => s1
          | some x1 => if (Tab.look x1.captured q).isSome then reply s1 x1 else s1
        | some (s1, some h) =>
          (s1.modGang gid (fun z => (z.modLda id (fun e =>
            { e with held := Tab.put e.held q h })).closeLda id)).retire gid (x.key (lane, word))
  | _, _ => s)

/-! ### The stash map -/

/-- The stash words of a mapping that lie in the allocation, and the places they lie in. -/
def mapPieces (b : Block) (off len : Nat) : List Piece :=
  (List.range ((min (off + len) b.stashNeed - off) / 4)).map (fun i => ⟨localBase + off + 4 * i, 4, ownPlace b (off + 4 * i)⟩)

/-- A data write that stores nothing, announced on every stash word of a range at the home of each, and of a mapped word where it lies
in the stash too: it is checked there whether the range is mapped or direct afterwards (R307, R259). -/
def Cx.announceRange (cx : Cx) (s : State) (ps : List Piece) : State :=
  ps.foldl (fun u p =>
    let put := fun (q : State) (a : Nat) => q.announceAs (cx.toucher 0 false true cx.lowPhys) a p.n none false
    let w := (u.homeOf cx.viewer p.place).elim u (put u)
    match p.place with
    | .mapped c off _ _ => put w (stashKey c off)
    | _ => w) s

/-- What the announcement of stash words meets: a home that has no room for its line yet, a race, or nothing. -/
inductive Announced where
  | wait (s : State)
  | race (s : State) (at_ info : Nat)
  | ok (s : State)
  deriving DecidableEq, Repr

def Cx.checkRange (cx : Cx) (s : State) (ps : List Piece) : Announced :=
  match s.atHomes cx.asid 0 (s.homeLines cx.viewer ps) with
  | none => .wait (s.wantRoom cx.bid (s.homeLines cx.viewer ps))
  | some t =>
    match t.raceOf cx.viewer (cx.toucher 0 false true cx.lowPhys) ps with
    | some r => .race (t.perf (dieOf cx.core) 13 1) r.1 r.2
    | none => .ok t

/-- Lines of an allocation that n bytes from an offset cover. -/
def linesOf (off len : Nat) : List Nat := (List.range (len / 128)).map (fun i => off / 128 + i)

/-- The dirty words of an entry that cannot be written back, since their backing page does not translate. -/
def State.unbacked (s : State) (b : Block) (e : MapEntry) : Option (Nat × Nat × Nat) :=
  ((b.dirty.filter (fun w => e.s ≤ 4 * w && 4 * w < e.s + e.l)).filterMap b.backing).findSome? (fun g =>
    match s.reachBack (b.viewer true) ⟨false, false, false⟩ g with
    | .untranslated l r => some (g, l, r)
    | _ => none)

/-- An entry's dirty words written back, its lines absent and the entry cleared (R307). -/
def State.unmapEntry (s : State) (bid n : Nat) (e : MapEntry) : State :=
  (s.writeBackMapped bid e.s (e.s + e.l)).modBlock bid (fun b => { b with
    smap := Tab.del b.smap n,
    absent := (b.absent ++ linesOf e.s e.l).dedup,
    fills := b.fills.filter (fun l => !(linesOf e.s e.l).contains l),
    dirty := b.dirty.filter (fun w => !(e.s ≤ 4 * w && 4 * w < e.s + e.l)) })

/-- Runs what follows once an entry's dirty words can be written back, and the words of the ranges announced raise no race: the
faults of R217. -/
def Cx.backed (cx : Cx) (s : State) (e : Option MapEntry) (ps : List Piece) (k : State → State) : State :=
  match e.bind (s.unbacked cx.b) with
  | some (g, l, r) => cx.untranslated s true false g l r 3 (maskOf [cx.low])
  | none =>
    if cx.loadsBefore true [(⟨cx.low, cx.lowPhys, 0, 0⟩, [])] then cx.again s
    else match cx.checkRange s ps with
    | .wait t => cx.park t .resource
    | .race t a i => cx.fault t 0x0B (maskOf [cx.low]) a i
    | .ok t => k t

/-- sunmap of an entry: its words announced, the dirty ones written back, and the entry cleared (R307). -/
def Cx.unmap (cx : Cx) (s : State) (n : Nat) (e : MapEntry) : State :=
  (cx.announceRange s (mapPieces cx.b e.s e.l)).unmapEntry cx.bid n e

/-- The range-lock entry on which a stash range rests, and the first offset that it, or a copy in flight, touches. -/
def State.rangeLocked (s : State) (b : Block) (off len : Nat) : Option (Nat × Nat) :=
  (linesOf off len).findSome? (fun l =>
    ((s.core b.core).locks.find? (fun e => e.2.stash && e.2.hits (b.stashBase + 128 * l) 128)).map (fun e => (128 * l, e.1)))

/-- smap (R306). -/
def execSmap (a b : Reg) (acc : Access) (s : State) : Host.Outcome State Fault Refusal :=
  run (.smap a b acc) s (fun cx t =>
    let n := acc.op.toNat % 16
    let p := cx.lowPhys
    let g := cx.address t a acc.offset p
    let off := (cx.rd t p b.toNat).toNat
    let len := (cx.rd t p (b.toNat + 1)).toNat
    let me := maskOf [cx.low]
    let old := Tab.look cx.b.smap n
    let overlap := cx.b.smap.any (fun e => e.1 ≠ n && e.2.s < off + len && off < e.2.s + e.2.l)
    let before := (old.map (fun e => mapPieces cx.b e.s e.l)).getD []
    cx.backed t old (before ++ mapPieces cx.b off len) (fun t =>
      if g % 128 ≠ 0 then cx.fault t 5 me g 0
      else if off % 128 ≠ 0 || len % 128 ≠ 0 || len = 0 || cx.b.stashNeed < off + len || overlap then
        cx.fault t 9 me (localBase + off) 0
      else
        match t.rangeLocked cx.b off len with
        | some (at_, e) => cx.fault t 0x0A me (localBase + at_) e
        | none =>
          let u := old.elim t (fun e => cx.unmap t n e)
          let v := cx.announceRange u (mapPieces ((u.block? cx.bid).getD cx.b) off len)
          cx.finish (v.modBlock cx.bid (fun x => { x with
            smap := Tab.put x.smap n ⟨acc.hint.toNat, g, off, len⟩,
            absent := (x.absent ++ linesOf off len).dedup }))))

/-- sunmap (R307). -/
def execSunmap (acc : Access) (s : State) : Host.Outcome State Fault Refusal :=
  run (.sunmap acc) s (fun cx t =>
    let n := acc.op.toNat % 16
    match Tab.look cx.b.smap n with
    | none => cx.finish t
    | some e => cx.backed t (some e) (mapPieces cx.b e.s e.l) (fun t => cx.finish (cx.unmap t n e)))

/-- sflush (R307): it announces nothing. -/
def execSflush (acc : Access) (s : State) : Host.Outcome State Fault Refusal :=
  run (.sflush acc) s (fun cx t =>
    match Tab.look cx.b.smap (acc.op.toNat % 16) with
    | none => cx.finish t
    | some e => cx.backed t (some e) [] (fun t => cx.finish (t.writeBackMapped cx.bid e.s (e.s + e.l))))

end Sys2Proof.Machine
end

