-- ==== Sys2Proof/Machine/Fresh.lean ====
section
/-!
DEFINITION. Machine/Fresh.lean: a gang, a block and a team as they stand when they begin (R46, R127, R239, R403, R438).
-/

namespace Sys2Proof.Machine

open Sys2Proof

/-- A vector gang of a block as it stands at its start, before its registers are given values (R46). -/
def Gang.fresh (bid num role budget : Nat) (prot check trace : Bool) (pc tvec tdeleg : Dword) (cyc : Nat) : Gang where
  bid := bid
  num := num
  role := role
  budget := budget
  prot := prot
  check := check
  regs := []
  fly := []
  bad := []
  dmask := 0
  exited := 0
  dsf := 0
  fflags := []
  tmask := 0
  tpc := 0
  tcause := 0
  taddr := 0
  tinfo := 0
  tvec := tvec
  tdeleg := tdeleg
  fmode := 0
  ftrap := 0
  shape := 0
  acs := []
  tree := Tree.start (lowMask (if role = 2 then 1 else if prot then 16 else 32)) pc cyc
  layers := []
  system := false
  ended := false
  tags := []
  accs := []
  ldas := []
  halves := []
  nextLda := 0
  heldMatrix := []
  heldCopy := []
  recruits := []
  pending := none
  trace := trace
  posts := 0

/-- A block of a core, with no stash map and nothing pending. -/
def Block.fresh (bid slot core index team asid : Nat) (handler : Bool) (gangs : List Nat) (regBytes stashBase stashNeed : Nat)
    (window : Bool) : Block where
  bid := bid
  slot := slot
  core := core
  index := index
  team := team
  asid := asid
  handler := handler
  gangs := gangs
  regBytes := regBytes
  stashBase := stashBase
  stashNeed := stashNeed
  window := window
  started := true
  impSplits := 0
  closeReq := false
  closeSeen := false
  opened := false
  wrapping := false
  absent := []
  fills := []
  smap := []
  dirty := []
  opid := 1
  copies := 0
  mops := 0

def Team.fresh (tid asid queue : Nat) (packet : List Word) (taken : Nat) : Team where
  tid := tid
  asid := asid
  queue := queue
  packet := packet
  taken := taken
  state := .live
  nextBlock := 0
  requeued := []
  ended := 0
  releases := 0
  tstart := 0
  dlmiss := 0
  frozen := false
  waited := false
  chosen := []
  area := 0
  savedBlocks := []
  request := none
  deadline := 0
  endTrap := none
  choice := 0
  begun := false

end Sys2Proof.Machine
end

