-- ==== Sys2Proof/Machine/SpecialRegs.lean ====
section
/-!
DEFINITION. Machine/SpecialRegs.lean: the special registers (R126 to R134), sread and swrite (R157, R158), locq (R135), and
the counters (R438 to R444).
-/

namespace Sys2Proof.Machine

open Sys2Proof

/-! ### Special registers -/

/-- Whether a team's queue is recorded (R350). -/
def State.recorded (s : State) (bid : Nat) : Bool :=
  match (s.block? bid).bind (fun b => s.team? b.team) with
  | some t => s.recQueues.contains t.queue
  | none => false

/-- sockcap of a socket (R18, R19): compute dies 0 to 3, HBM4 stacks 4 to 11, I/O dies 12 and 13. -/
def State.sockcap (s : State) (n : Nat) : Nat :=
  let entry := fun (kind index count state : Nat) =>
    kind + index * 2 ^ 4 + (Config.socketStep n).toNat * 2 ^ 8 + count * 2 ^ 16 + state * 2 ^ 32
  if n < 4 then entry 1 n 384 (s.die n).state
  else if n < 12 then entry 2 (n - 4) 64 (s.stack (n - 4)).state
  else if n < 14 then entry 3 (n - 12) 9 (Tab.getD s.ioStates (n - 12) 0)
  else 0

/-- corecap (R132) and mxcap (R133). -/
def corecap : Nat := 4 + 8 * 2 ^ 4 + 256 * 2 ^ 8 + 8 * 2 ^ 18 + 4 * 2 ^ 22 + 4 * 2 ^ 26
def mxcap (core : Nat) : Nat := Config.coreMaxM core + 128 * 2 ^ 8

/-- locality (R134). -/
def locality (core : Nat) (g : Gang) : Nat :=
  core + (if g.role = 2 then 2 ^ 11 else 0) + clusterOf core * 2 ^ 12 + spanOf core * 2 ^ 16 + dieOf core * 2 ^ 20 +
    (if g.role = 2 then 0 else g.num % 4 * 2 ^ 24)

/-- A special register as a physical lane sees it (R127, R128, R200). -/
def Cx.special (cx : Cx) (s : State) (n p : Nat) : Nat :=
  let g := cx.g
  let c := s.core cx.core
  if n = 0 then cx.active.toNat
  else if n = 1 then g.dmask.toNat
  else if n = 2 then (if g.role = 2 then 0 else if cx.index = 0 then g.vis p else cx.hlane)
  else if n = 3 then g.num
  else if n = 4 then cx.b.slot
  else if n = 5 then g.role
  else if n = 0x10 then g.tmask.toNat
  else if n = 0x11 then g.tpc.toNat
  else if n = 0x12 then g.tcause
  else if n = 0x13 then g.taddr.toNat
  else if n = 0x14 then g.tinfo.toNat
  else if n = 0x15 then g.tvec.toNat
  else if n = 0x16 then g.tdeleg.toNat
  else if n = 0x20 then g.fmode
  else if n = 0x21 then Tab.getD g.fflags p 0
  else if n = 0x22 then g.ftrap
  else if n = 0x30 then g.shape.toNat
  else if n = 0x31 then c.bndreg
  else if n = 0x32 then c.bndstash
  else if n = 0x33 then c.bndcache
  else if n = 0x40 then s.clock
  else if n = 0x41 then locality cx.core g
  else if n = 0x110 then corecap
  else if n = 0x111 then mxcap cx.core
  else s.sockcap (n - 0x100)

/-- The clock as a team reads it: under a re-run the recorded value, and while recording the value is logged (R350). -/
def Cx.readClock (cx : Cx) (s : State) : State × Nat :=
  if !s.recorded cx.bid then (s, s.clock)
  else
    match s.rerun with
    | some ⟨c :: cs, ps, qs, xs⟩ => ({ s with rerun := some ⟨cs, ps, qs, xs⟩ }, c)
    | _ => (if s.recording then s.logReplay (.clock s.clock s.clock) else s, s.clock)

/-- sread (R157). -/
def execSread (d : Reg) (imm : BitVec 16) (s : State) : Host.Outcome State Fault Refusal :=
  run (.sread d imm) s (fun cx t =>
    let w := if wideSpecial imm.toNat then 2 else 1
    if imm = 0x40 then
      let r := cx.readClock t
      cx.finish (cx.lanewise r.1 d w (fun _ => some r.2))
    else cx.finish (cx.lanewise t d w (fun p => some (cx.special t imm.toNat p))))

/-- The bits of tdeleg that stand for a cause the device raises by trap (R130, R215). -/
def delegable : Dword :=
  ([1, 2, 3, 4, 5, 6, 0x0A, 0x0B, 0x0C, 0x0D, 0x0E, 0x10, 0x11, 0x12, 0x13, 0x14, 0x18, 0x19, 0x1A, 0x1C, 0x1D, 0x20, 0x21, 0x24,
    0x25, 0x26, 0x28]).foldl (fun m n => m ||| (1#64 <<< n)) 0

/-- swrite (R158). -/
def execSwrite (d : Reg) (imm : BitVec 16) (s : State) : Host.Outcome State Fault Refusal :=
  run (.swrite d imm) s (fun cx t =>
    let n := imm.toNat
    let p := cx.g.prime (lowLane cx.perform)
    let v := cx.rd t p d.toNat
    let v2 := BitVec.ofNat 64 (cx.rd2 t p d.toNat)
    let mod := fun (f : Gang → Gang) => cx.finish (t.modGang cx.gid f)
    if n = 0 then cx.emset t v
    else if n = 0x11 then mod (fun g => { g with tpc := v2 })
    else if n = 0x15 then mod (fun g => { g with tvec := v2 })
    else if n = 0x16 then mod (fun g => { g with tdeleg := v2 &&& delegable })
    else if n = 0x20 then mod (fun g => { g with fmode := v.toNat % 4 })
    else if n = 0x21 then
      mod (fun g => { g with fflags := cx.lanes.foldl (fun f q => Tab.set f q ((cx.rd t q d.toNat).toNat % 32) 0) g.fflags })
    else mod (fun g => { g with ftrap := v.toNat % 32 }))

/-! ### The locality query -/

/-- The home of a virtual address, as locq reports it (R135). -/
def State.homeReport (s : State) (v : Viewer) (va : Nat) : Nat :=
  if 2 ^ 57 ≤ va then 15
  else if inLocal va then 1 + v.core * 2 ^ 16
  else if inWindow va then
    let core := clusterOf v.core * 96 + (va - windowBase) / 0x40000
    (if core = v.core then 1 else 2) + core * 2 ^ 16
  else
    match s.translate v.core v.asid va with
    | .fail _ _ => if s.landsReserved v.asid va then 5 else 15
    | .leaf pte level =>
      let pa := leafPa pte level va
      if isHbm pa then spanOfPa pa * 2 ^ 4 + dieOfPa pa * 2 ^ 8 + sliceOfPa pa * 2 ^ 10
      else if isCellar pa then 3
      else if isPeer pa && s.routed (peerOf pa) then 4
      else 5

/-- locq (R135). -/
def execLocq (d a : Reg) (s : State) : Host.Outcome State Fault Refusal :=
  run (.locq d a) s (fun cx t => cx.finish (cx.uniform t d 1 (fun p => t.homeReport cx.viewer (cx.rd2 t p a.toNat))))

/-! ### Counters -/

/-- An interval-board entry, bit for bit (R267). -/
def Board.word (b : Board) : Nat := b.interval + b.state * 2 ^ 18 + b.attic * 2 ^ 20

/-- Cycles of a core's die since power-up or since the counter was set: the counter of cycles rests on it (R438). -/
def State.cycles (s : State) (core : Nat) : Nat := (s.cycle core + (s.core core).cycleBase) % 2 ^ 64

/-- The value of a counter (R438); i is the index of an indexed one. -/
def Cx.counter (cx : Cx) (s : State) (n i : Nat) : Nat :=
  let c := s.core cx.core
  let t := (s.team? cx.b.team).getD (Team.fresh 0 0 0 [] 0)
  if n < 16 then (Tab.getD cx.g.acs n 0).toNat
  else if n = 0x10 then s.cycles cx.core
  else if n = 0x11 then c.issued
  else if n = 0x20 then cx.b.impSplits
  else if n = 0x30 then t.releases
  else if n = 0x31 then t.ended
  else if n = 0x32 then t.tstart
  else if n = 0x33 then t.dlmiss
  else if n = 0x40 then c.ckcorr
  else if n = 0x41 then c.ckrecomp
  else if n = 0x42 then c.ckinj
  else if n = 0x43 then c.laneDeath
  else if n = 0x44 then c.squash
  else if n = 0x50 then (s.board i).word
  else if n = 0x51 then (s.die i).renew
  else if n = 0x52 then Tab.getD s.fqdrop i 0
  else if n = 0x53 then (s.stack i).rtdefer
  else
    let d := s.die ((n - 0x100) / 16)
    let e := n % 16
    if e = 0 then (d.cycle + Tab.getD d.perf 0 0) % 2 ^ 64
    else Tab.getD d.perf e 0

/-- A counter as it stands when it is read: flits across the interposer are counted as they have passed, and how many those are
the spec does not say (R440, log entry 95). -/
def State.settleCounter (s : State) (n : Nat) : State :=
  if 0x100 ≤ n && n % 16 = 12 then s.perf ((n - 0x100) / 16) 12 (Config.freeWord s.serial n) else s

/-- cntrd (R441). -/
def execCntrd (d : Reg) (imm : BitVec 16) (s : State) : Host.Outcome State Fault Refusal :=
  run (.cntrd d imm) s (fun cx t =>
    let n := imm.toNat
    let i := (cx.rd t cx.lowPhys d.toNat).toNat
    cx.finish (cx.uniform (t.settleCounter n) d 2 (fun _ => cx.counter (t.settleCounter n) n i)))

/-- A counter set to w: what was counted in the same cycle, above its start, comes on top (R444). -/
def recount (w now start : Nat) : Nat := satAdd 32 w (now - start)

/-- A counter set to a value; a wider value is cut to the counter's width (R442). What was counted in the same cycle comes on top
of it (R444). -/
def Cx.setCounter (cx : Cx) (s : State) (n v : Nat) : State :=
  let i := v / 2 ^ 32
  let w := v % 2 ^ 32
  let mod := fun (f : Core → Core) => s.modCore cx.core f
  if n < 16 then s.modGang cx.gid (fun g => { g with acs := Tab.set g.acs n (BitVec.ofNat 32 w) 0 })
  else if n = 0x10 then mod (fun c => { c with cycleBase := (v + 2 ^ 64 - s.cycle cx.core % 2 ^ 64) % 2 ^ 64 })
  else if n = 0x11 then mod (fun c => { c with issued := (v + (if c.slotCycle = cx.cyc then c.slots else 0)) % 2 ^ 64 })
  else if n = 0x40 then mod (fun c => { c with ckcorr := recount w c.ckcorr (Tab.getD c.starts n 0), starts := Tab.put c.starts n w })
  else if n = 0x41 then mod (fun c => { c with ckrecomp := recount w c.ckrecomp (Tab.getD c.starts n 0), starts := Tab.put c.starts n w })
  else if n = 0x42 then mod (fun c => { c with ckinj := recount w c.ckinj (Tab.getD c.starts n 0), starts := Tab.put c.starts n w })
  else if n = 0x43 then mod (fun c => { c with laneDeath := recount w c.laneDeath (Tab.getD c.starts n 0), starts := Tab.put c.starts n w })
  else if n = 0x44 then mod (fun c => { c with squash := recount w c.squash (Tab.getD c.starts n 0), starts := Tab.put c.starts n w })
  else if n = 0x51 then s.modDie i (fun d => { d with renew := recount w d.renew d.renewStart, renewStart := w })
  else if n = 0x52 then { s with
    fqdrop := Tab.put s.fqdrop i (recount w (Tab.getD s.fqdrop i 0) (Tab.getD s.fqdropStart i 0))
    fqdropStart := Tab.put s.fqdropStart i w }
  else if n = 0x53 then s.modStack i (fun k => { k with rtdefer := recount w k.rtdefer k.rtdeferStart, rtdeferStart := w })
  else
    s.modDie ((n - 0x100) / 16) (fun d =>
      let e := n % 16
      let u := if e = 0 then 2 ^ 64 - d.cycle % 2 ^ 64 else if d.countCycle = d.cycle then Tab.getD d.recent e 0 else 0
      { d with perf := Tab.put d.perf e ((v + u) % 2 ^ 64) })

/-- cntset (R442). -/
def execCntset (d : Reg) (imm : BitVec 16) (s : State) : Host.Outcome State Fault Refusal :=
  run (.cntset d imm) s (fun cx t =>
    let n := imm.toNat
    let v := cx.rd2 t cx.lowPhys d.toNat
    cx.finish (cx.setCounter t n v))

end Sys2Proof.Machine
end

