-- ==== Sys2Proof/Machine/Image.lean ====
section
/-!
DEFINITION. Machine/Image.lean: launch packets (R336), register images and their sections (R233, R234), and the memory
accesses that the scheduler and the context engine make.
-/

namespace Sys2Proof.Machine

open Sys2Proof

/-! ### The launch packet -/

/-- A launch packet by fields (R336); reserved fields are ignored (R9). -/
structure Launch where
  ngang : Nat
  nquart : Nat
  copy : Bool
  prot : Bool
  check : Bool
  window : Bool
  cores : Nat
  prio : Nat
  trace : Bool
  mbudget : Nat
  vbudget : Nat
  indexReg : Nat
  blocks : Nat
  stash : Nat
  breg : Nat
  bstash : Nat
  bcache : Nat
  entry : Dword
  image : Nat
  tvec : Dword
  tdeleg : Dword
  done : Nat
  deriving DecidableEq, Repr

def launchOf (ws : List Word) : Launch :=
  let f := fun (i hi lo : Nat) => bits (ws.getD i 0).toNat hi lo
  let q := fun (i : Nat) => (ws.getD i 0).toNat + 2 ^ 32 * (ws.getD (i + 1) 0).toNat
  { ngang := f 0 4 0
    nquart := f 0 7 5
    copy := f 0 8 8 = 1
    prot := f 0 9 9 = 1
    check := f 0 10 10 = 1
    window := f 0 11 11 = 1
    cores := f 0 13 12
    prio := f 0 16 14
    trace := f 0 17 17 = 1
    mbudget := f 1 7 0 * 8
    vbudget := f 1 15 8 * 8
    indexReg := f 1 23 16
    blocks := f 2 23 0
    stash := f 3 9 0 * 512
    breg := f 3 16 10 * 4096
    bstash := f 3 23 17 * 4096
    bcache := f 3 30 24 * 4096
    entry := BitVec.ofNat 64 (q 4)
    image := q 6
    tvec := BitVec.ofNat 64 (q 8)
    tdeleg := BitVec.ofNat 64 (q 10)
    done := q 14 }

/-- Role and budget of a gang number (R41, R42, R44). -/
def Launch.role (p : Launch) (num : Nat) : Nat := if num = 31 then 2 else if num < 4 * p.nquart then 1 else 0
def Launch.budget (p : Launch) (num : Nat) : Nat :=
  if num = 31 then 256 else if num < 4 * p.nquart then p.mbudget else p.vbudget

/-- The gang numbers of each block (R39). -/
def Launch.gangs (p : Launch) : List Nat := List.range p.ngang ++ (if p.copy then [31] else [])

/-- One block's register need (R45). -/
def Launch.regBytes (p : Launch) : Nat := 128 * (4 * p.nquart * p.mbudget + (p.ngang - 4 * p.nquart) * p.vbudget)

/-! ### Memory as the scheduler and the context engine reach it -/

/-- Where a virtual address lies by a walk of its own; none in an aperture, or where it does not translate or is not granted (R236,
R238, R420, R423). -/
def State.devicePa (s : State) (asid va : Nat) (write : Bool) : Option Nat :=
  if 2 ^ 57 ≤ va || inLocal va || inWindow va then none
  else match s.walk asid va with
    | .fail _ _ => none
    | .leaf pte level => if if write then pteW pte else pteR pte then some (leafPa pte level va) else none

/-- Bytes at pieces of a line each, at their homes; none where one cannot be read (R273, R337, R448, R466). -/
def State.gatherBytes (s : State) (asid : Nat) : List (Nat × Nat) → Option (List Byte)
  | [] => some []
  | (va, n) :: rest =>
    ((s.devicePa asid va false).filter (fun pa => s.canRead pa n)).bind (fun pa =>
      (s.gatherBytes asid rest).map (fun bs => s.readBytes 57 (s.homePa pa) n ++ bs))

def State.readVirt (s : State) (asid va n : Nat) : Option (List Byte) := s.gatherBytes asid (chunksOf va n)

/-- What such a read does to a page that migrates: its lines are pulled (R435). -/
def State.pullVirt (s : State) (asid va n : Nat) : State :=
  (chunksOf va n).foldl (fun t c => match t.devicePa asid c.1 false with
    | some pa => if isHbm pa then t.pullFirst (pa / 128) else t
    | none => t) s

/-! ### CRC-32C -/

def crcByte (c : Word) (b : Byte) : Word :=
  (List.range 8).foldl (fun x _ => if x.getLsbD 0 then (x >>> 1) ^^^ 0x82F63B78#32 else x >>> 1) (c ^^^ b.zeroExtend 32)

/-- The CRC-32C of bytes, with the Castagnoli polynomial, reflected (log entry 60). -/
def crc32c (bs : List Byte) : Word := ~~~ (bs.foldl crcByte 0xFFFFFFFF#32)

/-- An image's CRC-32C, with header word 3 taken as zero (R233). -/
def imageCrc (bs : List Byte) : Word := crc32c (bs.take 12 ++ List.replicate 4 0 ++ bs.drop 16)

/-! ### Images -/

/-- A section of an image (R233). -/
structure Section where
  kind : Nat
  gang : Nat
  first : Nat
  count : Nat
  perLane : Bool
  words : List Word
  deriving DecidableEq, Repr

def pad16 (n : Nat) : Nat := (n + 15) / 16 * 16

/-- The little-endian word at an offset of some bytes. -/
def wordAt (bs : List Byte) (off : Nat) : Nat := ofBytes ((bs.drop off).take 4)

/-- Bytes of a section's body. -/
def bodyBytes (kind gang count : Nat) (perLane : Bool) : Nat :=
  if kind < 2 then 4 * count * (if perLane && gang ≠ 31 then 32 else 1) else count

/-- The sections of an image: so many, and nothing after them. -/
def sectionsOf : Nat → List Byte → Option (List Section)
  | 0, bs => if bs.isEmpty then some [] else none
  | n + 1, bs =>
    let kind := bits (wordAt bs 0) 7 0
    let gang := bits (wordAt bs 0) 15 8
    let perLane := bit (wordAt bs 8) 0
    let size := bodyBytes kind gang (wordAt bs 4) perLane
    if bs.length < 16 + pad16 size then none
    else
      (sectionsOf n (bs.drop (16 + pad16 size))).map (fun rest =>
        ⟨kind, gang, bits (wordAt bs 0) 24 16, wordAt bs 4, perLane, natToWords ((size + 3) / 4) (ofBytes ((bs.drop 16).take size))⟩ :: rest)

/-- The sections of the bytes of a whole image: of version 1, of the size it states, with its CRC where it is checked. -/
def imageSections (bs : List Byte) : Option (List Section) :=
  if bits (wordAt bs 0) 15 0 ≠ 1 || wordAt bs 4 ≠ bs.length || bs.length < 16 then none
  else if bit (wordAt bs 8) 0 && (imageCrc bs).toNat ≠ wordAt bs 12 then none
  else sectionsOf (bits (wordAt bs 0) 31 16) (bs.drop 16)

/-- The bytes of the image that a launch packet names, of which there are none without one; none where it is unreadable (R337). -/
def State.launchBytes (s : State) (asid : Nat) (p : Launch) : Option (List Byte) :=
  if p.image = 0 then some []
  else (s.readVirt asid p.image 16).bind (fun h => s.readVirt asid p.image (max 16 (wordAt h 4)))

/-- The sections of a launch image; none where it is malformed. -/
def launchSections (p : Launch) (bs : List Byte) : Option (List Section) := if p.image = 0 then some [] else imageSections bs

/-- The image that a launch packet names; none where it is unreadable or malformed (R233, R337). -/
def State.launchImage (s : State) (asid : Nat) (p : Launch) : Option (List Section) := (s.launchBytes asid p).bind (launchSections p)

/-- Whether the read of a launch image has to wait for a stack (R465). -/
def State.imageWaits (s : State) (asid : Nat) (p : Launch) : Bool :=
  p.image ≠ 0 && (chunksOf p.image ((s.launchBytes asid p).getD []).length).any (fun c => match s.devicePa asid c.1 false with
    | some pa => s.lineWaits (pa / 128)
    | none => false)

/-- Lines of a migrating page that the read of a launch image pulls (R435). -/
def State.pullImage (s : State) (asid : Nat) (p : Launch) : State :=
  if p.image = 0 then s else s.pullVirt asid p.image ((s.launchBytes asid p).getD []).length

/-! ### Splits, records, tables and stash maps in an image (R317, R366, R403, R404, R418, R432) -/

/-- A place that holds a split, frozen by the save (R403, R405). -/
def Split.words (x : Split) : List Word :=
  let w := fun (n : Nat) => BitVec.ofNat 32 n
  [w (1 + x.state true * 4 + x.rec_ * 2 ^ 5), 0, x.mask, 0, w x.pc.toNat, w (x.pc.toNat / 2 ^ 32), 0, 0]

/-- TIMER of a record whose timer stands (R404). -/
def JoinRec.units (r : JoinRec) : Nat := (r.timer + 15) / 16

/-- A place that holds a join record (R404). -/
def JoinRec.words (r : JoinRec) : List Word :=
  let w := fun (n : Nat) => BitVec.ofNat 32 n
  [w (2 + r.armed.toNat * 4 + r.id * 2 ^ 4 + r.outer * 2 ^ 10 + (if r.armed then r.units else 0) * 2 ^ 16), r.wmask, r.expect_, r.arrived,
    r.aside, 0, w r.jpc.toNat, w (r.jpc.toNat / 2 ^ 32)]

/-- What a place holds (R403, R404): a split, a record, or nothing. -/
def Tree.placeWords (t : Tree) (p : Nat) : List Word :=
  match Tab.look t.splits p, Tab.look t.recs p with
  | some x, _ => x.words
  | none, some r => r.words
  | none, none => List.replicate 8 0

/-- How many places a tree has in an image: those on chip, and the spill stack as far as it is used (R401). -/
def Tree.span (t : Tree) : Nat := (t.splits.map Prod.fst ++ t.recs.map Prod.fst).foldl (fun n p => max n (p + 1)) 8

/-- A tree in an image: the number of its places and the lanes of its root (R402), and then the places in the order of their numbers
(R477). -/
def Tree.words (t : Tree) : List Word :=
  [BitVec.ofNat 32 t.span, t.rootExpect, t.rootAside, 0, 0, 0, 0, 0] ++ (List.range t.span).flatMap t.placeWords

/-- An entry of the tile tag table (R317); a free one is zero. -/
def tagWords (x : Option Tag) : List Word :=
  match x with
  | none => [0, 0]
  | some y => [BitVec.ofNat 32 (y.base % 2 ^ 8 + y.scoff % 2 ^ 18 * 2 ^ 8 + y.stale.toNat * 2 ^ 26 + 2 ^ 27), y.geom]

/-- An accumulation record (R366); a free one is zero. CLAMP has a bit for each of 32 rows, and then for each of 128 columns. -/
def accWords (x : Option AccRec) : List Word :=
  match x with
  | none => List.replicate 8 0
  | some y => [BitVec.ofNat 32 (y.base % 2 ^ 8 + 2 ^ 8), y.geom, BitVec.ofNat 32 y.kdepth] ++
      natToWords 5 (wordBits (y.clampRows.filter (· < 32)) + wordBits (y.clampCols.filter (· < 128)) * 2 ^ 32)

/-- What section kind 3 holds of a gang: its tree and its frozen trees, the newest first; the tile tag table, newest tag first; and a
matrix gang's accumulation record table (R317, R366, R418). -/
def Gang.placeWords (g : Gang) : List Word :=
  (g.tree :: g.layers.map Layer.tree).flatMap Tree.words ++ (List.range 8).flatMap (fun i => tagWords g.tags[i]?) ++
    (if g.role = 1 then (List.range 4).flatMap (fun i => accWords g.accs[i]?) else [])

/-- A split with what a place of an image holds. -/
def Split.loaded (x : Split) (ws : List Word) : Split :=
  let n := fun (i : Nat) => (ws.getD i 0).toNat
  { x with rec_ := bits (n 0) 10 5, mask := ws.getD 2 0, pc := BitVec.ofNat 64 (n 4 + n 5 * 2 ^ 32) }

/-- A record likewise; a timer goes on from its TIMER. -/
def JoinRec.loaded (r : JoinRec) (ws : List Word) : JoinRec :=
  let n := fun (i : Nat) => (ws.getD i 0).toNat
  { r with
    armed := bit (n 0) 2
    id := bits (n 0) 9 4
    outer := bits (n 0) 15 10
    timer := bits (n 0) 31 16 * 16
    wmask := ws.getD 1 0
    expect_ := ws.getD 2 0
    arrived := ws.getD 3 0
    aside := ws.getD 4 0
    jpc := BitVec.ofNat 64 (n 6 + n 7 * 2 ^ 32) }

/-- The places of a tree in an image. -/
def imageSpan (ws : List Word) : Nat := min (ws.headD 0).toNat 136

/-- A tree as an image has it. What a place does not hold of a split or of a record is as it was saved. -/
def Tree.loaded (t : Tree) (ws : List Word) : Tree :=
  let at_ := fun (p : Nat) => (ws.drop (8 + 8 * p)).take 8
  let kind := fun (p : Nat) => bits ((at_ p).headD 0).toNat 1 0
  { splits := (List.range (imageSpan ws)).filterMap (fun p =>
      if kind p = 1 then some (p, ((Tab.look t.splits p).getD (Split.new 0 0 0 0)).loaded (at_ p)) else none)
    recs := (List.range (imageSpan ws)).filterMap (fun p =>
      if kind p = 2 then some (p, ((Tab.look t.recs p).getD ⟨0, 0, 0, 0, 0, 0, 0, [], false, 0, 0, false⟩).loaded (at_ p)) else none)
    rootExpect := ws.getD 1 0
    rootAside := ws.getD 2 0 }

/-- What follows a tree in an image. -/
def afterTree (ws : List Word) : List Word := ws.drop (8 + 8 * imageSpan ws)

/-- Frozen trees, and what follows them. -/
def loadLayers : List Layer → List Word → List Layer × List Word
  | [], ws => ([], ws)
  | l :: ls, ws =>
    let r := loadLayers ls (afterTree ws)
    ({ l with tree := l.tree.loaded ws } :: r.1, r.2)

/-- The tags that eight entries hold. -/
def tagsOf (ws : List Word) : List Tag :=
  (List.range 8).filterMap (fun i =>
    let n := (ws.getD (2 * i) 0).toNat
    if bit n 27 then some ⟨bits n 7 0, ws.getD (2 * i + 1) 0, bits n 25 8, bit n 26⟩ else none)

/-- The accumulation records that four entries hold. -/
def accsOf (ws : List Word) : List AccRec :=
  (List.range 4).filterMap (fun i =>
    let n := (ws.getD (8 * i) 0).toNat
    let clamp := wordsToNat ((ws.drop (8 * i + 3)).take 5)
    if bit n 8 then some ⟨bits n 7 0, ws.getD (8 * i + 1) 0, (ws.getD (8 * i + 2) 0).toNat, (List.range 32).filter clamp.testBit,
      (List.range 128).filter (fun j => clamp.testBit (32 + j))⟩ else none)

/-- A gang with the trees and tables of an image. -/
def Gang.loaded (g : Gang) (ws : List Word) : Gang :=
  let r := loadLayers g.layers (afterTree ws)
  { g with
    tree := g.tree.loaded ws
    layers := r.1
    tags := tagsOf r.2
    accs := if g.role = 1 then accsOf (r.2.drop 16) else [] }

/-- An entry of a block's stash map (R432); a free one is zero. -/
def mapWords (e : Option MapEntry) : List Word :=
  match e with
  | none => List.replicate 6 0
  | some x =>
    let w := fun (n : Nat) => BitVec.ofNat 32 n
    [w (1 + x.hint * 2), 0, w x.g, w (x.g / 2 ^ 32), w x.s, w x.l]

def Block.mapWords (b : Block) : List Word := (List.range 16).flatMap (fun i => Sys2Proof.Machine.mapWords (Tab.look b.smap i))

/-- The map that 96 words hold. -/
def mapOf (ws : List Word) : Tab MapEntry :=
  (List.range 16).filterMap (fun i =>
    let n := fun (k : Nat) => (ws.getD (6 * i + k) 0).toNat
    if bit (n 0) 0 then some (i, ⟨bits (n 0) 2 1, n 2 + n 3 * 2 ^ 32, n 4, n 5⟩) else none)

/-- A section that a launch image may hold: of v or k registers, of gangs that exist, below their budgets (R234). -/
def Section.admitted (x : Section) (p : Launch) : Bool :=
  let gs := if x.gang = 0xFF then List.range p.ngang else [x.gang]
  x.kind < 2 && gs.all (fun g => p.gangs.contains g && (x.count = 0 || x.first + x.count ≤ (if x.kind = 1 then 8 else p.budget g)))

/-- A register, counted from 0 for v and from 256 for k, of a physical lane as a section gives it. -/
def Section.value? (x : Section) (num phys reg : Nat) : Option Word :=
  let base := x.first + 256 * x.kind
  if x.kind < 2 && (x.gang = num || (x.gang = 0xFF && num ≠ 31)) && base ≤ reg && reg < base + x.count then
    let i := reg - base
    some (x.words.getD (if x.perLane && num ≠ 31 then 32 * i + phys else i) 0)
  else none

/-- The register that an image leaves in a lane: the last section that covers it, else zero (R46). -/
def imageReg (xs : List Section) (num phys reg : Nat) : Word :=
  (xs.foldl (fun (a : Option Word) x => match x.value? num phys reg with
    | some w => some w
    | none => a) none).getD 0

/-- All registers of a gang from an image; over_ overrides one v register in every lane. -/
def imageRegs (xs : List Section) (num lanes budget : Nat) (over_ : Option (Nat × Word)) : Tab Word :=
  (List.range lanes).flatMap (fun l => (List.range budget ++ (List.range 8).map (256 + ·)).filterMap (fun reg =>
    let w := match over_ with
      | some (n, v) => if reg = n then v else imageReg xs num l reg
      | none => imageReg xs num l reg
    if w = 0 then none else some (vKey l reg, w)))

end Sys2Proof.Machine
end

