-- ==== Sys2Proof/Machine/Queues.lean ====
section
/-!
DEFINITION. Machine/Queues.lean: the hardware queue set and its control pages (R330 to R334, R338), launch (R341), active
messages and handler blocks (R342 to R344), and what switches and feeds the trace units (R346 to R349, R480).
-/

namespace Sys2Proof.Machine

open Sys2Proof

/-! ### Acceptance -/

/-- The key of a token of an identifier (R338). -/
def tokenKey (asid token : Nat) : Nat := asid * 2 ^ 32 + token

/-- SIGTOK and WAITTOK of a packet. -/
def sigTok (ws : List Word) : Nat := (ws.getD 13 0).toNat
def waitTok (ws : List Word) : Nat := (ws.getD 12 0).toNat

/-- A token's entry becomes pending, in the place of a done entry where the table of 4,096 is full; none where there is none
(R338). -/
def State.pendToken (s : State) (asid token : Nat) : Option State :=
  if token = 0 then some s
  else
    let key := tokenKey asid token
    let enter := fun (t : Tab Bool) => some { s with tokens := Tab.put t key true }
    if (Tab.look s.tokens key).isSome || s.tokens.length < 4096 then enter s.tokens
    else
      match s.tokens.find? (fun e => !e.2) with
      | some e => enter (Tab.del s.tokens e.1)
      | none => none

/-- Whether a wait token is done: absent, or done (R338). -/
def State.tokenDone (s : State) (asid token : Nat) : Bool := token = 0 || (Tab.look s.tokens (tokenKey asid token)).getD false = false

/-- A queue holds 4,128 packets, or 32 without a spill area (R334). -/
def Queue.full (q : Queue) : Bool := (if q.qspill = 0 then 32 else 4128) ≤ q.packets.length

/-- A packet that is dropped: OVR, QDROP, the error interrupt, and a record where the queue is bound (R334). -/
def State.overrun (s : State) (q : Nat) : State :=
  let s1 := (s.modQueue q (fun x => { x with ovr := true, qdrop := (x.qdrop + 1) % 2 ^ 32 })).raiseErr 1
  match (s.queue q).bound with
  | none => s1
  | some asid => s1.faultRecord asid 5 [q, (s1.queue q).qdrop]

/-- The identifier of the team that a queue's next packet makes (R333). -/
def Queue.nextTid (x : Queue) (q : Nat) : Nat := q + x.qseq * 128

/-- An accepted packet joins its queue (R333), and the replay log while its queue is recorded (R350). A packet that spills stays in the
queue's list, and the memory at QSPILL is not written: DESIGN CHOICE (R334 gives its bytes no layout; log entry 121). -/
def State.enqueue (s : State) (q : Nat) (ws : List Word) : State :=
  let tid := (s.queue q).nextTid q
  let s1 := s.modQueue q (fun x => { x with qseq := (x.qseq + 1) % 2 ^ 25, packets := x.packets ++ [(tid, ws)] })
  if s.recording && s.recQueues.contains q then s1.logReplay (.launch s.clock tid ws) else s1

/-- What becomes of a packet that arrives at a queue. -/
inductive Offer where
  | taken (s : State)
  | dropped (s : State)
  | waits
  deriving DecidableEq, Repr

/-- A packet arrives at a queue: dropped at one that is unbound or full, else accepted once its token has an entry (R333,
R334, R338). -/
def State.offer (s : State) (q : Nat) (ws : List Word) : Offer :=
  match (s.queue q).bound with
  | none => .dropped (s.overrun q)
  | some asid =>
    if (s.queue q).full then .dropped (s.overrun q)
    else match s.pendToken asid (sigTok ws) with
      | some t => .taken (t.enqueue q ws)
      | none => .waits

/-- Packets that wait at ports, in order; behind one that still waits, every later one of its queue does. -/
def State.drainFrom : List (Nat × List Word) → State → State
  | [], s => s
  | (q, ws) :: rest, s =>
    let keep := fun (t : State) => { t with ports := t.ports ++ [(q, ws)] }
    State.drainFrom rest (if s.ports.any (fun p => p.1 = q) then keep s
      else match s.offer q ws with
        | .taken t => t
        | .dropped t => t
        | .waits => keep s)

/-- Waiting packets are accepted when a token entry is free again (R338). -/
def State.drainPorts (s : State) : State := State.drainFrom s.ports { s with ports := [] }

/-- A token entry becomes done (R339). -/
def State.finishToken (s : State) (asid token : Nat) : State :=
  if token = 0 then s
  else { s with tokens := if (Tab.look s.tokens (tokenKey asid token)).isSome then Tab.put s.tokens (tokenKey asid token) false else s.tokens }.drainPorts

/-- Words of a packet, from its 64 bytes (R5). -/
def packetWords (bs : List Byte) : List Word := natToWords 16 (ofBytes bs)

/-- LAUNCH_PORT_WRITE (R333): one write of 64 bytes at the port's address is a packet; any other is counted and discarded. -/
def execLaunchPortWrite (queue offset : Nat) (data : List Byte) (s : State) : Host.Outcome State Fault Refusal :=
  .next (if s.link = .down || 128 ≤ queue then s
    else if offset ≠ 0 || data.length ≠ 64 then (s.modQueue queue (fun x => { x with qdrop := (x.qdrop + 1) % 2 ^ 32 })).raiseErr 0
    else State.drainFrom [(queue, packetWords data)] s)

/-- TOKEN_EVICT (R338). -/
def execTokenEvict (asid token : Nat) (s : State) : Host.Outcome State Fault Refusal :=
  .next (match Tab.look s.tokens (tokenKey asid token) with
    | some false => State.drainPorts { s with tokens := Tab.del s.tokens (tokenKey asid token) }
    | _ => s)

/-! ### Control pages -/

/-- One write to QCMD: refused, or an effect on the queue (R332). A packet that still waits at the port is in neither ONCHIP nor
SPILL, and does not count. -/
def State.qcmd (s : State) (queue value : Nat) : State :=
  let x := s.queue queue
  let op := value % 8
  let asid := bits value 13 3
  let held := !x.packets.isEmpty
  let refused := 5 ≤ op || 2 ^ 14 ≤ value || (op ≠ 1 && asid ≠ 0) ||
    (op = 1 && (x.bound.isSome || held || (Tab.look s.identifiers asid).isNone)) ||
    (op = 2 && (x.bound.isNone || held)) || (op = 3 && x.bound.isNone)
  if s.link = .down || 128 ≤ queue then s
  else s.modQueue queue (fun y =>
    if refused then { y with cmderr := true }
    else if op = 1 then { y with bound := some asid, asid := asid, en := true }
    else if op = 2 then { y with bound := none, en := false }
    else if op = 3 then { y with en := true }
    else if op = 4 then { y with en := false }
    else y)

/-- QCMD_NOP, and the refused commands OP 5 to 7 (R332). -/
def execQcmdNop (queue value : Nat) (s : State) : Host.Outcome State Fault Refusal :=
  .next (if value % 8 = 0 || 5 ≤ value % 8 then s.qcmd queue value else s)
/-- QCMD_BIND (R332). -/
def execQcmdBind (queue value : Nat) (s : State) : Host.Outcome State Fault Refusal :=
  .next (if value % 8 = 1 then s.qcmd queue value else s)
/-- QCMD_UNBIND (R332). -/
def execQcmdUnbind (queue value : Nat) (s : State) : Host.Outcome State Fault Refusal :=
  .next (if value % 8 = 2 then s.qcmd queue value else s)
/-- QCMD_ENABLE (R332). -/
def execQcmdEnable (queue value : Nat) (s : State) : Host.Outcome State Fault Refusal :=
  .next (if value % 8 = 3 then s.qcmd queue value else s)
/-- QCMD_DISABLE (R332). -/
def execQcmdDisable (queue value : Nat) (s : State) : Host.Outcome State Fault Refusal :=
  .next (if value % 8 = 4 then s.qcmd queue value else s)

/-- QSTAT_WRITE (R331): writes of 1 clear OVR and CMDERR. -/
def execQstatWrite (queue value : Nat) (s : State) : Host.Outcome State Fault Refusal :=
  .next (if s.link = .down || 128 ≤ queue then s
    else s.modQueue queue (fun x => { x with ovr := x.ovr && !bit value 1, cmderr := x.cmderr && !bit value 34 }))

/-- The packets that a queue holds on chip, the oldest up to 32, and in its spill area (R330, R331). -/
def Queue.onchip (x : Queue) : Nat := min 32 x.packets.length
def Queue.spill (x : Queue) : Nat := x.packets.length - x.onchip

/-- The word QSTAT (R331). -/
def Queue.qstat (x : Queue) : Nat :=
  x.en.toNat + x.ovr.toNat * 2 + x.bound.isSome.toNat * 2 ^ 2 + x.asid * 2 ^ 3 + x.onchip * 2 ^ 14 + x.spill * 2 ^ 20 +
    x.mhold.toNat * 2 ^ 33 + x.cmderr.toNat * 2 ^ 34

/-- What a read of a queue's control page returns; QCMD reads zero (R331, R332). -/
def Queue.page (x : Queue) (offset : Nat) : Nat :=
  if offset = 0x40 then x.qstat
  else if offset = 0x48 then x.qdrop
  else if offset = 0x50 then x.qspill
  else if offset = 0x58 then x.qseq
  else 0

/-- A management reset of a queue: empty, unbound and disabled, QSTAT at its reset value (R29, R330). QDROP, QSPILL and QSEQ stay,
and tokens of lost packets stay pending; a co-residency launch that waits at the queue's head is lost with its packet, and its team with
no DONE word and no record: DESIGN CHOICE (log entry 105). -/
def State.resetQueue (s : State) (queue : Nat) : State :=
  if s.mgmtReset || 128 ≤ queue then s
  else State.drainPorts { s.modQueue queue (fun x =>
      { x with en := false, ovr := false, bound := none, asid := 0, mhold := false, cmderr := false, packets := [] }) with
    teams := s.teams.filter (fun (t : Nat × Team) => !(t.2.waited && t.2.queue = queue)) }

/-- QSPILL_WRITE (R331, R332): the 4 KiB-aligned address of the spill area, while the queue is not bound. -/
def execQspillWrite (queue value : Nat) (s : State) : Host.Outcome State Fault Refusal :=
  .next (if s.link = .down || 128 ≤ queue then s
    else s.modQueue queue (fun x => if x.bound.isSome then { x with cmderr := true } else { x with qspill := value % 2 ^ 64 / 4096 * 4096 }))

/-! ### launch -/

/-- 64 data reads of one aligned packet (R341). -/
def packetHow : How where
  need := ⟨true, false, false⟩
  label := 0
  reads := true
  writes := false
  load := true
  atomic := false
  size := 6
  align := 64
  scope := 0
  hint := 0
  object := false
  peer := false

/-- launch (R341): the packet is read after a release, and offered to the queue. -/
def execLaunch (d a : Reg) (b : Src) (s : State) : Host.Outcome State Fault Refusal :=
  run (.launch d a b) s (fun cx t =>
    let q := ((⟨cx, t⟩ : Lanes).src cx.lowPhys b).toNat
    cx.access t packetHow ⟨true, false, 3⟩ noOwn [⟨cx.low, cx.lowPhys, cx.rd2 t cx.lowPhys a.toNat, 64⟩] (fun u ps =>
      let r := cx.readAll packetHow u ps
      let ws := packetWords ((r.2.map Prod.snd).headD [])
      let code := fun (v : State) (c : Nat) => cx.finish (cx.uniform (v.countRelease cx.bid) d 1 (fun _ => c))
      if 127 < q then code r.1 3
      else if (r.1.queue q).bound ≠ some cx.asid then code r.1 2
      else if r.1.ports.any (fun p => p.1 = q) then cx.park t .resource
      else match r.1.offer q ws with
        | .taken v => code v 0
        | .dropped v => code v 1
        | .waits => cx.park t .resource))

/-! ### Active messages -/

/-- Whether a core's queue of 64 has a free entry for a message: 16 are for those of handler blocks, 48 for the others (R330,
R342). A handler's message takes none of the 48: DESIGN CHOICE (R342 does not say whether it may; log entry 120). -/
def State.hasEntry (s : State) (core : Nat) (fromHandler : Bool) : Bool :=
  ((s.core core).msgs.filter (fun m => m.fromHandler = fromHandler)).length < if fromHandler then 16 else 48

/-- The first payload register that the gang's budget does not hold (R44). -/
def Cx.badPayload (cx : Cx) (va len : Nat) : Option Nat :=
  (List.range len).findSome? (fun i =>
    if 255 < va + i then some (va + i) else if cx.codeFree (va + i) then none else if cx.g.budget ≤ va + i then some (va + i) else none)

/-- Where a core finds the entry of a message in its identifier's handler table; none where it cannot be reached (R343). -/
def State.handlerEntry (s : State) (core : Nat) (m : Message) : Option Nat :=
  (Tab.look s.identifiers m.asid).bind (fun d =>
    match s.reachGlobal ⟨m.asid, core, 0, true⟩ ⟨true, false, false⟩ (d.htab + 16 * m.handler) with
    | .at_ (.hbm pa _) _ false => some pa
    | .at_ (.cellar pa _) _ false => some pa
    | _ => none)

/-- The lines that are read for it: of the translation tables, and its own. -/
def State.handlerLines (s : State) (core : Nat) (m : Message) : List Nat :=
  (match Tab.look s.identifiers m.asid with
    | some d => s.tableLines ⟨m.asid, core, 0, true⟩ (d.htab + 16 * m.handler)
    | none => []) ++ ((s.handlerEntry core m).map (· / 128)).toList

/-- Whether the entry has to wait for a stack (R465), and its lines pulled before it is read (R435). -/
def State.handlerWaits (s : State) (core : Nat) (m : Message) : Bool := (s.handlerLines core m).any s.lineWaits
def State.pullHandler (s : State) (core : Nat) (m : Message) : State := (s.handlerLines core m).foldl State.pullFirst s

/-- The handler PC that an identifier's table gives a message, read at a core; none for an entry that is invalid or cannot be
read, or whose PC is invalid (R343). -/
def State.handlerPc (s : State) (core : Nat) (m : Message) : Option Dword :=
  (s.handlerEntry core m).bind (fun pa =>
    let pc := BitVec.ofNat 64 (s.deviceNat 58 pa 8)
    if s.canRead pa 16 && bit (s.deviceNat 58 (pa + 8) 1) 0 && !s.pcInvalid ⟨m.asid, core, 0, true⟩ pc then some pc else none)

/-- A message is dropped at its receiving core (R343). -/
def State.dropMessage (s : State) (m : Message) : State := s.faultRecord m.asid 8 [m.dest, m.handler, m.core]

/-- A message that reaches a core with a free entry: in its queue, or dropped (R342, R343). -/
def State.deliver (s : State) (m : Message) : State :=
  let t := s.pullHandler m.dest m
  if (t.handlerPc m.dest m).isNone then t.dropMessage m else t.modCore m.dest (fun c => { c with msgs := c.msgs ++ [m] })

/-- amsend (R342): it retires when the destination core's queue has taken the message, or the I/O die has accepted it for a
peer. Between two cores of the package nothing is on its way between steps (log entry 97). -/
def execAmsend (d a : Reg) (b : Src) (s : State) : Host.Outcome State Fault Refusal :=
  run (.amsend d a b) s (fun cx t =>
    let p := cx.lowPhys
    let dst := (cx.rd t p d.toNat).toNat
    let ctl := ((⟨cx, t⟩ : Lanes).src p b).toNat
    let len := bits ctl 12 8
    let core := bits dst 10 0
    let remote := bit dst 11
    let peer := bits dst 23 12
    let bound : Bound := ⟨true, false, if remote then 4 else 3⟩
    if 16 < len || 2 ^ 13 ≤ ctl || 2 ^ 24 ≤ dst then cx.fault t 1 cx.perform 0 0
    else match cx.badPayload a.toNat len with
    | some n => cx.fault t 1 cx.perform 0 n
    | none =>
      if 1536 ≤ core || (!remote && (t.die (dieOf core)).state ≠ 0) || (remote && !t.routed peer) then
        cx.fault t 9 cx.perform 0 0
      else if cx.remoteOut t bound then cx.again t
      else match cx.peerLost t bound with
      | some x => cx.fault t 9 cx.perform x 0
      | none =>
        let m : Message := ⟨t.nextId, core, cx.b.handler, (List.range len).map (fun i => cx.rd t p (a.toNat + i)), bits ctl 7 0,
          cx.core, none, cx.b.slot, cx.asid, false⟩
        if !remote && !t.hasEntry core cx.b.handler then cx.park t .resource
        else if !remote && t.handlerWaits core m then cx.again t
        else
          let u := (cx.boundBefore t bound).countRelease cx.bid
          cx.finish (if remote then { u with nextId := u.nextId + 1, outbox := u.outbox ++ [(peer, m)] }
            else State.deliver { u with nextId := u.nextId + 1 } m))

/-- Two messages of one source core to one core, whose order is kept (R26, R342); those of handler blocks have a channel of their own
(R456). -/
def Message.sameWay (m n : Message) : Bool :=
  m.dest = n.dest && m.core = n.core && m.peer = n.peer && m.fromHandler = n.fromHandler

/-- Whether a remote message belongs to a recorded team: its identifier is that of one (R350). -/
def State.recordsMessage (s : State) (m : Message) : Bool :=
  s.recording && m.peer.isSome && s.teams.any (fun t => t.2.asid = m.asid && s.recQueues.contains t.2.queue)

/-- An active message comes over a scale-out route for a core of the package (R344, R456); one for a core that cannot take it is
lost (log entry 97). -/
def State.messageIn (s : State) (m : Message) : State :=
  if m.peer.isNone || 1536 ≤ m.dest || 16 < m.payload.length || (s.die (dieOf m.dest)).state ≠ 0 then s
  else { s with nextId := s.nextId + 1, flying := s.flying ++ [{ m with id := s.nextId }] }

/-- MESSAGE_ARRIVAL (R343, R456): a message from a peer reaches the receiving core's queue, once an entry is free there and in
its order, or is dropped. -/
def execMessageArrival (id : Nat) (s : State) : Host.Outcome State Fault Refusal :=
  .next (match s.flying.find? (fun m => m.id = id) with
    | none => s
    | some m =>
      if (s.flying.takeWhile (fun n => n.id ≠ id)).any (fun n => n.sameWay m) || !s.hasEntry m.dest m.fromHandler ||
          s.handlerWaits m.dest m then s
      else
        let s1 : State := { s with flying := s.flying.filter (fun n => n.id ≠ id) }
        State.deliver (if s.recordsMessage m then s1.logReplay (.message s.clock m) else s1) m)

/-! ### Handler blocks -/

/-- A slot id that may be handed out: free, and named by no side-band record (R267, R272). -/
def State.slotFree (s : State) (slot : Nat) : Bool := (s.board slot).state = 0 && (s.board slot).attic = 0

/-- The free slot id that a block is given: the lowest. The spec does not say which (DESIGN CHOICE, log entry 100). -/
def State.freeSlot (s : State) : Option Nat := (List.range 16384).find? s.slotFree

/-- How many slot ids are in use. -/
def State.slotsUsed (s : State) : Nat := (s.boards.filter (fun e => !(e.2.state = 0 && e.2.attic = 0))).length

/-- A slot id begins its interval 0 (R471); no core has a first touch of it behind it (R266). -/
def State.openSlot (s : State) (slot : Nat) : State :=
  (s.forgetSeen slot).modBoard slot (fun b => { b with interval := 0, state := 1 })

/-- The internal team of a handler block: one above every launched team's identifier, of no queue. -/
def handlerTeam (bid : Nat) : Nat := 2 ^ 32 + bid

/-- The registers a handler block starts with (R344). -/
def handlerRegs (m : Message) : Tab Word :=
  let vals := (List.range 16).map (fun i => m.payload.getD i 0) ++
    [BitVec.ofNat 32 (m.core + (match m.peer with
      | some p => 2 ^ 11 + p * 2 ^ 12
      | none => 0)), BitVec.ofNat 32 (if m.peer.isSome then 0 else m.slot), BitVec.ofNat 32 m.payload.length]
  (List.range 32).flatMap (fun l => (vals.zipIdx.filter (fun e => e.1 ≠ 0)).map (fun e => (vKey l e.2, e.1)))

/-- How many handler blocks can start on a core: a handler slot each, and a slot id (R54, R344). -/
def State.spawnable (s : State) (core : Nat) : Nat :=
  if s.freeSlot.isSome && (s.die (dieOf core)).state = 0 then 4 - (s.blocks.filter (fun p => p.2.core = core && p.2.handler)).length
  else 0

/-- HANDLER_SPAWN (R344): the oldest message of a core's queue gets a handler block, where a handler slot and a slot id are
free. -/
def execHandlerSpawn (core : Nat) (s : State) : Host.Outcome State Fault Refusal :=
  .next (match (s.core core).msgs with
    | [] => s
    | m :: rest =>
      let busy := (s.blocks.filter (fun p => p.2.core = core && p.2.handler)).length
      if s.handlerWaits core m then s
      else
      let s := s.pullHandler core m
      match s.handlerPc core m with
      | none => (s.modCore core (fun c => { c with msgs := rest })).dropMessage m
      | some pc =>
        match s.freeSlot with
        | none => s
        | some slot =>
          if 4 ≤ busy || (s.die (dieOf core)).state ≠ 0 then s
          else
            let bid := s.nextBid
            let b : Block := Block.fresh bid slot core 0 (handlerTeam bid) m.asid true [0] 0 0 0 false
            let g : Gang := Gang.fresh bid 0 0 64 false false false pc 0 0 (s.cycle core)
            let s1 := (s.modCore core (fun c => { c with msgs := rest })).openSlot slot
            let s2 : State := { s1 with
              nextBid := bid + 1
              teams := Tab.put s1.teams (handlerTeam bid) { Team.fresh (handlerTeam bid) m.asid 128 [] s.serial with
                nextBlock := 1
                tstart := s.clock }
              blocks := Tab.put s1.blocks bid b
              gangs := Tab.put s1.gangs (gangId bid 0) { g with regs := handlerRegs m } }
            s2.acquireHalf b)

/-! ### Trace -/

/-- trctl (R349): the gang's flag, for the instructions after it. -/
def execTrctl (on_ : Bool) (s : State) : Host.Outcome State Fault Refusal :=
  run (.trctl on_) s (fun cx t => cx.finish (t.modGang cx.gid (fun g => { g with trace := on_ })))

/-- trmark (R347, R349): a mark packet. -/
def execTrmark (imm : BitVec 16) (s : State) : Host.Outcome State Fault Refusal :=
  run (.trmark imm) s (fun cx t =>
    cx.finish (t.tracePacket cx.gid true (4 + cx.g.num * 16 + cx.tracePlace % 8 * 2 ^ 9 + imm.toNat * 2 ^ 32)))

/-- TRACE_PERIODIC_SYNC (R348, R480): a sync set that falls due by packets or by cycles, unless packets are being dropped; one
that the ring has no room for is itself dropped and counted. -/
def execTracePeriodicSync (core : Nat) (s : State) : Host.Outcome State Fault Refusal :=
  let t := (s.core core).trace
  let xs := s.traceSet core
  .next (if !t.enabled || t.losing || xs.isEmpty || (t.sinceSync < 4096 && s.cycle core - t.syncCycle < 65536) then s
    else if 16 * xs.length ≤ t.free then s.writeSync core xs []
    else s.modCore core (fun c => { c with trace := { c.trace with losing := true, dropped := satAdd 32 c.trace.dropped xs.length } }))

/-- TRACE_LOSS_WRITE (R348, R480): a packet is to be written, and room has returned for the loss packet, the sync set and the packet
after them. -/
def execTraceLossWrite (core : Nat) (s : State) : Host.Outcome State Fault Refusal :=
  let t := (s.core core).trace
  .next (if t.enabled && t.losing && !t.pending.isEmpty && 8 * (2 * (s.traceSet core).length + 2) ≤ t.free then
      s.writeSync core (s.traceSet core) [t.lossPacket] else s)

/-- TRRP_WRITE (R346, R480). -/
def execTrrpWrite (core value : Nat) (s : State) : Host.Outcome State Fault Refusal :=
  .next (if s.link = .down || 1536 ≤ core then s
    else s.modCore core (fun c => { c with trace := { c.trace with rp := value % 2 ^ 64 } }))

/-- A trace register of a core written by system software (R346, R449): TRBASE, TRSIZE, and TRWP while the unit is disabled.
A unit that becomes enabled owes every traced gang a sync set, and begins with no loss: a count that stood from before is cleared,
DESIGN CHOICE (R346 does not say whether it stays; log entry 119). -/
def Trace.write (t : Trace) (reg value cyc : Nat) : Trace :=
  let u := if reg = 0 then { t with base := value / 4096 * 4096 }
    else if reg = 1 then { t with size := value }
    else if reg = 2 && !t.enabled then { t with wp := value }
    else t
  if !t.enabled && u.enabled then { u with synced := [], losing := false, dropped := 0, sinceSync := 0, lastCycle := cyc, syncCycle := cyc, pending := [] } else u

/-- REGISTER_WRITE (R346, R449): a control register without a row of its own; any other offset ignores writes. -/
def execRegisterWrite (offset value : Nat) (s : State) : Host.Outcome State Fault Refusal :=
  let core := (offset - 0x100000) / 32
  let reg := (offset - 0x100000) % 32 / 8
  .next (if s.link ≠ .down && 0x100000 ≤ offset && offset < 0x10C000 && offset % 8 = 0 && reg < 3 then
      s.modCore core (fun c => { c with trace := c.trace.write reg (value % 2 ^ 64) (s.cycle core) })
    else s)

end Sys2Proof.Machine
end

