-- ==== Sys2Proof/Machine/Teams.lean ====
section
/-!
DEFINITION. Machine/Teams.lean: the scheduler takes packets, places, starts and ends blocks and ends teams (R34, R45 to R51,
R235, R248, R335, R337, R339, R340).
-/

namespace Sys2Proof.Machine

open Sys2Proof

/-! ### Footprints in a core (R45) -/

/-- What a block takes of its core: registers, its stash allocation, and how many quad gangs. -/
structure Footprint where
  reg : Nat
  base : Nat
  need : Nat
  window : Bool
  gangs : Nat
  deriving DecidableEq, Repr

/-- Its gangs on a quad: those whose number modulo 4 is the quad's (R39). -/
def Footprint.onQuad (f : Footprint) (q : Nat) : Nat := (f.gangs + 3 - q) / 4

/-- Blocks that hold regions of a core; handler blocks hold none (R344). -/
def State.residents (s : State) (core : Nat) : List Block :=
  (s.blocks.filter (fun p => p.2.core = core && !p.2.handler)).map Prod.snd

def Block.footprint (b : Block) : Footprint := ⟨b.regBytes, b.stashBase, b.stashNeed, b.window, (b.gangs.filter (· ≠ 31)).length⟩

/-- The lowest offset from lo on at which need bytes miss every allocation; each allocation's end is a candidate. -/
def gapFor (fs : List Footprint) (lo hi need : Nat) : Option Nat :=
  let clear := fun (x : Nat) => x + need ≤ hi && fs.all (fun f => x + need ≤ f.base || f.base + f.need ≤ x)
  ((lo :: fs.map (fun f => f.base + f.need)).filter (fun x => lo ≤ x && clear x)).foldl (fun (a : Option Nat) x => match a with
    | none => some x
    | some y => some (min x y)) none

/-- Where the stash of one more block begins in a core with such blocks, if the core can host it (R45, R240). -/
def Launch.fit (p : Launch) (fs : List Footprint) : Option Nat :=
  if 8 ≤ fs.length then none
  else if p.breg < (fs.map Footprint.reg).sum + p.regBytes then none
  else if (List.range 4).any (fun q => 16 < (fs.map (fun f => f.onQuad q)).sum + (⟨0, 0, 0, false, p.ngang⟩ : Footprint).onQuad q) then none
  else if p.window && fs.any Footprint.window then none
  else (gapFor fs p.breg p.bstash p.stash).filter (fun x => !p.window || x = p.breg)

/-- Bases of as many blocks as fit beside some others, at most n. -/
def Launch.pack (p : Launch) : Nat → List Footprint → List Nat
  | 0, _ => []
  | n + 1, fs =>
    match p.fit fs with
    | none => []
    | some x => x :: p.pack n (⟨p.regBytes, x, p.stash, p.window, p.ngang⟩ :: fs)

/-- Whether a core has the boundaries of a launch, or may take them: it holds no block and no staged context (R45, R248). -/
def State.bounds (s : State) (p : Launch) (core : Nat) : Bool :=
  let c := s.core core
  ((s.residents core).isEmpty && c.cupboard.isNone) || (c.bndreg = p.breg && c.bndstash = p.bstash && c.bndcache = p.bcache)

/-- Bases of at most n blocks of a launch that a core can host now. -/
def State.hosts (s : State) (p : Launch) (n core : Nat) : List Nat :=
  if (s.die (dieOf core)).state ≠ 0 || !s.bounds p core then [] else p.pack (min n 8) ((s.residents core).map Block.footprint)

/-- A placement of n blocks over cores in order, each with its base (R340). -/
def State.spread (s : State) (p : Launch) : List Nat → Nat → Option (List (Nat × Nat))
  | [], n => if n = 0 then some [] else none
  | c :: cs, n =>
    if n = 0 then some []
    else
      let xs := s.hosts p n c
      (s.spread p cs (n - xs.length)).map (fun r => xs.map (fun x => (c, x)) ++ r)

/-- The regions of a co-residency level, lowest first (R49). -/
def levelRegions (level : Nat) : List (List Nat) :=
  let size := if level = 1 then 96 else if level = 2 then 192 else 1536
  (List.range (1536 / size)).map (fun i => (List.range size).map (fun k => i * size + k))

/-- Blocks that a region holds on an empty device (R50). -/
def State.emptyRoom (s : State) (p : Launch) (cores : List Nat) : Nat :=
  (cores.filter (fun c => (s.die (dieOf c)).state = 0)).length * (p.pack 8 []).length

/-- Slot ids that ordinary blocks may take (R48). -/
def ordinarySlots : Nat := 16384 - 2048

/-- Whether a launch fits its level on an empty device (R50). -/
def State.fitsEmpty (s : State) (p : Launch) : Bool :=
  if p.cores = 0 then 0 < s.emptyRoom p (List.range 1536)
  else p.blocks ≤ ordinarySlots && (levelRegions p.cores).any (fun r => p.blocks ≤ s.emptyRoom p r)

/-! ### Taking a packet -/

/-- Why a packet is rejected, the lowest reason of R337 that holds. -/
def State.rejectReason (s : State) (asid : Nat) (p : Launch) : Option Nat :=
  let v : Viewer := ⟨asid, 0, 0, false⟩
  let badBudget := fun (b : Nat) (exists_ : Bool) => (b ≠ 0 && (b < 48 || 256 < b)) || (b = 0 && exists_)
  if p.ngang = 0 || 24 < p.ngang || 4 < p.nquart || p.ngang < 4 * p.nquart then some 1
  else if badBudget p.mbudget (p.nquart ≠ 0) || badBudget p.vbudget (4 * p.nquart < p.ngang) then some 2
  else if p.bstash < p.breg || p.bcache < p.bstash || 0x40000 < p.bcache then some 3
  else if p.bstash < p.breg + p.stash || p.breg < p.regBytes then some 4
  else if p.prot && p.nquart ≠ 0 then some 5
  else match s.launchImage asid p with
    | none => some 6
    | some xs =>
      if !xs.all (fun x => x.admitted p) then some 6
      else if !s.fitsEmpty p then some 7
      else if s.pcInvalid v p.entry || (p.tvec ≠ 0 && s.pcInvalid v p.tvec) || (p.mbudget ≠ 0 && p.mbudget ≤ p.indexReg) ||
        (p.vbudget ≠ 0 && p.vbudget ≤ p.indexReg) then some 8
      else none

/-- Whether a valid sensor of a compute die has reached the throttle point of 108 °C (R31, R459, R460). -/
def State.hotDie (s : State) : Bool := s.sensors.any (fun e => e.1 < 64 && e.2.valid && 108 * 16 ≤ e.2.temp)

/-- Whether the governor admits ballast work (R28, R30, R31, R462). -/
def State.admitsBallast (s : State) : Bool := s.governor = 0 && !s.mgmtReset && !s.hotDie

/-- Whether the scheduler may take a queue's head (R335); the head of a co-residency launch that waits is taken already. -/
def State.takeable (s : State) (q : Nat) : Bool :=
  let x := s.queue q
  x.en && !x.mhold && (match x.packets, x.bound with
    | (tid, ws) :: _, some asid => (s.team? tid).isNone && s.tokenDone asid (waitTok ws)
    | _, _ => false) && (q ≠ 127 || s.admitsBallast)

/-- PRIO of a queue's head. -/
def State.headPrio (s : State) (q : Nat) : Nat := ((s.queue q).packets.head?.map (fun p => (launchOf p.2).prio)).getD 0

/-- The queue that the scheduler takes from: highest PRIO, then round robin in ascending number; queue 127 only when no other
head can be taken (R335). -/
def State.nextQueue (s : State) : Option Nat :=
  let qs := (List.range 127).filter s.takeable
  let best := (qs.map s.headPrio).foldl max 0
  let top := qs.filter (fun q => s.headPrio q = best)
  let after := match Tab.look s.lastQueue best with
    | some l => top.filter (fun q => l < q)
    | none => []
  match after ++ top with
  | q :: _ => some q
  | [] => if s.takeable 127 then some 127 else none

/-- A packet leaves its queue. -/
def State.popPacket (s : State) (q tid : Nat) : State := s.modQueue q (fun x => { x with packets := x.packets.eraseP (fun e => e.1 = tid) })

/-! ### Ending a team -/

/-- A store at a virtual address by the device itself: 4 bytes; one that is not granted is not performed, and one in a peer window
is handed to the I/O die. -/
def State.storeVirt (s : State) (asid va : Nat) (bs : List Byte) : State :=
  (linePieces va bs.length).foldl (fun t c => match t.devicePa asid c.1 true with
    | some pa => t.deviceWrite pa ((bs.drop (c.1 - va)).take c.2)
    | none => t) s

/-- A release of system scope by the device for a team: dirty words go back, and writes to peers have been acknowledged (R255,
R339, R455). -/
def State.releaseAll (s : State) : State :=
  let s1 := s.cores.foldl (fun u c => u.writeBackL1 c.1) s
  { s1 with cores := s1.cores.map (fun (c : Nat × Core) => (c.1, { c.2 with peerWrites := [] })) }

/-- A staged context that has started, or can no longer start on the core, leaves the cupboard (R235). -/
def State.unstage (s : State) (bid : Nat) : State :=
  { s with cores := s.cores.map (fun (c : Nat × Core) => (c.1, { c.2 with cupboard := c.2.cupboard.filter (fun e => e.1 ≠ bid) })) }

/-- The steps of R339 with a value for DONE; the team is gone afterwards, and the record of a request that it still owes is written
(R353). -/
def State.endTeam (s : State) (tid value : Nat) : State :=
  match s.team? tid with
  | none => s
  | some t =>
    let p := launchOf t.packet
    let s1 := s.releaseAll
    let s2 := if p.done = 0 then s1 else s1.storeVirt t.asid p.done (bytesOf 4 value)
    let s3 : State := { t.savedBlocks.foldl (fun u x => u.unstage x.block.bid) s2 with teams := Tab.del s2.teams tid }
    let s4 := s3.popPacket t.queue tid
    let s5 := match t.request with
      | some missed => s4.faultRecord t.asid 7 [tid % 2 ^ 32, t.choice + if missed then 2 ^ 8 else 0]
      | none => s4
    s5.finishToken t.asid (sigTok t.packet)

/-! ### Placement -/

/-- The order of teams: PRIO, with queue 127 below all, then the earlier taken (R335, R340). -/
def Team.rank (t : Team) : Nat := if t.queue = 127 then 0 else (launchOf t.packet).prio + 1
def Team.before (t u : Team) : Bool := u.rank < t.rank || (t.rank = u.rank && t.taken < u.taken)

/-- Cores chosen for launches that wait, of the same or higher priority and taken earlier (R51). -/
def State.reserved (s : State) (t : Team) : List Nat :=
  (s.teams.filter (fun e => e.2.waited && e.2.tid ≠ t.tid && e.2.taken < t.taken && t.rank ≤ e.2.rank)).flatMap (fun e => e.2.chosen)

/-- Blocks still to be placed: those of a live team's launch that have not started (R340). -/
def Team.unplaced (t : Team) : Nat :=
  if t.state = .live || t.state = .draining then t.requeued.length + ((launchOf t.packet).blocks - t.nextBlock) else 0

/-- The index of its next block: one that a save found not yet started comes first (R230). -/
def Team.nextIndex (t : Team) : Nat := t.requeued.headD t.nextBlock

/-- Where a re-run places a recorded team's blocks: index and core (R350). -/
def State.pinned (s : State) (t : Team) : List (Nat × Nat) :=
  match s.rerun with
  | some r => (r.places.filter (fun e => e.1 = t.tid + 2 ^ 40)).map Prod.snd
  | none => []

/-- Cores and bases for the next blocks of a team: one block at level 0, all of them at levels 1 to 3 (R49, R51, R340). -/
def State.placement (s : State) (t : Team) : Option (List (Nat × Nat)) :=
  let p := launchOf t.packet
  let banned := s.reserved t
  let pins := s.pinned t
  let ok := fun (c : Nat) => !banned.contains c && (pins.isEmpty || pins.contains (t.nextIndex, c) || p.cores ≠ 0)
  if t.unplaced = 0 || t.frozen || t.queue = 128 then none
  else if p.cores = 0 then
    if ordinarySlots < s.slotsUsed + 1 then none
    else (List.range 1536).findSome? (fun c => if ok c then (s.hosts p 1 c).head?.map (fun x => [(c, x)]) else none)
  else if ordinarySlots < s.slotsUsed + p.blocks then none
  else
    (if !pins.isEmpty then [(pins.map Prod.snd).dedup] else if t.chosen.isEmpty then levelRegions p.cores else [t.chosen]).findSome? (fun r => s.spread p (r.filter ok) p.blocks)

/-- Places for the blocks that a restore brings back next: as many as capacity allows at level 0, where a team goes on with some of
them; all of them, and those not started, in one pass at levels 1 to 3 (R49, R62, R231, R232). -/
def State.restorePlan (s : State) (t : Team) : Option (List (Nat × Nat)) :=
  let p := launchOf t.packet
  let banned := s.reserved t
  let n := t.savedBlocks.length
  let place := fun (r : List Nat) (k : Nat) => s.spread p (r.filter (fun c => !banned.contains c)) k
  if p.cores = 0 then
    if t.state = .restoring && n = 0 then some []
    else if t.state = .restoring || ((t.state = .live || t.state = .draining) && !t.frozen) then
      (List.range (min n (ordinarySlots - s.slotsUsed))).reverse.findSome? (fun k => place (List.range 1536) (k + 1))
    else none
  else if t.state ≠ .restoring || ordinarySlots < s.slotsUsed + (n + t.requeued.length) then none
  else (levelRegions p.cores).findSome? (fun r => place r (n + t.requeued.length))

/-- Whether a team before another can be given places now (R340). -/
def State.outranked (s : State) (t : Team) : Bool :=
  s.teams.any (fun e => e.2.before t && ((s.placement e.2).isSome || (s.restorePlan e.2).isSome))

/-- The region that a co-residency launch chooses when its wait begins: the lowest that holds every block when empty, one that
no earlier launch has chosen where there is one; at level 3, spans in ascending order (R51, R340). -/
def State.chooseRegion (s : State) (t : Team) : List Nat :=
  let p := launchOf t.packet
  let banned := s.reserved t
  let fits := (if p.cores = 3 then (List.range 8).map (fun i => List.range (192 * (i + 1))) else levelRegions p.cores).filter
    (fun r => p.blocks ≤ s.emptyRoom p r)
  match fits.find? (fun r => r.all (fun c => !banned.contains c)) with
  | some r => r
  | none => fits.headD []

/-- A launch that waits without a choice of cores makes one: where it can be placed at once, or else a region (R51). -/
def State.chooseFor (s : State) (tid : Nat) : State :=
  match s.team? tid with
  | none => s
  | some t =>
    if !t.waited || !t.chosen.isEmpty then s
    else s.modTeam tid (fun x => { x with chosen := match s.placement t with
      | some xs => (xs.map Prod.fst).dedup
      | none => s.chooseRegion t })

/-- SCHEDULER_TAKE (R335, R337): the head of the chosen queue makes a team, which ends at once where it is rejected or has no
block; a co-residency launch leaves its packet at the head until it is placed, and has its cores chosen at once (R51). -/
def execSchedulerTake (s : State) : Host.Outcome State Fault Refusal :=
  .next (match s.nextQueue with
  | none => s
  | some q =>
    match (s.queue q).packets, (s.queue q).bound with
    | (tid, ws) :: _, some asid =>
      let p := launchOf ws
      if s.imageWaits asid p then s
      else
      let s0 := s.pullImage asid p
      let s1 : State := { s0 with
        lastQueue := if q = 127 then s.lastQueue else Tab.put s.lastQueue p.prio q
        teams := Tab.put s.teams tid { Team.fresh tid asid q ws s.serial with waited := p.cores ≠ 0 } }
      match s0.rejectReason asid p with
      | some r => ((s1.popPacket q tid).faultRecord asid 4 [tid, r]).endTeam tid 3
      | none =>
        if p.blocks = 0 then (s1.popPacket q tid).endTeam tid 1
        else if p.cores = 0 then s1.popPacket q tid else s1.chooseFor tid
    | _, _ => s)

/-- A core before its boundaries change: dirty words go back and the L1 is emptied (R248). -/
def State.drainCore (s : State) (core : Nat) : State := (s.writeBackL1 core).modCore core (fun c => { c with l1 := [] })

/-- One block takes its slot and its regions (R45, R46, R248). -/
def State.placeBlock (s : State) (t : Team) (p : Launch) (index core base : Nat) : State :=
  match s.freeSlot with
  | none => s
  | some slot =>
    let c := s.core core
    let s1 := if c.bndreg = p.breg && c.bndstash = p.bstash && c.bndcache = p.bcache then s
      else (s.drainCore core).modCore core (fun x => { x with bndreg := p.breg, bndstash := p.bstash, bndcache := p.bcache })
    let s2 := s1.openSlot slot
    let b := Block.fresh s.nextBid slot core index t.tid t.asid false p.gangs p.regBytes base p.stash p.window
    { s2 with
      nextBid := s.nextBid + 1
      blocks := Tab.put s2.blocks s.nextBid { b with started := false } }

/-- Blocks at places, in ascending index. -/
def State.placeAll (t : Team) (p : Launch) : List (Nat × Nat) → Nat → State → State
  | [], _, s => s
  | (c, x) :: rest, i, s => State.placeAll t p rest (i + 1) (s.placeBlock t p i c x)

/-- BLOCK_PLACE (R340, R49, R51): free capacity goes to the first team that has unplaced blocks and can be given a place. -/
def execBlockPlace (team : Nat) (s : State) : Host.Outcome State Fault Refusal :=
  .next (match s.team? team with
  | none => s
  | some t =>
    let p := launchOf t.packet
    match s.placement t with
    | none => s
    | some xs =>
      if s.outranked t then s
      else
        let s1 := State.placeAll t p xs t.nextIndex s
        let s2 := s1.modTeam team (fun x => { x with
          nextBlock := if t.requeued.isEmpty then t.nextBlock + xs.length else t.nextBlock
          requeued := t.requeued.tail
          waited := false
          chosen := [] })
        if t.waited then s2.popPacket t.queue team else s2)

/-- The image of the next block that the scheduler has placed on a core: of a launch, for a block not yet started, or of a
restore that has places. -/
def State.nextImage (s : State) (core bid : Nat) : Option (List Byte) :=
  match s.block? bid with
  | some b =>
    if b.core = core && !b.started then (s.team? b.team).bind (fun t => s.launchBytes t.asid (launchOf t.packet)) else none
  | none => s.teams.findSome? (fun e => (s.restorePlan e.2).bind (fun places =>
      ((e.2.savedBlocks.zip places).find? (fun x => x.1.block.bid = bid && x.2.1 = core)).map (fun x =>
        s.deviceRead 56 x.1.at_ x.1.image.length)))

/-- Whether the image of a block that a restore brings back has to wait for a stack (R465). -/
def State.savedWaits (s : State) (x : SavedBlock) : Bool := (linesTouched x.at_ x.image.length).any s.lineWaits

/-- The same of the next image of a core. -/
def State.nextWaits (s : State) (bid : Nat) : Bool :=
  match s.block? bid with
  | some b => (s.team? b.team).any (fun t => s.imageWaits t.asid (launchOf t.packet))
  | none => s.teams.any (fun e => e.2.savedBlocks.any (fun x => x.block.bid = bid && s.savedWaits x))

/-- Whether a staged context can still start on the core: its block is placed there, or a restore has a place for it there (R235). -/
def State.startable (s : State) (core bid : Nat) : Bool :=
  match s.block? bid with
  | some b => b.core = core && !b.started
  | none => (s.nextImage core bid).isSome

/-- A staged context that can no longer start on the core is discarded (R235). -/
def State.discardAt (s : State) (core : Nat) : State :=
  match (s.core core).cupboard with
  | none => s
  | some e => if s.startable core e.1 then s else s.modCore core (fun c => { c with cupboard := none })

/-- BOUNDARY_DRAIN (R248): a core that holds no block and no staged context empties its L1. -/
def execBoundaryDrain (core : Nat) (s : State) : Host.Outcome State Fault Refusal :=
  let s := s.discardAt core
  .next (if (s.residents core).isEmpty && (s.core core).cupboard.isNone then s.drainCore core else s)

/-- CONTEXT_STAGE (R235): while a save streams a block off the core, the image of the next block placed there is staged, if the
cupboard is free and holds it. -/
def execContextStage (core bid : Nat) (s : State) : Host.Outcome State Fault Refusal :=
  let s := s.discardAt core
  let saving := (s.residents core).any (fun x => ((s.team? x.team).map Team.state) = some .saving)
  .next (if !saving || (s.core core).cupboard.isSome || s.nextWaits bid then s
    else match s.nextImage core bid with
    | none => s
    | some bs => if bs.length ≤ 0x40000 - (s.core core).bndcache then s.modCore core (fun c => { c with cupboard := some (bid, bs) }) else s)

/-- What the cupboard holds of a block (R235). -/
def State.staged (s : State) (core bid : Nat) : Option (List Byte) := ((s.core core).cupboard.filter (fun e => e.1 = bid)).map Prod.snd

/-! ### Starting a block -/

/-- The stash allocation of a block that starts: zero, and so no word of it is poisoned (R239). -/
def State.clearStash (s : State) (b : Block) : State :=
  let lo := stashKey b.core b.stashBase
  let hi := lo + b.stashNeed
  { s with
    mem := s.mem.filter (fun c => c.1 < lo || hi ≤ c.1)
    marks := (s.marks.map (fun e => if lo ≤ 4 * e.1 && 4 * e.1 < hi then (e.1, { e.2 with poison := false }) else e)).filter
      (fun e => e.2 ≠ Mark.empty) }

/-- A gang at its start, with the registers of an image and the block's index (R46). -/
def startGang (bid num index : Nat) (p : Launch) (xs : List Section) (cyc : Nat) : Gang :=
  let g := Gang.fresh bid num (p.role num) (p.budget num) p.prot p.check p.trace p.entry p.tvec (p.tdeleg &&& delegable) cyc
  { g with regs := imageRegs xs num (if num = 31 then 1 else 32) (p.budget num) (some (p.indexReg, BitVec.ofNat 32 index)) }

/-- BLOCK_START (R46, R235): a placed block fills its registers and begins at the kernel entry. The first block of a team that waited
on a token starts with an acquire (R339). -/
def execBlockStart (bid : Nat) (s : State) : Host.Outcome State Fault Refusal :=
  .next (match s.block? bid with
  | none => s
  | some b =>
    match s.team? b.team with
    | none => s
    | some t =>
      if b.started || t.state = .ending then s
      else
        let p := launchOf t.packet
        if (s.staged b.core bid).isNone && s.imageWaits t.asid p then s
        else
        let bs := match s.staged b.core bid with
          | some x => some x
          | none => s.launchBytes t.asid p
        let xs := (bs.bind (launchSections p)).getD []
        let cyc := s.cycle b.core
        let s1 := ((if (s.staged b.core bid).isSome then s else s.pullImage t.asid p).clearStash b).modBlock bid (fun x => { x with started := true })
        let s2 : State := { s1 with gangs := p.gangs.foldl (fun gs n => Tab.put gs (gangId bid n) (startGang bid n b.index p xs cyc)) s1.gangs }
        let s3 := s2.unstage bid
        if t.begun then s3
        else
          let s4 := s3.modTeam b.team (fun x => { x with begun := true, tstart := s.clock })
          if waitTok t.packet = 0 then s4 else s4.acquireHalf b)

/-! ### Ending a block -/

/-- A slot id is given back: its marks are purged, and it is free once no side-band record names it (R271, R272). -/
def State.retireSlot (s : State) (slot : Nat) : State :=
  (s.purgeSlot slot).modBoard slot (fun x => { x with state := if x.attic = 0 then 0 else 3 })

/-- A block leaves its core: its gangs and its regions are gone and its slot is retired (R47). -/
def State.removeBlock (s : State) (b : Block) : State :=
  let s1 := s.modCore b.core (fun c => { c with
    pbcache := c.pbcache.filter (fun (e : Nat × Nat × List Word) => e.1 ≠ b.bid)
    cupboard := c.cupboard.filter (fun e => e.1 ≠ b.bid)
    peerDropped := if s.blocks.any (fun e => e.2.core = b.core && e.1 ≠ b.bid) then c.peerDropped else none })
  let s2 : State := { s1 with
    gangs := s1.gangs.filter (fun e => e.2.bid ≠ b.bid)
    blocks := Tab.del s1.blocks b.bid
    issue := s1.issue.filter (fun i => i.bid ≠ b.bid)
    wants := s1.wants.filter (fun x => x.bid ≠ b.bid) }
  s2.retireSlot b.slot

/-- The first dirty mapped word whose backing page does not translate: its address, level and reason. -/
def State.stuckWord (s : State) (b : Block) : Option (Nat × Nat × Nat) :=
  b.dirty.findSome? (fun w => (b.backing w).bind (fun va => match s.reachGlobal (b.viewer true) ⟨false, false, false⟩ va with
    | .untranslated l r => some (va, l, r)
    | _ => none))

/-- The mapped regions of a block are written back; where a page does not translate, a record says so and the block waits
(R308, R428). -/
def State.settleMapped (s : State) (b : Block) : State × Bool :=
  let s1 := s.writeBackMapped b.bid 0 (2 ^ 32)
  match (s1.block? b.bid).bind s1.stuckWord with
  | none => (s1, true)
  | some (va, level, reason) => ((s1.missRecord b.asid va level reason true false false b.slot 0 b.core 3 0).2, false)

/-- The same of several blocks. -/
def State.settleAll (s : State) (bs : List Block) : State × Bool :=
  bs.foldl (fun u b => let q := u.1.settleMapped b; (q.1, u.2 && q.2)) (s, true)

/-- Whether every gang of a block has ended, with every helper back and every posted operation completed (R47, R399). -/
def State.blockDone (s : State) (b : Block) : Bool :=
  b.started && b.copies = 0 && b.mops = 0 && b.gangs.all (fun n => match s.gang? (gangId b.bid n) with
    | some g => g.ended && !g.helpersBusy
    | none => true)

/-- BLOCK_END (R47, R339). -/
def execBlockEnd (bid : Nat) (s : State) : Host.Outcome State Fault Refusal :=
  .next (match s.block? bid with
  | none => s
  | some b =>
    match s.team? b.team with
    | none => s
    | some t =>
      if !s.blockDone b || !(t.state = .live || t.state = .draining) then s
      else
        let r := s.settleMapped b
        if !r.2 then r.1
        else
          let s1 := (r.1.removeBlock b).modTeam b.team (fun x => { x with ended := satAdd 24 x.ended 1 })
          let all := if t.queue = 128 then 1 else (launchOf t.packet).blocks
          if all ≤ t.ended + 1 then s1.endTeam b.team 1 else s1)

/-- Blocks of a team that are resident. -/
def State.blocksOf (s : State) (tid : Nat) : List Block := (s.blocks.filter (fun p => p.2.team = tid)).map Prod.snd

/-- The bits of a tinfo that its cause sets, without a gap: those of cause 0x20 leave one (R205). -/
def infoBits (x : Trap) : Nat :=
  if x.cause % 128 = 0x20 then bits x.info.toNat 12 0 + bits x.info.toNat 63 32 * 2 ^ 13 else x.info.toNat

/-- Words 1 to 7 of a record of kind 0x02 (R34, R351): every bit of the trap registers that some cause sets. The bits of tinfo above 31
stand where the others leave room: above tcause, above and below tpc, whose low two bits are zero, and above the taddr of a race,
which is an address below 2 ^ 57 (log entry 36). A handler block's team has no identifier that the spec gives. -/
def State.endRecord (s : State) (t : Team) : List Nat :=
  let id := if t.tid < 2 ^ 32 then t.tid else Config.freeWord s.serial 31 % 2 ^ 32
  match t.endTrap with
  | none => [id, 0, 0, 0, 0, 0, 0]
  | some (slot, gang, x) =>
    let n := infoBits x
    [id, slot + gang * 2 ^ 14 + x.cause % 256 * 2 ^ 19 + bits n 36 32 * 2 ^ 27, (x.pc.toNat % 2 ^ 32) ||| bits n 45 44,
      bits x.pc.toNat 56 32 + bits n 43 37 * 2 ^ 25, x.addr.toNat % 2 ^ 32, (x.addr.toNat / 2 ^ 32) ||| (bits n 52 46 * 2 ^ 25), n % 2 ^ 32]

/-- TEAM_ABORT (R34): once its posted operations have completed, the team's blocks are written back as a save does and their slots
released, and the team ends with DONE 2 and a record. -/
def execTeamAbort (team : Nat) (s : State) : Host.Outcome State Fault Refusal :=
  .next (match s.team? team with
  | none => s
  | some t =>
    let bs := s.blocksOf team
    if t.state ≠ .ending || bs.any (fun b => b.copies ≠ 0 || b.mops ≠ 0) then s
    else
      let r := s.settleAll bs
      if !r.2 then r.1
      else
      let s1 := bs.foldl (fun u b => (u.releaseHalf b).removeBlock b) r.1
      (s1.faultRecord t.asid 2 (s.endRecord t)).endTeam team 2)

end Sys2Proof.Machine
end

