-- ==== Sys2Proof/Machine/Preempt.lean ====
section
/-!
DEFINITION. Machine/Preempt.lean: pre-emption requests and their estimator, drain, discard, save and restore (R62, R63, R224 to
R234, R353).
-/

namespace Sys2Proof.Machine

open Sys2Proof

/-! ### Images that a save writes (R233, R234) -/

/-- Bytes of the body of a section whose content the spec does not lay out: fixed for an implementation, and free (log entry 9). -/
def freeSection (kind : Nat) : Nat := Config.freeWord 0 (1000 + kind) % 65536

/-- The split table, tile tags and accumulation records of a block's gang, as an image has them (R317, R366, R403, R404, R418). -/
def State.placeWords (s : State) (b : Block) (gang : Nat) : List Word := ((s.gang? (gangId b.bid gang)).map Gang.placeWords).getD []

/-- The sections that the save of a block writes: kind, gang, count, PERLANE and bytes of the body. The stash is followed by the 16
entries of its map (R432). -/
def State.saveSections (s : State) (b : Block) (budget : Nat → Nat) : List (Nat × Nat × Nat × Bool × Nat) :=
  let whole := fun (k g n : Nat) => (k, g, n, false, n)
  let regs := fun (g : Nat) => [(0, g, budget g, true, bodyBytes 0 g (budget g) true), (1, g, 8, true, bodyBytes 1 g 8 true)]
  let rest := fun (g : Nat) => whole 3 g (4 * (s.placeWords b g).length) :: [2, 4, 6, 7].map (fun k => whole k g (freeSection k))
  b.gangs.flatMap (fun g => regs g ++ rest g) ++ (if b.stashNeed = 0 then [] else [whole 5 0xFF (b.stashNeed + 384)])

/-- Total bytes of a block's saved image. -/
def State.saveBytes (s : State) (b : Block) (budget : Nat → Nat) : Nat :=
  16 + ((s.saveSections b budget).map (fun e => 16 + pad16 e.2.2.2.2)).sum

/-- Words in memory order. -/
def bytesOfWords (ws : List Word) : List Byte := ws.flatMap (fun w => bytesOf 4 w.toNat)

/-- The body of a section: registers by lane, splits and records, the stash and its map, or bytes with no layout of their own. -/
def State.sectionBody (s : State) (b : Block) (kind gang count : Nat) : List Byte :=
  if kind < 2 then
    match s.gang? (gangId b.bid gang) with
    | none => []
    | some g => (List.range count).flatMap (fun i => (List.range (if gang = 31 then 1 else 32)).flatMap (fun l =>
        bytesOf 4 (Tab.getD g.regs (vKey l (i + 256 * kind)) 0).toNat))
  else if kind = 3 then bytesOfWords (s.placeWords b gang)
  else if kind = 5 then s.stashBytes b 0 b.stashNeed ++ bytesOfWords b.mapWords
  else (List.range count).map (fun i => Config.freeByte s.serial (2 ^ 40 + (gang * 8 + kind) * 2 ^ 16 + i))

/-- A section with its header and padding. -/
def State.sectionBytes (s : State) (b : Block) (e : Nat × Nat × Nat × Bool × Nat) : List Byte :=
  let body := (s.sectionBody b e.1 e.2.1 e.2.2.1).take e.2.2.2.2
  let full := body ++ List.replicate (pad16 e.2.2.2.2 - body.length) 0
  bytesOf 4 (e.1 + e.2.1 * 2 ^ 8) ++ bytesOf 4 e.2.2.1 ++ bytesOf 4 (if e.2.2.2.1 then 1 else 0) ++ bytesOf 4 0 ++ full

/-- The whole image of a block, checked (R234). -/
def State.saveImage (s : State) (b : Block) (budget : Nat → Nat) : List Byte :=
  let secs := s.saveSections b budget
  let head := bytesOf 4 (1 + secs.length * 2 ^ 16) ++ bytesOf 4 (s.saveBytes b budget) ++ bytesOf 4 1
  let body := secs.flatMap (s.sectionBytes b)
  head ++ bytesOf 4 (imageCrc (head ++ bytesOf 4 0 ++ body)).toNat ++ body

/-! ### The estimator -/

inductive Choice where
  | drain
  | discard
  | save
  deriving DecidableEq, Repr

/-- A choice with its latency and its cost, in the unit that the three share. -/
structure Price where
  choice : Choice
  latency : Nat
  cost : Nat
  deriving DecidableEq, Repr

/-- The eligible choices with L and C times D = max(E, 1) × 1000 × spans, in nanoseconds: no fraction is left (R226). In the
order of R227. -/
def prices (b e t sBytes spans releases : Nat) (nodrain nodiscard : Bool) : List Price :=
  let d := max e 1 * 1000 * spans
  let save := 2000 * d + sBytes * max e 1
  (if nodrain || e = 0 then [] else [⟨.drain, t * (b - e) * 1000 * spans, 0⟩]) ++ [⟨.save, save, 2 * save⟩] ++
    (if nodiscard || releases ≠ 0 then [] else [⟨.discard, 4000 * d, t * d⟩])

/-- The choice of R227 and whether it misses the deadline. -/
def choose (ps : List Price) (limit : Nat) : Choice × Bool :=
  match (ps.filter (fun p => p.latency ≤ limit)).foldl (fun (a : Option Price) p => match a with
    | none => some p
    | some q => if p.cost < q.cost then some p else some q) none with
  | some p => (p.choice, false)
  | none => (.save, true)

/-- Resident blocks of a team, in ascending index. -/
def State.inOrder (s : State) (tid : Nat) : List Block := (s.blocksOf tid).mergeSort (fun x y => x.index ≤ y.index)

/-- The estimator's choice for a team (R226, R227). -/
def State.estimate (s : State) (t : Team) (deadline : Nat) (nodrain nodiscard : Bool) : Choice × Bool :=
  let p := launchOf t.packet
  let bs := s.blocksOf t.tid
  let spans := max 1 ((bs.map (fun b => spanOf b.core)).dedup.length)
  let sBytes := (bs.map (fun b => s.saveBytes b p.budget)).sum
  let time := if t.begun then s.clock - t.tstart else 0
  choose (prices p.blocks t.ended time sBytes spans t.releases nodrain nodiscard) (deadline * (max t.ended 1 * 1000 * spans))

/-- The timers of a frozen team's records stand from the freeze on (R411). -/
def State.stopTimers (s : State) (tid : Nat) : State :=
  match s.team? tid with
  | none => s
  | some t =>
    if !t.frozen then s
    else (s.blocksOf tid).foldl (fun u b => b.gangs.foldl (fun v n => v.modGang (gangId b.bid n) (fun g =>
      { g with tree := g.tree.holdTimers (s.cycle b.core) })) u) s

/-- The first request that is not answered takes its answer. -/
def answerFirst (v : Option Nat) : List RemoteReq → List RemoteReq
  | [] => []
  | q :: qs => if q.answer.isNone then { q with answer := some v } :: qs else q :: answerFirst v qs

/-- A request of a remote atomic that was sent again is answered, with a value that the peer chooses, or has expired (R295). When all
lanes have their answers, the old values are written, or cause 0x0D is raised for those that have none. -/
def State.answerRemote (s : State) (bid g place : Nat) (expired : Bool) : State :=
  let gid := gangId bid g
  match s.gang? gid, s.block? bid with
  | some y, some b =>
    match Tab.look y.tree.splits place with
    | none => s
    | some x =>
      match x.park with
      | .remote d width uniform counts reqs =>
        let cyc := s.cycle b.core
        let rs := answerFirst (if expired then none else some (Config.freeWord s.serial (2 ^ 21) % 2 ^ (32 * width))) reqs
        if rs.any (fun q => q.answer.isNone) then s.modSplit gid place (fun z => { z with park := .remote d width uniform counts rs })
        else match rs.filter (fun q => q.answer = some none) with
          | q :: qs =>
            (s.wake gid place cyc).takeEarlier gid ⟨0x0D, maskOf ((q :: qs).map RemoteReq.lane) &&& x.mask, x.pc,
              BitVec.ofNat 64 q.va, BitVec.ofNat 64 q.seq, place⟩
          | [] =>
            let ws := rs.flatMap (fun q =>
              (y.expand (if uniform then x.mask else maskOf [q.lane] &&& x.mask)).flatMap (fun p =>
                (keysFrom (y.codeKey (y.bodyOf x.mask) 0 p d) width).zip (natToWords width ((q.answer.getD none).getD 0))))
            let s1 := s.writeRegs gid b.core cyc none ws
            (if counts then s1.countRelease bid else s1).wakeNext gid place cyc
      | _ => s
  | _, _ => s

/-- A team that is frozen has its issued remote atomics settled first (R226): one that no peer has performed is cancelled, and issues
again when the team goes on; one that some lanes have their answers for gets the others. -/
def State.settleRemotes (s : State) (tid : Nat) : State :=
  (s.blocksOf tid).foldl (fun u b => b.gangs.foldl (fun v n => match v.gang? (gangId b.bid n) with
    | none => v
    | some g => g.tree.splits.foldl (fun w (x : Nat × Split) => match x.2.park with
        | .remote _ _ _ _ reqs =>
          if x.2.park.unanswered then w.modSplit (gangId b.bid n) x.1 (fun y => { y with park := .ready, again := false })
          else reqs.foldl (fun q _ => q.answerRemote b.bid n x.1 false) w
        | _ => w) v) u) s

/-- PREEMPT_REQUEST (R224, R226 to R228, R353): a running or draining team is frozen, priced, and drains, or is to be discarded or
saved. Any other request is discarded, or answered by the save or discard that has begun. A request for a team that drains replaces the one
before, and one record 0x07 ends both; a DEADLINE of 0 and an AREA of any alignment are taken as they are given: DESIGN CHOICE (R353
states neither; log entry 117). -/
def execPreemptRequest (team deadline area : Nat) (nodrain nodiscard : Bool) (s : State) : Host.Outcome State Fault Refusal :=
  .next (match s.team? team with
  | none => s
  | some now =>
    if s.link = .down || 2 ^ 32 ≤ team || !(now.state = .live || now.state = .draining) then s
    else
      let u := s.settleRemotes team
      match (u.team? team).filter (fun t => t.state = .live || t.state = .draining) with
      | none => u
      | some t =>
        let c := u.estimate t deadline nodrain nodiscard
        let t1 : Team := { t with
          request := some c.2
          deadline := u.clock + deadline
          area := area
          dlmiss := if c.2 then satAdd 16 t.dlmiss 1 else t.dlmiss }
        State.stopTimers { u with teams := Tab.put u.teams team (match c.1 with
          | .drain => { t1 with state := .draining, frozen := false, choice := 0 }
          | .discard => { t1 with state := .discarding, frozen := true, choice := 1 }
          | .save => { t1 with state := .saving, frozen := true, choice := 2 }) } team)

/-- RESTORE_REQUEST (R232): a saved team, named with its save area, is to be placed again. -/
def execRestoreRequest (team area : Nat) (s : State) : Host.Outcome State Fault Refusal :=
  .next (match s.team? team with
  | none => s
  | some t =>
    if s.link = .down || t.state ≠ .saved || t.area ≠ area then s
    else s.modTeam team (fun x => { x with state := .restoring }))

/-- END_REQUEST (R34, R232). -/
def execEndRequest (team : Nat) (s : State) : Host.Outcome State Fault Refusal :=
  .next (if s.link = .down || 2 ^ 32 ≤ team then s else s.abortTeam team 0 0 none)

/-- PREEMPT_DISCARDED_OP (R353): OP 3 does nothing. -/
def execPreemptDiscardedOp (_ : Nat) (s : State) : Host.Outcome State Fault Refusal := .next s

/-- The record of a request whose choice has completed (R351, R353). -/
def State.answerRequest (s : State) (t : Team) (choice : Nat) : State :=
  match t.request with
  | some missed => s.faultRecord t.asid 7 [t.tid % 2 ^ 32, choice + (if missed then 2 ^ 8 else 0)]
  | none => s

/-! ### Discard -/

/-- Whether a team's posted copies and matrix operations have all completed (R229, R230, R399). -/
def opsDone (bs : List Block) : Bool := bs.all (fun b => b.copies = 0 && b.mops = 0)

/-- Words that a core's L1 holds dirty for a slot are dropped, not written back (R229). -/
def State.dropDirty (s : State) (core slot : Nat) : State :=
  s.modCore core (fun c => { c with l1 := c.l1.map (fun x =>
    let mine := maskOf ((lanesOf x.dirty).filter (fun i =>
      let m := s.mark (x.line * 32 + i)
      m.pend = some core && (m.w.map Stamp.slot) = some slot))
    { x with
      dirty := x.dirty &&& ~~~mine
      valid := x.valid &&& ~~~mine
      stale := x.stale &&& ~~~mine
      bytes := x.bytes.filter (fun e => !mine.getLsbD (e.1 / 4)) }) })

/-- TEAM_DISCARD (R229): the blocks end, nothing is written back, and the packet is at the head of its queue again. -/
def execTeamDiscard (team : Nat) (s : State) : Host.Outcome State Fault Refusal :=
  .next (match s.team? team with
  | none => s
  | some t =>
    let bs := s.inOrder team
    if t.state ≠ .discarding || !opsDone bs then s
    else
      let s1 := bs.foldl (fun u b => (u.dropDirty b.core b.slot).removeBlock b) s
      let s2 : State := { s1 with teams := Tab.del s1.teams team }
      let s3 := if t.waited then s2 else s2.modQueue t.queue (fun x => { x with packets := (team, t.packet) :: x.packets })
      s3.answerRequest t 1)

/-! ### Save -/

/-- Whether a block can be saved now: its helpers are back and every split-phase load has its replies (R206,
R230, R270). -/
def State.quiet (s : State) (b : Block) : Bool :=
  b.gangs.all (fun n => match s.gang? (gangId b.bid n) with
    | some g => !g.helpersBusy && g.ldas.all (fun x => (g.awaiting x).isEmpty)
    | none => true)

/-- A gang as its save keeps it: reserved helpers are released, and what is in flight has been written (R195, R418). -/
def Gang.saved (g : Gang) : Gang := { g.dropReserved (BitVec.allOnes 32) with fly := [], tree := g.tree.kept }

/-- A save drops what is left of a sleep: the split is ready after it (R446). -/
def Tree.awake (t : Tree) (cyc : Nat) : Tree :=
  { t with splits := t.splits.map (fun e => (e.1, match e.2.park with
      | .sleep _ => e.2.goesOn cyc
      | _ => e.2)) }

def Gang.awake (g : Gang) (cyc : Nat) : Gang :=
  { g with
    tree := g.tree.awake cyc
    layers := g.layers.map (fun l => { l with tree := l.tree.awake cyc }) }

/-- One block's save split, image and release of its slot (R230): the state and the next free byte of AREA. -/
def State.saveBlock (s : State) (t : Team) (at_ : Nat) (b : Block) : State × Nat :=
  let p := launchOf t.packet
  let s0 := (s.split b).modBlock b.bid (fun x => { x with impSplits := satAdd 32 x.impSplits 1 })
  let s1 := b.gangs.foldl (fun u n => u.modGang (gangId b.bid n) (fun g => g.awake (s.cycle b.core))) s0
  let b1 := (s1.block? b.bid).getD b
  let image := s1.saveImage b1 p.budget
  let gangs := b.gangs.filterMap (fun n => (s1.gang? (gangId b.bid n)).map Gang.saved)
  let lo := stashKey b.core b.stashBase
  let stash := (s1.mem.filter (fun c => lo ≤ c.1 && c.1 < lo + b.stashNeed)).map (fun c => (c.1 - lo, c.2))
  let s2 := s1.deviceWrite at_ image
  ((s2.removeBlock b1).modTeam t.tid (fun x => { x with savedBlocks := x.savedBlocks ++ [⟨b1, gangs, stash, image, at_⟩] }), at_ + image.length)

/-- A block that has been placed and has not started leaves its core, and stays queued with its team (R230). -/
def State.requeueBlock (s : State) (b : Block) : State :=
  (s.removeBlock b).modTeam b.team (fun t => { t with requeued := (t.requeued ++ [b.index]).mergeSort (· ≤ ·) })

/-- Bytes of the images that a team's save writes (R230): of its resident blocks, and of those that a restore at level 0 has not brought
back yet. -/
def State.imageBytes (s : State) (t : Team) : Nat :=
  (((s.blocksOf t.tid).filter Block.started).map (fun b => s.saveBytes b (launchOf t.packet).budget)).sum +
    (t.savedBlocks.map (fun x => x.image.length)).sum

/-- Images that a restore has not brought back go to the start of the new AREA as they are; the next free byte there. -/
def State.moveImages (s : State) (t : Team) : State × Nat :=
  let read := t.savedBlocks.map (fun x => { x with image := s.deviceRead 56 x.at_ x.image.length })
  read.foldl (fun (u : State × Nat) x =>
    let moved := fun (z : SavedBlock) => if z.block.bid = x.block.bid then { x with at_ := u.2 } else z
    ((u.1.deviceWrite u.2 x.image).modTeam t.tid (fun y => { y with savedBlocks := y.savedBlocks.map moved }),
      u.2 + x.image.length)) (s, t.area)

/-- Whether a team's save streams into a stack: bytes of its images lie there (R466). -/
def State.streamsInto (s : State) (t : Team) (stack : Nat) : Bool :=
  (linesTouched t.area (s.imageBytes t)).any (fun l => stackOf l = stack)

/-- TEAM_SAVE (R206, R230): the loops hand out no more; once posted operations and helpers have completed and no stack it
streams into is being retrained (R466), every block that has started makes its save split and its image is written. -/
def execTeamSave (team : Nat) (s : State) : Host.Outcome State Fault Refusal :=
  .next (match s.team? team with
  | none => s
  | some t =>
    if t.state ≠ .saving then s
    else
      let all := s.inOrder team
      let bs := all.filter Block.started
      let s0 := bs.foldl (fun u b => b.gangs.foldl (fun v n => v.modGang (gangId b.bid n) Gang.stopLoops) u)
        ((all.filter (fun b => !b.started)).foldl State.requeueBlock s)
      if !opsDone bs || !bs.all s0.quiet || s.hbm.any (fun e => e.2.retraining && s.streamsInto t e.1) then s0
      else
        let r := s0.settleAll bs
        if !r.2 then r.1
        else if bs.any r.1.wraps then bs.foldl State.askWrap r.1
        else
          let done := bs.foldl (fun (u : State × Nat) b => u.1.saveBlock t u.2 ((u.1.block? b.bid).getD b)) (r.1.moveImages t)
          (done.1.modTeam team (fun x => { x with state := .saved, request := none })).answerRequest t 2)

/-! ### Restore -/

/-- The sections of a saved block's image as memory holds it now; none where its CRC does not match (R234). -/
def State.savedSections (s : State) (at_ n : Nat) : Option (List Section) := imageSections (s.deviceRead 56 at_ n)

/-- A saved split as it goes on: an access that waited for a translation issues again, in a packet entered anew (R230). -/
def Split.restored (x : Split) (cyc : Nat) : Split :=
  { x with
    packet := none
    since := cyc
    readyAt := cyc + 1
    park := match x.park with
      | .translation _ _ _ => .resource
      | p => p }

/-- A tree as it goes on; a frozen one keeps its packets' places too (R418). -/
def Tree.restored (t : Tree) (cyc : Nat) : Tree :=
  let u := t.thaw cyc
  { u with splits := u.splits.map (fun e => (e.1, e.2.restored cyc)) }

/-- A held load's places, found afresh; where an address does not translate now, they stay (R288). -/
def State.replaceLda (s : State) (v : Viewer) (x : Lda) : Lda :=
  { x with addrs := x.addrs.map (fun e => (e.1, e.2.1, match s.address v (loadHow x.acc).need e.2.1 (Access.bytes x.acc) with
      | .pieces ps => ps
      | _ => e.2.2)) }

/-- The body of the section of a kind and a gang. -/
def sectionWords (xs : List Section) (kind gang : Nat) : List Word :=
  ((xs.find? (fun x => x.kind = kind && x.gang = gang)).map Section.words).getD []

/-- A gang restored: registers, splits and records from its image, the rest as it was saved (R231, R234, R418). -/
def Gang.restored (x : Gang) (xs : List Section) (cyc : Nat) : Gang :=
  let g := x.loaded (sectionWords xs 3 x.num)
  let helpers := g.regs.filter (fun e => 16384 ≤ e.1)
  { g with
    regs := imageRegs xs g.num (if g.num = 31 then 1 else 32) g.budget none ++ helpers
    tree := g.tree.restored cyc
    layers := g.layers.map (fun l => { l with tree := l.tree.restored cyc }) }

/-- A saved block on its new core (R231); what the cupboard held of it is used up (R235). -/
def State.restoreBlock (s : State) (t : Team) (x : SavedBlock) (xs : List Section) (core base : Nat) : State :=
  let p := launchOf t.packet
  match s.freeSlot with
  | none => s
  | some slot =>
    let placed := s.placeBlock t p x.block.index core base
    let s1 : State := { placed with blocks := Tab.del placed.blocks s.nextBid }
    let words := sectionWords xs 5 0xFF
    let b := { x.block with smap := mapOf (words.drop (x.block.stashNeed / 4)), slot := slot, core := core, stashBase := base, started := true, fills := [], opened := false, wrapping := false, closeReq := false, closeSeen := false }
    let stash := (bytesOfWords words).take b.stashNeed
    let s2 := (State.clearStash { s1 with blocks := Tab.put s1.blocks b.bid b } b).writeBytes (stashKey core base) stash
    let cyc := s.cycle core
    let s3 : State := { s2 with gangs := x.gangs.foldl (fun gs g => Tab.put gs (gangId b.bid g.num) (g.restored xs cyc)) s2.gangs }
    x.gangs.foldl (fun u g => (u.modGang (gangId b.bid g.num) (fun y =>
      { y with ldas := y.ldas.map (u.replaceLda (b.viewer y.system)) })).unsync (gangId b.bid g.num) core) s3

/-- Blocks that had not started when a co-residency team was saved take their places with it (R49, R230). -/
def State.placeQueued (t : Team) (p : Launch) : List (Nat × (Nat × Nat)) → State → State
  | [], s => s
  | (i, c, x) :: rest, s => State.placeQueued t p rest (s.placeBlock t p i c x)

/-- TEAM_RESTORE (R231, R232, R234, R235): once there are places, saved blocks are reloaded, from the cupboard where it holds the
image, and resume; a team with an image whose CRC does not match stays saved. At level 0 blocks are placed as capacity allows (R49):
a team of which some are back goes on, and one whose image has been spoiled since keeps the others' company as soon as it is whole
again (log entry 118). -/
def execTeamRestore (team : Nat) (s : State) : Host.Outcome State Fault Refusal :=
  .next (match s.team? team with
  | none => s
  | some t =>
    match s.restorePlan t with
    | none => s
    | some places =>
      let back := t.savedBlocks.take places.length
      let rest := t.savedBlocks.drop places.length
      if (back.zip places).any (fun e => (s.staged e.2.1 e.1.block.bid).isNone && s.savedWaits e.1) then s
      else
      let images := (back.zip places).map (fun e => (e.1, match s.staged e.2.1 e.1.block.bid with
        | some bs => imageSections bs
        | none => s.savedSections e.1.at_ e.1.image.length))
      if images.any (fun e => e.2.isNone) || (t.state = .restoring && rest.any (fun x => (s.savedSections x.at_ x.image.length).isNone)) then
        (if t.state = .restoring then
          (t.savedBlocks.foldl (fun u x => u.unstage x.block.bid) (s.modTeam team (fun x => { x with state := .saved }))).faultRecord t.asid 6 [team]
        else s)
      else if s.outranked t then s
      else
        let s0 := back.foldl (fun u x => u.pullLines x.at_ x.image.length) s
        let s1 := (images.zip places).foldl (fun u e => u.restoreBlock t e.1.1 (e.1.2.getD []) e.2.1 e.2.2) s0
        let late := if (launchOf t.packet).cores = 0 then [] else t.requeued
        let s2 := State.placeQueued t (launchOf t.packet) (late.zip (places.drop t.savedBlocks.length))
          (back.foldl (fun u x => u.unstage x.block.bid) s1)
        let s3 := s2.modTeam team (fun x => { x with
          state := if t.state = .restoring then .live else x.state
          frozen := false
          requeued := if late.isEmpty then x.requeued else []
          savedBlocks := rest })
        if rest.isEmpty then s3.faultRecord t.asid 7 [team, 3] else s3)

end Sys2Proof.Machine
end

