-- ==== Sys2Proof/Machine/Package.lean ====
section
/-!
DEFINITION. Machine/Package.lean: the host link and its windows (R447 to R453, R467, R472 to R475), peers (R295, R454, R455), the
management plane (R28 to R36, R459 to R466), register and memory errors (R220, R222, R273, R458), and replay recording (R350).
-/

namespace Sys2Proof.Machine

open Sys2Proof

/-! ### Writes from outside (R274, R451 to R453) -/

/-- Bytes performed at their homes by an external agent: no mark, no check, copies in the L1s are kept, and POISON of the words
written whole is cleared. None while a home cannot take the line. -/
def State.outsideWrite (s : State) (pa : Nat) (bs : List Byte) : Option State :=
  (s.atHomes 0 1 ((linesTouched pa bs.length).map (·, true))).map (fun t =>
    let t1 := t.writeBytes pa bs
    let t2 := (wordsTouched pa bs.length).foldl (fun u w =>
      if coversWord pa bs.length w then u.setMark w { u.mark w with poison := false } else u) t1
    (linesTouched pa bs.length).foldl State.unshare t2)

/-- The pieces of an inbound write: what it has of each aligned doubleword, which is performed as one; each lies in one 2 KiB chunk,
whose span is its route (R22, R451, R473). -/
def chunkParts : Nat → Nat → List Byte → List (Nat × List Byte)
  | 0, _, _ => []
  | n + 1, pa, bs => if bs.isEmpty then [] else (pa, bs.take (8 - pa % 8)) :: chunkParts n (pa + (8 - pa % 8)) (bs.drop (8 - pa % 8))

def partsOf (pa : Nat) (bs : List Byte) : List (Nat × List Byte) := chunkParts (bs.length / 8 + 2) pa bs

/-- Whether a physical range lies in a recorded window of an identifier whose queue is recorded (R350). -/
def State.inWindow (s : State) (pa n : Nat) : Bool :=
  s.recording && s.recQueues.any (fun q => match (s.queue q).bound with
    | none => false
    | some asid => s.recWindows.any (fun w => (List.range (w.2 / 65536 + 2)).any (fun i =>
        let lo := max w.1 (w.1 / 65536 * 65536 + i * 65536)
        let hi := min (w.1 + w.2) (w.1 / 65536 * 65536 + (i + 1) * 65536)
        lo < hi && (match s.walk asid lo with
          | .leaf pte level => let p := leafPa pte level lo; p < pa + n && pa < p + (hi - lo)
          | .fail _ _ => false))))

def State.recordInbound (s : State) (pa : Nat) (bs : List Byte) : State :=
  if s.inWindow pa bs.length then s.logReplay (.inbound s.clock pa bs) else s

/-- Whether a tracked write may go to its homes: with relaxed ordering at once, else once every earlier one of its link has been
acknowledged (R452, R455). -/
def sendable (before : List Inbound) (x : Inbound) : Bool := x.relaxed || before.all (fun y => y.source ≠ x.source)

/-- Sends what may be sent. -/
def sendFrom : List Inbound → List Inbound → List Inbound
  | _, [] => []
  | before, x :: xs => { x with sent := x.sent || sendable before x } :: sendFrom (before ++ [x]) xs

def State.sendInbound (s : State) : State := { s with inbound := sendFrom [] s.inbound }

/-- A write reaches the I/O die. -/
def State.acceptInbound (s : State) (source : Option Nat) (relaxed : Bool) (pa : Nat) (bs : List Byte) : State :=
  let parts := partsOf pa bs
  let x : Inbound := ⟨s.nextId, source, pa, parts, (parts.map (fun p => spanOfPa p.1)).dedup, relaxed, false, []⟩
  State.sendInbound { s.recordInbound pa bs with
    nextId := s.nextId + 1
    inbound := s.inbound ++ [x] }

/-- Whether the host has posted-write credit: the I/O die tracks fewer than 256 writes of its link (R474). -/
def State.credit (s : State) : Bool := (s.inbound.filter (fun x => x.source.isNone)).length < 256

def HostRequest.isWrite (r : HostRequest) : Bool :=
  match r with
  | .write _ _ _ => true
  | .read _ _ _ => false

/-- A read of BAR2 is performed at the home slice of each line: what the homes hold, unmarked and unchecked (R475); none while a home
cannot take its line. -/
def State.hostRead (s : State) (offset n : Nat) : Option State :=
  (s.atHomes 0 1 ((linesTouched offset n).map (·, true))).map (fun t => { t with bar2Read := t.readBytes 55 offset n })

/-- One request of the host: a write is taken while there is credit for it, in order with the other writes; a read is answered once every
write that came before it has been acknowledged (R452, R474). `last` is the number after that of the last write taken. -/
def State.hostRequest (s : State) (last : Nat) (r : HostRequest) : State × Nat :=
  let waits := s.hostHeld.any HostRequest.isWrite
  let held := fun (x : HostRequest) => ({ s with hostHeld := s.hostHeld ++ [x] }, last)
  match r with
  | .write offset relaxed data =>
    if waits || !s.credit then held r else (s.acceptInbound none relaxed offset data, s.nextId + 1)
  | .read after offset n =>
    let first := max after last
    if waits || s.inbound.any (fun x => x.source.isNone && x.id < first) then held (.read first offset n)
    else match s.hostRead offset n with
      | some t => (t, last)
      | none => held (.read first offset n)

/-- What the host holds back is tried again, in order (R452, R474, R475). -/
def State.serveHost (s : State) : State :=
  if s.link = .down then s else (s.hostHeld.foldl (fun t r => t.1.hostRequest t.2 r) ({ s with hostHeld := [] }, 0)).1

/-- The host's requests follow those that it holds back. -/
def State.fromHost (s : State) (rs : List HostRequest) : State := State.serveHost { s with hostHeld := s.hostHeld ++ rs }

/-- The memory write TLPs of a write through BAR2, of at most Max_Payload_Size_Supported bytes each (R472; log entry 76). -/
def maxPayload : Nat := 4096
def tlpsFrom : Nat → Nat → List Byte → List (Nat × List Byte)
  | 0, _, _ => []
  | k + 1, offset, bs =>
    if bs.isEmpty then [] else (offset, bs.take maxPayload) :: tlpsFrom k (offset + maxPayload) (bs.drop maxPayload)

def tlpsOf (offset : Nat) (bs : List Byte) : List (Nat × List Byte) := tlpsFrom (bs.length / maxPayload + 1) offset bs

/-- Whether a TLP's range lies in BAR2. -/
def inBar2 (p : Nat × List Byte) : Bool := p.1 + p.2.length ≤ 2 ^ 39

/-- INBOUND_WRITE (R451, R452, R472): a write through BAR2; a TLP that leaves the window is discarded whole, and reported as an Unsupported
Request. -/
def execInboundWrite (offset : Nat) (relaxed : Bool) (data : List Byte) (s : State) : Host.Outcome State Fault Refusal :=
  let all := tlpsOf offset data
  .next (if s.link = .down then s
    else State.fromHost { s with unsupported := s.unsupported + (all.filter (fun p => !inBar2 p)).length }
      ((all.filter inBar2).map (fun p => .write p.1 relaxed p.2)))

def State.poisonWord (s : State) (w : Nat) : State :=
  let s1 := s.setMark w { s.mark w with poison := true }
  if isStashKey (4 * w) then s1 else s1.shelve (w / 32)

/-- A piece of a write, performed at its home; a word of it that a parity error spoiled is poisoned (R451, R458). -/
def State.performPiece (s : State) (spoiled : List Nat) (p : Nat × List Byte) : Option State :=
  (s.outsideWrite p.1 p.2).map (fun t =>
    (spoiled.filter (fun w => (wordsTouched p.1 p.2.length).contains w)).foldl State.poisonWord t)

/-- The pieces of one route, performed. -/
def State.performRoute (spoiled : List Nat) : List (Nat × List Byte) → State → Option State
  | [], s => some s
  | p :: ps, s => (s.performPiece spoiled p).bind (State.performRoute spoiled ps)

/-- The pieces of the writes that have been sent, each with its write, that may be performed now: they become visible in any order
(R473). -/
def State.looseParts (s : State) : List (Inbound × Nat × List Byte) :=
  (s.inbound.filter Inbound.sent).flatMap (fun x => (x.parts.filter (fun p => x.spans.contains (spanOfPa p.1))).map (fun p => (x, p)))

/-- One of those pieces may be performed before its route is acknowledged (R473). -/
def State.earlyPiece (s : State) : Option State :=
  match s.looseParts with
  | [] => none
  | e :: rest =>
    match (e :: rest)[s.pick 105 (2 * (rest.length + 1))]? with
    | none => none
    | some (x, p) => (s.performPiece x.spoiled p).map (fun t =>
        { t with inbound := t.inbound.map (fun y => if y.id = x.id then { y with parts := y.parts.filter (· ≠ p) } else y) })

/-- INBOUND_ROUTE_ACK (R451, R452): a route of a write that has been sent is performed and acknowledged; writes that waited for it
may go. -/
def execInboundRouteAck (id span : Nat) (s : State) : Host.Outcome State Fault Refusal :=
  .next (match s.inbound.find? (fun x => x.id = id) with
  | none => s
  | some x =>
    if !x.sent || !x.spans.contains span then s
    else
      match State.performRoute x.spoiled (x.parts.filter (fun p => spanOfPa p.1 = span)) s with
      | none => s
      | some t =>
        let left := t.inbound.map (fun y => if y.id = id then { y with
          parts := y.parts.filter (fun p => spanOfPa p.1 ≠ span)
          spans := y.spans.filter (· ≠ span) } else y)
        (State.sendInbound { t with inbound := left.filter (fun y => !y.spans.isEmpty) }).serveHost)

/-- HOST_BAR2_READ (R452, R475): held until every earlier inbound write has been acknowledged; the homes' values. -/
def execHostBar2Read (offset n : Nat) (s : State) : Host.Outcome State Fault Refusal :=
  .next (if s.link = .down || 2 ^ 39 < offset + n then s else s.fromHost [.read s.nextId offset n])

/-- HOST_SNOOP (R467): a host access to its own memory: a read returns the slice's latest value; a write is performed after the
slice's copy has been snooped out, on the coherent mapping. A write that meets an atomic of a narrower scope than system may be lost to
it, which is not indivisible with respect to the host (R293). -/
def execHostSnoop (pa n : Nat) (data : Option (List Byte)) (s : State) : Host.Outcome State Fault Refusal :=
  .next (if !isCellar pa || !isCellar (pa + n - 1) then s
    else match data with
      | none => { s with bar2Read := s.readBytes 54 pa n }
      | some bs =>
        let t := if s.link = .coherent then (linesTouched pa n).foldl State.snoopOut s else s
        if (wordsTouched pa n).any (fun w => s.narrow.contains w) && s.pick 104 2 = 1 then
          { t with narrow := t.narrow.filter (fun w => !(wordsTouched pa n).contains w) }
        else t.writeBytes pa (bs.take n))

/-! ### The host link -/

/-- LINK_UP (R447): the mode is fixed from the first link-up to the next fundamental reset. -/
def execLinkUp (coherent : Bool) (s : State) : Host.Outcome State Fault Refusal :=
  let mode := s.linkMode.getD (if coherent then .coherent else .fallback)
  .next (if s.link = .down then { s with
    link := mode
    linkMode := some mode } else s)

/-- The link goes down; what the host has held back does not come any more (log entry 76). -/
def State.linkLost (s : State) : State :=
  if s.link = .down then s
  else State.raiseErr { s with
    link := .down
    hostHeld := [] } 5

/-- LINK_DOWN (R448, R450). -/
def execLinkDown (s : State) : Host.Outcome State Fault Refusal := .next s.linkLost

/-- A fundamental reset of the link takes it down and frees its mode (R447). -/
def State.resetLink (s : State) : State := { s.linkLost with linkMode := none }

/-- ERRSTAT_WRITE (R450): a write of 1 clears. -/
def execErrstatWrite (value : Nat) (s : State) : Host.Outcome State Fault Refusal :=
  .next (if s.link = .down then s
    else { s with errstat := (List.range 9).foldl (fun x i => if s.errstat.testBit i && !value.testBit i then x + 2 ^ i else x) 0 })

/-! ### Peers -/

/-- REMOTE_WRITE_ARRIVAL (R455): ordered with its source's other writes, as though without relaxed ordering. -/
def execRemoteWriteArrival (peer pa : Nat) (data : List Byte) (s : State) : Host.Outcome State Fault Refusal :=
  .next (if 2 ^ 39 < pa + data.length || data.isEmpty then s else s.acceptInbound (some peer) false pa data)

/-- A request that has been answered joins the source's replay window of 64 (R295). -/
def ReplayWindow.push (w : ReplayWindow) (seq old : Nat) : ReplayWindow :=
  let all := w.window ++ [(seq, old)]
  if all.length ≤ 64 then { w with window := all } else ⟨all.tail, w.older ++ [(all.headD (0, 0)).1]⟩

/-- The new value of a remote atomic: op 0 to 11 of R290, or 12 for a compare and swap of x for y (R292). -/
def remoteNew (op n old x y : Nat) : Nat := if op = 12 then (if old = x then y else old) else atomNew op n old x

/-- REMOTE_ATOMIC_ARRIVAL (R295): applied as new, answered from the window, or answered expired. -/
def execRemoteAtomicArrival (peer seq : Nat) (replay : Bool) (pa n op x y : Nat) (s : State) : Host.Outcome State Fault Refusal :=
  let w := Tab.getD s.replayWindows peer ⟨[], []⟩
  let seen := w.window.any (fun e => e.1 = seq) || w.older.contains seq
  .next (if (replay && seen) || 2 ^ 39 < pa + n || !s.canRead pa n then s
    else
      let s1 := s.pullLines pa n
      let old := s1.readNat 53 pa n
      match s1.outsideWrite pa (bytesOf n (remoteNew op n old x y)) with
      | none => s
      | some t => { t with replayWindows := Tab.put t.replayWindows peer (w.push seq old) })

/-- REMOTE_ATOMIC_RETRY (R295): a request sent again is answered, with a value that the peer chooses, or has expired. -/
def execRemoteAtomicRetry (bid g place : Nat) (expired : Bool) (s : State) : Host.Outcome State Fault Refusal :=
  .next (s.answerRemote bid g place expired)

/-- The place of a peer's entry in the route tables: that of I/O die 12, or that of 13. -/
def routeKey (iodie peer : Nat) : Nat := (if iodie = 13 then 4096 else 0) + peer % 4096

/-- The I/O die on which a port lies (R454). -/
def portDie (port : Nat) : Nat := if port < 9 then 12 else 13

/-- FRAME_RESEND (R454): the transport sends a lost frame again, on a port of its peer's route; the low twelve bits of a frame's number
are its peer's (log entry 76). -/
def execFrameResend (id port : Nat) (s : State) : Host.Outcome State Fault Refusal :=
  .next (if (Tab.look s.routes (routeKey (portDie port) id)).any (fun r => r.ports.contains port) then
      { s with framePorts := Tab.put s.framePorts id port }
    else s)

/-- Writes of a core to a peer whose route has gone, but for the oldest few that were acknowledged (R455). -/
def Core.loseWrites (c : Core) (peer acked : Nat) : Core × Bool :=
  let lost := (c.peerWrites.filter (fun w => w.1 = peer)).drop acked
  ({ c with
    peerWrites := c.peerWrites.filter (fun w => w.1 ≠ peer)
    peerDropped := match c.peerDropped, lost with
      | some a, _ => some a
      | none, w :: _ => some w.2
      | none, [] => none }, !lost.isEmpty)

/-- An entry as an I/O die holds it: of the ports, its own (R454). -/
def routeOn (r : Route) (iodie : Nat) : Route := { r with ports := r.ports.filter (fun p => p < 18 && portDie p = iodie) }

/-- Writes of the device itself to a peer that were not acknowledged are dropped, and reported (R455). -/
def State.losePosted (s : State) (peer acked : Nat) : State :=
  let lost := (s.peerPosted.filter (fun w => w.1 = peer)).drop acked
  let t : State := { s with peerPosted := s.peerPosted.filter (fun w => w.1 ≠ peer) }
  if lost.isEmpty then t else t.raiseErr 6

/-- ROUTE_TABLE_WRITE (R29, R454, R455): an entry of an I/O die's table; pending writes to a peer that is no longer bound are
dropped. -/
def execRouteTableWrite (iodie peer : Nat) (route : Option Route) (acked : Nat) (s : State) : Host.Outcome State Fault Refusal :=
  let key := routeKey iodie peer
  let s1 : State := { s with routes := match route with
    | some r => Tab.put s.routes key (routeOn r (if iodie = 13 then 13 else 12))
    | none => Tab.del s.routes key }
  .next (if s.mgmtReset then s
    else if s1.routed (peer % 4096) || !s.routed (peer % 4096) then s1
    else
      let cs := s1.cores.map (fun c => (c.1, c.2.loseWrites (peer % 4096) acked))
      let s2 : State := { s1 with cores := cs.map (fun c => (c.1, c.2.1)) }
      (if cs.any (fun c => c.2.2) then s2.raiseErr 6 else s2).losePosted (peer % 4096) acked)

/-! ### The management controller -/

/-- MGMT_QUEUE_DISABLE and MGMT_QUEUE_ENABLE (R32). -/
def execMgmtQueueDisable (queue : Nat) (s : State) : Host.Outcome State Fault Refusal :=
  .next (if s.mgmtReset || 128 ≤ queue then s else s.modQueue queue (fun x => { x with mhold := true }))
def execMgmtQueueEnable (queue : Nat) (s : State) : Host.Outcome State Fault Refusal :=
  .next (if s.mgmtReset || 128 ≤ queue then s else s.modQueue queue (fun x => { x with mhold := false }))

/-- Words whose only copy is dirty in the L1s of a die (R273). -/
def State.dirtyWords (s : State) (die : Nat) : List Nat :=
  (s.cores.filter (fun c => dieOf c.1 = die)).flatMap (fun c => c.2.l1.flatMap (fun x => (lanesOf x.dirty).map (fun i => x.line * 32 + i)))

/-- A mark after the slots of a die are lost: open writes become POISON, and reads go (R273). -/
def State.lostMark (s : State) (slots : List Nat) (die : Nat) (m : Mark) : Mark :=
  let mine := fun (x : Stamp) => slots.contains x.slot
  let pending := match m.pend with
    | some c => dieOf c = die
    | none => false
  let hit := pending || (match m.w with
    | some x => mine x && (s.stampLive x || m.pend.isSome)
    | none => false)
  { w := if hit then none else m.w
    r := m.r.filter (fun x => !mine x)
    pend := if hit then none else m.pend
    poison := m.poison || hit }

/-- A line whose side-band record names a lost slot: its open writes become the pattern of poison (R273). -/
def State.lostRecord (s : State) (slots : List Nat) (line : Nat) : State :=
  let r := (Tab.getD s.side line 0).toNat
  let wx : Stamp := ⟨bits r 13 0, .unknown, bits r 31 14, 0, 0⟩
  if isPoisonRecord r || bits r 95 64 = 0 || !slots.contains wx.slot || !s.stampLive wx then s
  else State.atticSub { s with side := Tab.put s.side line (BitVec.ofNat 128 (0xFFFFFFFF * 2 ^ 32 + bits r 95 64 * 2 ^ 64)) } (recordSlots r)

/-- A core of a die that has been reset: counters, trace registers and boundary defaults are what is left. -/
def Core.afterReset (c : Core) : Core :=
  { Core.reset with
    trace := { c.trace with snap := [], pending := [] }
    cycleBase := c.cycleBase
    issued := c.issued
    ckcorr := c.ckcorr
    ckrecomp := c.ckrecomp
    ckinj := c.ckinj
    laneDeath := c.laneDeath
    squash := c.squash
    starts := c.starts }

/-- A die is reset or disabled: its teams end as a whole, what ran on it is gone, and writes that only it held are lost (R33, R34,
R273). Its home slices go on serving with the lines and marks they hold: the spec does not say what becomes of them (DESIGN
CHOICE, log entry 80). -/
def State.loseDie (s : State) (die state : Nat) : State :=
  let bs := (s.blocks.filter (fun b => dieOf b.2.core = die)).map Prod.snd
  let slots := bs.map Block.slot
  let s1 := bs.foldl (fun t b => t.abortTeam b.team 0 0 none) s
  let dirty := s.dirtyWords die
  let s2 : State := { s1 with marks := (s1.marks.map (fun e => (e.1, s1.lostMark slots die e.2))).filter (fun e => e.2 ≠ Mark.empty) }
  let s3 := (s1.side.map Prod.fst).foldl (fun t l => t.lostRecord slots l) s2
  let s4 := bs.foldl State.removeBlock (dirty.foldl State.poisonWord s3)
  let stash := fun (a : Nat) => isStashKey a && dieOf ((a - 2 ^ 60) / 2 ^ 18) = die
  let s5 : State := { s4 with
    mem := s4.mem.filter (fun c => !stash c.1)
    marks := s4.marks.filter (fun e => !stash (4 * e.1))
    cores := s4.cores.map (fun c => if dieOf c.1 = die then (c.1, c.2.afterReset) else c)
    clusterTlbs := s4.clusterTlbs.filter (fun c => c.1 / 4 ≠ die)
    flying := s4.flying.filter (fun m => dieOf m.dest ≠ die)
    teams := s4.teams.map (fun (t : Nat × Team) =>
      if t.2.waited && t.2.chosen.any (fun c => dieOf c = die) then (t.1, { t.2 with chosen := [] }) else t)
    dies := Tab.upd s4.dies die Die.reset (fun d => { d with state := state }) }
  (s5.teams.map Prod.fst).foldl State.chooseFor s5

/-- MGMT_DIE_RESET (R29, R33). -/
def execMgmtDieReset (die : Nat) (disable : Bool) (s : State) : Host.Outcome State Fault Refusal :=
  .next (if s.mgmtReset || 4 ≤ die then s else s.loseDie die (if disable then 2 else 1))

/-- MGMT_DIE_ENABLE (R33): the die rejoins with its cores empty. -/
def execMgmtDieEnable (die : Nat) (s : State) : Host.Outcome State Fault Refusal :=
  .next (if s.mgmtReset || 4 ≤ die then s else s.modDie die (fun d => { d with state := 0 }))

/-- MGMT_FAULT_QUEUE_READ (R35, R352): the header and the records, of which none is consumed. -/
def execMgmtFaultQueueRead (asid : Nat) (s : State) : Host.Outcome State Fault Refusal :=
  .next (match Tab.look s.identifiers asid with
  | none => s
  | some d => if s.mgmtReset then s else { s with faultsRead := Tab.put s.faultsRead asid (s.readBytes 52 d.fqbase (32 + 32 * d.fqsize)) })

/-- MGMT_CONTROLLER_RESET and its release (R28): queues, teams and memory stay as they are. -/
def execMgmtControllerReset (s : State) : Host.Outcome State Fault Refusal := .next { s with mgmtReset := true }
def execMgmtControllerResetRelease (s : State) : Host.Outcome State Fault Refusal := .next { s with mgmtReset := false }

/-- BALLAST_WRITE (R462): a setpoint from 60 to 100. -/
def execBallastWrite (value : Nat) (s : State) : Host.Outcome State Fault Refusal :=
  .next (if s.mgmtReset || value < 60 || 100 < value then s else { s with ballast := value })

/-! ### HBM4 stacks (R465, R466) -/

/-- Whether a save still streams into a stack, within its deadline (R466). -/
def State.saveStreams (s : State) (stack : Nat) : Bool :=
  s.teams.any (fun t => t.2.state = .saving && s.clock < t.2.deadline && s.streamsInto t.2 stack)

/-- HBM_RATE_CHANGE (R465, R466): retraining starts, or the change waits for a save and the deferral is counted. -/
def execHbmRateChange (stack rate : Nat) (s : State) : Host.Outcome State Fault Refusal :=
  let x := s.stack stack
  .next (if s.mgmtReset || 8 ≤ stack || 3 ≤ rate || x.state = 3 then s
    else if x.retraining || x.deferred.isSome then s.modStack stack (fun y => { y with pendingRate := some rate })
    else if s.saveStreams stack then
      s.modStack stack (fun y => { y with pendingRate := some rate, deferred := some s.clock, rtdefer := satAdd 32 y.rtdefer 1 })
    else s.modStack stack (fun y => { y with pendingRate := some rate, retraining := true }))

/-- RETRAINING_DEFERRAL_EXPIRY (R466): the save has ended, its deadline has passed, or 2 ms are over. -/
def execRetrainingDeferralExpiry (stack : Nat) (s : State) : Host.Outcome State Fault Refusal :=
  .next (match (s.stack stack).deferred with
  | none => s
  | some c =>
    if s.saveStreams stack && s.clock < c + 2000000 then s
    else s.modStack stack (fun y => { y with deferred := none, retraining := true }))

/-- HBM_RETRAIN_DONE (R466): at the new rate (outcome 0), back at the old one (1), or failed at both. -/
def execHbmRetrainDone (stack outcome : Nat) (s : State) : Host.Outcome State Fault Refusal :=
  let x := s.stack stack
  .next (if !x.retraining then s
    else
      let done := fun (f : Stack → Stack) => s.modStack stack (fun y => f { y with retraining := false, pendingRate := none })
      (if outcome = 0 then done (fun y => { y with rate := x.pendingRate.getD x.rate })
        else if outcome = 1 then done id
        else (done (fun y => { y with state := 3 })).raiseErr 7).flushHeld.serveHost)

/-- Bytes of a stack that a reset loses: those whose lines no slice holds (R29; log entry 62). -/
def State.lostInStack (s : State) (stack a : Nat) : Bool := isHbm a && stackOf (a / 128) = stack && !s.holdsLine (a / 128)

/-- HBM_STACK_RESET (R29): what the stack held has no defined value any more, its side-band bits are zero, and it serves again, what has
waited for it first. -/
def execHbmStackReset (stack : Nat) (s : State) : Host.Outcome State Fault Refusal :=
  .next (if s.mgmtReset || 8 ≤ stack then s
    else
      let named := (s.side.filter (fun e => stackOf e.1 = stack)).flatMap (fun e => recordSlots e.2.toNat)
      let s1 := s.atticSub named
      (State.modStack { s1 with
        mem := s1.mem.filter (fun c => !s.lostInStack stack c.1)
        side := s1.side.filter (fun e => stackOf e.1 ≠ stack) } stack (fun y =>
          { y with state := 0, retraining := false, pendingRate := none, deferred := none })).flushHeld.serveHost)

/-! ### Temperature and power -/

/-- LEVEL of a temperature in units of 1/16 °C (R459). -/
def levelOf (t : Int) : Nat := if 118 * 16 ≤ t then 3 else if 108 * 16 ≤ t then 2 else if 100 * 16 ≤ t then 1 else 0

/-- The row of R461 for a temperature, and its upper limit. -/
def refreshRow (t : Int) : Nat := if t < 85 * 16 then 0 else if t < 95 * 16 then 1 else if t ≤ 105 * 16 then 2 else 3
def refreshLimit (row : Nat) : Int := (85 + 10 * row) * 16

/-- The row of a stack after a sample: a falling temperature returns to a lower row only 2 °C below that row's limit (R461). -/
def nextRow (old : Nat) (t : Int) : Nat :=
  let r := refreshRow t
  if old ≤ r then r else if t ≤ refreshLimit r - 32 then r else min old (r + 1)

/-- The management controller holds a die in reset at its critical point, a disabled one too (R33). -/
def State.holdDie (s : State) (die : Nat) : State := if (s.die die).state = 1 then s else s.loseDie die 1

/-- SENSOR_SAMPLE (R459 to R461, R450): sensors 0 to 63 lie on compute dies, sixteen each, 64 to 71 on the I/O dies, four each, and
72 to 79 in the stacks. -/
def execSensorSample (sensor : Nat) (temp : Int) (valid : Bool) (s : State) : Host.Outcome State Fault Refusal :=
  let t := sext (wrap temp 16) 16
  let old := Tab.getD s.sensors sensor Sensor.reset
  let new : Sensor := if valid then ⟨t, true, levelOf t⟩ else { old with valid := false }
  let s1 : State := { s with sensors := Tab.put s.sensors sensor new }
  let s2 := if valid && 1 ≤ new.level then s1.raiseErr 2 else s1
  let hot := fun (d : Nat) => (List.range 4).any (fun i =>
    let x := Tab.getD s1.sensors (64 + (d - 12) * 4 + i) Sensor.reset
    x.valid && 2 ≤ x.level)
  .next (if 80 ≤ sensor then s
    else if !valid then s1
    else if 72 ≤ sensor then s2.modStack (sensor - 72) (fun y => { y with refresh := nextRow y.refresh t })
    else if 64 ≤ sensor then
      let s3 : State := { s2 with ioRateHalved := [12, 13].filter hot }
      if 3 ≤ new.level then
        ({ (List.range 4).foldl State.holdDie s3 with ioStates := [(0, 1), (1, 1)] }).raiseErr 4
      else s3
    else s2)

/-- The hottest valid sensor of a compute die. -/
def State.hottest (s : State) (die : Nat) : Option Int :=
  ((List.range 16).map (fun i => Tab.getD s.sensors (die * 16 + i) Sensor.reset)).foldl (fun (a : Option Int) x =>
    if x.valid then some (match a with
      | some y => max y x.temp
      | none => x.temp) else a) none

/-- THERMAL_DECISION (R460). -/
def execThermalDecision (die : Nat) (s : State) : Host.Outcome State Fault Refusal :=
  .next (match s.hottest die with
  | none => s
  | some t =>
    let clock := (s.die die).pendingClock.getD (s.die die).clock
    let turn := fun (c : Nat) => s.modDie die (fun d => { d with pendingClock := if c = d.clock then none else some c })
    if 4 ≤ die then s
    else if 118 * 16 ≤ t then (s.holdDie die).raiseErr 4
    else if 108 * 16 ≤ t then (turn (max (clock - 1) 6)).raiseErr 3
    else if 104 * 16 < t then s
    else turn (min (clock + 1) 12))

/-- CLOCK_CHANGE (R460): a decided change takes effect. -/
def execClockChange (die : Nat) (s : State) : Host.Outcome State Fault Refusal :=
  .next (s.modDie die (fun d => { d with clock := d.pendingClock.getD d.clock, pendingClock := none }))

/-! ### Reads of the control aperture (R449) -/

/-- A mirror's word (R459). -/
def Sensor.word (x : Sensor) : Nat := wrap x.temp 16 + x.valid.toNat * 2 ^ 16 + x.level % 4 * 2 ^ 17

/-- A trace unit's register (R346). -/
def Trace.reg (t : Trace) (r : Nat) : Nat := [t.base, t.size, t.wp, t.rp].getD r 0

/-- What eight bytes of BAR0 read as; an offset that is not listed reads zero (R331, R449, R450, R459, R462, R465). -/
def State.bar0 (s : State) (offset : Nat) : Nat :=
  if offset % 8 ≠ 0 then 0
  else if offset < 0x80000 then (s.queue (offset / 4096)).page (offset % 4096)
  else if offset = 0x80100 then s.errstat
  else if 0x81000 ≤ offset && offset < 0x81280 then (Tab.getD s.sensors ((offset - 0x81000) / 8) Sensor.reset).word
  else if offset = 0x81300 then s.ballast
  else if 0x81400 ≤ offset && offset < 0x81440 then (s.stack ((offset - 0x81400) / 8)).rate
  else if 0x100000 ≤ offset && offset < 0x10C000 then (s.core ((offset - 0x100000) / 32)).trace.reg (offset % 32 / 8)
  else 0

/-- System software reads eight bytes of BAR0 over the host link (R331, R449). -/
def State.readBar0 (s : State) (offset : Nat) : State :=
  if s.link = .down then s else { s with bar2Read := bytesOf 8 (s.bar0 offset) }

/-- GOVERNOR_TEST (R30, R31, R462): the package power is given in hundredths of a percent of TDP. -/
def execGovernorTest (power : Nat) (s : State) : Host.Outcome State Fault Refusal :=
  .next (if s.mgmtReset then s
    else { s with governor := if power < 98 * s.ballast then 0 else if power ≤ 102 * s.ballast then 1 else 2 })

/-- POWER_UP (R19, R248, R445, R487): everything at its reset value; host memory and the firmware in place outlive it. -/
def execPowerUp (s : State) : Host.Outcome State Fault Refusal :=
  .next { State.reset with
    serial := s.serial
    agenda := s.agenda
    stimuli := s.stimuli
    firmware := s.firmware
    mem := s.mem.filter (fun c => isCellar c.1) }

/-- FIRMWARE_IMAGE_LOAD (R463): both signatures and the security version decide. -/
def execFirmwareImageLoad (target version : Nat) (ecdsa lms : Bool) (s : State) : Host.Outcome State Fault Refusal :=
  .next (if ecdsa && lms && Config.fusedVersion ≤ version then { s with firmware := Tab.put s.firmware target version } else s)

/-- The active configuration: the host link's mode, the HBM4 rates and BALLAST (R464). -/
def State.configuration (s : State) : LinkMode × List Nat × Nat := (s.link, (List.range 8).map (fun k => (s.stack k).rate), s.ballast)

/-- The configuration as one number, for its measurement. -/
def State.configCode (s : State) : Nat :=
  let c := s.configuration
  (c.2.1.foldl (fun x r => x * 4 + r % 4) (match c.1 with
    | .down => 0
    | .coherent => 1
    | .fallback => 2)) * 128 + c.2.2

/-- The measurement of a block: 1 the boot ROM, 2 Itlys, 3 the compute-die microcode, 4 the active configuration (R464). -/
def State.measurement (s : State) (block : Nat) : Nat :=
  if block = 1 then Config.bootRom
  else if block = 4 then s.configCode
  else Config.measured block ((s.firmware.map (fun e => e.1 * 2 ^ 32 + e.2)))

/-- The signed report of a block: the identity key is derived from the fused secret and the boot ROM's measurement, a certificate chain
vouches for it, and both signatures are over one transcript hash (R464). -/
def State.spdmReportOf (s : State) (block : Nat) : SpdmReport :=
  let key := Config.identityKey Config.fusedSecret Config.bootRom
  let hash := Config.transcript s.spdmAnswered block (s.measurement block)
  ⟨block, s.measurement block, if block = 4 then some s.configuration else none, Config.certificates key,
    Config.ecdsaP384 key hash, Config.lmsSign key hash⟩

/-- SPDM_REQUEST (R464): answered, without a pause of the data plane. A request for one of the measurement blocks gets a signed report of
it, block 0xF0 beside it; of other requests the spec gives no content. -/
def execSpdmRequest (request : Nat) (s : State) : Host.Outcome State Fault Refusal :=
  .next (if s.mgmtReset then s else { s with
    spdmAnswered := s.spdmAnswered + 1
    spdmReport := if 1 ≤ request ∧ request ≤ 4 then some (s.spdmReportOf request) else s.spdmReport })

/-! ### Errors -/

/-- MEMORY_POISON (R273, R457): an uncorrectable error in the word of a physical address, or of a stash byte's key. -/
def execMemoryPoison (pa : Nat) (s : State) : Host.Outcome State Fault Refusal :=
  .next (if isStashKey pa then s.poisonWord (pa / 4)
    else if !isHbm pa && !isCellar pa then s
    else match s.fillHome 0 1 (pa / 128) with
      | some t => t.poisonWord (pa / 4)
      | none => s)

/-- IO_PARITY_ERROR (R458): the word at an offset of an inbound write is spoiled, or, where no such write is held, the next device
read from the cellar is lost. -/
def execIoParityError (id offset : Nat) (s : State) : Host.Outcome State Fault Refusal :=
  .next (State.raiseErr (if s.inbound.any (fun x => x.id = id) then
      { s with inbound := s.inbound.map (fun x => if x.id = id then
          { x with spoiled := x.spoiled ++ [(x.base + offset) / 4] } else x) }
    else { s with parityRead := true }) 8)

/-- GANG_STATE_ERROR (R220): every live lane of the gang dies. -/
def execGangStateError (bid g : Nat) (s : State) : Host.Outcome State Fault Refusal :=
  .next (match s.gang? (gangId bid g) with
  | none => s
  | some x =>
    if x.ended then s
    else s.killLanes (gangId bid g) 1 ((x.expand x.live).map (fun p => (p, 0x1FF)))
      ((x.tree.splits.head?.map (fun e => e.2.pc)).getD x.tpc))

/-- SCOREBOARD_SQUASH (R61, R222): the copies of a protected gang's scoreboard disagree on a split's instruction, which is issued
again; sixteen times in a row are fatal. -/
def execScoreboardSquash (bid g place : Nat) (s : State) : Host.Outcome State Fault Refusal :=
  .next (match s.gang? (gangId bid g), s.block? bid with
  | some x, some b =>
    match Tab.look x.tree.splits place with
    | none => s
    | some p =>
      if !x.prot then s
      else
        let s1 := s.modCore b.core (fun c => { c with squash := satAdd 32 c.squash 1 })
        if p.squash < 15 then s1.modSplit (gangId bid g) place (fun y => { y with squash := y.squash + 1 })
        else
          (s1.modSplit (gangId bid g) place (fun y => { y with squash := 0 })).killLanes (gangId bid g) 2
            ((x.expand x.live).map (fun q => (q, 0x1FF))) p.pc
  | _, _ => s)

/-! ### Recording -/

/-- RECORDING_CONTROL (R350): the recorded queues and up to sixteen windows; the log of that set of queues is the one appended to
(R330). -/
def execRecordingControl (queues : List Nat) (windows : List (Nat × Nat)) (on_ : Bool) (s : State) : Host.Outcome State Fault Refusal :=
  .next (if s.link = .down then s
    else
      let mine := s.replayRings.filter (fun x => x.queues = queues)
      { s with
        recQueues := queues
        recWindows := windows.take 16
        recording := on_
        replayRings := (if mine.isEmpty then [⟨queues, []⟩] else mine) ++ s.replayRings.filter (fun x => x.queues ≠ queues) })

end Sys2Proof.Machine
end

