-- ==== Sys2Proof/Machine/Packed.lean ====
section
/-!
DEFINITION. Machine/Packed.lean: packed arithmetic (R173), conversions (R181 to R187), block quantisation (R188) and the special functions (R178 to R180).
-/

namespace Sys2Proof.Machine

open Sys2Proof

/-- haddF16x2 (R169, R173). -/
def execHaddF16x2 (d : Reg) (a : Reg) (b : Src) (s : State) : Host.Outcome State Fault Refusal :=
  fpOp (.haddF16x2 d a b) d 1 s (fun x p => packed2 (fun u v _ => Fmt.f16.add x.mode u v) (x.r p a) (x.src p b) 0)

/-- hmulF16x2 (R169, R173). -/
def execHmulF16x2 (d : Reg) (a : Reg) (b : Src) (s : State) : Host.Outcome State Fault Refusal :=
  fpOp (.hmulF16x2 d a b) d 1 s (fun x p => packed2 (fun u v _ => Fmt.f16.mul x.mode u v) (x.r p a) (x.src p b) 0)

/-- hfmaF16x2 (R169, R173). -/
def execHfmaF16x2 (d : Reg) (a : Reg) (b : Src) (s : State) : Host.Outcome State Fault Refusal :=
  fpOp (.hfmaF16x2 d a b) d 1 s (fun x p => packed2 (fun u v w => Fmt.f16.halfFma x.mode u v w) (x.r p a) (x.src p b) (x.r p d))

/-- haddBf16x2 (R169, R173). -/
def execHaddBf16x2 (d : Reg) (a : Reg) (b : Src) (s : State) : Host.Outcome State Fault Refusal :=
  fpOp (.haddBf16x2 d a b) d 1 s (fun x p => packed2 (fun u v _ => Fmt.bf16.add x.mode u v) (x.r p a) (x.src p b) 0)

/-- hmulBf16x2 (R169, R173). -/
def execHmulBf16x2 (d : Reg) (a : Reg) (b : Src) (s : State) : Host.Outcome State Fault Refusal :=
  fpOp (.hmulBf16x2 d a b) d 1 s (fun x p => packed2 (fun u v _ => Fmt.bf16.mul x.mode u v) (x.r p a) (x.src p b) 0)

/-- hfmaBf16x2 (R169, R173). -/
def execHfmaBf16x2 (d : Reg) (a : Reg) (b : Src) (s : State) : Host.Outcome State Fault Refusal :=
  fpOp (.hfmaBf16x2 d a b) d 1 s (fun x p => packed2 (fun u v w => Fmt.bf16.halfFma x.mode u v w) (x.r p a) (x.src p b) (x.r p d))

/-- cvt (R181 to R187). -/
def execCvt (d a : Reg) (ovr : Bool) (rm : BitVec 2) (conv : BitVec 5) (s : State) : Host.Outcome State Fault Refusal :=
  let n := cvtRegs conv.toNat
  fpOp (.cvt d a ovr rm conv) d n.2 s (fun x p =>
    let mode := if ovr then rm.toNat else x.mode
    let r := cvtLane conv.toNat mode ((List.range n.1).map (fun i => x.cx.rd x.s p (a.toNat + i)))
    (wordsToNat r.1, r.2))

/-- The performing lanes, for one copy, that share a block with a lane (R188). -/
def Lanes.blockLanes (x : Lanes) (len16 : Bool) (p : Nat) : List Nat :=
  let l := x.cx.g.vis p
  ((lanesOf x.cx.perform).filter (fun m => !len16 || m / 16 = l / 16)).map (fun m => (x.cx.g.phys m).getD (x.cx.g.copy p) 0)

/-- qbx (R188). -/
def execQbx (d a : Reg) (ovr : Bool) (rm : BitVec 2) (len16 bx4 : Bool) (s : State) : Host.Outcome State Fault Refusal :=
  fpOp (.qbx d a ovr rm len16 bx4) d 1 s (fun x p =>
    let mode := if ovr then rm.toNat else x.mode
    let ls := x.blockLanes len16 p
    let q := bxQuantise bx4 mode (ls.map (fun m => Fmt.f32.decode (x.f m a)))
    let me := q.2.2.getD (ls.idxOf p) (0, 0)
    (q.2.1 * 2 ^ 24 + q.1 * 2 ^ 16 + me.1, me.2))

/-- A candidate for a value that R179 bounds (log entry 3). It is drawn for each physical lane, so the two copies of a lane of a
protected team may differ: DESIGN CHOICE (log entry 102). -/
def Lanes.cand (x : Lanes) (p : Nat) : Nat := Config.freeWord x.s.serial p

/-- frcpF32 (R178 to R180). -/
def execFrcpF32 (d : Reg) (a : Reg) (s : State) : Host.Outcome State Fault Refusal :=
  fpOp (.frcpF32 d a) d 1 s (fun x p => Fmt.f32.rcp (x.cand p) (x.f p a))

/-- frsqF32 (R178 to R180). -/
def execFrsqF32 (d : Reg) (a : Reg) (s : State) : Host.Outcome State Fault Refusal :=
  fpOp (.frsqF32 d a) d 1 s (fun x p => Fmt.f32.rsq (x.cand p) (x.f p a))

/-- fexp2F32 (R178 to R180). -/
def execFexp2F32 (d : Reg) (a : Reg) (s : State) : Host.Outcome State Fault Refusal :=
  fpOp (.fexp2F32 d a) d 1 s (fun x p => exp2 (x.cand p) (x.f p a))

/-- flog2F32 (R178 to R180). -/
def execFlog2F32 (d : Reg) (a : Reg) (s : State) : Host.Outcome State Fault Refusal :=
  fpOp (.flog2F32 d a) d 1 s (fun x p => log2f (x.cand p) (x.f p a))

/-- fsinF32 (R178 to R180). -/
def execFsinF32 (d : Reg) (a : Reg) (s : State) : Host.Outcome State Fault Refusal :=
  fpOp (.fsinF32 d a) d 1 s (fun x p => sinCos false (x.cand p) (x.f p a))

/-- fcosF32 (R178 to R180). -/
def execFcosF32 (d : Reg) (a : Reg) (s : State) : Host.Outcome State Fault Refusal :=
  fpOp (.fcosF32 d a) d 1 s (fun x p => sinCos true (x.cand p) (x.f p a))

/-- frcpF64 (R178 to R180). -/
def execFrcpF64 (d : Reg) (a : Reg) (s : State) : Host.Outcome State Fault Refusal :=
  fpOp (.frcpF64 d a) d 2 s (fun x p => Fmt.f64.rcp (x.cand p) (x.r2 p a))

/-- frsqF64 (R178 to R180). -/
def execFrsqF64 (d : Reg) (a : Reg) (s : State) : Host.Outcome State Fault Refusal :=
  fpOp (.frsqF64 d a) d 2 s (fun x p => Fmt.f64.rsq (x.cand p) (x.r2 p a))

end Sys2Proof.Machine
end

