-- ==== Sys2Proof/Machine/Select.lean ====
section
/-!
DEFINITION. Machine/Select.lean: which split of a quad issues (R55, R198, R345, R414, R462).
-/

namespace Sys2Proof.Machine

open Sys2Proof

/-! ### Selection -/

/-- A ready split, or a helper with an iteration, and what R55 and R345 order it by. -/
structure Cand where
  who : Issue
  cls : Nat
  since : Nat
  gang : Nat
  place : Nat
  starve : Nat
  ballast : Bool
  deriving DecidableEq, Repr

/-- The quad a gang issues on; 4 is the stager (R39, R42). -/
def quadOf (gang : Nat) : Nat := if gang = 31 then 4 else gang % 4

/-- Candidates of one gang (R55, R198, R206, R207, R345). -/
def State.gangCands (s : State) (b : Block) (t : Team) (g : Gang) : List Cand :=
  let cyc := s.cycle b.core
  let cls := if g.role = 2 then 0 else if b.handler then 0 else if g.role = 1 then 1 else 2
  let ballast := t.queue = 127
  let splits := if g.ended || g.pending.isSome || t.frozen || s.lendsOut b g.num then []
    else (g.tree.splits.filter (fun p => p.2.park = .ready && p.2.readyAt ≤ cyc)).map (fun p =>
      (⟨⟨b.bid, g.num, .split p.1⟩, cls, p.2.since, g.num, p.1, p.2.starve, ballast⟩ : Cand))
  let helpers := if t.frozen && t.state ≠ .saving then []
    else g.recruits.flatMap (fun r => (r.2.helpers.filter (fun h => h.iter.isSome && h.readyAt ≤ cyc)).map (fun h =>
      (⟨⟨b.bid, g.num, .helper r.1 h.index⟩, cls, h.readyAt, g.num, 136 + h.index, h.starve, ballast⟩ : Cand)))
  splits ++ helpers

/-- What may issue on a quad of a core in this cycle. -/
def State.cands (s : State) (core quad : Nat) : List Cand :=
  (s.blocks.filter (fun e => e.2.core = core && e.2.started)).flatMap (fun e =>
    match s.team? e.2.team with
    | none => []
    | some t => (e.2.gangs.filter (fun n => quadOf n = quad)).flatMap (fun n =>
        match s.gang? (gangId e.2.bid n) with
        | some g => s.gangCands e.2 t g
        | none => []))

def Cand.starved (c : Cand) : Bool := 1024 ≤ c.starve

/-- What orders candidates: starved ones by gang and place, then the others by class, age, gang and place (R55, R345). -/
def Cand.key (c : Cand) : List Nat :=
  if c.starved then [0, c.gang, c.place] else [1, c.cls, c.since, c.gang, c.place]

/-- The order of two keys. -/
def keyLess : List Nat → List Nat → Bool
  | [], _ => false
  | _ :: _, [] => false
  | x :: xs, y :: ys => x < y || (x = y && keyLess xs ys)

/-- The first candidate of the highest key. Between two blocks whose keys agree, which R55 and R345 leave open, the one with the
lower internal number is first: DESIGN CHOICE (log entry 99). -/
def Cand.first (cs : List Cand) : Option Cand :=
  cs.foldl (fun (a : Option Cand) c => match a with
    | none => some c
    | some x => if keyLess c.key x.key then some c else some x) none

/-- Whether the governor lets a quad issue to ballast splits in this cycle (R462). -/
def State.ballastMay (s : State) (cyc n : Nat) : Bool :=
  s.governor ≠ 2 || (if 128 < n then cyc % 1024 < n else cyc % 8 = 0)

/-- What may issue now, with ballast splits held back by a governor that throttles (R462). -/
def State.selectable (s : State) (core quad : Nat) : List Cand :=
  let cs := s.cands core quad
  let n := (cs.filter (fun c => c.ballast)).length
  if s.ballastMay (s.cycle core) n then cs else cs.filter (fun c => !c.ballast)

/-- The splits that were ready and did not issue count one more cycle (R55). -/
def State.starveOthers (s : State) (cs : List Cand) (but : Issue) : State :=
  cs.foldl (fun t c => if c.who = but then t else
    match c.who.who with
    | .split place => t.modSplit (gangId c.who.bid c.who.gang) place (fun x => { x with starve := min 1024 (x.starve + 1) })
    | .helper lane index => t.modGang (gangId c.who.bid c.who.gang) (fun g =>
        g.modHelper lane index (fun h => { h with starve := min 1024 (h.starve + 1) }))) s

/-- A candidate is selected: a spilled split is brought on chip first (R477), and results in flight are written before a fused
one issues (R85). -/
def State.choose (s : State) (cyc : Nat) (c : Cand) : State :=
  let gid := gangId c.who.bid c.who.gang
  match c.who.who with
  | .helper lane index =>
    { s.modGang gid (fun g => g.modHelper lane index (fun h => { h with starve := 0 })) with issue := some c.who }
  | .split place =>
    match s.gang? gid with
    | none => s
    | some g =>
      let (p, t) := g.tree.refill place
      let fused := ((Tab.look t.splits p).map Split.fused).getD false
      let s1 := s.modGang gid (fun x => { x with
        fly := if fused then [] else x.fly
        tree := t.modSplit p (fun y => { y with starve := 0, lastIssue := cyc, fused := false }) })
      { s1 with issue := some { c.who with who := .split p } }

/-- A quad's turn in this cycle, among some candidates. -/
def State.selectFrom (s : State) (core quad : Nat) (cs : List Cand) : State :=
  if !s.turns.contains (core * 5 + quad) then s
  else
    let s0 : State := { s with turns := s.turns.erase (core * 5 + quad) }
    match Cand.first cs with
    | none => s0
    | some c => (s0.starveOthers (s.cands core quad) c.who).choose (s.cycle core) c

/-- ISSUE_SELECT (R345): a quad selects at most one ready split per cycle. -/
def execIssueSelect (core quad : Nat) (s : State) : Host.Outcome State Fault Refusal :=
  .next (s.selectFrom core quad (s.selectable core quad))

/-- STARVATION_LIMIT (R55): a split whose counter has reached 1,024 issues ahead of any older one. -/
def execStarvationLimit (core quad : Nat) (s : State) : Host.Outcome State Fault Refusal :=
  let cs := (s.selectable core quad).filter Cand.starved
  .next (if cs.isEmpty then s else s.selectFrom core quad cs)

end Sys2Proof.Machine
end

