-- ==== Sys2Proof/Machine/Slots.lean ====
section
/-!
DEFINITION. Machine/Slots.lean: close requests and implicit splits, lines that leave their slices, slot renewal, purges and
attic sweeps (R268 to R272).
-/

namespace Sys2Proof.Machine

open Sys2Proof

/-! ### A slice that runs short (R270) -/

/-- The entries of a slice, with their sets' keys. -/
def State.sliceEntries (s : State) (slice : Nat) : List (Nat × SliceEntry) :=
  (s.slices.filter (fun e => e.1 / 1024 = slice)).flatMap (fun e => e.2.map (fun x => (e.1, x)))

/-- Secondary tags of a slice that hold nothing, of 16,384 (R245, R270). -/
def State.freeTags (s : State) (slice : Nat) : Nat :=
  16384 - ((s.sliceEntries slice).filter (fun e => e.2.shelf || e.2.second.isSome)).length

/-- Whether something of a block waits at all: a split at a home, a helper that tries again, a split-phase load, or an operation of an
engine. One that a trap or an end has called off wants no room any more. -/
def State.someWaits (s : State) (bid : Nat) : Bool :=
  (match s.block? bid with
  | none => false
  | some b => (s.core b.core).copies.any (fun c => c.bid = bid) || (s.core b.core).fifo.any (fun o => o.bid = bid) ||
    b.gangs.any (fun n => match s.gang? (gangId bid n) with
      | none => false
      | some g => g.ldas.any (fun x => !x.counted) || g.tree.splits.any (fun x => x.2.park = .resource) ||
          g.recruits.any (fun r => r.2.helpers.any (fun h => h.again))))

/-- A set in which an access waits for room, and whose sixteen entries all hold lines that may not leave (R269). -/
def State.stuckSet (s : State) (slice : Nat) : Bool :=
  s.slices.any (fun e => e.1 / 1024 = slice && 16 ≤ e.2.length &&
    s.wants.any (fun x => x.set = e.1 && !s.resident x.line && s.someWaits x.bid) &&
    e.2.all (fun x => x.lines.any (fun l => !s.mayLeave l)))

/-- A mark that keeps only the slot and interval of its open stamps (R268). -/
def State.compactMark (s : State) (w : Nat) : Mark :=
  let m := s.mark w
  let keep := fun (x : Option Stamp) => (x.filter s.stampLive).map (fun y => { y with who := Who.unknown })
  { m with w := keep m.w, r := keep m.r }

/-- A shelf record that fits becomes a compact one (R268, R270). -/
def State.compactLine (s : State) (line : Nat) : State :=
  if isHbm (line * 128) && s.fits line then
    let s1 := (lineWords line).foldl (fun t w => t.setMark w (s.compactMark w)) s
    { s1 with slices := Tab.modify s1.slices (setKey line) (fun l => l.map (fun e => if e.line = line then { e with shelf := false } else e)) }
  else s

/-- Shelf records of a slice. -/
def State.shelfLines (s : State) (slice : Nat) : List Nat := ((s.sliceEntries slice).filter (fun e => e.2.shelf)).map (fun e => e.2.line)

/-- The slot of the oldest open stamp among some lines. -/
def State.oldestSlot (s : State) (lines : List Nat) : Option Nat :=
  ((lines.flatMap s.openMarks).foldl (fun (a : Option Stamp) e => match a with
    | none => some e.2.1
    | some x => if e.2.1.born < x.born then some e.2.1 else some x) none).map Stamp.slot

/-- CLOSE_REQUEST (R270): a slice that runs short of tags, or cannot clear a set, compacts what fits and asks the slot of its
oldest open stamp to close its interval, once in an interval. -/
def execCloseRequest (span slice : Nat) (s : State) : Host.Outcome State Fault Refusal :=
  let n := span * 16 + slice
  .next (if 1024 ≤ s.freeTags n && !s.stuckSet n then s
  else
    let s1 := { (s.shelfLines n).foldl State.compactLine s with wants := s.wants.filter (fun k => k.set / 1024 ≠ n || (!s.resident k.line && s.someWaits k.bid)) }
    match (s1.oldestSlot (s1.shelfLines n)).bind (fun k => s1.blocks.find? (fun b => b.2.slot = k)) with
    | none => s1
    | some (bid, b) =>
      if b.closeSeen then s1
      else (s1.modBlock bid (fun x => { x with closeReq := true, closeSeen := true })).perf (span / 2) 11 1)

/-- IMPLICIT_SPLIT (R270): a block that got a close request makes a boundary of its own. -/
def execImplicitSplit (bid : Nat) (s : State) : Host.Outcome State Fault Refusal :=
  .next (match s.block? bid with
  | none => s
  | some b =>
    if !b.closeReq then s
    else if s.boundaryWaits b then s.askWrap b
    else (s.split b).modBlock bid (fun x => { x with impSplits := satAdd 32 x.impSplits 1 }))

/-- LINE_EVICT (R269): a line that may leave its slice does. -/
def execLineEvict (line : Nat) (s : State) : Host.Outcome State Fault Refusal :=
  .next (if !s.resident line || !s.mayLeave line then s
  else s.leaveSlice line)

/-! ### The end of a slot's numbers (R271, R272) -/

/-- The old owner's range locks go with the block to its new slot (log entry 61). -/
def RangeLock.renamed (e : RangeLock) (old new : Nat) : RangeLock := if e.owner = old then { e with owner := new } else e

/-- SLOT_RENEWAL (R271): a boundary at the last interval of a slot that side-band records still name takes a fresh slot. -/
def execSlotRenewal (bid : Nat) (s : State) : Host.Outcome State Fault Refusal :=
  .next (match s.block? bid with
  | none => s
  | some b =>
    if !b.wrapping || !s.wraps b || (s.board b.slot).attic = 0 then s
    else
      match s.freeSlot with
      | none => s
      | some slot =>
        let s1 := ((s.openSlot slot).retireSlot b.slot).modBlock bid (fun x => { x with slot := slot, opened := true, wrapping := false })
        let s2 := s1.modCore b.core (fun c => { c with locks := c.locks.map (fun e => (e.1, e.2.renamed b.slot slot)) })
        s2.modDie (dieOf b.core) (fun d => { d with renew := satAdd 32 d.renew 1 }))

/-- SLOT_PURGE (R271): the same of a slot that no record names: its board entry enters STATE 2, its marks are purged, and then its
intervals start again. -/
def execSlotPurge (bid : Nat) (s : State) : Host.Outcome State Fault Refusal :=
  .next (match s.block? bid with
  | none => s
  | some b =>
    if !b.wrapping || !s.wraps b || (s.board b.slot).attic ≠ 0 then s
    else if (s.board b.slot).state ≠ 2 then s.modBoard b.slot (fun x => { x with state := 2 })
    else (((s.purgeSlot b.slot).forgetSeen b.slot).modBoard b.slot (fun x => { x with interval := 0, state := 1 })).modBlock bid (fun x =>
      { x with opened := true, wrapping := false }))

/-- A side-band record without the stamps of retired slots (R272). -/
def State.sweptRecord (s : State) (r : Nat) : Nat :=
  let gone := fun (k : Nat) => (s.board k).state = 3
  let w := if bits r 95 64 ≠ 0 && !gone (bits r 13 0) then bits r 31 0 + bits r 95 64 * 2 ^ 64 else 0
  let x := if bits r 127 96 ≠ 0 && !gone (bits r 45 32) then bits r 63 32 * 2 ^ 32 + bits r 127 96 * 2 ^ 96 else 0
  w + x

/-- ATTIC_SWEEP (R272): one HBM4 line's record is read, and rewritten without retired slots, each of which is free once no record names
it; both are transfers at the stack (R440). Sweeps
go on while the governor admits no ballast work: DESIGN CHOICE (log entry 98). -/
def execAtticSweep (line : Nat) (s : State) : Host.Outcome State Fault Refusal :=
  .next (
    let r := (Tab.getD s.side line 0).toNat
    let gone := (recordSlots r).filter (fun k => (s.board k).state = 3)
    let t := if isHbm (line * 128) then s.perf (homeDie line) 7 1 else s
    if isHbm (line * 128) && (s.stack (stackOf line)).retraining then s
    else if isPoisonRecord r || gone.isEmpty then t
    else (State.atticSub { t with side := Tab.set t.side line (BitVec.ofNat 128 (s.sweptRecord r)) 0 } gone).perf (homeDie line) 8 1)

end Sys2Proof.Machine
end

