-- ==== Sys2Proof/Machine/System.lean ====
section
/-!
DEFINITION. Machine/System.lean: returning from a handler (R214), translation invalidation (R427), address-space identifiers
(R424, R426), migration (R433, R434, R436), and the answers of system software to translation records (R429).
-/

namespace Sys2Proof.Machine

open Sys2Proof

/-! ### tret -/

/-- What a tret makes of the loads whose held fault its trap took: issued again into the registers that nothing has written since
(R289), or dropped (R288). -/
def Gang.settleLdas (g : Gang) (retry : Bool) : Gang :=
  let mine := fun (x : Lda) => x.taken = some g.layers.length
  if retry then
    { g with ldas := g.ldas.map (fun x =>
        if mine x then { x with held := [], counted := false, taken := none } else x) }
  else { g with ldas := g.ldas.filter (fun x => !mine x) }

/-- The PC after tpc in issue order (R214); the packet is the faulting split's own where that is the one at tpc. -/
def Cx.skipPc (cx : Cx) (s : State) : Dword :=
  let held := ((cx.g.layers.head?.bind (fun l => Tab.look l.tree.splits l.place)).bind Split.packet).filter (fun p => p.base = pcBase cx.g.tpc)
  let kind := match held with
    | some p => p.kind
    | none => (match s.fetch cx.viewer cx.g.tpc with
      | .packet p => p.kind
      | _ => 0)
  nextPc kind cx.g.tpc

/-- Leaves the handler for a PC (R214): an invalid one raises cause 0x02 in the handler. -/
def Cx.leave (cx : Cx) (s : State) (retry : Bool) (pc : Dword) : State :=
  if s.pcInvalid cx.viewer pc then cx.fault s 2 cx.active pc.toNat 0
  else ((s.modGang cx.gid (fun g => g.settleLdas retry)).trapReturn cx.gid pc).traceTarget cx.gid cx.g.num pc

/-- tret.retry (R214). -/
def execTretRetry (s : State) : Host.Outcome State Fault Refusal := run .tretRetry s (fun cx t => cx.leave t true cx.g.tpc)
/-- tret.skip (R214). -/
def execTretSkip (s : State) : Host.Outcome State Fault Refusal := run .tretSkip s (fun cx t => cx.leave t false (cx.skipPc t))

/-- The trap registers as a record keeps them (R34, R351). -/
def Gang.trapRegs (g : Gang) : Trap := ⟨g.tcause, g.tmask, g.tpc, g.taddr, g.tinfo, 0⟩

/-- tret.end (R214): the team ends. -/
def execTretEnd (s : State) : Host.Outcome State Fault Refusal :=
  run .tretEnd s (fun cx t => t.abortTeam cx.b.team cx.b.slot cx.g.num (some cx.g.trapRegs))

/-! ### TLBs -/

/-- Drops TLB entries package-wide. -/
def State.dropTlb (s : State) (p : TlbEntry → Bool) : State :=
  { s with
    cores := s.cores.map (fun c => (c.1, { c.2 with tlb := c.2.tlb.filter (fun t => !p t) })),
    clusterTlbs := s.clusterTlbs.map (fun c => (c.1, c.2.filter (fun t => !p t))) }

/-- Whether a split-phase load, already translated, has still to be performed for an identifier. -/
def State.loadsPending (s : State) (p : Nat → Bool) : Bool :=
  s.gangs.any (fun g => g.2.ldas.any (fun x => !(g.2.awaiting x).isEmpty) && (match s.block? g.2.bid with
    | some b => p b.asid
    | none => false))

/-- Translations are dropped, once what went through them has been performed (R427). -/
def Cx.invalidate (cx : Cx) (s : State) (ids : Nat → Bool) (p : TlbEntry → Bool) : State :=
  if s.loadsPending ids then cx.again s else cx.finish ((s.writeBackL1 cx.core).dropTlb p)

/-- tlbinv.page (R427). -/
def execTlbinvPage (a b : Reg) (s : State) : Host.Outcome State Fault Refusal :=
  run (.tlbinvPage a b) s (fun cx t =>
    let id := (cx.rd t cx.lowPhys b.toNat).toNat
    let va := cx.rd2 t cx.lowPhys a.toNat
    cx.invalidate t (· = id) (fun e => e.covers id va))

/-- tlbinv.asid (R427). -/
def execTlbinvAsid (b : Reg) (s : State) : Host.Outcome State Fault Refusal :=
  run (.tlbinvAsid b) s (fun cx t =>
    let id := (cx.rd t cx.lowPhys b.toNat).toNat
    cx.invalidate t (· = id) (fun e => e.asid = id))

/-- tlbinv.all (R427). -/
def execTlbinvAll (s : State) : Host.Outcome State Fault Refusal :=
  run .tlbinvAll s (fun cx t => cx.invalidate t (fun _ => true) (fun _ => true))

/-! ### Identifiers -/

/-- Whether a descriptor of n bytes at a physical address can be read: in HBM4, in working stacks, not poisoned (R424, R433). -/
def State.readable (s : State) (pa n : Nat) : Bool := isHbm pa && isHbm (pa + n - 1) && s.canRead pa n

/-- Whether a descriptor has to wait for a stack (R465), and its lines pulled before it is read (R435); one at an address that is not
aligned is not read. -/
def State.descWaits (s : State) (pa : Nat) : Bool := pa % 32 = 0 && (linesTouched pa 64).any s.lineWaits
def State.pullDesc (s : State) (pa : Nat) : State := if pa % 32 = 0 then s.pullLines pa 64 else s

/-- A field of a descriptor: words from lo to hi of its sixteen. -/
def State.descWord (s : State) (pa i : Nat) : Nat := s.deviceNat 59 (pa + 4 * i) 4
def State.descPair (s : State) (pa i : Nat) : Nat := s.deviceNat 59 (pa + 4 * i) 8

/-- The descriptor at an address as R424 allows it: whether it binds, and what it holds. -/
def State.descriptor (s : State) (pa : Nat) : Option (Bool × Descriptor) :=
  let w := s.descWord pa
  let d : Descriptor := ⟨s.descPair pa 2, BitVec.ofNat 64 (s.descPair pa 4), s.descPair pa 6, w 8, s.descPair pa 10⟩
  if pa % 32 ≠ 0 || !s.readable pa 64 then none
  else if 1 < w 0 || w 1 ≠ 0 || w 9 ≠ 0 || w 12 ≠ 0 || w 13 ≠ 0 || w 14 ≠ 0 || w 15 ≠ 0 then none
  else if w 0 = 0 then some (false, d)
  else if !isHbm d.root || d.root % 131072 ≠ 0 || 2 ^ 52 ≤ d.fqbase || d.fqbase % 32 ≠ 0 || d.htab % 16 ≠ 0 then none
  else if !(List.range 11).any (fun i => d.fqsize = 2 ^ (6 + i)) then none
  else some (true, d)

/-- The status of R426 and what becomes of the state. -/
def State.setIdentifier (s : State) (pa id : Nat) : Nat × State :=
  if 2047 < id then (1, s)
  else
    let s := s.pullDesc pa
    match s.descriptor pa with
    | none => (2, s)
    | some (binds, d) =>
      let old := Tab.look s.identifiers id
      let s1 := s.dropTlb (fun t => t.asid = id)
      if !binds then
        if s.teams.any (fun t => t.2.asid = id) || s.queues.any (fun q => q.2.bound = some id) then (3, s)
        else (0, { s1 with
          identifiers := Tab.del s1.identifiers id,
          transRecs := s1.transRecs.filter (fun r => r.asid ≠ id) })
      else
        match old with
        | some o =>
          -- the old queue's header is read where the queue moves
          let moved := o.fqbase ≠ d.fqbase || o.fqsize ≠ d.fqsize
          let read := fun (t : State) => if moved then t.pullLines o.fqbase 8 else t
          if moved && s.deviceNat 60 o.fqbase 4 ≠ s.deviceNat 60 (o.fqbase + 4) 4 then (4, read s)
          else (0, { read s1 with
            identifiers := Tab.put s1.identifiers id d,
            fqdrop := Tab.put s1.fqdrop id 0,
            fqdropStart := Tab.put s1.fqdropStart id 0 })
        | none =>
          (0, { s1.deviceWrite d.fqbase (List.replicate 32 0) with
            identifiers := Tab.put s1.identifiers id d,
            fqdrop := Tab.put s1.fqdrop id 0,
            fqdropStart := Tab.put s1.fqdropStart id 0,
            selectors := s1.selectors.filter (fun e => e.1 / 128 ≠ id) })

/-- asidset (R426). -/
def execAsidset (d a b : Reg) (s : State) : Host.Outcome State Fault Refusal :=
  run (.asidset d a b) s (fun cx t =>
    let id := (cx.rd t cx.lowPhys b.toNat).toNat
    let pa := cx.rd2 t cx.lowPhys a.toNat
    if t.loadsPending (· = id) || t.descWaits pa then cx.again t
    else
      let r := t.setIdentifier pa id
      cx.finish (cx.uniform r.2 d 1 (fun _ => r.1)))

/-! ### Migration -/

/-- A migration descriptor of R433, with the physical address of the leaf entry and the new leaf. -/
def State.migration (s : State) (pa : Nat) : Option (Migration × Nat × Nat) :=
  let w := s.descWord pa
  let q := s.descPair pa
  let size := bits (w 0) 12 11
  let level := 3 - size
  let new := q 6
  if pa % 64 ≠ 0 || !s.readable pa 64 then none
  else if bits (w 0) 31 13 ≠ 0 || size = 3 || w 1 ≠ 0 || w 14 ≠ 0 || w 15 ≠ 0 then none
  else if 2 ^ 57 ≤ q 2 || q 2 % migSize size ≠ 0 || !isHbm (q 4) || q 4 % 8 ≠ 0 then none
  else if !pteValid new || !pteLeaf new || !ptePull new || malformed level new || !isHbm (pteAddr new) then none
  else if !(isHbm (q 8) || isCellar (q 8)) || q 8 % migSize size ≠ 0 then none
  else if !isHbm (q 10 + migSize size / 1024 - 1) || q 10 % 64 ≠ 0 || q 12 % 4 ≠ 0 then none
  else some (⟨bits (w 0) 10 0, size, q 2, pteAddr new, q 8, q 10, q 12, true⟩, q 4, new)

/-- Every core writes back and drops its L1 lines of a page (R434). -/
def State.flushPage (s : State) (pa size : Nat) : State :=
  s.cores.foldl (fun t c => (c.2.l1.filter (fun x => pa ≤ x.line * 128 && x.line * 128 < pa + size)).foldl
    (fun u x => u.evictL1 c.1 x.line) t) s

/-- The lines of the leaf entry and of the bitmap. -/
def Migration.lines (m : Migration) (pte : Nat) : List Nat := linesTouched pte 8 ++ linesTouched m.bitmap (migSize m.size / 1024)

/-- Whether a migration's descriptor, leaf entry or bitmap has to wait for a stack (R465). -/
def State.migrationWaits (s : State) (pa : Nat) : Bool :=
  s.descWaits pa || (match s.migration pa with
    | none => false
    | some (m, pte, _) => (m.lines pte).any s.lineWaits)

/-- The migration starts: the status of R434 and the state. The gate opens again before the step ends, so no access waits at
it; accesses already translated have been performed before the step. -/
def Cx.startMigration (cx : Cx) (s : State) (pa : Nat) : Nat × State :=
  let s := s.pullDesc pa
  match s.migration pa with
  | none => (2, s)
  | some (m, pte, new) =>
    let s := s.pullLines pte 8
    let cur := s.deviceNat 59 pte 8
    if (Tab.look s.migrations (pteMig new)).isSome then (1, s)
    else if !pteValid cur || !pteLeaf cur || malformed (3 - m.size) cur || pteAddr cur ≠ m.oldPa || ptePull cur then (3, s)
    else
      let s1 := ((s.writeBackL1 cx.core).dropTlb (fun t => t.covers m.asid m.va)).flushPage m.oldPa (migSize m.size)
      let s2 := (s1.deviceWrite m.bitmap (List.replicate (migSize m.size / 1024) 0)).deviceWrite pte (bytesOf 8 new)
      (0, { s2 with migrations := Tab.put s2.migrations (pteMig new) m })

/-- mgate (R434). -/
def execMgate (d a : Reg) (s : State) : Host.Outcome State Fault Refusal :=
  run (.mgate d a) s (fun cx t =>
    let pa := cx.rd2 t cx.lowPhys a.toNat
    if t.loadsPending (fun _ => true) || t.migrationWaits pa then cx.again t
    else
      let r := cx.startMigration t pa
      cx.finish (cx.uniform r.2 d 1 (fun _ => r.1)))

/-- For each span the lowest line of a migrating page that has still to be pulled (R436). -/
def State.fillLines (s : State) (m : Migration) : List Nat :=
  (List.range 8).filterMap (fun span => (List.range (migSize m.size / 128)).find? (fun i =>
    spanOfPa (m.newPa + 128 * i) = span && !s.pulled m i))

/-- MIGRATION_FILLER (R436): the filler of a span whose next line can come pulls it; when every bit is set, DONE is stored and the
entry is free. -/
def execMigrationFiller (entry : Nat) (s : State) : Host.Outcome State Fault Refusal :=
  .next (match Tab.look s.migrations entry with
  | none => s
  | some m =>
    if !m.pulling then s
    else
      match s.fillLines m with
      | i :: rest =>
        let can := ((i :: rest).filterMap (fun k => (s.fillHome m.asid 0 (m.newPa / 128 + k)).map (fun t => t.pull m k)))
        can.getD (s.pick 103 can.length) s
      | [] => { s.deviceWrite m.done (bytesOf 4 1) with migrations := Tab.del s.migrations entry })

/-! ### Answers to translation records -/

/-- Changes the splits of a tree that wait for a record; f is given address and lanes. -/
def Tree.resolve (t : Tree) (ticket : Nat) (f : Split → Nat → Mask → Split) : Tree :=
  { t with splits := t.splits.map (fun p => match p.2.park with
      | .translation k va lanes => if k = ticket then (p.1, f p.2 va lanes) else p
      | _ => p) }

/-- The same in every tree of an identifier's gangs, frozen ones among them (R417, R429). -/
def State.resolve (s : State) (asid ticket : Nat) (f : Split → Nat → Mask → Split) : State :=
  { s with gangs := s.gangs.map (fun (g : Nat × Gang) => match s.block? g.2.bid with
      | some b =>
        if b.asid = asid then (g.1, { g.2 with
          tree := g.2.tree.resolve ticket f,
          layers := g.2.layers.map (fun l => { l with tree := l.tree.resolve ticket f }) })
        else g
      | none => g) }

/-- The gangs of an identifier that wait for a record, with the trap each would have taken. -/
def State.waitersOf (s : State) (asid ticket : Nat) : List (Nat × Nat × Nat × Trap) :=
  s.gangs.flatMap (fun g => match s.block? g.2.bid with
    | some b =>
      if b.asid ≠ asid then []
      else ((g.2.tree :: g.2.layers.map Layer.tree).flatMap Tree.splits).filterMap (fun p => match p.2.park with
        | .translation k va lanes =>
          if k = ticket then some (b.team, b.slot, g.2.num, (⟨8 + 128, lanes, p.2.pc, BitVec.ofNat 64 va, 0, p.1⟩ : Trap)) else none
        | _ => none)
    | none => [])

/-- Copies and matrix operations that wait for a record are asked to go on. -/
def State.releaseCopies (s : State) (asid ticket : Nat) (f : Copy → Copy) (g : MatOp → MatOp) : State :=
  { s with cores := s.cores.map (fun c => (c.1, { c.2 with
      copies := c.2.copies.map (fun x =>
        if x.ticket = some ticket && ((s.block? x.bid).map Block.asid) = some asid then f x else x)
      fifo := c.2.fifo.map (fun x =>
        if x.ticket = some ticket && ((s.block? x.bid).map Block.asid) = some asid then g x else x) })) }

/-- The unresolved record that a resume names (R429). -/
def State.record? (s : State) (asid ticket : Nat) : Option TransRec := s.transRecs.find? (fun r => r.asid = asid && r.ticket = ticket)
/-- The same, where the resume port can be reached at all (R448). -/
def State.resumed (s : State) (asid ticket : Nat) : Option TransRec := if s.link = .down then none else s.record? asid ticket
def State.dropRecord (s : State) (asid ticket : Nat) : State :=
  { s with transRecs := s.transRecs.filter (fun r => r.asid ≠ asid || r.ticket ≠ ticket) }

/-- RESUME_RETRY (R429): every access that joined the record is translated afresh. -/
def execResumeRetry (asid ticket : Nat) (s : State) : Host.Outcome State Fault Refusal :=
  .next (match s.resumed asid ticket with
  | none => s
  | some _ =>
    ((s.dropRecord asid ticket).resolve asid ticket (fun x _ _ => { x with park := .resource })).releaseCopies asid ticket
      (fun c => { c with ticket := none }) (fun o => { o with ticket := none }))

/-- RESUME_REFUSE (R429): cause 0x09 at each parked instruction, and at copies under R396. -/
def execResumeRefuse (asid ticket : Nat) (s : State) : Host.Outcome State Fault Refusal :=
  .next (match s.resumed asid ticket with
  | none => s
  | some r =>
    ((s.dropRecord asid ticket).resolve asid ticket (fun x va lanes => { x with park := .refused va lanes })).releaseCopies asid ticket
      (fun c => c.refuse r.va) (fun o => o.refuse r.va))

/-- RESUME_END (R429): the teams of the accesses that joined the record end, with a fatal record. A copy or a matrix operation that
waited for it ends as a refused one, so that the team can (R34; log entry 72). -/
def execResumeEnd (asid ticket : Nat) (s : State) : Host.Outcome State Fault Refusal :=
  .next (match s.resumed asid ticket with
  | none => s
  | some r =>
    let s1 := (s.waitersOf asid ticket).foldl (fun t w => t.abortTeam w.1 w.2.1 w.2.2.1 (some w.2.2.2)) (s.dropRecord asid ticket)
    let trap : Trap := ⟨8 + 128, 0, 0, BitVec.ofNat 64 r.va, 0, 0⟩
    ((s1.cores.flatMap (fun c => c.2.copies)).foldl (fun t c =>
      match t.block? c.bid with
      | some b => if c.ticket = some ticket && b.asid = asid then t.abortTeam b.team b.slot 31 (some trap) else t
      | none => t) ((s1.cores.flatMap (fun c => c.2.fifo)).foldl (fun t o =>
        match t.block? o.bid with
        | some b => if o.ticket = some ticket && b.asid = asid then t.abortTeam b.team b.slot (o.quartet * 4) (some trap) else t
        | none => t) s1)).releaseCopies asid ticket (fun c => c.refuse r.va) (fun o => o.refuse r.va))

/-- RESUME_DISCARDED (R429): ACTION 3 does nothing. -/
def execResumeDiscarded (_ _ : Nat) (s : State) : Host.Outcome State Fault Refusal := .next s

end Sys2Proof.Machine
end

