-- ==== Sys2Proof/Machine/Dispatch.lean ====
section
/-!
DEFINITION. Machine/Dispatch.lean: one arm for each constructor of Instr.
-/

namespace Sys2Proof.Machine

open Sys2Proof

def exec (i : Instr) (s : State) : Host.Outcome State Fault Refusal :=
  match i with
  | .add d a b => Sys2Proof.Machine.execAdd d a b s
  | .sub d a b => Sys2Proof.Machine.execSub d a b s
  | .mul d a b => Sys2Proof.Machine.execMul d a b s
  | .mulhiI32 d a b => Sys2Proof.Machine.execMulhiI32 d a b s
  | .mulhiN32 d a b => Sys2Proof.Machine.execMulhiN32 d a b s
  | .mad d a b => Sys2Proof.Machine.execMad d a b s
  | .addI64 d a b => Sys2Proof.Machine.execAddI64 d a b s
  | .subI64 d a b => Sys2Proof.Machine.execSubI64 d a b s
  | .mulwI32 d a b => Sys2Proof.Machine.execMulwI32 d a b s
  | .mulwN32 d a b => Sys2Proof.Machine.execMulwN32 d a b s
  | .minI32 d a b => Sys2Proof.Machine.execMinI32 d a b s
  | .maxI32 d a b => Sys2Proof.Machine.execMaxI32 d a b s
  | .minN32 d a b => Sys2Proof.Machine.execMinN32 d a b s
  | .maxN32 d a b => Sys2Proof.Machine.execMaxN32 d a b s
  | .addi d imm => Sys2Proof.Machine.execAddi d imm s
  | .ldi d imm => Sys2Proof.Machine.execLdi d imm s
  | .and d a b => Sys2Proof.Machine.execAnd d a b s
  | .or d a b => Sys2Proof.Machine.execOr d a b s
  | .xor d a b => Sys2Proof.Machine.execXor d a b s
  | .andn d a b => Sys2Proof.Machine.execAndn d a b s
  | .shl d a b => Sys2Proof.Machine.execShl d a b s
  | .shrN32 d a b => Sys2Proof.Machine.execShrN32 d a b s
  | .shrI32 d a b => Sys2Proof.Machine.execShrI32 d a b s
  | .shli d a imm => Sys2Proof.Machine.execShli d a imm s
  | .shriN32 d a imm => Sys2Proof.Machine.execShriN32 d a imm s
  | .shriI32 d a imm => Sys2Proof.Machine.execShriI32 d a imm s
  | .bfeN32 d a b => Sys2Proof.Machine.execBfeN32 d a b s
  | .bfeI32 d a b => Sys2Proof.Machine.execBfeI32 d a b s
  | .bfi d a b => Sys2Proof.Machine.execBfi d a b s
  | .popc d a => Sys2Proof.Machine.execPopc d a s
  | .clz d a => Sys2Proof.Machine.execClz d a s
  | .brev d a => Sys2Proof.Machine.execBrev d a s
  | .uAdd d a b => Sys2Proof.Machine.execUAdd d a b s
  | .uSub d a b => Sys2Proof.Machine.execUSub d a b s
  | .uMul d a b => Sys2Proof.Machine.execUMul d a b s
  | .uMulhiI32 d a b => Sys2Proof.Machine.execUMulhiI32 d a b s
  | .uMulhiN32 d a b => Sys2Proof.Machine.execUMulhiN32 d a b s
  | .uMad d a b => Sys2Proof.Machine.execUMad d a b s
  | .uAddI64 d a b => Sys2Proof.Machine.execUAddI64 d a b s
  | .uSubI64 d a b => Sys2Proof.Machine.execUSubI64 d a b s
  | .uMulwI32 d a b => Sys2Proof.Machine.execUMulwI32 d a b s
  | .uMulwN32 d a b => Sys2Proof.Machine.execUMulwN32 d a b s
  | .uMinI32 d a b => Sys2Proof.Machine.execUMinI32 d a b s
  | .uMaxI32 d a b => Sys2Proof.Machine.execUMaxI32 d a b s
  | .uMinN32 d a b => Sys2Proof.Machine.execUMinN32 d a b s
  | .uMaxN32 d a b => Sys2Proof.Machine.execUMaxN32 d a b s
  | .uAddi d imm => Sys2Proof.Machine.execUAddi d imm s
  | .uLdi d imm => Sys2Proof.Machine.execULdi d imm s
  | .uAnd d a b => Sys2Proof.Machine.execUAnd d a b s
  | .uOr d a b => Sys2Proof.Machine.execUOr d a b s
  | .uXor d a b => Sys2Proof.Machine.execUXor d a b s
  | .uAndn d a b => Sys2Proof.Machine.execUAndn d a b s
  | .uShl d a b => Sys2Proof.Machine.execUShl d a b s
  | .uShrN32 d a b => Sys2Proof.Machine.execUShrN32 d a b s
  | .uShrI32 d a b => Sys2Proof.Machine.execUShrI32 d a b s
  | .uShli d a imm => Sys2Proof.Machine.execUShli d a imm s
  | .uShriN32 d a imm => Sys2Proof.Machine.execUShriN32 d a imm s
  | .uShriI32 d a imm => Sys2Proof.Machine.execUShriI32 d a imm s
  | .uBfeN32 d a b => Sys2Proof.Machine.execUBfeN32 d a b s
  | .uBfeI32 d a b => Sys2Proof.Machine.execUBfeI32 d a b s
  | .uBfi d a b => Sys2Proof.Machine.execUBfi d a b s
  | .uPopc d a => Sys2Proof.Machine.execUPopc d a s
  | .uClz d a => Sys2Proof.Machine.execUClz d a s
  | .uBrev d a => Sys2Proof.Machine.execUBrev d a s
  | .seteq d a b => Sys2Proof.Machine.execSeteq d a b s
  | .setne d a b => Sys2Proof.Machine.execSetne d a b s
  | .setltI32 d a b => Sys2Proof.Machine.execSetltI32 d a b s
  | .setleI32 d a b => Sys2Proof.Machine.execSetleI32 d a b s
  | .setltN32 d a b => Sys2Proof.Machine.execSetltN32 d a b s
  | .setleN32 d a b => Sys2Proof.Machine.execSetleN32 d a b s
  | .setltI64 d a b => Sys2Proof.Machine.execSetltI64 d a b s
  | .seteqI64 d a b => Sys2Proof.Machine.execSeteqI64 d a b s
  | .xchAt d a b => Sys2Proof.Machine.execXchAt d a b s
  | .xchBelow d a b => Sys2Proof.Machine.execXchBelow d a b s
  | .xchAbove d a b => Sys2Proof.Machine.execXchAbove d a b s
  | .xchMirror d a b => Sys2Proof.Machine.execXchMirror d a b s
  | .vmask d a => Sys2Proof.Machine.execVmask d a s
  | .vgroup d a => Sys2Proof.Machine.execVgroup d a s
  | .lred d a imm => Sys2Proof.Machine.execLred d a imm s
  | .faddF32 d a b => Sys2Proof.Machine.execFaddF32 d a b s
  | .fsubF32 d a b => Sys2Proof.Machine.execFsubF32 d a b s
  | .fmulF32 d a b => Sys2Proof.Machine.execFmulF32 d a b s
  | .ffmaF32 d a b => Sys2Proof.Machine.execFfmaF32 d a b s
  | .fminF32 d a b => Sys2Proof.Machine.execFminF32 d a b s
  | .fmaxF32 d a b => Sys2Proof.Machine.execFmaxF32 d a b s
  | .fdivF32 d a b => Sys2Proof.Machine.execFdivF32 d a b s
  | .fsqrtF32 d a => Sys2Proof.Machine.execFsqrtF32 d a s
  | .fseteqF32 d a b => Sys2Proof.Machine.execFseteqF32 d a b s
  | .fsetltF32 d a b => Sys2Proof.Machine.execFsetltF32 d a b s
  | .fsetleF32 d a b => Sys2Proof.Machine.execFsetleF32 d a b s
  | .fsetunF32 d a b => Sys2Proof.Machine.execFsetunF32 d a b s
  | .faddiF32 d imm => Sys2Proof.Machine.execFaddiF32 d imm s
  | .fmuliF32 d imm => Sys2Proof.Machine.execFmuliF32 d imm s
  | .fclassF32 d a => Sys2Proof.Machine.execFclassF32 d a s
  | .fnmaF32 d a b => Sys2Proof.Machine.execFnmaF32 d a b s
  | .faddF64 d a b => Sys2Proof.Machine.execFaddF64 d a b s
  | .fsubF64 d a b => Sys2Proof.Machine.execFsubF64 d a b s
  | .fmulF64 d a b => Sys2Proof.Machine.execFmulF64 d a b s
  | .ffmaF64 d a b => Sys2Proof.Machine.execFfmaF64 d a b s
  | .fminF64 d a b => Sys2Proof.Machine.execFminF64 d a b s
  | .fmaxF64 d a b => Sys2Proof.Machine.execFmaxF64 d a b s
  | .fdivF64 d a b => Sys2Proof.Machine.execFdivF64 d a b s
  | .fsqrtF64 d a => Sys2Proof.Machine.execFsqrtF64 d a s
  | .fseteqF64 d a b => Sys2Proof.Machine.execFseteqF64 d a b s
  | .fsetltF64 d a b => Sys2Proof.Machine.execFsetltF64 d a b s
  | .fsetleF64 d a b => Sys2Proof.Machine.execFsetleF64 d a b s
  | .fsetunF64 d a b => Sys2Proof.Machine.execFsetunF64 d a b s
  | .faddiF64 d imm => Sys2Proof.Machine.execFaddiF64 d imm s
  | .fmuliF64 d imm => Sys2Proof.Machine.execFmuliF64 d imm s
  | .fclassF64 d a => Sys2Proof.Machine.execFclassF64 d a s
  | .fnmaF64 d a b => Sys2Proof.Machine.execFnmaF64 d a b s
  | .haddF16x2 d a b => Sys2Proof.Machine.execHaddF16x2 d a b s
  | .hmulF16x2 d a b => Sys2Proof.Machine.execHmulF16x2 d a b s
  | .hfmaF16x2 d a b => Sys2Proof.Machine.execHfmaF16x2 d a b s
  | .haddBf16x2 d a b => Sys2Proof.Machine.execHaddBf16x2 d a b s
  | .hmulBf16x2 d a b => Sys2Proof.Machine.execHmulBf16x2 d a b s
  | .hfmaBf16x2 d a b => Sys2Proof.Machine.execHfmaBf16x2 d a b s
  | .cvt d a ovr rm conv => Sys2Proof.Machine.execCvt d a ovr rm conv s
  | .qbx d a ovr rm len16 bx4 => Sys2Proof.Machine.execQbx d a ovr rm len16 bx4 s
  | .frcpF32 d a => Sys2Proof.Machine.execFrcpF32 d a s
  | .frsqF32 d a => Sys2Proof.Machine.execFrsqF32 d a s
  | .fexp2F32 d a => Sys2Proof.Machine.execFexp2F32 d a s
  | .flog2F32 d a => Sys2Proof.Machine.execFlog2F32 d a s
  | .fsinF32 d a => Sys2Proof.Machine.execFsinF32 d a s
  | .fcosF32 d a => Sys2Proof.Machine.execFcosF32 d a s
  | .frcpF64 d a => Sys2Proof.Machine.execFrcpF64 d a s
  | .frsqF64 d a => Sys2Proof.Machine.execFrsqF64 d a s
  | .ld d a acc => Sys2Proof.Machine.execLd d a acc s
  | .st d a acc => Sys2Proof.Machine.execSt d a acc s
  | .lda d a b acc => Sys2Proof.Machine.execLda d a b acc s
  | .atom d a b acc => Sys2Proof.Machine.execAtom d a b acc s
  | .cas d a b acc => Sys2Proof.Machine.execCas d a b acc s
  | .cas2 d a b acc => Sys2Proof.Machine.execCas2 d a b acc s
  | .pf a acc => Sys2Proof.Machine.execPf a acc s
  | .evict a acc => Sys2Proof.Machine.execEvict a acc s
  | .mov d b => Sys2Proof.Machine.execMov d b s
  | .movI64 d b => Sys2Proof.Machine.execMovI64 d b s
  | .movx d a b => Sys2Proof.Machine.execMovx d a b s
  | .movxr d a b => Sys2Proof.Machine.execMovxr d a b s
  | .sel d a b => Sys2Proof.Machine.execSel d a b s
  | .sread d imm => Sys2Proof.Machine.execSread d imm s
  | .swrite d imm => Sys2Proof.Machine.execSwrite d imm s
  | .movh d imm => Sys2Proof.Machine.execMovh d imm s
  | .bra t j => Sys2Proof.Machine.execBra t j s
  | .brx x a b => Sys2Proof.Machine.execBrx x a b s
  | .call t l => Sys2Proof.Machine.execCall t l s
  | .ret a => Sys2Proof.Machine.execRet a s
  | .joinw d imm => Sys2Proof.Machine.execJoinw d imm s
  | .trap imm => Sys2Proof.Machine.execTrap imm s
  | .brk imm => Sys2Proof.Machine.execBrk imm s
  | .emsave d => Sys2Proof.Machine.execEmsave d s
  | .emset a => Sys2Proof.Machine.execEmset a s
  | .barInit d a b => Sys2Proof.Machine.execBarInit d a b s
  | .barArrive d a b => Sys2Proof.Machine.execBarArrive d a b s
  | .barWait d a b => Sys2Proof.Machine.execBarWait d a b s
  | .fence scope => Sys2Proof.Machine.execFence scope s
  | .waitc d imm => Sys2Proof.Machine.execWaitc d imm s
  | .uWaitring d a b => Sys2Proof.Machine.execUWaitring d a b s
  | .barSync d a b => Sys2Proof.Machine.execBarSync d a b s
  | .uRecruit d a => Sys2Proof.Machine.execURecruit d a s
  | .uHloop d a b => Sys2Proof.Machine.execUHloop d a b s
  | .uHjoin d a b => Sys2Proof.Machine.execUHjoin d a b s
  | .setshape d a => Sys2Proof.Machine.execSetshape d a s
  | .mma d a b => Sys2Proof.Machine.execMma d a b s
  | .mgath d a => Sys2Proof.Machine.execMgath d a s
  | .mdrain d a clear recomp => Sys2Proof.Machine.execMdrain d a clear recomp s
  | .mzero d a b => Sys2Proof.Machine.execMzero d a b s
  | .tld d a acc => Sys2Proof.Machine.execTld d a acc s
  | .tst d a b acc => Sys2Proof.Machine.execTst d a b acc s
  | .cksum d b => Sys2Proof.Machine.execCksum d b s
  | .ckchk d => Sys2Proof.Machine.execCkchk d s
  | .ckinj d a b => Sys2Proof.Machine.execCkinj d a b s
  | .copy d a b => Sys2Proof.Machine.execCopy d a b s
  | .copyTile d a b => Sys2Proof.Machine.execCopyTile d a b s
  | .copyGath d a b => Sys2Proof.Machine.execCopyGath d a b s
  | .copyScat d a b => Sys2Proof.Machine.execCopyScat d a b s
  | .copyRed d a b => Sys2Proof.Machine.execCopyRed d a b s
  | .copyConv d a b => Sys2Proof.Machine.execCopyConv d a b s
  | .launch d a b => Sys2Proof.Machine.execLaunch d a b s
  | .amsend d a b => Sys2Proof.Machine.execAmsend d a b s
  | .trctl on_ => Sys2Proof.Machine.execTrctl on_ s
  | .trmark imm => Sys2Proof.Machine.execTrmark imm s
  | .uLd d a acc => Sys2Proof.Machine.execULd d a acc s
  | .uSt d a acc => Sys2Proof.Machine.execUSt d a acc s
  | .uAtom d a b acc => Sys2Proof.Machine.execUAtom d a b acc s
  | .smap a b acc => Sys2Proof.Machine.execSmap a b acc s
  | .sunmap acc => Sys2Proof.Machine.execSunmap acc s
  | .sflush acc => Sys2Proof.Machine.execSflush acc s
  | .uCas d a b acc => Sys2Proof.Machine.execUCas d a b acc s
  | .locq d a => Sys2Proof.Machine.execLocq d a s
  | .tlbinvPage a b => Sys2Proof.Machine.execTlbinvPage a b s
  | .tlbinvAsid b => Sys2Proof.Machine.execTlbinvAsid b s
  | .asidset d a b => Sys2Proof.Machine.execAsidset d a b s
  | .mgate d a => Sys2Proof.Machine.execMgate d a s
  | .cntrd d imm => Sys2Proof.Machine.execCntrd d imm s
  | .cntset d imm => Sys2Proof.Machine.execCntset d imm s
  | .sleep imm => Sys2Proof.Machine.execSleep imm s
  | .trapEntry bid g => Sys2Proof.Machine.execTrapEntry bid g s
  | .joinwTimeout bid g place => Sys2Proof.Machine.execJoinwTimeout bid g place s
  | .starvationLimit core quad => Sys2Proof.Machine.execStarvationLimit core quad s
  | .issueSelect core quad => Sys2Proof.Machine.execIssueSelect core quad s
  | .sleepExpiry bid g place => Sys2Proof.Machine.execSleepExpiry bid g place s
  | .barrierWaitWake bid g place => Sys2Proof.Machine.execBarrierWaitWake bid g place s
  | .waitcWake bid g place => Sys2Proof.Machine.execWaitcWake bid g place s
  | .waitringWake bid g place => Sys2Proof.Machine.execWaitringWake bid g place s
  | .resourceWake bid g place => Sys2Proof.Machine.execResourceWake bid g place s
  | .firstTouchFill bid line => Sys2Proof.Machine.execFirstTouchFill bid line s
  | .ldaReply bid g id lane word => Sys2Proof.Machine.execLdaReply bid g id lane word s
  | .helperForcedRelease bid g => Sys2Proof.Machine.execHelperForcedRelease bid g s
  | .matrixOpStart core => Sys2Proof.Machine.execMatrixOpStart core s
  | .matrixSourceRelease core range => Sys2Proof.Machine.execMatrixSourceRelease core range s
  | .matrixOpComplete core => Sys2Proof.Machine.execMatrixOpComplete core s
  | .copyStart bid opid => Sys2Proof.Machine.execCopyStart bid opid s
  | .copySourceRelease bid opid => Sys2Proof.Machine.execCopySourceRelease bid opid s
  | .copyLineArrival bid opid => Sys2Proof.Machine.execCopyLineArrival bid opid s
  | .copyComplete bid opid => Sys2Proof.Machine.execCopyComplete bid opid s
  | .copyFault bid opid => Sys2Proof.Machine.execCopyFault bid opid s
  | .blockPlace team => Sys2Proof.Machine.execBlockPlace team s
  | .contextStage core bid => Sys2Proof.Machine.execContextStage core bid s
  | .blockStart bid => Sys2Proof.Machine.execBlockStart bid s
  | .blockEnd bid => Sys2Proof.Machine.execBlockEnd bid s
  | .teamAbort team => Sys2Proof.Machine.execTeamAbort team s
  | .handlerSpawn core => Sys2Proof.Machine.execHandlerSpawn core s
  | .messageArrival id => Sys2Proof.Machine.execMessageArrival id s
  | .teamDiscard team => Sys2Proof.Machine.execTeamDiscard team s
  | .teamSave team => Sys2Proof.Machine.execTeamSave team s
  | .teamRestore team => Sys2Proof.Machine.execTeamRestore team s
  | .closeRequest span slice => Sys2Proof.Machine.execCloseRequest span slice s
  | .implicitSplit bid => Sys2Proof.Machine.execImplicitSplit bid s
  | .slotRenewal bid => Sys2Proof.Machine.execSlotRenewal bid s
  | .slotPurge bid => Sys2Proof.Machine.execSlotPurge bid s
  | .atticSweep line => Sys2Proof.Machine.execAtticSweep line s
  | .migrationFiller entry => Sys2Proof.Machine.execMigrationFiller entry s
  | .inboundRouteAck id span => Sys2Proof.Machine.execInboundRouteAck id span s
  | .tracePeriodicSync core => Sys2Proof.Machine.execTracePeriodicSync core s
  | .remoteAtomicRetry bid g place expired => Sys2Proof.Machine.execRemoteAtomicRetry bid g place expired s
  | .clockChange die => Sys2Proof.Machine.execClockChange die s
  | .retrainingDeferralExpiry stack => Sys2Proof.Machine.execRetrainingDeferralExpiry stack s
  | .join => Sys2Proof.Machine.execJoin s
  | .yield => Sys2Proof.Machine.execYield s
  | .exit => Sys2Proof.Machine.execExit s
  | .uIsplit => Sys2Proof.Machine.execUIsplit s
  | .uHrel => Sys2Proof.Machine.execUHrel s
  | .tretRetry => Sys2Proof.Machine.execTretRetry s
  | .tretSkip => Sys2Proof.Machine.execTretSkip s
  | .tretEnd => Sys2Proof.Machine.execTretEnd s
  | .tlbinvAll => Sys2Proof.Machine.execTlbinvAll s
  | .nop => Sys2Proof.Machine.execNop s
  | .gangStateError bid g => Sys2Proof.Machine.execGangStateError bid g s
  | .scoreboardSquash bid g place => Sys2Proof.Machine.execScoreboardSquash bid g place s
  | .boundaryDrain core => Sys2Proof.Machine.execBoundaryDrain core s
  | .schedulerTake => Sys2Proof.Machine.execSchedulerTake s
  | .tokenEvict asid token => Sys2Proof.Machine.execTokenEvict asid token s
  | .launchPortWrite queue offset data => Sys2Proof.Machine.execLaunchPortWrite queue offset data s
  | .qcmdNop queue value => Sys2Proof.Machine.execQcmdNop queue value s
  | .qcmdBind queue value => Sys2Proof.Machine.execQcmdBind queue value s
  | .qcmdUnbind queue value => Sys2Proof.Machine.execQcmdUnbind queue value s
  | .qcmdEnable queue value => Sys2Proof.Machine.execQcmdEnable queue value s
  | .qcmdDisable queue value => Sys2Proof.Machine.execQcmdDisable queue value s
  | .qstatWrite queue value => Sys2Proof.Machine.execQstatWrite queue value s
  | .qspillWrite queue value => Sys2Proof.Machine.execQspillWrite queue value s
  | .preemptRequest team deadline area nodrain nodiscard => Sys2Proof.Machine.execPreemptRequest team deadline area nodrain nodiscard s
  | .restoreRequest team area => Sys2Proof.Machine.execRestoreRequest team area s
  | .endRequest team => Sys2Proof.Machine.execEndRequest team s
  | .preemptDiscardedOp team => Sys2Proof.Machine.execPreemptDiscardedOp team s
  | .resumeRetry asid ticket => Sys2Proof.Machine.execResumeRetry asid ticket s
  | .resumeRefuse asid ticket => Sys2Proof.Machine.execResumeRefuse asid ticket s
  | .resumeEnd asid ticket => Sys2Proof.Machine.execResumeEnd asid ticket s
  | .resumeDiscarded asid ticket => Sys2Proof.Machine.execResumeDiscarded asid ticket s
  | .lineEvict line => Sys2Proof.Machine.execLineEvict line s
  | .inboundWrite offset relaxed data => Sys2Proof.Machine.execInboundWrite offset relaxed data s
  | .hostBar2Read offset n => Sys2Proof.Machine.execHostBar2Read offset n s
  | .hostSnoop pa n data => Sys2Proof.Machine.execHostSnoop pa n data s
  | .linkUp coherent => Sys2Proof.Machine.execLinkUp coherent s
  | .linkDown => Sys2Proof.Machine.execLinkDown s
  | .errstatWrite value => Sys2Proof.Machine.execErrstatWrite value s
  | .trrpWrite core value => Sys2Proof.Machine.execTrrpWrite core value s
  | .registerWrite offset value => Sys2Proof.Machine.execRegisterWrite offset value s
  | .traceLossWrite core => Sys2Proof.Machine.execTraceLossWrite core s
  | .remoteWriteArrival peer pa data => Sys2Proof.Machine.execRemoteWriteArrival peer pa data s
  | .remoteAtomicArrival peer seq replay pa n op x y => Sys2Proof.Machine.execRemoteAtomicArrival peer seq replay pa n op x y s
  | .frameResend id port => Sys2Proof.Machine.execFrameResend id port s
  | .routeTableWrite iodie peer route acked => Sys2Proof.Machine.execRouteTableWrite iodie peer route acked s
  | .mgmtQueueDisable queue => Sys2Proof.Machine.execMgmtQueueDisable queue s
  | .mgmtQueueEnable queue => Sys2Proof.Machine.execMgmtQueueEnable queue s
  | .mgmtDieReset die disable => Sys2Proof.Machine.execMgmtDieReset die disable s
  | .mgmtDieEnable die => Sys2Proof.Machine.execMgmtDieEnable die s
  | .mgmtFaultQueueRead asid => Sys2Proof.Machine.execMgmtFaultQueueRead asid s
  | .mgmtControllerReset => Sys2Proof.Machine.execMgmtControllerReset s
  | .ballastWrite value => Sys2Proof.Machine.execBallastWrite value s
  | .hbmRateChange stack rate => Sys2Proof.Machine.execHbmRateChange stack rate s
  | .hbmRetrainDone stack outcome => Sys2Proof.Machine.execHbmRetrainDone stack outcome s
  | .hbmStackReset stack => Sys2Proof.Machine.execHbmStackReset stack s
  | .sensorSample sensor temp valid => Sys2Proof.Machine.execSensorSample sensor temp valid s
  | .thermalDecision die => Sys2Proof.Machine.execThermalDecision die s
  | .governorTest power => Sys2Proof.Machine.execGovernorTest power s
  | .powerUp => Sys2Proof.Machine.execPowerUp s
  | .firmwareImageLoad target version ecdsa lms => Sys2Proof.Machine.execFirmwareImageLoad target version ecdsa lms s
  | .spdmRequest request => Sys2Proof.Machine.execSpdmRequest request s
  | .memoryPoison pa => Sys2Proof.Machine.execMemoryPoison pa s
  | .ioParityError id offset => Sys2Proof.Machine.execIoParityError id offset s
  | .mgmtControllerResetRelease => Sys2Proof.Machine.execMgmtControllerResetRelease s
  | .recordingControl queues windows on_ => Sys2Proof.Machine.execRecordingControl queues windows on_ s

end Sys2Proof.Machine
end

