-- ==== Sys2Proof/Machine/Fetch.lean ====
section
/-!
DEFINITION. Machine/Fetch.lean: how an issuer enters its packet (R68, R86) and which instruction its slot holds; and the
state in which a given instruction is the next to be fetched.
-/

namespace Sys2Proof.Machine

open Sys2Proof

/-- What becomes of an issuer before its instruction is known. -/
inductive Entry where
  | ready (s : State) (p : Packet) (pc : Dword) (lanes : Mask)
  | stopped (s : State)
  | nobody
  deriving DecidableEq, Repr

/-- An issuer's own trap before any instruction (R68, R423). -/
def State.entryFault (s : State) (u : Issue) (pc : Dword) (lanes : Mask) (cause addr info : Nat) : State :=
  let t : Trap := ⟨cause, lanes, pc, BitVec.ofNat 64 addr, BitVec.ofNat 64 info, match u.who with
    | .split place => place
    | .helper _ _ => 200⟩
  match u.who with
  | .split _ => s.takeTrap (gangId u.bid u.gang) t
  | .helper lane index => s.helperFault (gangId u.bid u.gang) lane index t

/-- The issuer's packet, entered where it is not held yet: fetched, once the stacks of the lines that it is read through serve accesses
(R465), and its whole header checked (R68, R86). -/
def State.enter (s : State) (u : Issue) : Entry :=
  let gid := gangId u.bid u.gang
  match s.gang? gid, s.block? u.bid with
  | some g, some b =>
    let found : Option (Dword × Mask × Option Packet) := match u.who with
      | .split place => (Tab.look g.tree.splits place).map (fun x => (x.pc, x.mask, x.packet))
      | .helper lane index => ((Tab.look g.recruits lane).bind (fun r => r.helpers.find? (fun h => h.index = index))).map
          (fun h => (h.pc, maskOf [lane], h.packet))
    match found with
    | none => .nobody
    | some (pc, lanes, some p) => .ready s p pc lanes
    | some (pc, lanes, none) =>
      let v : Viewer := ⟨b.asid, b.core, b.bid, g.system⟩
      let keep := fun (t : State) (p : Packet) => match u.who with
        | .split place => t.modSplit gid place (fun x => { x with packet := some p })
        | .helper lane index => t.modGang gid (fun y => y.modHelper lane index (fun h => { h with packet := some p }))
      if (s.fetchLines v pc).any s.lineWaits then .stopped s
      else
      match s.fetch v pc with
      | .untranslated level reason =>
        match u.who with
        | .split place =>
          let (ticket, s1) := (s.pullFetched v pc).missRecord b.asid pc.toNat level reason false true (!g.system) b.slot g.num b.core 0 pc
          .stopped (s1.modSplit gid place (fun x => { x with park := .translation ticket pc.toNat lanes }))
        | .helper _ _ => .stopped (s.entryFault u pc lanes 8 pc.toNat 0)
      | .denied => .stopped (s.entryFault u pc lanes 9 pc.toNat 0)
      | .packet p =>
        let s1 := (s.pullFetched v pc).install b.core b.asid pc.toNat (s.translate b.core b.asid pc.toNat)
        match p.badSlot with
        | some k => .stopped (s1.entryFault u pc lanes 2 0 k)
        | none =>
          if pcBadBits pc || literalSlot p.kind (pcSlot pc) then .stopped (s1.entryFault u pc lanes 2 pc.toNat 0)
          else .ready (keep s1 p) p pc lanes
  | _, _ => .nobody

/-- Whether the issuer's instruction has been issued before and is only tried again (R417). -/
def State.retries (s : State) (u : Issue) : Bool :=
  match s.gang? (gangId u.bid u.gang) with
  | none => false
  | some g =>
    match u.who with
    | .split place => ((Tab.look g.tree.splits place).map Split.again).getD false
    | .helper lane index =>
      (((Tab.look g.recruits lane).bind (fun r => r.helpers.find? (fun h => h.index = index))).map Helper.again).getD false

/-- The scoreboard has not squashed the split that issues (R222). -/
def State.clearSquash (s : State) (u : Issue) : State :=
  match u.who with
  | .split place => s.modSplit (gangId u.bid u.gang) place (fun x => { x with squash := 0 })
  | .helper _ _ => s

/-- One more slot issued by the core (R438, R440, R444). -/
def State.countIssue (s : State) (u : Issue) : State :=
  match s.block? u.bid with
  | none => s
  | some b =>
    if s.retries u then s.clearSquash u
    else ((s.clearSquash u).modCore b.core (fun c => { c with
      issued := (c.issued + 1) % 2 ^ 64,
      slotCycle := s.cycle b.core,
      slots := (if c.slotCycle = s.cycle b.core then c.slots else 0) + 1 })).perf (dieOf b.core) 1 1

/-! ### A state that fetches a given instruction -/

/-- The literal of a table word, as Decode.lean reads it. -/
def tableLit (nbits w : Nat) : Lit :=
  if nbits ≤ 32 then
    (match decodeSlot (BitVec.ofNat 32 w) .none with
     | .error .literalMissing => .l32 0
     | _ => .none)
  else if nbits ≤ 64 then .l32 (BitVec.ofNat 32 (w / 2 ^ 32))
  else .l64 (BitVec.ofNat 64 (w / 2 ^ 32))

/-- A packet with the instruction in slot 1, its literal after it, and nops in what is left (R66, R92). -/
def tablePacket (nbits w : Nat) : List Nat :=
  let nop := 0xF7000000
  match tableLit nbits w with
  | .none => [0x0300C030, w % 2 ^ 32, nop, nop]
  | .l32 l => [0x43000030, w % 2 ^ 32, l.toNat, nop]
  | .l64 l => [0xC3000000, w % 2 ^ 32, l.toNat % 2 ^ 32, l.toNat / 2 ^ 32]

/-- Bytes of 8-byte table entries. -/
def placeEntry (m : List Host.Cell) (pa e : Nat) : List Host.Cell := Memory.writes m pa (bytesOf 8 e)

/-- One identifier, four tables that map virtual 0x1_0000 to physical 0x30_0000, one team with one block of one vector gang
on core 0, and the instruction's packet where that gang fetches next (log entry 8). -/
def State.placeWord (s : State) (nbits w : Nat) : State :=
  let m1 := placeEntry s.mem 0x100000 0x200001
  let m2 := placeEntry m1 0x200000 0x210001
  let m3 := placeEntry m2 0x210000 0x220001
  let m4 := placeEntry m3 0x220008 0x30003F
  let m5 := Memory.writes m4 0x300000 ((tablePacket nbits w).flatMap (bytesOf 4))
  { s with
    mem := m5,
    identifiers := Tab.put s.identifiers 0 ⟨0x100000, 0x10004, 0x400000, 64, 0⟩,
    boards := Tab.put s.boards 0 ⟨0, 1, 0⟩,
    teams := Tab.put s.teams 0 (Team.fresh 0 0 0 [] 0),
    blocks := Tab.put s.blocks 0 (Block.fresh 0 0 0 0 0 0 false [0] 32768 0 0 false),
    gangs := Tab.put s.gangs 0 (Gang.fresh 0 0 0 256 false false false 0x10004 0 0 0),
    issue := some ⟨0, 0, .split 0⟩ }

end Sys2Proof.Machine
end

