-- ==== Sys2Proof/Machine/Inputs.lean ====
section
/-!
DEFINITION. Machine/Inputs.lean: what reaches the package from outside and has no row of its own in the opcode table (log entry
6): register errors (R219), messages of peers (R344, R456), queue resets (R29, R330), the pre-emption port (R353), reads of
control pages (R331) and the inputs of a re-run (R350).
-/

namespace Sys2Proof.Machine

open Sys2Proof

/-- An uncorrectable error strikes a register: reading it is a lane death until it is written again (R219). -/
def State.strikeRegister (s : State) (gid key : Nat) : State :=
  s.modGang gid (fun g => if g.ended || g.bad.contains key then g else { g with bad := key :: g.bad })

/-- A write to the pre-emption port: 32 bytes are a request, whose reserved bits are ignored; a write of any other size is
discarded (R9, R353; log entry 106). -/
def preemptPort (bs : List Byte) (s : State) : Host.Outcome State Fault Refusal :=
  let team := wordAt bs 0
  let area := wordAt bs 8 + wordAt bs 12 * 2 ^ 32
  let flags := wordAt bs 16
  if bs.length ≠ 32 then .next s
  else if bits flags 3 2 = 0 then execPreemptRequest team (wordAt bs 4) area (bit flags 0) (bit flags 1) s
  else if bits flags 3 2 = 1 then execRestoreRequest team area s
  else if bits flags 3 2 = 2 then execEndRequest team s
  else execPreemptDiscardedOp team s

/-- What a stimulus does. -/
def stimulate (x : Stimulus) (s : State) : Host.Outcome State Fault Refusal :=
  match x with
  | .registerError gid key => .next (s.strikeRegister gid key)
  | .peerMessage m => .next (s.messageIn m)
  | .queueReset q => .next (s.resetQueue q)
  | .preemptPort bs => preemptPort bs s
  | .rerun r => .next { s with rerun := some r }
  | .bar0Read offset => .next (s.readBar0 offset)
  | .linkReset => .next s.resetLink

/-- The placements of a recorded team go to the team that its launch has made again (R350). -/
def Rerun.adopt (r : Rerun) (old new : Nat) : Rerun :=
  { r with places := r.places.map (fun e => if e.1 = old then (new + 2 ^ 40, e.2) else e) }

/-- One record of a replay log is injected: a launch, or an inbound event (R350). -/
def State.inject (s : State) (r : Rerun) (e : LogEntry) : State :=
  match e with
  | .launch _ tid ws =>
    let q := tid % 128
    State.drainFrom [(q, ws)] { s with rerun := some (r.adopt tid ((s.queue q).nextTid q)) }
  | .inbound _ pa bs => { s with rerun := some r }.fromHost [.write pa false bs]
  | .message _ m => { s with rerun := some r }.messageIn m
  | .clock _ _ => { s with rerun := some r }

/-- A re-run injects the next of its inputs, in log order, at a time that the spec does not fix (R350). -/
def State.nextInput (s : State) : Option State :=
  match s.rerun with
  | some r =>
    match r.inputs with
    | e :: rest => if s.pick 102 2 = 1 then some (s.inject { r with inputs := rest } e) else none
    | [] => none
  | none => none

end Sys2Proof.Machine
end

