-- ==== Sys2Proof/Machine/Time.lean ====
section
/-!
DEFINITION. Machine/Time.lean: which event may happen of itself (R10), and the passing of time (R3, R440, R445, R460).
-/

namespace Sys2Proof.Machine

open Sys2Proof

/-! ### What may happen of itself -/

/-- The wake that a parked split may get, where its time is not fixed (R303, R305, R405). -/
def State.wakeEvent (s : State) (bid g place : Nat) (x : Split) : Option Instr :=
  match x.park with
  | .ready => none
  | .barrier _ _ _ => some (.barrierWaitWake bid g place)
  | .ring _ _ _ => some (.waitringWake bid g place)
  | .counter _ _ => none
  | .sleep _ => none
  | .resource => some (.resourceWake bid g place)
  | .rendezvous _ _ _ _ => some (.resourceWake bid g place)
  | .translation _ _ _ => none
  | .refused _ _ => some (.resourceWake bid g place)
  | .loop => none
  | .remote _ _ _ _ _ => some (.remoteAtomicRetry bid g place (s.pick 101 2 = 1))

/-- The event that a gang is due as soon as its condition holds: a trap that has waited (R205, R206), a timeout (R411), a
counter passed (R400), a sleep that is over (R446), lanes called back (R207). -/
def State.gangDue (s : State) (b : Block) (g : Gang) : List Instr :=
  (if g.pending.isSome || g.heldHelper.isSome then [Instr.trapEntry b.bid g.num] else []) ++
  (g.tree.recs.filter (fun p => p.2.armed)).map (fun p => Instr.joinwTimeout b.bid g.num p.1) ++
  g.tree.splits.filterMap (fun p => match p.2.park with
    | .counter _ _ => some (.waitcWake b.bid g.num p.1)
    | .sleep _ => some (.sleepExpiry b.bid g.num p.1)
    | _ => none) ++
  (if s.lendsOut b g.num then [Instr.helperForcedRelease b.bid g.num] else [])

/-- Events that a gang may have. -/
def State.gangEvents (s : State) (b : Block) (frozen : Bool) (g : Gang) : List Instr :=
  (if frozen then [] else g.tree.splits.filterMap (fun p => s.wakeEvent b.bid g.num p.1 p.2)) ++
  g.ldas.flatMap (fun x => (g.awaiting x).map (fun lw => Instr.ldaReply b.bid g.num x.id lw.1 lw.2))

/-- Events that a block may be due. -/
def State.blockEvents (s : State) (b : Block) : List Instr :=
  let frozen := ((s.team? b.team).map Team.frozen).getD true
  (if b.started then [] else [Instr.blockStart b.bid, Instr.contextStage b.core b.bid]) ++
  (if s.blockDone b then [Instr.blockEnd b.bid] else []) ++
  (if b.closeReq then [Instr.implicitSplit b.bid] else []) ++
  (if b.wrapping then [Instr.slotRenewal b.bid, Instr.slotPurge b.bid] else []) ++
  b.fills.map (fun l => Instr.firstTouchFill b.bid l) ++
  b.gangs.flatMap (fun n => match s.gang? (gangId b.bid n) with
    | some g => s.gangEvents b frozen g
    | none => [])

/-- Events that a core may be due. -/
def State.coreEvents (core : Nat) (c : Core) : List Instr :=
  (match c.fifo with
    | [] => []
    | o :: _ => [Instr.matrixOpStart core, Instr.matrixOpComplete core] ++ o.srcLocks.map (fun r => Instr.matrixSourceRelease core r)) ++
  c.copies.flatMap (fun x => [Instr.copyStart x.bid x.opid, Instr.copySourceRelease x.bid x.opid,
    Instr.copyLineArrival x.bid x.opid, Instr.copyFault x.bid x.opid, Instr.copyComplete x.bid x.opid]) ++
  (if c.msgs.isEmpty then [] else [Instr.handlerSpawn core]) ++
  (if c.trace.enabled then [Instr.tracePeriodicSync core] else [])

/-- Events that a team may be due. -/
def State.teamEvents (s : State) (tid : Nat) (t : Team) : List Instr :=
  match t.state with
  | .live => (if t.unplaced = 0 then [] else [Instr.blockPlace tid]) ++ (if t.savedBlocks.isEmpty then [] else [Instr.teamRestore tid])
  | .draining => (if t.unplaced = 0 then [] else [Instr.blockPlace tid]) ++ (if t.savedBlocks.isEmpty then [] else [Instr.teamRestore tid])
  | .discarding => [Instr.teamDiscard tid]
  | .saving => [Instr.teamSave tid]
  | .saved => []
  | .restoring => match s.restorePlan t with
    | some places => Instr.teamRestore tid :: (t.savedBlocks.zip places).map (fun e => Instr.contextStage e.2.1 e.1.block.bid)
    | none => []
  | .ending => [Instr.teamAbort tid]

/-- Events of the rest of the package. -/
def State.packageEvents (s : State) : List Instr :=
  (if s.nextQueue.isSome then [Instr.schedulerTake] else []) ++
  s.flying.map (fun m => Instr.messageArrival m.id) ++
  s.migrations.map (fun e => Instr.migrationFiller e.1) ++
  s.inbound.flatMap (fun x => x.spans.map (fun n => Instr.inboundRouteAck x.id n)) ++
  ((s.slices.map (fun e => e.1 / 1024)).dedup.map (fun n => Instr.closeRequest (n / 16) (n % 16))) ++
  ((s.side.filter (fun e => (recordSlots e.2.toNat).any (fun k => (s.board k).state = 3))).map (fun e => Instr.atticSweep e.1)) ++
  ((s.dies.filter (fun e => e.2.pendingClock.isSome)).map (fun e => Instr.clockChange e.1)) ++
  ((s.hbm.filter (fun e => e.2.deferred.isSome)).map (fun e => Instr.retrainingDeferralExpiry e.1))

/-- Every event that may happen of itself in this state, at a time that the spec does not fix. -/
def State.mayList (s : State) : List Instr :=
  s.blocks.flatMap (fun e => s.blockEvents e.2) ++ s.cores.flatMap (fun e => State.coreEvents e.1 e.2) ++
  s.teams.flatMap (fun e => s.teamEvents e.1 e.2) ++ s.packageEvents

/-- Events that happen as soon as they can: of gangs whose team has not been stopped, and the start of a handler block that has waited
for its 4,096 cycles (R54). -/
def State.dueList (s : State) : List Instr :=
  s.blocks.flatMap (fun e =>
    if ((s.team? e.2.team).map Team.frozen).getD true then []
    else e.2.gangs.flatMap (fun n => match s.gang? (gangId e.2.bid n) with
      | some g => s.gangDue e.2 g
      | none => [])) ++
    (s.cores.filter (fun c => c.2.msgs.head?.any (fun m => 4096 ≤ Tab.getD c.2.spawnWait m.id 0))).map (fun c => Instr.handlerSpawn c.1)

/-- Whether an event would change anything: one that would not does not happen. -/
def State.changes (s : State) (i : Instr) : Bool :=
  match exec i s with
  | .next t => t ≠ s
  | _ => true

/-- The next event: first the quads that have still to select in this cycle; then what is due; then any of the events that may
happen, or none of them (R10, log entry 6). -/
def State.dueEvent (s : State) : Option Instr :=
  match s.turns with
  | q :: _ =>
    if (s.selectable (q / 5) (q % 5)).any Cand.starved then some (.starvationLimit (q / 5) (q % 5)) else some (.issueSelect (q / 5) (q % 5))
  | [] =>
    match s.dueList.find? s.changes with
    | some i => some i
    | none =>
      match s.mayList.filter s.changes with
      | [] => none
      | i :: rest => (i :: rest)[s.pick 100 (rest.length + 2)]?

/-! ### Time -/

/-- The cores of a die with a block that has started. -/
def State.busyCores (s : State) (die : Nat) : List Nat :=
  ((s.blocks.filter (fun e => e.2.started && dieOf e.2.core = die)).map (fun e => e.2.core)).dedup

/-- A cycle more for each message of a die's cores whose handler block could start: as many as handler slots are free (R54). -/
def State.tickSpawns (s : State) (die : Nat) : State :=
  { s with cores := s.cores.map (fun (c : Nat × Core) =>
      if dieOf c.1 ≠ die || (c.2.msgs.isEmpty && c.2.spawnWait.isEmpty) then c
      else (c.1, { c.2 with spawnWait := (c.2.msgs.take (s.spawnable c.1)).map (fun m => (m.id, Tab.getD c.2.spawnWait m.id 0 + 1)) })) }

/-- The trace units of a die at the end of a cycle (R478). -/
def State.dieTraces (s : State) (die : Nat) : State :=
  ((s.cores.filter (fun c => dieOf c.1 = die && !c.2.trace.pending.isEmpty)).map Prod.fst).foldl State.traceFlush s

/-- Where the splits of a die's cores stand at the start of a cycle: also of a core whose unit is enabled within it (R478). -/
def State.dieSnaps (s : State) (die : Nat) : State := ((s.cores.map Prod.fst).filter (fun c => dieOf c = die)).foldl State.traceSnap s

/-- A cycle of a die begins: what its counters hold (R444). -/
def State.startCounts (s : State) (die : Nat) : State :=
  State.modDie { s with cores := s.cores.map (fun (c : Nat × Core) => if dieOf c.1 ≠ die then c else (c.1, { c.2 with
      starts := [(0x40, c.2.ckcorr), (0x41, c.2.ckrecomp), (0x42, c.2.ckinj), (0x43, c.2.laneDeath), (0x44, c.2.squash)] })) } die
    (fun d => { d with renewStart := d.renew })

/-- A third of a nanosecond of a die: a twelfth of a cycle for each 250 MHz of its clock (R3, R440, R460, R478). -/
def State.tickDie (s : State) (die : Nat) : State :=
  let d := s.die die
  if d.phase + d.clock < 12 then s.modDie die (fun x => { x with phase := x.phase + x.clock })
  else
    let s0 := s.dieTraces die
    let s1 := s0.modDie die (fun x => { x with phase := x.phase + x.clock - 12, cycle := x.cycle + 1 })
    let s2 := (((if d.clock < 12 then s1.perf die 14 1 else s1).tickSpawns die).dieSnaps die).startCounts die
    { s2 with turns := s2.turns ++ (s.busyCores die).flatMap (fun c => (List.range 5).map (fun q => c * 5 + q)) }

/-- Time passes; translation records that found no room in their queue are tried again (R428), and so is what the host has held back. -/
def State.tick (s : State) : State :=
  (((List.range 4).foldl State.tickDie { s with
    time := s.time + 1
    fqdropStart := s.fqdrop
    hbm := s.hbm.map (fun (e : Nat × Stack) => (e.1, { e.2 with rtdeferStart := e.2.rtdefer }))
    narrow := [] }).flushTranslations).serveHost

end Sys2Proof.Machine
end

