-- ==== Sys2Proof/Machine/Cycle.lean ====
section
/-!
DEFINITION. Machine/Cycle.lean: what one step does with the issuer that has been selected, with an event from outside, and of
itself (log entry 6).
-/

namespace Sys2Proof.Machine

open Sys2Proof

/-- Nobody is selected any more. -/
def State.unissue (s : State) : State := { s with issue := none }

def afterIssue (o : Host.Outcome State Fault Refusal) : Host.Outcome State Fault Refusal :=
  match o with
  | .next t => .next t.unissue
  | o => o

/-- The selected issuer enters its packet if it must, and its instruction is executed; a word that R73 to R77 make no
instruction of raises cause 0x01 (R8). -/
def issueStep (s : State) (u : Issue) : Host.Outcome State Fault Refusal :=
  match s.enter u with
  | .nobody => .next s.unissue
  | .stopped t => .next t.unissue
  | .ready t p pc lanes =>
    let t1 := t.countIssue u
    match decodeSlot (p.word (pcSlot pc)) (p.lit (pcSlot pc)) with
    | .error _ => .next (t1.entryFault u pc lanes 1 0 0).unissue
    | .ok i => afterIssue (exec i t1)

/-- What happens when nobody is selected and no other agent acts: a piece of a write from outside is performed (R473), an event that is
due or may happen happens, else time passes. -/
def ownStep (s : State) : Host.Outcome State Fault Refusal :=
  match s.earlyPiece with
  | some t => .next t
  | none =>
    match s.dueEvent with
    | some i => exec i s
    | none => .next s.tick

/-- The next stimulus, once its time has come, or the next input of a re-run; else what happens of itself. -/
def stimulusStep (s : State) : Host.Outcome State Fault Refusal :=
  match s.stimuli with
  | (t, x) :: rest => if s.time < t then ownStep s else stimulate x { s with stimuli := rest }
  | [] =>
    match s.nextInput with
    | some t => .next t
    | none => ownStep s

/-- The next event from outside, once its time has come; an entry that is no event is dropped. -/
def outsideStep (s : State) : Host.Outcome State Fault Refusal :=
  match s.agenda with
  | (t, i) :: rest =>
    if s.time < t then stimulusStep s
    else if i.isEvent then exec i { s with agenda := rest }
    else .next { s with agenda := rest }
  | [] => stimulusStep s

/-- One more step taken: every free value is drawn anew. -/
def State.counted (s : State) : State := { s with serial := s.serial + 1 }

end Sys2Proof.Machine
end

