-- ==== Sys2Proof/Machine/Step.lean ====
section
/-!
DEFINITION. Machine/Step.lean: one step of the package: the instruction of the issuer that has been selected, else the next
event that another agent brings, else what is due of itself, else time (log entry 6).
-/

namespace Sys2Proof.Machine

open Sys2Proof

def step (s : State) : Host.Outcome State Fault Refusal :=
  match s.counted.issue with
  | some u => issueStep s.counted u
  | none => outsideStep s.counted

/-- The state in which the very next step fetches and runs the instruction of a table word (log entry 8). -/
def State.withFetchWord (s : State) (nbits w : Nat) : State := s.placeWord nbits w

end Sys2Proof.Machine
end

