-- ==== Sys2Proof/Safety.lean ====
section
/-!
DEFINITION. Safety.lean: what counts as a safe run, in the terms that claims use: when an instruction is performed (R217), what a
register holds, and what it means that only some registers of one gang have changed.
-/

namespace Sys2Proof.Machine

open Sys2Proof

/-- A step goes on: it neither faults nor refuses. -/
def GoesOn (o : Host.Outcome State Fault Refusal) : Prop := ∃ t, o = .next t

/-- Memory is in its one form. -/
abbrev MemoryKept (s : State) : Prop := Memory.wf s.mem

/-- What a register of a gang holds, by its key. -/
def State.reg (s : State) (gid key : Nat) : Word :=
  match s.gang? gid with
  | some g => Tab.getD g.regs key 0
  | none => 0

/-- What R217 looks at first: an instruction is issued by the split or helper of cx; its word is valid and its registers lie in the
budget (R44, R75); in a loop body or a handler it is one allowed there (R158, R201, R214); and one that is never predicated carries
PRED 48, NEG 0. -/
structure Formed (i : Instr) (cx : Cx) (s : State) : Prop where
  issued : cxOf i s = some cx
  wellFormed : i.wellFormed = true
  inBudget : i.regs.findSome? cx.badReg = none
  inBody : cx.bodyBreach i = false
  inHandler : i.handlerOnly = true → cx.g.inHandler = true
  returning : i.returns = true → cx.g.inHandler = true ∧ cx.g.tree.splits.length = 1
  unpredicated : i.always = true → ctlPred cx.ctl = 48 ∧ ctlNeg cx.ctl = false

/-- What it looks at before the values that the instruction reads: a loop instruction stands where it may (R197, R202) and a tile
instruction names a block it may, in a split of every live lane (R311, R324); no matrix operation in flight holds its registers
(R365); and no register read holds an uncorrectable error (R219). -/
structure Valid (i : Instr) (cx : Cx) (s : State) : Prop extends Formed i cx s where
  placed : cx.misplaced i = none
  inBlock : cx.fieldIllegal i = none
  free : cx.interlocked s i = false
  sound : cx.deadReads s i = []

/-- Nothing of R217 keeps a valid instruction from being performed: a lane performs it (R70, R71); the values it reads are legal ones;
the gang's role admits it (R80); the checking scoreboard finds no early read (R84) and the copies of a protected gang agree on its
predicate (R221), neither of which pf and evict ask (R297, R298); the system level is held where it must be (R126, R425); no held
fault is to be taken (R288, R377, R397); and the interval boundary it makes need not wait (R271, R287). -/
structure Clear (i : Instr) (cx : Cx) (s : State) : Prop extends Valid i cx s where
  performed : cx.perform ≠ 0
  legal : cx.illegal s i = none
  role : i.admits.role cx.g.role = true
  settled : i.silent = false → cx.tooEarly s i = none
  level : i.system = true → cx.g.system = true
  agreed : i.silent = false → cx.predicateSplit s i = 0
  noHeldLoad : cx.heldLda i = none
  noHeldMatrix : cx.heldMatrix s i = none
  noHeldCopy : cx.heldCopy i = none
  noWait : i.bounds = true → s.boundaryWaits cx.b = false

/-- The keys of the registers that an operand of w registers names in some physical lanes. -/
def Cx.keysIn (cx : Cx) (lanes : List Nat) (d : Reg) (w : Nat) : List Nat :=
  lanes.flatMap (fun p => keysFrom (cx.key p d.toNat) w)

/-- The numbers of the v registers among some keys. -/
def vNumbers (ks : List Nat) : List Nat := ks.filterMap keyReg

/-- Registers d to d + w - 1 of every listed physical lane hold what f gives for the lane, lowest word first (R122), and a read
made when the latency has passed returns it (R82). -/
def Holds (cx : Cx) (t : State) (lanes : List Nat) (d : Reg) (w : Nat) (f : Nat → Nat) : Prop :=
  ∀ p ∈ lanes, ∀ j < w,
    State.reg t cx.gid (cx.key p d.toNat + j) = BitVec.ofNat 32 (f p / 2 ^ (32 * j)) ∧
    ∀ g, t.gang? cx.gid = some g → ∀ u cyc, cx.cyc + cx.lat.getD 0 ≤ cyc →
      g.read u cyc (cx.key p d.toNat + j) = BitVec.ofNat 32 (f p / 2 ^ (32 * j))

/-- The issuing split (or, for a helper, the issuing helper) of a gang g stands at a PC; the other splits, the join records and the
root record of the gang are as they were. -/
def StandsAt (cx : Cx) (g g' : Gang) (pc : Dword) : Prop :=
  (cx.index = 0 → g'.recruits = g.recruits ∧ ∀ x, Tab.look g.tree.splits cx.place = some x →
    ∃ y, Tab.look g'.tree.splits cx.place = some y ∧ y.pc = pc ∧ y.mask = x.mask ∧ y.rec_ = x.rec_ ∧ y.park = x.park) ∧
  (cx.index ≠ 0 → ∀ r, Tab.look g.recruits (cx.body.getD 0) = some r →
    ∃ r', Tab.look g'.recruits (cx.body.getD 0) = some r' ∧ r'.loop = r.loop ∧
      r'.helpers.map (fun h => (h.index, h.lane, h.pc)) =
        r.helpers.map (fun h => (h.index, h.lane, if h.index = cx.index then pc else h.pc))) ∧
  (∀ q, q ≠ cx.place ∨ cx.index ≠ 0 → Tab.look g'.tree.splits q = Tab.look g.tree.splits q) ∧
  g'.tree.recs = g.tree.recs ∧ g'.tree.rootExpect = g.tree.rootExpect ∧ g'.tree.rootAside = g.tree.rootAside

/-- A gang that is g but for the registers of the keys ks, for what rests on them, and for the issuer's place in the code: every
other register holds what it held; tile tags whose block a written register lies in are stale, accumulation records likewise
are gone (R318, R367), and every other is as it was. -/
def GangFrame (g : Gang) (ks : List Nat) (g' : Gang) : Prop :=
  g' = { g with
    regs := g'.regs, fly := g'.fly, bad := g'.bad, tags := g'.tags, accs := g'.accs, ldas := g'.ldas, tree := g'.tree,
    recruits := g'.recruits } ∧
  (∀ k, k ∉ ks → Tab.getD g'.regs k 0 = Tab.getD g.regs k 0) ∧
  (∀ k, k ∈ g'.bad ↔ k ∈ g.bad ∧ k ∉ ks) ∧
  g'.tags = g.tags.map (fun t =>
    if (vNumbers ks).any (fun n => inRange n t.base (blockRegs g.width t.geom)) then { t with stale := true } else t) ∧
  g'.accs = g.accs.filter (fun a => !(vNumbers ks).any (fun n => inRange n a.base (blockRegs g.width a.geom)))

/-- The state t is s but for the gang of the issuer, which is g but for registers ks (GangFrame) and stands at pc: no other gang,
no byte of memory, no mark, block, team or queue has changed, and of a core at most its count of uncorrectable errors. -/
def OnlyRegs (cx : Cx) (s t : State) (g : Gang) (ks : List Nat) (pc : Dword) : Prop :=
  (∃ g', t.gang? cx.gid = some g' ∧ GangFrame g ks g' ∧ StandsAt cx g g' pc) ∧
  (∀ k, k ≠ cx.gid → t.gang? k = s.gang? k) ∧
  (∀ c, ∃ n, t.core c = { s.core c with laneDeath := n }) ∧
  t = { s with gangs := t.gangs, cores := t.cores }

end Sys2Proof.Machine
end

