-- ==== Sys2Proof/Safety/Control.lean ====
section
/-!
DEFINITION. Safety/Control.lean: where splits go, what a trap leaves and what a return brings back, for the statements about control
flow and exceptions (R209 to R214, R401 to R419).
-/

namespace Sys2Proof.Machine

open Sys2Proof

/-- A valid instruction that no lane performs, its predicate there to be read and agreed on (R70, R71, R84, R217, R221). -/
structure Idle (i : Instr) (cx : Cx) (s : State) : Prop extends Valid i cx s where
  legal : cx.illegal s i = none
  settled : i.silent = false → cx.tooEarly s i = none
  agreed : i.silent = false → cx.predicateSplit s i = 0
  noLane : cx.perform = 0

/-- The lanes of the split that do not perform. -/
def Cx.rest (cx : Cx) : Mask := cx.active &&& ~~~cx.perform

/-- Some split of a tree stands at a PC with a lane, under a record. -/
def Tree.stands (t : Tree) (l : Nat) (pc : Dword) (r : Nat) : Prop :=
  ∃ p x, Tab.look t.splits p = some x ∧ x.mask.getLsbD l = true ∧ x.pc = pc ∧ x.rec_ = r ∧ x.park = .ready

/-- No place holds two things, and the places of the spill stack do not run out (R53, R401). -/
def Tree.roomy (t : Tree) : Prop :=
  (∀ p, Tab.look t.splits p = none ∨ Tab.look t.recs p = none) ∧ t.splits.length + t.recs.length ≤ 64 ∧ Tab.wf t.splits ∧ Tab.wf t.recs

/-- A tree that an image can hold (R401, R403, R404): places in order and within the spill stack, fields within their widths, and a
timer only where it is armed. -/
def Tree.savable (t : Tree) : Prop :=
  Tab.wf t.splits ∧ Tab.wf t.recs ∧ (∀ e ∈ t.splits, e.1 < 136 ∧ e.2.rec_ < 64) ∧
    ∀ e ∈ t.recs, e.1 < 136 ∧ Tab.look t.splits e.1 = none ∧ e.2.id < 64 ∧ e.2.outer < 64 ∧ e.2.units < 2 ^ 16 ∧
      (e.2.armed = false → e.2.timer = 0)

/-- The tree that comes back: its timers in units of 16 cycles (R404). -/
def Tree.reloaded (t : Tree) : Tree :=
  { t with recs := t.recs.map (fun e => (e.1, { e.2 with timer := 16 * e.2.units })) }

/-- A split waits for the answers to a remote atomic (R295). -/
def Park.atPeer : Park → Bool
  | .remote _ _ _ _ _ => true
  | _ => false

/-- The tables that an image can hold beside the trees (R317, R366). -/
def Gang.tablesSavable (g : Gang) : Prop :=
  g.tags.length ≤ 8 ∧ (∀ x ∈ g.tags, x.base < 256 ∧ x.scoff < 2 ^ 18) ∧ g.accs.length ≤ 4 ∧
    ∀ x ∈ g.accs, x.base < 256 ∧ x.kdepth < 2 ^ 32 ∧ (∀ i ∈ x.clampRows, i < 32) ∧ ∀ j ∈ x.clampCols, j < 128

/-- An accumulation record and one that came back: the same block, depth and clamped rows and columns (R366). -/
def AccRec.same (x y : AccRec) : Prop :=
  y.base = x.base ∧ y.geom = x.geom ∧ y.kdepth = x.kdepth ∧ (∀ i, i ∈ y.clampRows ↔ i ∈ x.clampRows) ∧
    ∀ j, j ∈ y.clampCols ↔ j ∈ x.clampCols

/-- Only the gang's tree has changed. -/
def OnlyTree (cx : Cx) (s t : State) (tr : Tree) : Prop :=
  t.gang? cx.gid = some { cx.g with tree := tr } ∧ (∀ k, k ≠ cx.gid → t.gang? k = s.gang? k) ∧ t = { s with gangs := t.gangs }

/-- The issuing split divides (R407, R409): every lane stands where `at_` says, under one record n; with a join PC that is not the
record's own, n is a new record of all the split's lanes inside the old one, else the old record. The issuing place keeps its
age. -/
def Divides (cx : Cx) (s t : State) (x : Split) (join : Option Dword) (at_ : Nat → Dword) : Prop :=
  ∃ tr n y, OnlyTree cx s t tr ∧
    (∀ l < 32, cx.active.getLsbD l = true → tr.stands l (at_ l) n) ∧
    (match join with
      | none => n = x.rec_
      | some j =>
        (∀ q r, cx.g.tree.record? x.rec_ = some (q, r) → r.jpc = j → n = x.rec_) ∧
        ((∀ q r, cx.g.tree.record? x.rec_ = some (q, r) → r.jpc ≠ j) → n = cx.g.tree.freeId cx.g.heldIds ∧
          ∃ q, Tab.look tr.recs q = some ⟨n, x.rec_, j, x.mask, 0, 0, 0, [], false, 0, 0, false⟩)) ∧
    Tab.look tr.splits cx.place = some y ∧ y.since = x.since ∧ y.starve = x.starve

/-- The lanes have entered a handler (R209 to R213): the tree and the level held before are one more frozen layer, the trap registers
hold the fault, and one split of every live lane stands at the handler; no register in flight is left behind. -/
def Enters (s t : State) (gid : Nat) (g : Gang) (b : Block) (cause : Nat) (lanes : Mask) (pc addr info : Dword) (place : Nat)
    (handler : Dword) (system : Bool) : Prop :=
  t.gang? gid = some { g with
      tmask := lanes
      tpc := pc
      tcause := cause
      taddr := addr
      tinfo := info
      fly := []
      pending := none
      recruits := (g.recruits.map (fun r => (r.1, { r.2 with
        helpers := r.2.helpers.filter (fun h => h.iter.isSome || r.2.loop.isNone)
        loop := r.2.loop.map (fun l => { l with stopped := true }) }))).filter (fun r => r.2.loop.isSome || !(r.1 < 32))
      layers := ⟨g.tree.freeze (s.cycle b.core), place, g.system⟩ :: g.layers
      system := system
      tree := ⟨[(0, ⟨0, g.live, handler, .ready, s.cycle b.core + 1, 0, s.cycle b.core + 1, none, s.cycle b.core + 1, false, 0, false⟩)], [], g.live, 0⟩ } ∧
    (∀ k, k ≠ gid → t.gang? k = s.gang? k) ∧ t = { s with gangs := t.gangs }

/-- A team ends as a whole, with the trap its record will show (R34). -/
def TeamEnds (s t : State) (tid slot gang : Nat) (trap : Trap) : Prop :=
  ∀ x, s.team? tid = some x → x.state ≠ .ending →
    ∃ y, t.team? tid = some y ∧ y.state = .ending ∧ y.frozen = true ∧ y.endTrap = some (slot, gang, trap)

/-- What a cause does that the issuing split raises (R209 to R213): a delegated one enters the user handler, or with cause 0x02 the
system handler where tvec is no PC; any other, and every nested one, enters the system handler; one of the system handler ends the
team. -/
def Handled (cx : Cx) (b : Block) (s t : State) (cause : Nat) (lanes : Mask) (addr info : Dword) : Prop :=
  let delegated := cx.g.inHandler = false ∧ cause ≠ 0x08 ∧ cause ≠ 0x09 ∧ cx.g.tdeleg.getLsbD cause = true ∧ cx.g.tvec ≠ 0
  let badVec := s.pcInvalid ⟨b.asid, b.core, b.bid, cx.g.system⟩ cx.g.tvec
  let entry := ((Tab.look s.identifiers b.asid).map Descriptor.sysentry).getD 0
  let enters := fun (c : Nat) (a i : Dword) (h : Dword) (sys : Bool) => Enters s t cx.gid cx.g b c lanes cx.pc a i cx.place h sys
  (cx.g.inHandler = false ∨ cx.g.system = false →
    (delegated → badVec = false → enters cause addr info cx.g.tvec false) ∧
    (delegated → badVec = true → enters 0x02 cx.g.tvec (BitVec.ofNat 64 cause) entry true) ∧
    (¬ delegated → enters (cause + if cx.g.inHandler then 128 else 0) addr info entry true)) ∧
  (cx.g.inHandler = true → cx.g.system = true →
    TeamEnds s t b.team b.slot cx.g.num ⟨cause + 128, lanes, cx.pc, addr, info, cx.place⟩)

/-- The layer below goes on (R213, R214, R417): the faulting split at a PC, ready in the next cycle, every other split and record as
it stood, at the level held before; the gang must be synchronised before its next trace packet. -/
def Returns (cx : Cx) (s t : State) (l : Layer) (rest : List Layer) (pc : Dword) (ldas : List Lda) : Prop :=
  ∃ tr, t.gang? cx.gid = some { cx.g with fly := [], layers := rest, system := l.system, tree := tr, ldas := ldas } ∧
    (∀ p, Tab.look tr.splits p = (Tab.look l.tree.splits p).map (fun x =>
      if p = l.place then
        { x with
          pc := pc
          packet := none
          park := .ready
          since := cx.cyc + 1
          readyAt := cx.cyc + 1
          again := false }
      else { x with readyAt := cx.cyc + 1 })) ∧
    tr.recs = l.tree.recs.map (fun r => (r.1, { r.2 with armedAt := cx.cyc })) ∧
    tr.rootExpect = l.tree.rootExpect ∧ tr.rootAside = l.tree.rootAside ∧
    (∀ k, k ≠ cx.gid → t.gang? k = s.gang? k) ∧
    (∀ c, t.core c = { s.core c with trace := { (s.core c).trace with
      synced := if c = cx.core then (s.core c).trace.synced.filter (· ≠ cx.gid) else (s.core c).trace.synced } }) ∧
    t = { s with gangs := t.gangs, cores := t.cores }

/-- The lanes that leave are gone from every split and record of a tree (R412). -/
def Tree.without (t : Tree) (gone : Mask) : Prop :=
  (∀ p x, Tab.look t.splits p = some x → x.mask &&& gone = 0) ∧
  (∀ p r, Tab.look t.recs p = some r → r.expect_ &&& gone = 0 ∧ r.arrived &&& gone = 0 ∧ r.aside &&& gone = 0) ∧
  t.rootExpect &&& gone = 0 ∧ t.rootAside &&& gone = 0

/-- A tree whose split at a place has arrived at its record q (R410, R411); wait gives the register and the units of a joinw. -/
def Tree.afterArrival (t : Tree) (place q : Nat) (x : Split) (r : JoinRec) (cyc : Nat) (wait : Option (Nat × Nat)) (t' : Tree) : Prop :=
  (∀ p, Tab.look t'.splits p = if p = place then none else Tab.look t.splits p) ∧
  (∀ p, Tab.look t'.recs p = if p = q then some (match wait with
      | none => { r with arrived := r.arrived ||| x.mask }
      | some w => { r with
          arrived := r.arrived ||| x.mask
          wmask := r.wmask ||| x.mask
          wregs := r.wregs ++ (lanesOf x.mask).map (fun l => (l, w.1))
          armed := true
          timer := if r.armed then r.timer else 16 * w.2
          armedAt := if r.armed then r.armedAt else cyc }) else Tab.look t.recs p) ∧
  t'.rootExpect = t.rootExpect ∧ t'.rootAside = t.rootAside

/-- The state t is u but for the gang, whose tree has become tr and whose flag registers, named by lane and number, hold 0 (R404,
R411), and for a core's count of uncorrectable errors. -/
def TreeAndFlags (cx : Cx) (u t : State) (tr : Tree) (flags : FlagWrites) : Prop :=
  (∃ g', t.gang? cx.gid = some g' ∧ g'.tree = tr ∧ g'.recruits = cx.g.recruits ∧
    GangFrame cx.g (flags.flatMap (fun w => (cx.g.phys w.1).map (fun p => vKey p w.2.1))) g') ∧
  (∀ w ∈ flags, ∀ p ∈ cx.g.phys w.1, t.reg cx.gid (vKey p w.2.1) = 0) ∧
  (∀ k, k ≠ cx.gid → t.gang? k = u.gang? k) ∧ (∀ c, ∃ n, t.core c = { u.core c with laneDeath := n }) ∧
  t = { u with gangs := t.gangs, cores := t.cores }

/-- The lanes set aside under a record of a tree; 0 names the root (R402). -/
def Tree.asideUnder (t : Tree) (id : Nat) : Mask :=
  if id = 0 then t.rootAside else ((t.recs.find? (fun e => e.2.id = id)).map (fun e => e.2.aside)).getD 0

/-- What emset makes of a tree for a mask N (R415), before records are tested: the split's new mask, and the lanes set aside. -/
def Tree.afterEmset (t : Tree) (cx : Cx) (x : Split) (new aside : Mask) (t' : Tree) : Prop :=
  (∀ p, p ≠ cx.place → Tab.look t'.splits p = Tab.look t.splits p) ∧
  (∃ y, Tab.look t'.splits cx.place = some y ∧ y.mask = new ∧ y.pc = cx.next ∧ y.rec_ = x.rec_ ∧ y.park = x.park) ∧
  t'.recs = (if x.rec_ = 0 then t.recs else t.recs.map (fun e => if e.2.id = x.rec_ then (e.1, { e.2 with aside := aside }) else e)) ∧
  t'.rootAside = (if x.rec_ = 0 then aside else t.rootAside) ∧ t'.rootExpect = t.rootExpect

/-- The mask that emset of N gives the split x (R415). -/
def Cx.kept (cx : Cx) (x : Split) (n : Mask) : Mask :=
  ((n &&& x.mask) ||| (n &&& cx.g.tree.asideUnder x.rec_)) &&& ~~~cx.g.dead &&& lowMask cx.g.width

/-- emset of a mask N, whether by emset or by swrite of emask (R128, R415), where the split keeps a lane. -/
def SetsMask (i : Instr) (cx : Cx) (s : State) (n : Mask) : Prop :=
  ∀ x, Tab.look cx.g.tree.splits cx.place = some x → cx.index = 0 → cx.g.live ≠ 0 → (∀ l ∈ cx.g.layers, l.tree.allAside = false) →
    let aside := cx.g.tree.asideUnder x.rec_
    let new := cx.kept x n
    new ≠ 0 → ∃ t a, exec i s = .next t ∧
      cx.g.tree.afterEmset cx x new ((aside ||| (x.mask &&& ~~~new)) &&& ~~~(n &&& aside)) a ∧
      TreeAndFlags cx s t (a.settleAll cx.cyc).1 (a.settleAll cx.cyc).2

/-- emset of a mask N that leaves the split no lane raises cause 0x01 (R128, R415). -/
def LeavesNone (i : Instr) (cx : Cx) (s : State) (n : Mask) : Prop :=
  ∀ x, Tab.look cx.g.tree.splits cx.place = some x → cx.kept x n = 0 → exec i s = .next (cx.fault s 0x01 cx.perform 0 0)

end Sys2Proof.Machine
end

