-- ==== Sys2Proof/Safety/Memory.lean ====
section
/-!
DEFINITION. Safety/Memory.lean: memory byte by byte as a core sees it, and what an access reads and writes there, for the statements
about the memory instructions (R254, R279 to R298).
-/

namespace Sys2Proof.Machine

open Sys2Proof

/-- The byte at a home address as a core sees it: what its L1 holds of a dirty word, else what the home holds; none where nothing has
been written. Stash bytes have an address too (`stashKey`). -/
def State.seen (s : State) (core a : Nat) : Option Byte :=
  match s.l1Line core (a / 128) with
  | some x => if x.dirty.getLsbD (a / 4 % 32) then Tab.look x.bytes (a % 128) else Memory.byte? s.mem a
  | none => Memory.byte? s.mem a

/-- The L1 of a core is in order: one entry for each line, none for stash; dirty words are valid, and clean ones hold what the home
holds. No page is being pulled (R435), and the host link is up (R448). -/
structure Orderly (s : State) (core : Nat) : Prop where
  distinct : ((s.core core).l1.map L1Line.line).Nodup
  global : ∀ x ∈ (s.core core).l1, isStashKey (x.line * 128) = false
  valid : ∀ x ∈ (s.core core).l1, x.dirty &&& ~~~x.valid = 0
  clean : ∀ x ∈ (s.core core).l1, ∀ i < 128, x.valid.getLsbD (i / 4) = true → x.dirty.getLsbD (i / 4) = false →
    Tab.look x.bytes i = Memory.byte? s.mem (x.line * 128 + i)
  still : ∀ m ∈ s.migrations, m.2.pulling = false
  linked : s.link ≠ .down

/-- The home address of a piece's data; a peer's lies outside the device. -/
def Piece.data (p : Piece) : Option Nat :=
  match p.place with
  | .stash c off _ _ => some (stashKey c off)
  | .mapped c off _ _ => some (stashKey c off)
  | .hbm pa _ => some pa
  | .cellar pa _ => some pa
  | .peer _ => none

/-- The home addresses of an access, byte by byte, lowest address first. -/
def bytesAt (ps : List Piece) : List Nat := ps.flatMap (fun p => (p.data.map (fun a => (List.range p.n).map (fun i => a + i))).getD [])

/-- Whether a piece lies in a peer window; each access lies there whole or not at all. -/
def Piece.far (p : Piece) : Prop := p.data = none
def Unmixed (ps : List (Req × List Piece)) : Prop := ∀ e ∈ ps, (∀ p ∈ e.2, ¬ p.far) ∨ ∀ p ∈ e.2, p.far

/-- The last value that a list of bytes stored gives an address. -/
def lastAt (ws : List (Nat × Byte)) (a : Nat) : Option Byte := (ws.reverse.find? (fun w => w.1 = a)).map Prod.snd

/-- The state t is s but for memory, for what is kept of accesses (marks, records, slices, TLBs, counters), and for the gangs. -/
def MemoryOnly (s t : State) : Prop :=
  t = { s with
    mem := t.mem
    rewritten := t.rewritten
    narrow := t.narrow
    hollow := t.hollow
    wants := t.wants
    side := t.side
    marks := t.marks
    slices := t.slices
    selectors := t.selectors
    boards := t.boards
    cores := t.cores
    gangs := t.gangs
    blocks := t.blocks
    teams := t.teams
    clusterTlbs := t.clusterTlbs
    dies := t.dies
    peerSeq := t.peerSeq } ∧
  ∀ c, t.core c = { s.core c with
    l1 := (t.core c).l1
    tlb := (t.core c).tlb
    laneDeath := (t.core c).laneDeath
    pbcache := (t.core c).pbcache
    peerWrites := (t.core c).peerWrites }

/-- The same of what may write mapped words back: ERRSTAT and its interrupt may change too, while the link is down (R448, R450). -/
def MemoryOrLink (s t : State) : Prop :=
  MemoryOnly { s with
    errstat := t.errstat
    msix0 := t.msix0 } t ∧ (s.link ≠ .down → t.errstat = s.errstat ∧ t.msix0 = s.msix0)

/-- The issuer's gang is cx.g but for registers ks and its place, at the next slot; the other gangs are as they were. -/
def GangMoves (cx : Cx) (s t : State) (g : Gang) (ks : List Nat) : Prop :=
  (∃ g', t.gang? cx.gid = some g' ∧ GangFrame g ks g' ∧ StandsAt cx g g' cx.next) ∧ ∀ k, k ≠ cx.gid → t.gang? k = s.gang? k

/-- The team's release count goes up by one where the instruction counts as a release (R225), else it stays. -/
def Releases (cx : Cx) (s t : State) (counts : Prop) [Decidable counts] : Prop :=
  ∀ b x, s.block? cx.bid = some b → s.team? b.team = some x →
    t.team? b.team = some { x with releases := if counts then satAdd 32 x.releases 1 else x.releases }

/-- What an access rests on: its checks passed with its pieces, it waits for no split-phase load of its thread (R275) and, as a release, for
no remote atomic (R455), no load of it is returned in halves (R468), the L1 is in order, where it makes a release boundary no mapped word is dirty, and no peer's
write was dropped that the release must report (R455). -/
structure Passes (cx : Cx) (s u : State) (h : How) (own : State → Req → List Piece → Option (Nat × Nat × Nat))
    (rs : List Req) (ps : List (Req × List Piece)) (b : Bound) : Prop where
  passed : s.check cx.viewer h (cx.toucher h.label h.reads h.writes) true own rs = .go u ps
  ordered : cx.mustWait u h b ps = false
  whole : u.tears h ps = false
  orderly : Orderly s cx.core
  flushed : b.rel = true → ∀ blk, s.block? cx.b.bid = some blk → blk.dirty = []
  kept : cx.peerLost u b = none

/-- What an instruction loads: of every lane that accesses memory, bytes which are those that the core sees, wherever a byte has been
written at all. -/
def LoadsBytes (cx : Cx) (s : State) (ps : List (Req × List Piece)) (f : Nat → List Byte) : Prop :=
  ∀ e ∈ ps, ∀ (i a : Nat) (b : Byte), (bytesAt e.2)[i]? = some a → s.seen cx.core a = some b → (f e.1.vis)[i]? = some b

/-- Indivisible updates, one lane after another (R291): each reads its bytes and writes what f makes of them. -/
inductive Updates (f : Req → Nat → Option Nat) : List (Req × List Piece) → (Nat → Option Byte) → (Nat → Option Byte) → List Nat → Prop
  | nil (m : Nat → Option Byte) : Updates f [] m m []
  | keep (r : Req) (ps : List Piece) (rest : List (Req × List Piece)) (m m' : Nat → Option Byte) (old : Nat) (olds : List Nat)
      (hr : ∀ (i a : Nat) (b : Byte), (bytesAt ps)[i]? = some a → m a = some b → (bytesOf r.n old)[i]? = some b)
      (hf : f r old = none) (h : Updates f rest m m' olds) : Updates f ((r, ps) :: rest) m m' (old :: olds)
  | write (r : Req) (ps : List Piece) (rest : List (Req × List Piece)) (m m' : Nat → Option Byte) (old new : Nat) (olds : List Nat)
      (hr : ∀ (i a : Nat) (b : Byte), (bytesAt ps)[i]? = some a → m a = some b → (bytesOf r.n old)[i]? = some b)
      (hf : f r old = some new)
      (h : Updates f rest (fun a => (lastAt ((bytesAt ps).zip (bytesOf r.n new)) a).or (m a)) m' olds) :
      Updates f ((r, ps) :: rest) m m' (old :: olds)

/-- The value that an atomic leaves (R290): n bytes, old and x as numbers. -/
def atomLeaves (op n old x : Nat) : Nat :=
  let signed := fun (v : Nat) => sext v (8 * n)
  let fmt := if n = 4 then Fmt.f32 else Fmt.f64
  match op with
  | 0 => wrap (old + x) (8 * n)
  | 1 => (fmt.add 0 old x).1
  | 2 => if signed old ≤ signed x then old else x
  | 3 => if signed old ≤ signed x then x else old
  | 4 => min old x
  | 5 => max old x
  | 6 => (fmt.minmax false old x).1
  | 7 => (fmt.minmax true old x).1
  | 8 => old &&& x
  | 9 => old ||| x
  | 10 => old ^^^ x
  | _ => x

/-- A loaded value as its registers receive it (R285): sign-extended where SX, OP[0], is set and SIZE is one or two bytes. -/
def arrived (x : Access) (bs : List Byte) : Nat :=
  if x.size.toNat < 2 ∧ x.op.getLsbD 0 = true then wrap (sext (ofBytes bs) (8 * 2 ^ x.size.toNat)) 32 else ofBytes bs

/-- The lanes that receive what an access returns, with the visible lane whose access it is: each performing lane its own, and for a
U instruction every active lane that of the lowest (R71, R281). -/
def Cx.receivers (cx : Cx) (uniform : Bool) : List Nat := if uniform then cx.g.expand cx.active else cx.lanes
def Cx.source (cx : Cx) (uniform : Bool) (p : Nat) : Nat := if uniform then cx.low else cx.g.vis p

/-- The label, scope and form of a memory instruction (R279): whether it is a U form, and its operands. -/
structure MemForm where
  uniform : Bool
  d : Reg
  a : Reg
  x : Access

def loadForm : Instr → Option MemForm
  | .ld d a x => some ⟨false, d, a, x⟩
  | .uLd d a x => some ⟨true, d, a, x⟩
  | _ => none

def storeForm : Instr → Option MemForm
  | .st d a x => some ⟨false, d, a, x⟩
  | .uSt d a x => some ⟨true, d, a, x⟩
  | _ => none

/-- An atomic's form, the registers whose values the copies of a protected team must agree on, whether R294 has an AtomicOp for it,
and what it makes of a lane's old value. -/
structure AtomForm where
  form : MemForm
  data : List (Reg × Nat)
  isOp : Bool
  f : Cx → State → Req → Nat → Option Nat

def atomForm : Instr → Option AtomForm
  | .atom d a b x => some ⟨⟨false, d, a, x⟩, [(b, x.regs)], x.op = 0 || x.op = 11,
      fun cx s r old => some (atomLeaves x.op.toNat (2 ^ x.size.toNat) old (cx.rdn s r.phys b.toNat x.regs))⟩
  | .uAtom d a b x => some ⟨⟨true, d, a, x⟩, [(b, x.regs)], x.op = 0 || x.op = 11,
      fun cx s r old => some (atomLeaves x.op.toNat (2 ^ x.size.toNat) old (cx.rdn s r.phys b.toNat x.regs))⟩
  | .cas d a b x => some ⟨⟨false, d, a, x⟩, [(d, x.regs), (b, x.regs)], true,
      fun cx s r old => if old = cx.rdn s r.phys d.toNat x.regs then some (cx.rdn s r.phys b.toNat x.regs) else none⟩
  | .cas2 d a b x => some ⟨⟨false, d, a, x⟩, [(d, x.regs), (b, x.regs)], true,
      fun cx s r old => if old = cx.rdn s r.phys d.toNat x.regs then some (cx.rdn s r.phys b.toNat x.regs) else none⟩
  | .uCas d a b x => some ⟨⟨true, d, a, x⟩, [(d, x.regs), (b, x.regs)], true,
      fun cx s r old => if old = cx.rdn s r.phys d.toNat x.regs then some (cx.rdn s r.phys b.toNat x.regs) else none⟩
  | _ => none

/-- What an instruction that announces stash words rests on (R306, R307): the dirty words of the entry have backing pages that
translate, no split-phase load of the thread comes before, and the checks of the words pass, which leaves u. -/
structure Backed (cx : Cx) (s u : State) (e : Option MapEntry) (ps : List Piece) : Prop where
  behind : e.bind (s.unbacked cx.b) = none
  ordered : cx.loadsBefore true [(⟨cx.low, cx.lowPhys, 0, 0⟩, [])] = false
  quiet : cx.checkRange s ps = .ok u

/-- Where a byte address of the local aperture has its stash byte. -/
def Block.stashByte (b : Block) (va : Nat) : Nat := stashKey b.core (b.stashBase + (va - localBase))

/-- The bytes of a block's own stash at an address, as a number; a byte not listed is zero (R239). -/
def State.stashValue (s : State) (b : Block) (va n : Nat) : Nat :=
  ofBytes ((List.range n).map (fun j => (Memory.byte? s.mem (b.stashByte va + j)).getD 0))

/-- Accesses to bytes of the block's own stash against which nothing of R217 stands: they lie in the local aperture (R238), in the
allocation and outside every mapped region (R240, R306); their lines are present (R241) and no range lock covers them (R242); no word
is poisoned (R273) or has an open mark of another thread (R261); no split-phase load of the gang is pending (R275), no remote atomic of
the core is unanswered, and no write to a peer was lost with its route (R455). -/
structure OwnWords (cx : Cx) (s : State) (rs : List Req) : Prop where
  local_ : ∀ r ∈ rs, localBase ≤ r.va ∧ r.va + r.n ≤ localBase + localSize
  direct : ∀ r ∈ rs, cx.b.direct (r.va - localBase) r.n = true
  present : ∀ r ∈ rs, ∀ l ∈ cx.b.absent, r.va + r.n ≤ localBase + 128 * l ∨ localBase + 128 * (l + 1) ≤ r.va
  unlocked : ∀ r ∈ rs, ∀ e ∈ (s.core cx.core).locks, e.2.stash = true →
    e.2.hits (cx.b.stashBase + (r.va - localBase)) r.n = false
  sound : ∀ r ∈ rs, ∀ w ∈ wordsTouched (cx.b.stashByte r.va) r.n, (s.mark w).poison = false
  closed : ∀ r ∈ rs, ∀ w ∈ wordsTouched (cx.b.stashByte r.va) r.n, ∀ y, (s.mark w).w = some y ∨ (s.mark w).r = some y →
    (s.stampLive y = false ∧ (s.mark w).pend = none) ∨ namesOther (cx.toucher 0 true true r.phys) y = false
  answered : cx.g.ldas = []
  unasked : s.remoteOut cx.core = false
  kept : (s.core cx.core).peerDropped = none

/-- The copies of every accessing lane name the same address and bring the same data (R221). -/
def Cx.copiesAgree (cx : Cx) (s : State) (a : Reg) (offset : BitVec 16) (data : List (Reg × Nat)) (rs : List Req) : Prop :=
  ∀ r ∈ rs, ∀ p ∈ cx.g.phys r.vis, cx.address s a offset p = cx.address s a offset r.phys ∧
    ∀ e ∈ data, cx.rdn s p e.1.toNat e.2 = cx.rdn s r.phys e.1.toNat e.2

end Sys2Proof.Machine
end

