-- ==== Sys2Proof/Safety/Waiting.lean ====
section
/-!
DEFINITION. Safety/Waiting.lean: phase barriers as numbers, and splits that park and wake, for the statements about barriers, waits
and wakes (R301 to R305, R400, R405, R446).
-/

namespace Sys2Proof.Machine

open Sys2Proof

/-- An object of n bytes with a value stands at some pieces. -/
def ObjectAt (s : State) (core : Nat) (ps : List Piece) (n x : Nat) : Prop :=
  (bytesAt ps).length = n ∧ ∀ (i a : Nat), (bytesAt ps)[i]? = some a → s.seen core a = some (BitVec.ofNat 8 (x / 2 ^ (8 * i)))

/-- An object of eight bytes is stored at some pieces, and no other byte changes. -/
def StoresObject (cx : Cx) (s t : State) (ps : List Piece) (x : Nat) : Prop :=
  ∀ a, t.seen cx.core a = (lastAt ((bytesAt ps).zip (bytesOf 8 x)) a).or (s.seen cx.core a)

/-- A barrier after an arrival of a count (R301, R303): EXPECT in bits 15 to 0, PENDING in 31 to 16, PHASE in 63 to 32. -/
def afterArrivals (x count : Nat) : Nat :=
  let expect := x % 2 ^ 16
  let pending := x / 2 ^ 16 % 2 ^ 16
  let phase := x / 2 ^ 32 % 2 ^ 32
  if pending = count then expect + 2 ^ 16 * expect + 2 ^ 32 * ((phase + 1) % 2 ^ 32)
  else expect + 2 ^ 16 * (pending - count) + 2 ^ 32 * phase

/-- The issuing split parks at its instruction; registers, other splits and other gangs stay as they were. -/
def Parks (cx : Cx) (s t : State) (p : Park) : Prop :=
  ∃ g' x, t.gang? cx.gid = some g' ∧ Tab.look cx.g.tree.splits cx.place = some x ∧
    (∀ q, Tab.look g'.tree.splits q = if q = cx.place then some { x with park := p } else Tab.look cx.g.tree.splits q) ∧
    g' = { cx.g with tree := g'.tree } ∧ g'.tree.recs = cx.g.tree.recs ∧ ∀ k, k ≠ cx.gid → t.gang? k = s.gang? k

/-- A woken split that goes on after its instruction, once its stall count has passed (R69, R405). -/
def Split.passed (x : Split) (cyc : Nat) : Split :=
  let kind := (x.packet.map Packet.kind).getD 0
  let pc := nextPc kind x.pc
  { x with
    park := .ready
    since := cyc
    readyAt := cyc + (x.packet.map (fun p => ctlStall (p.ctl (pcSlot x.pc)))).getD 0
    starve := 0
    again := false
    pc := pc
    packet := if pcBase x.pc = pcBase pc then x.packet else none }

/-- A woken split that tries its instruction again. -/
def Split.retried (x : Split) (cyc : Nat) : Split :=
  { x with
    park := .ready
    since := cyc
    readyAt := cyc
    starve := 0
    again := true }

/-- Only one split of a gang has changed. -/
def Replaces (s t : State) (gid : Nat) (g : Gang) (place : Nat) (y : Split) : Prop :=
  (∃ tr, t.gang? gid = some { g with tree := tr } ∧ tr.recs = g.tree.recs ∧ tr.rootExpect = g.tree.rootExpect ∧
    tr.rootAside = g.tree.rootAside ∧ ∀ q, Tab.look tr.splits q = if q = place then some y else Tab.look g.tree.splits q) ∧
  (∀ k, k ≠ gid → t.gang? k = s.gang? k) ∧ t = { s with gangs := t.gangs }

end Sys2Proof.Machine
end

