-- ==== Sys2Proof/Safety/Tile.lean ====
section
/-!
DEFINITION. Safety/Tile.lean: what the register blocks and frames of tiles hold, and what a rendezvous of four gangs leaves, for the
statements about tiles and the matrix engine (R309 to R329, R354 to R377).
-/

namespace Sys2Proof.Machine

open Sys2Proof

/-- Register n of visible lane l, in copy c of the lane. -/
def State.blockReg (t : State) (gid : Nat) (g : Gang) (c : Nat) : BlockRead := fun l n => t.reg gid (vKey ((g.phys l).getD c 0) n)

/-- The elements of the block at register d are those of a tile, in every copy (R310). -/
def BlockHolds (t : State) (gid : Nat) (g : Gang) (d : Nat) (x : Tile) : Prop :=
  ∀ i < geomRows x.geom, ∀ j < geomCols x.geom, ∀ c < (g.phys 0).length,
    blockElem g.width d x.geom (t.blockReg gid g c) i j = x.at_ i j

/-- The strip registers of the block at register d hold a strip, in every copy (R311). -/
def StripHolds (t : State) (gid : Nat) (g : Gang) (d : Nat) (geom : Word) (x : Strip) : Prop :=
  ∀ c < (g.phys 0).length, blockStrip g.width d geom (t.blockReg gid g c) = x

/-- A register key that lies in a block of count registers at d. -/
def InBlock (g : Gang) (d count k : Nat) : Prop := ∃ l < g.width, ∃ p ∈ g.phys l, ∃ r < count, k = vKey p (d + r)

/-- The gang is g but for the registers of some keys, what rests on them, and where its splits stand. -/
def BlocksOnly (g g' : Gang) (ks : Nat → Prop) : Prop :=
  g' = { g with
    regs := g'.regs
    fly := g'.fly
    bad := g'.bad
    tags := g'.tags
    accs := g'.accs
    ldas := g'.ldas
    tree := g'.tree
    recruits := g'.recruits } ∧
  ∀ k, ¬ ks k → Tab.getD g'.regs k 0 = Tab.getD g.regs k 0

/-- The state t is s but for memory, for what is kept of accesses, for the gangs, and for a core's counters of checksums. -/
def TileOnly (cx : Cx) (s t : State) : Prop :=
  t = { s with
    mem := t.mem
    side := t.side
    marks := t.marks
    slices := t.slices
    selectors := t.selectors
    boards := t.boards
    cores := t.cores
    gangs := t.gangs
    blocks := t.blocks
    clusterTlbs := t.clusterTlbs
    dies := t.dies
    rewritten := t.rewritten
    narrow := t.narrow
    hollow := t.hollow
    wants := t.wants } ∧ ∀ k, k ≠ cx.gid → t.gang? k = s.gang? k

/-- The issuer's gang but for a block of count registers at d: it goes on. -/
def TileMoves (cx : Cx) (s t : State) (d count : Nat) : Prop :=
  (∃ g', t.gang? cx.gid = some g' ∧ BlocksOnly cx.g g' (InBlock cx.g d count) ∧ StandsAt cx cx.g g' cx.next) ∧ TileOnly cx s t

/-- The tag of a block (R317); and no tag of any block that meets it. -/
def Tagged (t : State) (gid : Nat) (x : Tag) : Prop := ∃ g, t.gang? gid = some g ∧ g.tagAt x.base = some x
def Untagged (t : State) (gid d count : Nat) : Prop :=
  ∃ g, t.gang? gid = some g ∧ ∀ x ∈ g.tags, ¬ (x.base < d + count ∧ d < x.base + blockRegs g.width x.geom)

/-- Corrections and recomputed strips that a core has counted since (R319, R320). -/
def Corrected (cx : Cx) (s t : State) (n : Nat) (again : Bool) : Prop :=
  (t.core cx.core).ckcorr = satAdd 32 (s.core cx.core).ckcorr n ∧
    (t.core cx.core).ckrecomp = if again then satAdd 32 (s.core cx.core).ckrecomp 1 else (s.core cx.core).ckrecomp

/-- The accesses of a tile instruction to its own stash, reads and stores by offset, pass their checks: no split-phase load comes
before, the checks leave v, and in u the words have been announced (R262, R275, R324). -/
def Cx.stashOpen (cx : Cx) (s v u : State) (parts : List (Bool × List (Nat × Nat))) : Prop := cx.stashCheck s 0 parts = .go v u

/-- The header of a frame may be looked at: no line or lock keeps it, and none of its data are lost (R325). -/
def Cx.headerOpen (cx : Cx) (s : State) (off : Nat) : Prop :=
  ∃ u ps, s.check cx.viewer (tileHow false) (cx.toucher 0 true false) false noOwn (cx.stashReqs [(off, 16)]) = .go u ps ∧
    ∀ p ∈ ps, s.lostData cx.viewer (tileHow false) p.2 = false

/-- A tile as a frame of a block's stash holds it, and its strip (R312). -/
def State.frameTile (s : State) (b : Block) (off : Nat) (h : Header) : Tile := h.tile (fun o n => s.stashBytes b (off + o) n)
def State.frameStrip (s : State) (b : Block) (off : Nat) (h : Header) : Strip := stripOf h.geom (s.stashBytes b (off + h.y) (stripBytes h.geom))

/-- A gang at a rendezvous: it posts, its split goes on, and no register changes (R362). -/
def PostsFrom (cx : Cx) (t : State) (m : Member) : Prop :=
  ∃ g y, t.gang? m.gid = some g ∧ g.posts = m.g.posts + 1 ∧ g.regs = m.g.regs ∧ g.tags = m.g.tags ∧
    Tab.look g.tree.splits m.place = some y ∧ (m.gid ≠ cx.gid → y.park = .ready) ∧
    (∀ x, Tab.look m.g.tree.splits m.place = some x → y.pc = nextPc ((x.packet.map Packet.kind).getD 0) x.pc ∧ y.mask = x.mask) ∧
    (m.gid = cx.gid → y.pc = cx.next)

/-- The operation o has entered the FIFO for the four gangs, and the block owes one more completion (R362, R364). -/
def Posted (cx : Cx) (s t : State) (ms : List Member) (o : MatOp) : Prop :=
  (t.core cx.core).fifo = insertOp o (s.core cx.core).fifo ∧ (∀ m ∈ ms, PostsFrom cx t m) ∧
    (∀ b, s.block? cx.bid = some b → ∃ b', t.block? cx.bid = some b' ∧ b'.mops = b.mops + 1) ∧
    o.bid = cx.bid ∧ o.quartet = cx.g.num / 4 ∧ o.started = false ∧ o.cancelled = false ∧ o.fail = none

/-- The record of a block in the gang of a member (R366). -/
def Recorded (t : State) (m : Member) (r : Option AccRec) : Prop := ∃ g, t.gang? m.gid = some g ∧ g.accAt m.d = r

/-- What a posting instruction brings: its opcode, C or B base, b field, and the values of its register operands (R361). -/
def posting (i : Instr) (cx : Cx) (s : State) : Option (Nat × Nat × Nat × List Nat) :=
  let word := fun (n : Nat) => (cx.rd s cx.lowPhys n).toNat
  match i with
  | .mma d a b => some (0x41, d.toNat, b.toNat, [word a.toNat, word (a.toNat + 1)])
  | .mgath d a => some (0x42, d.toNat, 0, [word a.toNat, word (a.toNat + 1)])
  | .mdrain d a clear recomp => some (0x43, d.toNat, recomp.toNat + 2 * clear.toNat, [word a.toNat, word (a.toNat + 1)])
  | .mzero d a b => some (0x44, d.toNat, b.toNat, [word a.toNat])
  | _ => none

/-- The four gangs bring the same: opcode, operand values, grant and, but for mma, the same b field (R362). -/
def Agreed (cx : Cx) (me : Member) (ms : List Member) : Prop :=
  ∀ m ∈ ms, m.op = me.op ∧ m.vals = me.vals ∧ m.g.shape = cx.g.shape ∧ (me.op ≠ 0x41 → m.b = me.b)

/-- The object in the stash of a post, n bytes at an alignment, and its barrier, if it names one, lie in the block's direct region;
and the FIFO has room (R362, R364). -/
def PostOpen (cx : Cx) (s : State) (me : Member) (n al : Nat) : Prop :=
  let bar := me.vals.getLastD 0xFFFFFFFF
  (me.op ≠ 0x44 → me.vals.getD 0 0 % al = 0 ∧ cx.b.direct (me.vals.getD 0 0) n = true) ∧
    (bar ≠ 0xFFFFFFFF → bar % 8 = 0 ∧ cx.b.direct bar 8 = true) ∧ (s.core cx.core).fifo.length < 8

/-- The engine reads the 32 bytes of a format block or descriptor as the first gang's access; w are its words. -/
def Cx.blockWords (cx : Cx) (s : State) (ms : List Member) (addr : Nat) (w : List Nat) : Prop :=
  ∃ u ps, s.check cx.viewer (tileHow false) (fun _ => ⟨cx.core, cx.b.slot, ((ms.head?.map Member.g).getD cx.g).num,
      ((ms.head?.map Member.g).getD cx.g).lowest, 0, 0, true, false, none⟩) true noOwn (cx.stashReqs [(addr, 32)]) = .go u ps ∧
    w = (List.range 8).map (fun k => s.stashNat cx.b (addr + 4 * k) 4)

/-- Every gang of a rendezvous takes a fault (R362). -/
def AllTrap (cx : Cx) (s : State) (ms : List Member) (cause addr info : Nat) (t : State) : Prop :=
  ∀ m ∈ ms, m.g.inHandler = false → m.g.helpersBusy = false → m.g.pending = none → (∃ b, s.block? m.g.bid = some b) → cx.index = 0 → m.g.opsBusy = false →
    ∃ g, t.gang? m.gid = some g ∧ g.inHandler = true ∧ g.tmask = m.g.live ∧ g.tpc = m.pc ∧
      (g.tcause = cause ∧ g.taddr = BitVec.ofNat 64 addr ∧ g.tinfo = BitVec.ofNat 64 info ∨ g.tcause = 2)

/-- A copy instruction's KIND and operands (R382). -/
def copyForm : Instr → Option (Nat × Reg × Reg × Reg)
  | .copy d a b => some (0, d, a, b)
  | .copyTile d a b => some (1, d, a, b)
  | .copyGath d a b => some (2, d, a, b)
  | .copyScat d a b => some (3, d, a, b)
  | .copyRed d a b => some (4, d, a, b)
  | .copyConv d a b => some (5, d, a, b)
  | _ => none

end Sys2Proof.Machine
end

