-- ==== Sys2Proof/Safety/Engine.lean ====
section
/-!
DEFINITION. Safety/Engine.lean: what the matrix engine checks when it drains blocks and gathers them, and what the copy engine reads and
writes, for the statements about their completions (R322, R323, R371 to R373, R386 to R391).
-/

namespace Sys2Proof.Machine

open Sys2Proof

/-- Part i of what an operation has read for a quad, as values of some bytes each (R372). -/
def imageOf (o : MatOp) (q i size : Nat) : List Nat :=
  let bs := o.image.getD (3 * q + i) []
  valuesOf size (bs.length / size) bs

/-- What mgath has read for a quad: row pointers, column indices and values (R372). -/
def rowsOf (o : MatOp) (d : Gather) (q : Nat) : GatherRows := ⟨imageOf o q 0 4, imageOf o q 1 2, imageOf o q 2 d.size⟩

/-- R373 finds nothing against a quarter of the matrix whose first row is k0: pointers and entries lie in the stash need, pointers rise,
columns are below N, and no row names a column twice. -/
def Gather.sound (d : Gather) (n k0 rows need : Nat) (g : GatherRows) : Prop :=
  ∀ i < rows, d.rowptr + 4 * (k0 + i + 2) ≤ need ∧ g.ptr.getD i 0 ≤ g.ptr.getD (i + 1) 0 ∧
    ∀ e, g.ptr.getD i 0 ≤ e → e < g.ptr.getD (i + 1) 0 →
      let at_ := fun (x : Nat) => g.col.getD (x - g.ptr.getD 0 0) 0
      d.colidx + 2 * (e + 1) ≤ need ∧ d.values + d.size * (e + 1) ≤ need ∧ at_ e < n ∧
        ∀ y, g.ptr.getD i 0 ≤ y → y < e → at_ y ≠ at_ e

/-- Element (j, i) of a gathered block: the value of the entry of row i whose column is j, and zero where there is none (R372). -/
def GatherRows.gives (g : GatherRows) (j i x : Nat) : Prop :=
  let p0 := g.ptr.getD 0 0
  let mine := fun (e : Nat) => g.ptr.getD i 0 ≤ e ∧ e < g.ptr.getD (i + 1) 0 ∧ g.col.getD (e - p0) 0 = j
  (∀ e, mine e → x = g.val.getD (e - p0) 0) ∧ ((∀ e, ¬ mine e) → x = 0)

/-- What a drain makes of one block, by what was there at its post (R371): with a record (1) the rows and columns that exceed their
tolerance decide, and an element is rebuilt in the block too (R322, R323, R486); with a valid strip (2) the comparison of R320, which
corrects the frame; with RECOMP (3) nothing is compared. It drains y and keeps z, with n corrections. -/
inductive Drained (code : Nat) (r : AccRec) (x : Tile) (old : Strip) : Tile → Tile → Nat → Prop
  | within (h : code = 1) (he : exceeding x r old = ([], [])) : Drained code r x old x x 0
  | rebuilt (i j : Nat) (h : code = 1) (he : exceeding x r old = ([i], [j])) :
      Drained code r x old (x.set i j (rebuild x.fmt (old.rs.getD i 0) (x.terms.getD i []) j))
        (x.set i j (rebuild x.fmt (old.rs.getD i 0) (x.terms.getD i []) j)) 1
  | same (h : code = 2) (hc : x.compare old = .pass) : Drained code r x old x x 0
  | element (i j y : Nat) (h : code = 2) (hc : x.compare old = .element i j y) : Drained code r x old (x.set i j y) x 1
  | entry (z : Strip) (h : code = 2) (hc : x.compare old = .entry z) : Drained code r x old x x 1
  | formed (h : code = 3) : Drained code r x old x x 0

/-- What a drain fails on: more than one row or column, or rows without columns (R323), or a mismatch of R320. -/
def DrainFails (code : Nat) (r : AccRec) (x : Tile) (old : Strip) : Prop :=
  code = 1 ∧ exceeding x r old ≠ ([], []) ∧ (∀ i j, exceeding x r old ≠ ([i], [j])) ∨ code = 2 ∧ ∃ m, x.compare old = .mismatch m

/-- The bytes of the part at o among the bytes read of some parts, one after another. -/
def partBytes (parts : List (Nat × Nat)) (bs : List Byte) (o n : Nat) : List Byte :=
  (bs.drop ((parts.takeWhile (fun p => p.1 ≠ o)).map Prod.snd).sum).take n

/-- Where the element of a convolution's row r and column comes from (R391): zero past the last image, the padding value outside the
image, else an element of the source. -/
def ConvGives (w : List Nat) (r column : Nat) (x : ConvFrom) : Prop :=
  let half := fun (i k : Nat) => w.getD i 0 / 2 ^ (16 * k) % 2 ^ 16
  let byte := fun (i k : Nat) => w.getD i 0 / 2 ^ (8 * k) % 2 ^ 8
  let height := half 8 0
  let width := half 8 1
  let channels := half 9 0
  let images := half 9 1
  let p := w.getD 13 0 + r
  let image := p / (half 12 0 * half 12 1)
  let oy := p % (half 12 0 * half 12 1) / half 12 1
  let ox := p % half 12 1
  let c := column % channels
  let kx := column / channels % byte 10 1
  let ky := column / channels / byte 10 1
  let iy : Int := oy * byte 10 2 - byte 11 0 + ky * byte 11 2
  let ix : Int := ox * byte 10 3 - byte 11 1 + kx * byte 11 3
  (images ≤ image → x = .value 0) ∧
  (image < images → iy < 0 ∨ height ≤ iy ∨ ix < 0 ∨ width ≤ ix → x = .value (w.getD 1 0 % 2 ^ (8 * pbSize w))) ∧
  (image < images → 0 ≤ iy → iy < height → 0 ≤ ix → ix < width →
    x = .at_ (addrPlus (pbSrc w) ((((image * height + iy) * width + ix) * channels + c) * pbSize w)))

/-- The engine brings the elements of some columns of a row of a convolution together (R391): s is left as u, and bs are their bytes. -/
inductive ConvRow (m : Mover) (w : List Nat) (r : Nat) : List Nat → State → State → List Byte → Prop
  | nil (s : State) : ConvRow m w r [] s s []
  | value (column x : Nat) (rest : List Nat) (s u : State) (bs : List Byte) (h : ConvGives w r column (.value x))
      (hr : ConvRow m w r rest s u bs) : ConvRow m w r (column :: rest) s u (bytesOf (pbSize w) x ++ bs)
  | read (column va : Nat) (rest : List Nat) (s t u : State) (b bs : List Byte) (h : ConvGives w r column (.at_ va))
      (he : State.engineRead m (chunksOf va (pbSize w)) s = .ok t b) (hr : ConvRow m w r rest t u bs) :
      ConvRow m w r (column :: rest) s u (b ++ bs)

end Sys2Proof.Machine
end

