-- ==== Sys2Proof/Safety/Events.lean ====
section
/-!
DEFINITION. Safety/Events.lean: what the statements about events say of blocks, teams, records and fault queues (R34, R224 to R235,
R330 to R353).
-/

namespace Sys2Proof.Machine

open Sys2Proof

/-- No block of the list is in a state, and none of its gangs. -/
def Gone (t : State) (bs : List Block) : Prop :=
  ∀ b ∈ bs, t.block? b.bid = none ∧ ∀ e ∈ t.gangs, e.2.bid ≠ b.bid

/-- Nothing stands in the way of the device's own accesses to memory (R435, R465): no stack is retrained, no page migrates, and no
write waits for a stack. -/
def Quiet (s : State) : Prop :=
  (∀ e ∈ s.hbm, e.2.retraining = false) ∧ (∀ m ∈ s.migrations, m.2.pulling = false) ∧ s.heldWrites = []

/-- The identifier's fault queue has room, in HBM4 or, over the link, in the cellar, and where its next record goes (R351, R352). -/
def QueueOpen (s : State) (asid : Nat) (d : Descriptor) (produced : Nat) : Prop :=
  Quiet s ∧ Tab.look s.identifiers asid = some d ∧ d.fqsize ≠ 0 ∧ produced < 2 ^ 32 ∧
    (∀ j < 4, Memory.byte? s.mem (d.fqbase + j) = some (BitVec.ofNat 8 (produced / 2 ^ (8 * j)))) ∧
    ∃ consumed, consumed < 2 ^ 32 ∧
      (∀ j < 4, Memory.byte? s.mem (d.fqbase + 4 + j) = some (BitVec.ofNat 8 (consumed / 2 ^ (8 * j)))) ∧
      (produced + 2 ^ 32 - consumed) % 2 ^ 32 < d.fqsize ∧
      (isHbm (d.fqbase + 31 + 32 * d.fqsize) = true ∨
        isCellar d.fqbase = true ∧ isCellar (d.fqbase + 31 + 32 * d.fqsize) = true ∧ s.link ≠ .down)

/-- A record of a kind stands in memory: word 0, then the words given, then zeros; PRODUCED counts it (R351, R352). -/
def RecordStored (t : State) (asid kind : Nat) (d : Descriptor) (produced : Nat) (ws : List Nat) : Prop :=
  let at_ := d.fqbase + 32 + 32 * (produced % d.fqsize)
  (∀ j < 32, Memory.byte? t.mem (at_ + j) =
    some (BitVec.ofNat 8 (((kind + asid * 2 ^ 8) :: ws).getD (j / 4) 0 / 2 ^ (8 * (j % 4))))) ∧
  ∀ j < 4, Memory.byte? t.mem (d.fqbase + j) = some (BitVec.ofNat 8 ((produced + 1) / 2 ^ (8 * j)))

/-- The registers with which a handler block starts (R344): the payload, the sender, its slot, and the length. -/
def HandlerStarts (t : State) (core slot : Nat) (m : Message) (pc : Dword) (bid : Nat) : Prop :=
  (∃ b, t.block? bid = some b ∧ b.core = core ∧ b.slot = slot ∧ b.handler = true ∧ b.asid = m.asid ∧ b.gangs = [0]) ∧
    ∃ g, t.gang? (gangId bid 0) = some g ∧ g.role = 0 ∧ g.tree = Tree.start (BitVec.allOnes 32) pc (t.cycle core) ∧ g.system = false ∧
      (∀ l < 32, ∀ i < 16, Tab.getD g.regs (vKey l i) 0 = m.payload.getD i 0) ∧
      (∀ l < 32, m.peer = none → Tab.getD g.regs (vKey l 16) 0 = BitVec.ofNat 32 m.core ∧
        Tab.getD g.regs (vKey l 17) 0 = BitVec.ofNat 32 m.slot) ∧
      ∀ l < 32, Tab.getD g.regs (vKey l 18) 0 = BitVec.ofNat 32 m.payload.length

/-- A split that waited for a translation record, after an answer to it (R429). -/
def Answered (s t : State) (asid ticket : Nat) (f : Nat → Mask → Park) : Prop :=
  ∀ k g b, s.gang? k = some g → s.block? g.bid = some b → b.asid = asid → ∃ g', t.gang? k = some g' ∧
    g' = { g with
      tree := g'.tree
      layers := g'.layers } ∧
    ∀ p x, Tab.look g.tree.splits p = some x → Tab.look g'.tree.splits p = some (match x.park with
      | .translation n va lanes => if n = ticket then { x with park := f va lanes } else x
      | _ => x)

end Sys2Proof.Machine
end

