-- ==== Sys2Proof/Safety/Float.lean ====
section
/-!
DEFINITION. Safety/Float.lean: the operation, operands and format of each floating-point instruction (R169 to R188), and what it
means that the instruction completes or traps (R110, R111, R190), for the statements about them.
-/

namespace Sys2Proof.Machine

open Sys2Proof

/-- A destination of w registers from d on, and the number and exceptions that a physical lane p gives. -/
structure FCalc where
  d : Reg
  w : Nat
  f : Lanes → Nat → Nat × Flags5

/-- The FP32 instructions (R169, R174 to R176); form-C operands are R113's. -/
def single : Instr → Option FCalc
  | .faddF32 d a b => some ⟨d, 1, fun x p => Fmt.f32.add x.mode (x.f p a) (x.fsrc p b)⟩
  | .fsubF32 d a b => some ⟨d, 1, fun x p => Fmt.f32.sub x.mode (x.f p a) (x.fsrc p b)⟩
  | .fmulF32 d a b => some ⟨d, 1, fun x p => Fmt.f32.mul x.mode (x.f p a) (x.fsrc p b)⟩
  | .ffmaF32 d a b => some ⟨d, 1, fun x p => Fmt.f32.fma x.mode false (x.f p a) (x.fsrc p b) (x.f p d)⟩
  | .fminF32 d a b => some ⟨d, 1, fun x p => Fmt.f32.minmax false (x.f p a) (x.fsrc p b)⟩
  | .fmaxF32 d a b => some ⟨d, 1, fun x p => Fmt.f32.minmax true (x.f p a) (x.fsrc p b)⟩
  | .fdivF32 d a b => some ⟨d, 1, fun x p => Fmt.f32.div x.mode (x.f p a) (x.fsrc p b)⟩
  | .fsqrtF32 d a => some ⟨d, 1, fun x p => Fmt.f32.sqrt x.mode (x.f p a)⟩
  | .fseteqF32 d a b => some ⟨d, 1, fun x p => cmpResult (Fmt.f32.seteq (x.f p a) (x.fsrc p b))⟩
  | .fsetltF32 d a b => some ⟨d, 1, fun x p => cmpResult (Fmt.f32.setlt false (x.f p a) (x.fsrc p b))⟩
  | .fsetleF32 d a b => some ⟨d, 1, fun x p => cmpResult (Fmt.f32.setlt true (x.f p a) (x.fsrc p b))⟩
  | .fsetunF32 d a b => some ⟨d, 1, fun x p => cmpResult (Fmt.f32.setun (x.f p a) (x.fsrc p b))⟩
  | .faddiF32 d imm => some ⟨d, 1, fun x p => Fmt.f32.add x.mode (x.f p d) (imm32 imm)⟩
  | .fmuliF32 d imm => some ⟨d, 1, fun x p => Fmt.f32.mul x.mode (x.f p d) (imm32 imm)⟩
  | .fclassF32 d a => some ⟨d, 1, fun x p => (Fmt.f32.classify (x.f p a), 0)⟩
  | .fnmaF32 d a b => some ⟨d, 1, fun x p => Fmt.f32.fma x.mode true (x.f p a) (x.fsrc p b) (x.f p d)⟩
  | _ => none

/-- The FP64 instructions (R169, R174 to R176). -/
def double : Instr → Option FCalc
  | .faddF64 d a b => some ⟨d, 2, fun x p => Fmt.f64.add x.mode (x.r2 p a) (x.fsrc2 p b)⟩
  | .fsubF64 d a b => some ⟨d, 2, fun x p => Fmt.f64.sub x.mode (x.r2 p a) (x.fsrc2 p b)⟩
  | .fmulF64 d a b => some ⟨d, 2, fun x p => Fmt.f64.mul x.mode (x.r2 p a) (x.fsrc2 p b)⟩
  | .ffmaF64 d a b => some ⟨d, 2, fun x p => Fmt.f64.fma x.mode false (x.r2 p a) (x.fsrc2 p b) (x.r2 p d)⟩
  | .fminF64 d a b => some ⟨d, 2, fun x p => Fmt.f64.minmax false (x.r2 p a) (x.fsrc2 p b)⟩
  | .fmaxF64 d a b => some ⟨d, 2, fun x p => Fmt.f64.minmax true (x.r2 p a) (x.fsrc2 p b)⟩
  | .fdivF64 d a b => some ⟨d, 2, fun x p => Fmt.f64.div x.mode (x.r2 p a) (x.fsrc2 p b)⟩
  | .fsqrtF64 d a => some ⟨d, 2, fun x p => Fmt.f64.sqrt x.mode (x.r2 p a)⟩
  | .fseteqF64 d a b => some ⟨d, 1, fun x p => cmpResult (Fmt.f64.seteq (x.r2 p a) (x.fsrc2 p b))⟩
  | .fsetltF64 d a b => some ⟨d, 1, fun x p => cmpResult (Fmt.f64.setlt false (x.r2 p a) (x.fsrc2 p b))⟩
  | .fsetleF64 d a b => some ⟨d, 1, fun x p => cmpResult (Fmt.f64.setlt true (x.r2 p a) (x.fsrc2 p b))⟩
  | .fsetunF64 d a b => some ⟨d, 1, fun x p => cmpResult (Fmt.f64.setun (x.r2 p a) (x.fsrc2 p b))⟩
  | .faddiF64 d imm => some ⟨d, 2, fun x p => Fmt.f64.add x.mode (x.r2 p d) (imm64 imm)⟩
  | .fmuliF64 d imm => some ⟨d, 2, fun x p => Fmt.f64.mul x.mode (x.r2 p d) (imm64 imm)⟩
  | .fclassF64 d a => some ⟨d, 1, fun x p => (Fmt.f64.classify (x.r2 p a), 0)⟩
  | .fnmaF64 d a b => some ⟨d, 2, fun x p => Fmt.f64.fma x.mode true (x.r2 p a) (x.fsrc2 p b) (x.r2 p d)⟩
  | _ => none

/-- The packed instructions: both elements on their own, their exceptions united (R173). -/
def packed : Instr → Option FCalc
  | .haddF16x2 d a b => some ⟨d, 1, fun x p => packed2 (fun u v _ => Fmt.f16.add x.mode u v) (x.r p a) (x.src p b) 0⟩
  | .hmulF16x2 d a b => some ⟨d, 1, fun x p => packed2 (fun u v _ => Fmt.f16.mul x.mode u v) (x.r p a) (x.src p b) 0⟩
  | .hfmaF16x2 d a b => some ⟨d, 1, fun x p => packed2 (fun u v w => Fmt.f16.halfFma x.mode u v w) (x.r p a) (x.src p b) (x.r p d)⟩
  | .haddBf16x2 d a b => some ⟨d, 1, fun x p => packed2 (fun u v _ => Fmt.bf16.add x.mode u v) (x.r p a) (x.src p b) 0⟩
  | .hmulBf16x2 d a b => some ⟨d, 1, fun x p => packed2 (fun u v _ => Fmt.bf16.mul x.mode u v) (x.r p a) (x.src p b) 0⟩
  | .hfmaBf16x2 d a b => some ⟨d, 1, fun x p => packed2 (fun u v w => Fmt.bf16.halfFma x.mode u v w) (x.r p a) (x.src p b) (x.r p d)⟩
  | _ => none

/-- The special functions (R178 to R180): a value that R179 only bounds rests on a free candidate (log entry 3). -/
def special : Instr → Option FCalc
  | .frcpF32 d a => some ⟨d, 1, fun x p => Fmt.f32.rcp (x.cand p) (x.f p a)⟩
  | .frsqF32 d a => some ⟨d, 1, fun x p => Fmt.f32.rsq (x.cand p) (x.f p a)⟩
  | .fexp2F32 d a => some ⟨d, 1, fun x p => exp2 (x.cand p) (x.f p a)⟩
  | .flog2F32 d a => some ⟨d, 1, fun x p => log2f (x.cand p) (x.f p a)⟩
  | .fsinF32 d a => some ⟨d, 1, fun x p => sinCos false (x.cand p) (x.f p a)⟩
  | .fcosF32 d a => some ⟨d, 1, fun x p => sinCos true (x.cand p) (x.f p a)⟩
  | .frcpF64 d a => some ⟨d, 2, fun x p => Fmt.f64.rcp (x.cand p) (x.r2 p a)⟩
  | .frsqF64 d a => some ⟨d, 2, fun x p => Fmt.f64.rsq (x.cand p) (x.r2 p a)⟩
  | _ => none

/-- The rounding mode of cvt and qbx: RM where OVR is set, else fmode (R181). -/
def Lanes.override (x : Lanes) (ovr : Bool) (rm : BitVec 2) : RMode := if ovr then rm.toNat else x.mode

/-- The conversions and block quantisation (R181 to R188). -/
def converted : Instr → Option FCalc
  | .cvt d a ovr rm conv => some ⟨d, (cvtRegs conv.toNat).2, fun x p =>
      let r := cvtLane conv.toNat (x.override ovr rm) ((List.range (cvtRegs conv.toNat).1).map (fun i => x.cx.rd x.s p (a.toNat + i)))
      (wordsToNat r.1, r.2)⟩
  | .qbx d a ovr rm len16 bx4 => some ⟨d, 1, fun x p =>
      let q := bxQuantise bx4 (x.override ovr rm) ((x.blockLanes len16 p).map (fun m => Fmt.f32.decode (x.f m a)))
      let me := q.2.2.getD ((x.blockLanes len16 p).idxOf p) (0, 0)
      (q.2.1 * 2 ^ 24 + q.1 * 2 ^ 16 + me.1, me.2)⟩
  | _ => none

/-- The gang g1 is the issuer's but for the sticky flags of the lanes that performed: each lane's are united with the exceptions
that fl gives for it (R110); those of a helper are united with it, for the u.hjoin that ends its iteration (R190). -/
def FlagsRaised (cx : Cx) (lanes : List Nat) (fl : Nat → Flags5) (g1 : Gang) : Prop :=
  (cx.index = 0 → g1 = { cx.g with fflags := g1.fflags } ∧
    ∀ q, Tab.getD g1.fflags q 0 = if q ∈ lanes then Tab.getD cx.g.fflags q 0 ||| fl q else Tab.getD cx.g.fflags q 0) ∧
  (cx.index ≠ 0 → g1 = { cx.g with recruits := g1.recruits } ∧
    (∀ l, l ≠ cx.body.getD 0 → Tab.look g1.recruits l = Tab.look cx.g.recruits l) ∧
    Tab.look g1.recruits (cx.body.getD 0) = (Tab.look cx.g.recruits (cx.body.getD 0)).map (fun r =>
      { r with helpers := r.helpers.map (fun h =>
          if h.index = cx.index then { h with flags := lanes.foldl (fun x p => x ||| fl p) h.flags } else h) }))

/-- The exceptions of a lane that are enabled in ftrap. -/
def FCalc.enabled (c : FCalc) (cx : Cx) (s : State) (p : Nat) : Flags5 := (c.f ⟨cx, s⟩ p).2 &&& cx.ftrap

/-- Completes: no lane raises an enabled exception; each performing lane's registers hold its result, its exceptions are united
with its sticky flags, and nothing else changes. -/
def CompletesFloat (i : Instr) (c : FCalc) (cx : Cx) (s : State) : Prop :=
  ∃ t g1, exec i s = .next t ∧ Holds cx t cx.lanes c.d c.w (fun p => (c.f ⟨cx, s⟩ p).1) ∧
    FlagsRaised cx cx.lanes (fun p => (c.f ⟨cx, s⟩ p).2) g1 ∧ OnlyRegs cx s t g1 (cx.keysIn cx.lanes c.d c.w) cx.next

/-- The visible lanes one of whose copies raises an enabled exception. -/
def FCalc.failing (c : FCalc) (cx : Cx) (s : State) : Mask :=
  maskOf ((cx.lanes.filter (fun p => c.enabled cx s p ≠ 0)).map cx.g.vis)

/-- The physical lanes of the others. -/
def FCalc.passing (c : FCalc) (cx : Cx) (s : State) : List Nat := cx.lanes.filter (fun p => !(c.failing cx s).getLsbD (cx.g.vis p))

/-- Traps (R111): the lanes that raise no enabled exception complete; then the lanes that do raise the lowest cause of R108 among
the enabled exceptions raised, with the set of them in TINFO. Their registers are unchanged. -/
def TrapsFloat (i : Instr) (c : FCalc) (cx : Cx) (s : State) : Prop :=
  ∃ u g1 k, exec i s = .next (cx.fault u (0x10 + k) (c.failing cx s) 0 (cx.lanes.foldl (fun x p => x ||| c.enabled cx s p) 0)) ∧
    (∃ p ∈ cx.lanes, (c.enabled cx s p).testBit k) ∧ (∀ p ∈ cx.lanes, ∀ j < k, (c.enabled cx s p).testBit j = false) ∧
    Holds cx u (c.passing cx s) c.d c.w (fun p => (c.f ⟨cx, s⟩ p).1) ∧
    FlagsRaised cx (c.passing cx s) (fun p => (c.f ⟨cx, s⟩ p).2) g1 ∧
    ∃ g', u.gang? cx.gid = some g' ∧ GangFrame g1 (cx.keysIn (c.passing cx s) c.d c.w) g'

end Sys2Proof.Machine
end

