-- ==== Sys2Proof/Safety/Integer.lean ====
section
/-!
DEFINITION. Safety/Integer.lean: what the rules R142 to R152 say that each integer, logic, shift, bit-field, compare, select and
move instruction computes, in plain numbers, for the statements about them.
-/

namespace Sys2Proof.Machine

open Sys2Proof

/-- A destination of w registers from d on, and the number that goes there for a physical lane p, read from the operands x. -/
structure Calc where
  d : Reg
  w : Nat
  f : Lanes → Nat → Nat

/-- Operands as the rules name them: zext and sext of register n and of the source b (R14). -/
def Lanes.zr (x : Lanes) (p : Nat) (n : Reg) : Nat := (x.r p n).toNat
def Lanes.sr (x : Lanes) (p : Nat) (n : Reg) : Int := sext (x.r p n).toNat 32
def Lanes.zs (x : Lanes) (p : Nat) (b : Src) : Nat := (x.src p b).toNat
def Lanes.ss (x : Lanes) (p : Nat) (b : Src) : Int := sext (x.src p b).toNat 32

/-- The arithmetic V instructions (R142) and the form-C ones (R143). -/
def arithmetic : Instr → Option Calc
  | .add d a b => some ⟨d, 1, fun x p => wrap (x.zr p a + x.zs p b) 32⟩
  | .sub d a b => some ⟨d, 1, fun x p => wrap (x.zr p a - x.zs p b) 32⟩
  | .mul d a b => some ⟨d, 1, fun x p => wrap (x.zr p a * x.zs p b) 32⟩
  | .mulhiI32 d a b => some ⟨d, 1, fun x p => wrap (x.sr p a * x.ss p b / 2 ^ 32) 32⟩
  | .mulhiN32 d a b => some ⟨d, 1, fun x p => x.zr p a * x.zs p b / 2 ^ 32⟩
  | .mad d a b => some ⟨d, 1, fun x p => wrap (x.zr p a * x.zs p b + x.zr p d) 32⟩
  | .mulwI32 d a b => some ⟨d, 2, fun x p => wrap (x.sr p a * x.ss p b) 64⟩
  | .mulwN32 d a b => some ⟨d, 2, fun x p => x.zr p a * x.zs p b⟩
  | .minI32 d a b => some ⟨d, 1, fun x p => wrap (min (x.sr p a) (x.ss p b)) 32⟩
  | .maxI32 d a b => some ⟨d, 1, fun x p => wrap (max (x.sr p a) (x.ss p b)) 32⟩
  | .minN32 d a b => some ⟨d, 1, fun x p => min (x.zr p a) (x.zs p b)⟩
  | .maxN32 d a b => some ⟨d, 1, fun x p => max (x.zr p a) (x.zs p b)⟩
  | .addI64 d a b => some ⟨d, 2, fun x p => wrap (x.r2 p a + x.src2 p b) 64⟩
  | .subI64 d a b => some ⟨d, 2, fun x p => wrap (x.r2 p a - x.src2 p b) 64⟩
  | .addi d m => some ⟨d, 1, fun x p => wrap (x.zr p d + sext m.toNat 16) 32⟩
  | .ldi d m => some ⟨d, 1, fun _ _ => wrap (sext m.toNat 16) 32⟩
  | .movh d m => some ⟨d, 1, fun x p => m.toNat * 2 ^ 16 + x.zr p d % 2 ^ 16⟩
  | _ => none

/-- The number of the L bits of a number from position pos upwards (R147). -/
def fieldOf (x : Int) (pos l : Nat) : Nat := (x / 2 ^ pos % 2 ^ l).toNat
def fieldPos (q : Nat) : Nat := bits q 7 0
def fieldLen (q : Nat) : Nat := min (bits q 15 8) 32

/-- bfe (R147). -/
def extracted (x : Int) (signed : Bool) (q : Nat) : Nat :=
  if fieldLen q = 0 then 0
  else if signed then wrap (sext (fieldOf x (fieldPos q) (fieldLen q)) (fieldLen q)) 32 else fieldOf x (fieldPos q) (fieldLen q)

/-- bfi (R148). -/
def inserted (d a q : Nat) : Nat :=
  if fieldLen q = 0 ∨ 32 ≤ fieldPos q then d
  else
    let m := (2 ^ fieldLen q - 1) * 2 ^ fieldPos q % 2 ^ 32
    (d &&& (2 ^ 32 - 1 - m)) ||| (a * 2 ^ fieldPos q % 2 ^ 32 &&& m)

/-- Shifts by a count that is not reduced (R145). -/
def shiftedLeft (a c : Nat) : Nat := if c < 32 then a * 2 ^ c % 2 ^ 32 else 0
def shiftedRight (a c : Nat) : Nat := if c < 32 then a / 2 ^ c else 0
def shiftedSigned (a : Int) (c : Nat) : Nat := wrap (a / 2 ^ min c 31) 32

/-- The logic and shift instructions and the other bit instructions (R145 to R149). -/
def logic : Instr → Option Calc
  | .and d a b => some ⟨d, 1, fun x p => x.zr p a &&& x.zs p b⟩
  | .or d a b => some ⟨d, 1, fun x p => x.zr p a ||| x.zs p b⟩
  | .xor d a b => some ⟨d, 1, fun x p => x.zr p a ^^^ x.zs p b⟩
  | .andn d a b => some ⟨d, 1, fun x p => x.zr p a &&& (2 ^ 32 - 1 - x.zs p b)⟩
  | .shl d a b => some ⟨d, 1, fun x p => shiftedLeft (x.zr p a) (x.zs p b)⟩
  | .shrN32 d a b => some ⟨d, 1, fun x p => shiftedRight (x.zr p a) (x.zs p b)⟩
  | .shrI32 d a b => some ⟨d, 1, fun x p => shiftedSigned (x.sr p a) (x.zs p b)⟩
  | .shli d a c => some ⟨d, 1, fun x p => shiftedLeft (x.zr p a) c.toNat⟩
  | .shriN32 d a c => some ⟨d, 1, fun x p => shiftedRight (x.zr p a) c.toNat⟩
  | .shriI32 d a c => some ⟨d, 1, fun x p => shiftedSigned (x.sr p a) c.toNat⟩
  | .bfeN32 d a b => some ⟨d, 1, fun x p => extracted (x.zr p a) false (x.zs p b)⟩
  | .bfeI32 d a b => some ⟨d, 1, fun x p => extracted (x.sr p a) true (x.zs p b)⟩
  | .bfi d a b => some ⟨d, 1, fun x p => inserted (x.zr p d) (x.zr p a) (x.zs p b)⟩
  | .popc d a => some ⟨d, 1, fun x p => ((List.range 32).filter (fun i => (x.r p a).getLsbD i)).length⟩
  | .clz d a => some ⟨d, 1, fun x p => ((List.range 32).filter (fun i => x.zr p a < 2 ^ i)).length⟩
  | .brev d a => some ⟨d, 1, fun x p => (x.r p a).reverse.toNat⟩
  | _ => none

/-- A compare's result (R150). -/
def truth (b : Bool) : Nat := if b then 1 else 0

/-- The compares, sel and the moves (R150 to R152). -/
def choices : Instr → Option Calc
  | .seteq d a b => some ⟨d, 1, fun x p => truth (x.zr p a = x.zs p b)⟩
  | .setne d a b => some ⟨d, 1, fun x p => truth (x.zr p a ≠ x.zs p b)⟩
  | .setltI32 d a b => some ⟨d, 1, fun x p => truth (x.sr p a < x.ss p b)⟩
  | .setleI32 d a b => some ⟨d, 1, fun x p => truth (x.sr p a ≤ x.ss p b)⟩
  | .setltN32 d a b => some ⟨d, 1, fun x p => truth (x.zr p a < x.zs p b)⟩
  | .setleN32 d a b => some ⟨d, 1, fun x p => truth (x.zr p a ≤ x.zs p b)⟩
  | .setltI64 d a b => some ⟨d, 1, fun x p => truth (sext (x.r2 p a) 64 < sext (x.src2 p b) 64)⟩
  | .seteqI64 d a b => some ⟨d, 1, fun x p => truth (x.r2 p a = x.src2 p b)⟩
  | .sel d a b => some ⟨d, 1, fun x p => if x.zr p d ≠ 0 then x.zr p a else x.zs p b⟩
  | .mov d b => some ⟨d, 1, fun x p => x.zs p b⟩
  | .movI64 d b => some ⟨d, 2, fun x p => x.src2 p b⟩
  | _ => none

/-- The V instruction that a U instruction of R142 to R149 computes like (R144). -/
def vectorForm : Instr → Option Instr
  | .uAdd d a b => some (.add d a b)
  | .uSub d a b => some (.sub d a b)
  | .uMul d a b => some (.mul d a b)
  | .uMulhiI32 d a b => some (.mulhiI32 d a b)
  | .uMulhiN32 d a b => some (.mulhiN32 d a b)
  | .uMad d a b => some (.mad d a b)
  | .uAddI64 d a b => some (.addI64 d a b)
  | .uSubI64 d a b => some (.subI64 d a b)
  | .uMulwI32 d a b => some (.mulwI32 d a b)
  | .uMulwN32 d a b => some (.mulwN32 d a b)
  | .uMinI32 d a b => some (.minI32 d a b)
  | .uMaxI32 d a b => some (.maxI32 d a b)
  | .uMinN32 d a b => some (.minN32 d a b)
  | .uMaxN32 d a b => some (.maxN32 d a b)
  | .uAddi d m => some (.addi d m)
  | .uLdi d m => some (.ldi d m)
  | .uAnd d a b => some (.and d a b)
  | .uOr d a b => some (.or d a b)
  | .uXor d a b => some (.xor d a b)
  | .uAndn d a b => some (.andn d a b)
  | .uShl d a b => some (.shl d a b)
  | .uShrN32 d a b => some (.shrN32 d a b)
  | .uShrI32 d a b => some (.shrI32 d a b)
  | .uShli d a c => some (.shli d a c)
  | .uShriN32 d a c => some (.shriN32 d a c)
  | .uShriI32 d a c => some (.shriI32 d a c)
  | .uBfeN32 d a b => some (.bfeN32 d a b)
  | .uBfeI32 d a b => some (.bfeI32 d a b)
  | .uBfi d a b => some (.bfi d a b)
  | .uPopc d a => some (.popc d a)
  | .uClz d a => some (.clz d a)
  | .uBrev d a => some (.brev d a)
  | _ => none

/-- What a V or U instruction of R142 to R152 computes. -/
def calculated (i : Instr) : Option Calc :=
  match arithmetic i with
  | some c => some c
  | none =>
    match logic i with
    | some c => some c
    | none => choices i

/-- Completes with its results: each performing lane's registers hold what its own operands give, and nothing else changes (R70,
R140). -/
def CompletesPerLane (i : Instr) (c : Calc) (cx : Cx) (s : State) : Prop :=
  ∃ t, exec i s = .next t ∧ Holds cx t cx.lanes c.d c.w (c.f ⟨cx, s⟩) ∧ OnlyRegs cx s t cx.g (cx.keysIn cx.lanes c.d c.w) cx.next

/-- Completes with its results: every active lane's registers hold what the operands of the lowest active lane give (the same copy
of it, in a protected team), and nothing else changes (R71). -/
def CompletesUniform (i : Instr) (c : Calc) (cx : Cx) (s : State) : Prop :=
  ∃ t, exec i s = .next t ∧
    Holds cx t (cx.g.expand cx.active) c.d c.w (fun p => c.f ⟨cx, s⟩ ((cx.g.phys cx.low).getD (cx.g.copy p) 0)) ∧
    OnlyRegs cx s t cx.g (cx.keysIn (cx.g.expand cx.active) c.d c.w) cx.next

end Sys2Proof.Machine
end

