-- ==== Sys2Proof/Safety/Lane.lean ====
section
/-!
DEFINITION. Safety/Lane.lean: what the rules R153 to R166 say of the lane-exchange, vote, reduction and register-indexed moves, for
the statements about them.
-/

namespace Sys2Proof.Machine

open Sys2Proof

/-- A shuffle's destination, its source register, its delta, and the source lane for a width, a lane and a delta (R159); none is out
of range. -/
structure Exchange where
  d : Reg
  a : Reg
  b : Src
  source : Nat → Nat → Nat → Option Nat

def exchange : Instr → Option Exchange
  | .xchAt d a b => some ⟨d, a, b, fun w _ delta => some (delta % w)⟩
  | .xchBelow d a b => some ⟨d, a, b, fun _ l delta => if delta ≤ l then some (l - delta) else none⟩
  | .xchAbove d a b => some ⟨d, a, b, fun w l delta => if l + delta < w then some (l + delta) else none⟩
  | .xchMirror d a b => some ⟨d, a, b, fun w l delta => some (l ^^^ (delta % w))⟩
  | _ => none

/-- The source lane of a physical lane p, none where it is out of range; on a copy-role gang every shuffle returns the lane's own a
(R161). -/
def Exchange.from_ (x : Exchange) (cx : Cx) (s : State) (p : Nat) : Option Nat :=
  if cx.g.role = 2 then none else x.source cx.g.width (cx.g.vis p) ((⟨cx, s⟩ : Lanes).src p x.b).toNat

/-- The physical lane of a visible lane that holds the same copy as p (R161). -/
def Cx.sameCopy (cx : Cx) (p l : Nat) : Nat := (cx.g.phys l).getD (cx.g.copy p) 0

/-- What a physical lane receives: its own a out of range, zero from a dead lane, else a of the source lane (R159, R160). -/
def Exchange.value (x : Exchange) (cx : Cx) (s : State) (p : Nat) : Nat :=
  match x.from_ cx s p with
  | none => (cx.rd s p x.a.toNat).toNat
  | some l => if cx.g.dead.getLsbD l then 0 else (cx.rd s (cx.sameCopy p l) x.a.toNat).toNat

/-- Whether a visible lane receives from a dead lane. -/
def Exchange.fromDead (x : Exchange) (cx : Cx) (s : State) (l : Nat) : Prop :=
  ∃ p ∈ cx.lanes, cx.g.vis p = l ∧ ∃ k, x.from_ cx s p = some k ∧ cx.g.dead.getLsbD k = true

/-- Register a of every performing lane, in the copy that p belongs to. -/
def Cx.votes (cx : Cx) (s : State) (a : Reg) (p : Nat) : List (Nat × Word) :=
  (lanesOf cx.perform).map (fun l => (l, cx.rd s (cx.sameCopy p l) a.toNat))

/-- The sum over some lanes of 2 to their number. -/
def laneSum (ls : List Nat) : Nat := (ls.map (fun l => 2 ^ l)).sum

/-- What each operation of lred makes of the values of the performing lanes (R165). -/
def Reduces (op : Nat) (xs : List Word) (v : Nat) : Prop :=
  match op with
  | 0 => v = (xs.map BitVec.toNat).sum % 2 ^ 32
  | 1 => ∃ x ∈ xs, v = x.toNat ∧ ∀ y ∈ xs, x.toInt ≤ y.toInt
  | 2 => ∃ x ∈ xs, v = x.toNat ∧ ∀ y ∈ xs, y.toInt ≤ x.toInt
  | 3 => ∃ x ∈ xs, v = x.toNat ∧ ∀ y ∈ xs, x.toNat ≤ y.toNat
  | 4 => ∃ x ∈ xs, v = x.toNat ∧ ∀ y ∈ xs, y.toNat ≤ x.toNat
  | 5 => v < 2 ^ 32 ∧ ∀ j < 32, (v.testBit j = true ↔ ∀ x ∈ xs, x.getLsbD j = true)
  | 6 => v < 2 ^ 32 ∧ ∀ j < 32, (v.testBit j = true ↔ ∃ x ∈ xs, x.getLsbD j = true)
  | 7 => v = (xs.map BitVec.toNat).foldl (· ^^^ ·) 0
  | _ => False

end Sys2Proof.Machine
end

