-- ==== Sys2Proof/Safety/Loop.lean ====
section
/-!
DEFINITION. Safety/Loop.lean: the frames of a loop's participants and the combination of contributions, for the statements about
recruiting and helper loops (R191 to R208).
-/

namespace Sys2Proof.Machine

open Sys2Proof

/-- A participant's frame at the start of an iteration: its index in h0, the participant in h1, and zeros (R198). -/
def FrameIs (cx : Cx) (t : State) (lane index : Nat) (iter : Word) : Prop :=
  ∀ p ∈ cx.g.phys lane, ∀ n < 16, t.reg cx.gid (hKey lane index (cx.g.copy p) n) =
    if n = 0 then iter else if n = 1 then BitVec.ofNat 32 index else 0

/-- What a contribution makes of the accumulator, and the exceptions it raises (R202). -/
def Contributes (op mode : Nat) (acc x v : Word) (e : Flags5) : Prop :=
  match op with
  | 1 => v.toNat = (acc.toNat + x.toNat) % 2 ^ 32 ∧ e = 0
  | 2 => v = BitVec.ofNat 32 (Fmt.f32.add mode acc.toNat x.toNat).1 ∧ e = (Fmt.f32.add mode acc.toNat x.toNat).2
  | 3 => v.toInt = min acc.toInt x.toInt ∧ e = 0
  | 4 => v.toInt = max acc.toInt x.toInt ∧ e = 0
  | 5 => v.toNat = min acc.toNat x.toNat ∧ e = 0
  | 6 => v.toNat = max acc.toNat x.toNat ∧ e = 0
  | 7 => v = BitVec.ofNat 32 (Fmt.f32.minmax false acc.toNat x.toNat).1 ∧ e = (Fmt.f32.minmax false acc.toNat x.toNat).2
  | 8 => v = BitVec.ofNat 32 (Fmt.f32.minmax true acc.toNat x.toNat).1 ∧ e = (Fmt.f32.minmax true acc.toNat x.toNat).2
  | 9 => (∀ j < 32, v.getLsbD j = (acc.getLsbD j && x.getLsbD j)) ∧ e = 0
  | 10 => (∀ j < 32, v.getLsbD j = (acc.getLsbD j || x.getLsbD j)) ∧ e = 0
  | _ => False

/-- The issuer's gang has gone on without another change outside of it than a core's count of uncorrectable errors; its registers below
the frames are as they were, but for those of the keys ks. -/
def OnlyGang (cx : Cx) (s t : State) (ks : List Nat) : Prop :=
  (∀ k < 16384, k ∉ ks → t.reg cx.gid k = s.reg cx.gid k) ∧ (∀ k, k ≠ cx.gid → t.gang? k = s.gang? k) ∧
    (∀ c, ∃ n, t.core c = { s.core c with laneDeath := n }) ∧ t = { s with gangs := t.gangs, cores := t.cores }

/-- The issuing split stands at a PC, ready. -/
def SplitAt (cx : Cx) (t : State) (pc : Dword) : Prop :=
  ∃ g y, t.gang? cx.gid = some g ∧ Tab.look g.tree.splits cx.place = some y ∧ y.pc = pc ∧ y.park = .ready ∧ y.mask = cx.active

/-- Lane e.2 of gang e.1 can be granted to the recruiter (R192): it lies in the recruiter's quad, is not dead and not lent; and it has
executed exit in the recruiter's own gang, or its gang is another one of the block that has ended or whose every split waits. -/
def Cx.grantable (cx : Cx) (s : State) (e : Nat × Nat) : Prop :=
  ∃ x, s.gang? (gangId cx.b.bid e.1) = some x ∧ e.2 < 32 ∧ x.dmask.getLsbD e.2 = false ∧ e.2 ∉ s.lentLanes cx.b e.1 ∧
    (e.1 = cx.g.num ∧ x.exited.getLsbD e.2 = true ∨
      e.1 ≠ cx.g.num ∧ e.1 ∈ cx.b.gangs ∧ e.1 ≠ 31 ∧ e.1 % 4 = cx.g.num % 4 ∧ x.lender = true)

/-- The loop of a recruiting lane, with its helpers. -/
def LoopIs (t : State) (gid lane : Nat) (hs : List Helper) (l : Loop) : Prop :=
  ∃ g, t.gang? gid = some g ∧ Tab.look g.recruits lane = some ⟨hs, some l⟩

end Sys2Proof.Machine
end

