-- ==== Sys2Proof/Safety/Special.lean ====
section
/-!
DEFINITION. Safety/Special.lean: what the special registers and the counters show (R127 to R135, R438), and what a write to one
leaves, for the statements about sread, swrite, locq, cntrd and cntset.
-/

namespace Sys2Proof.Machine

open Sys2Proof

/-- One sockcap entry (R18, R19): kind, index, count and state of a socket; sockets 14 and 15 are empty. -/
def State.socket (s : State) (n : Nat) : Nat :=
  if n < 4 then 1 + 2 ^ 4 * n + 2 ^ 8 * (Config.socketStep n).toNat + 2 ^ 16 * 384 + 2 ^ 32 * (s.die n).state
  else if n < 12 then 2 + 2 ^ 4 * (n - 4) + 2 ^ 8 * (Config.socketStep n).toNat + 2 ^ 16 * 64 + 2 ^ 32 * (s.stack (n - 4)).state
  else if n < 14 then 3 + 2 ^ 4 * (n - 12) + 2 ^ 8 * (Config.socketStep n).toNat + 2 ^ 16 * 9 + 2 ^ 32 * Tab.getD s.ioStates (n - 12) 0
  else 0

/-- The value of R127's table that a physical lane sees; the clock apart, which `ClockRead` gives. -/
def Cx.shows (cx : Cx) (s : State) (p : Nat) (n : Nat) : Nat :=
  match n with
  | 0x00 => cx.active.toNat
  | 0x01 => cx.g.dmask.toNat
  | 0x02 => if cx.g.role = 2 then 0 else if cx.index = 0 then cx.g.vis p else cx.hlane
  | 0x03 => cx.g.num
  | 0x04 => cx.b.slot
  | 0x05 => cx.g.role
  | 0x10 => cx.g.tmask.toNat
  | 0x11 => cx.g.tpc.toNat
  | 0x12 => cx.g.tcause
  | 0x13 => cx.g.taddr.toNat
  | 0x14 => cx.g.tinfo.toNat
  | 0x15 => cx.g.tvec.toNat
  | 0x16 => cx.g.tdeleg.toNat
  | 0x20 => cx.g.fmode
  | 0x21 => Tab.getD cx.g.fflags p 0
  | 0x22 => cx.g.ftrap
  | 0x30 => cx.g.shape.toNat
  | 0x31 => (s.core cx.core).bndreg
  | 0x32 => (s.core cx.core).bndstash
  | 0x33 => (s.core cx.core).bndcache
  | 0x41 => cx.core + 2 ^ 12 * clusterOf cx.core + 2 ^ 16 * spanOf cx.core + 2 ^ 20 * dieOf cx.core +
      (if cx.g.role = 2 then 2 ^ 11 else 2 ^ 24 * (cx.g.num % 4))
  | 0x110 => 4 + 2 ^ 4 * 8 + 2 ^ 8 * 256 + 2 ^ 18 * 8 + 2 ^ 22 * 4 + 2 ^ 26 * 4
  | 0x111 => Config.coreMaxM cx.core + 2 ^ 8 * 128
  | n => s.socket (n - 0x100)

/-- The 64-bit special registers, which take a pair (R127, R128). -/
def wide (n : Nat) : Bool := [0x11, 0x13, 0x14, 0x15, 0x16, 0x40].contains n || (0x100 ≤ n && n ≤ 0x10F)

/-- A read of the clock gives the time in nanoseconds; for a team of a recorded queue the read is logged, and under a re-run it
gives the logged value (R127, R350). -/
def ClockRead (cx : Cx) (s u : State) (c : Nat) : Prop :=
  let recorded := match (s.block? cx.bid).bind (fun b => s.team? b.team) with
    | some t => s.recQueues.contains t.queue
    | none => false
  (recorded = false → c = s.clock ∧ u = s) ∧
  (recorded = true →
    (∀ x xs, (s.rerun.map Rerun.clocks) = some (x :: xs) → c = x ∧ u = { s with rerun := s.rerun.map (fun r => { r with clocks := xs }) }) ∧
    ((s.rerun.map Rerun.clocks).getD [] = [] → c = s.clock ∧
      u = if s.recording then s.logReplay (.clock s.clock s.clock) else s))

/-- The causes that tdeleg can delegate: every cause of R215 but 0x08 and 0x09 (R130). -/
def delegableCauses : List Nat :=
  [0x01, 0x02, 0x03, 0x04, 0x05, 0x06, 0x0A, 0x0B, 0x0C, 0x0D, 0x0E, 0x10, 0x11, 0x12, 0x13, 0x14, 0x18, 0x19, 0x1A, 0x1C, 0x1D,
    0x20, 0x21, 0x24, 0x25, 0x26, 0x28]

/-- The gang after swrite of register n, other than emask, from register d (R128, R130, R158). -/
def Written (cx : Cx) (s : State) (n : Nat) (d : Reg) (g : Gang) : Prop :=
  let low := cx.g.prime (lowLane cx.perform)
  let v := (cx.rd s low d.toNat).toNat
  let v2 := v + 2 ^ 32 * (cx.rd s low (d.toNat + 1)).toNat
  match n with
  | 0x11 => g = { cx.g with tpc := BitVec.ofNat 64 v2 }
  | 0x15 => g = { cx.g with tvec := BitVec.ofNat 64 v2 }
  | 0x16 => g = { cx.g with tdeleg := g.tdeleg } ∧
      ∀ k < 64, g.tdeleg.getLsbD k = (v2.testBit k && delegableCauses.contains k)
  | 0x20 => g = { cx.g with fmode := v % 4 }
  | 0x21 => g = { cx.g with fflags := g.fflags } ∧
      ∀ q, Tab.getD g.fflags q 0 = if q ∈ cx.lanes then (cx.rd s q d.toNat).toNat % 32 else Tab.getD cx.g.fflags q 0
  | 0x22 => g = { cx.g with ftrap := v % 32 }
  | _ => False

/-- The home of an address as locq reports it (R135). -/
def Homed (cx : Cx) (s : State) (va r : Nat) : Prop :=
  (2 ^ 57 ≤ va → r = 15) ∧
  (va < 2 ^ 57 → inLocal va = true → r = 1 + 2 ^ 16 * cx.core) ∧
  (va < 2 ^ 57 → inLocal va = false → inWindow va = true →
    let c := 96 * clusterOf cx.core + (va - windowBase) / 0x40000
    r = (if c = cx.core then 1 else 2) + 2 ^ 16 * c) ∧
  (va < 2 ^ 57 → inLocal va = false → inWindow va = false →
    (∀ l q, s.translate cx.core cx.asid va = .fail l q → r = if s.landsReserved cx.asid va then 5 else 15) ∧
    (∀ pte level, s.translate cx.core cx.asid va = .leaf pte level →
      let pa := leafPa pte level va
      (isHbm pa = true → r = 2 ^ 4 * spanOfPa pa + 2 ^ 8 * dieOfPa pa + 2 ^ 10 * sliceOfPa pa) ∧
      (isHbm pa = false → isCellar pa = true → r = 3) ∧
      (isHbm pa = false → isCellar pa = false → r = if isPeer pa = true ∧ s.routed (peerOf pa) = true then 4 else 5)))

/-- The counters of R438; an indexed one with its index. -/
inductive Counts (cx : Cx) (s : State) (i : Nat) : Nat → Nat → Prop
  | arrival (n : Nat) (h : n < 16) : Counts cx s i n (Tab.getD cx.g.acs n 0).toNat
  | cycles : Counts cx s i 0x10 (((s.cycle cx.core) + (s.core cx.core).cycleBase) % 2 ^ 64)
  | issued : Counts cx s i 0x11 (s.core cx.core).issued
  | impSplit : Counts cx s i 0x20 cx.b.impSplits
  | releases (t : Team) (h : s.team? cx.b.team = some t) : Counts cx s i 0x30 t.releases
  | ended (t : Team) (h : s.team? cx.b.team = some t) : Counts cx s i 0x31 t.ended
  | tstart (t : Team) (h : s.team? cx.b.team = some t) : Counts cx s i 0x32 t.tstart
  | dlmiss (t : Team) (h : s.team? cx.b.team = some t) : Counts cx s i 0x33 t.dlmiss
  | ckcorr : Counts cx s i 0x40 (s.core cx.core).ckcorr
  | ckrecomp : Counts cx s i 0x41 (s.core cx.core).ckrecomp
  | ckinj : Counts cx s i 0x42 (s.core cx.core).ckinj
  | laneDeath : Counts cx s i 0x43 (s.core cx.core).laneDeath
  | squash : Counts cx s i 0x44 (s.core cx.core).squash
  | iboard : Counts cx s i 0x50 ((s.board i).interval + 2 ^ 18 * (s.board i).state + 2 ^ 20 * (s.board i).attic)
  | renew : Counts cx s i 0x51 (s.die i).renew
  | fqdrop : Counts cx s i 0x52 (Tab.getD s.fqdrop i 0)
  | rtdefer : Counts cx s i 0x53 (s.stack i).rtdefer
  | perfCycles (k : Nat) (h : k < 4) : Counts cx s i (0x100 + 16 * k) (((s.die k).cycle + Tab.getD (s.die k).perf 0 0) % 2 ^ 64)
  | perf (k e : Nat) (h : k < 4) (h0 : e < 16) (h1 : e ≠ 0) : Counts cx s i (0x100 + 16 * k + e) (Tab.getD (s.die k).perf e 0)

/-- The state in which counter n is read: flits across the interposer, event 12, have been counted on the way, and how many those
are the spec does not say (R440, log entry 95); any other counter stands. -/
def ReadAt (s : State) (n : Nat) (u : State) : Prop :=
  if 0x100 ≤ n ∧ n % 16 = 12 then ∃ m, u = s.perf ((n - 0x100) / 16) 12 m else u = s

/-- Counters that only system level may read or set (R438), and how many an indexed one has. -/
def systemRead (n : Nat) : Bool := 0x50 ≤ n && n ≤ 0x53
def systemSet (n : Nat) : Bool := 16 ≤ n
def indexes (n : Nat) : Nat :=
  match n with
  | 0x50 => 16384
  | 0x51 => 4
  | 0x52 => 2048
  | _ => 8

/-- What cntset of counter n to v makes of the state, the arrival counters apart: v cut to the counter's width (R442). CYCLES and
event 0 of PERF keep counting from the value set; what the others have counted in this cycle comes on top of it (R444). -/
inductive CounterSet (cx : Cx) (s : State) (v : Nat) : Nat → State → Prop
  | cycles (b : Nat) (h : (s.cycle cx.core + b) % 2 ^ 64 = v % 2 ^ 64) (hb : b < 2 ^ 64) :
      CounterSet cx s v 0x10 (s.modCore cx.core (fun c => { c with cycleBase := b }))
  | issued : CounterSet cx s v 0x11 (s.modCore cx.core (fun c =>
      { c with issued := (v + if c.slotCycle = cx.cyc then c.slots else 0) % 2 ^ 64 }))
  | ckcorr : CounterSet cx s v 0x40 (s.modCore cx.core (fun c => { c with
      ckcorr := recount (v % 2 ^ 32) c.ckcorr (Tab.getD c.starts 0x40 0)
      starts := Tab.put c.starts 0x40 (v % 2 ^ 32) }))
  | ckrecomp : CounterSet cx s v 0x41 (s.modCore cx.core (fun c => { c with
      ckrecomp := recount (v % 2 ^ 32) c.ckrecomp (Tab.getD c.starts 0x41 0)
      starts := Tab.put c.starts 0x41 (v % 2 ^ 32) }))
  | ckinj : CounterSet cx s v 0x42 (s.modCore cx.core (fun c => { c with
      ckinj := recount (v % 2 ^ 32) c.ckinj (Tab.getD c.starts 0x42 0)
      starts := Tab.put c.starts 0x42 (v % 2 ^ 32) }))
  | laneDeath : CounterSet cx s v 0x43 (s.modCore cx.core (fun c => { c with
      laneDeath := recount (v % 2 ^ 32) c.laneDeath (Tab.getD c.starts 0x43 0)
      starts := Tab.put c.starts 0x43 (v % 2 ^ 32) }))
  | squash : CounterSet cx s v 0x44 (s.modCore cx.core (fun c => { c with
      squash := recount (v % 2 ^ 32) c.squash (Tab.getD c.starts 0x44 0)
      starts := Tab.put c.starts 0x44 (v % 2 ^ 32) }))
  | renew : CounterSet cx s v 0x51 (s.modDie (v / 2 ^ 32) (fun d => { d with
      renew := recount (v % 2 ^ 32) d.renew d.renewStart
      renewStart := v % 2 ^ 32 }))
  | fqdrop : CounterSet cx s v 0x52 { s with
      fqdrop := Tab.put s.fqdrop (v / 2 ^ 32)
        (recount (v % 2 ^ 32) (Tab.getD s.fqdrop (v / 2 ^ 32) 0) (Tab.getD s.fqdropStart (v / 2 ^ 32) 0))
      fqdropStart := Tab.put s.fqdropStart (v / 2 ^ 32) (v % 2 ^ 32) }
  | rtdefer : CounterSet cx s v 0x53 (s.modStack (v / 2 ^ 32) (fun k => { k with
      rtdefer := recount (v % 2 ^ 32) k.rtdefer k.rtdeferStart
      rtdeferStart := v % 2 ^ 32 }))
  | perfCycles (k b : Nat) (h : k < 4) (hv : ((s.die k).cycle + b) % 2 ^ 64 = v % 2 ^ 64) (hb : b < 2 ^ 64) :
      CounterSet cx s v (0x100 + 16 * k) (s.modDie k (fun d => { d with perf := Tab.put d.perf 0 b }))
  | perf (k e : Nat) (h : k < 4) (h0 : e < 16) (h1 : e ≠ 0) :
      CounterSet cx s v (0x100 + 16 * k + e) (s.modDie k (fun d => { d with
        perf := Tab.put d.perf e ((v + if d.countCycle = d.cycle then Tab.getD d.recent e 0 else 0) % 2 ^ 64) }))

end Sys2Proof.Machine
end

