-- ==== Sys2Proof/Certificates/Slice0/Obligations.lean ====
section
/-! DEFINITION. Certificates/Slice0/Obligations.lean: the statements about the machine, each from the rules of the spec that its
docstring names. -/

open Sys2Proof Sys2Proof.Machine

/-! ### Integer instructions (R139 to R152) -/

/-- R142 to R152: the integer V instructions (arithmetic, logic, shifts, bit fields, compares, sel and the moves) complete with the values
the rules give, in every performing lane, and change nothing else; a U instruction writes what its V form computes from the lowest active
lane into every active lane. -/
def Obligations.IntegerResults : Prop :=
  (∀ (i : Instr) (c : Calc) (cx : Cx) (s : State), calculated i = some c → Clear i cx s → CompletesPerLane i c cx s) ∧
  ∀ (i j : Instr) (c : Calc) (cx : Cx) (s : State), vectorForm i = some j → calculated j = some c → Clear i cx s →
    CompletesUniform i c cx s

/-! ### Floating point (R108 to R111, R169 to R190) -/

/-- R110, R169 to R190: the FP32, FP64 and packed instructions, the special functions (whatever candidate the free value is: the model's choice,
log entry 3), the conversions and block quantisation complete, where no lane raises an enabled exception, with the results and sticky
flags of their rules. That an infinite source of qbx raises invalid alone, without inexact, is the model's choice (log entry 101). -/
def Obligations.FloatResults : Prop :=
  ∀ (i : Instr) (c : FCalc) (cx : Cx) (s : State),
    (single i = some c ∨ double i = some c ∨ packed i = some c ∨ special i = some c ∨ converted i = some c) → Clear i cx s →
    (∀ p ∈ cx.lanes, c.enabled cx s p = 0) → CompletesFloat i c cx s

/-- R111: where a lane raises an enabled exception, the other lanes complete and the gang traps for those that do, with the lowest
cause of R108. -/
def Obligations.FloatTraps : Prop :=
  ∀ (i : Instr) (c : FCalc) (cx : Cx) (s : State),
    (single i = some c ∨ double i = some c ∨ packed i = some c ∨ special i = some c ∨ converted i = some c) → Clear i cx s →
    (∃ p ∈ cx.lanes, ∃ k < 5, (c.enabled cx s p).testBit k = true) → TrapsFloat i c cx s

/-! ### Lanes (R153 to R166) -/

/-- R159 to R162: a shuffle gives each performing lane its source lane's a, its own out of range, or zero with dsf set from a dead
lane. -/
def Obligations.Shuffles : Prop :=
  ∀ (i : Instr) (x : Exchange) (cx : Cx) (s : State), exchange i = some x → Clear i cx s →
    ∃ t dsf, exec i s = .next t ∧ Holds cx t cx.lanes x.d 1 (x.value cx s) ∧
      (∀ l < 32, (dsf : Mask).getLsbD l = true ↔ cx.g.dsf.getLsbD l = true ∨ x.fromDead cx s l) ∧
      OnlyRegs cx s t { cx.g with dsf := dsf } (cx.keysIn cx.lanes x.d 1) cx.next

/-- R163 to R165: vmask gathers the lanes whose a is not zero, vgroup those whose a equals the lane's own; lred reduces a over the
performing lanes; lred.dsf reads and clears their dead-source flags. -/
def Obligations.LaneGatherings : Prop :=
  (∀ (d a : Reg) (cx : Cx) (s : State),
    (Clear (.vmask d a) cx s → ∃ t, exec (.vmask d a) s = .next t ∧
      Holds cx t cx.lanes d 1 (fun p => laneSum (((cx.votes s a p).filter (fun e => e.2 ≠ 0)).map Prod.fst)) ∧
      OnlyRegs cx s t cx.g (cx.keysIn cx.lanes d 1) cx.next) ∧
    (Clear (.vgroup d a) cx s → ∃ t, exec (.vgroup d a) s = .next t ∧
      Holds cx t cx.lanes d 1 (fun p => laneSum (((cx.votes s a p).filter (fun e => e.2 = cx.rd s p a.toNat)).map Prod.fst)) ∧
      OnlyRegs cx s t cx.g (cx.keysIn cx.lanes d 1) cx.next)) ∧
  ∀ (d a : Reg) (op : BitVec 8) (cx : Cx) (s : State), Clear (.lred d a op) cx s →
    (op.toNat < 8 → ∃ t f, exec (.lred d a op) s = .next t ∧ Holds cx t cx.lanes d 1 f ∧
      (∀ p ∈ cx.lanes, Reduces op.toNat ((cx.votes s a p).map Prod.snd) (f p)) ∧
      OnlyRegs cx s t cx.g (cx.keysIn cx.lanes d 1) cx.next) ∧
    (op = 8 → ∃ t, exec (.lred d a op) s = .next t ∧
      Holds cx t cx.lanes d 1 (fun _ => laneSum ((lanesOf cx.perform).filter (fun m => cx.g.dsf.getLsbD m))) ∧
      OnlyRegs cx s t { cx.g with dsf := cx.g.dsf &&& ~~~cx.perform } (cx.keysIn cx.lanes d 1) cx.next)

/-- R153 to R156: movx writes, and movxr reads, the v register whose number the lane computes; out of the budget both raise cause
0x01 for the offending lanes with the lowest one's number. -/
def Obligations.IndexedMoves : Prop :=
  ∀ (d a : Reg) (cx : Cx) (s : State),
    (∀ b : Src, (Clear (.movx d a b) cx s → (∀ p ∈ cx.lanes, cx.target s d a p < min 256 cx.g.budget) → ∃ t, exec (.movx d a b) s = .next t ∧
        (∀ p ∈ cx.lanes, t.reg cx.gid (vKey p (cx.target s d a p)) = (⟨cx, s⟩ : Lanes).src p b) ∧
        OnlyRegs cx s t cx.g (cx.lanes.map (fun p => vKey p (cx.target s d a p))) cx.next) ∧
      (Valid (.movx d a b) cx s → cx.perform ≠ 0 → (∀ p ∈ cx.lanes, cx.early (cx.key p a.toNat) = false) →
        ∀ p ps, cx.lanes.filter (fun q => cx.g.budget ≤ cx.target s d a q) = p :: ps →
        exec (.movx d a b) s = .next (cx.fault s 1 (maskOf ((p :: ps).map cx.g.vis)) 0 (cx.target s d a p)))) ∧
    (∀ b : Reg, (Clear (.movxr d a b) cx s → ∃ t, exec (.movxr d a b) s = .next t ∧
          Holds cx t cx.lanes d 1 (fun p => (cx.g.read s cx.cyc (vKey p (cx.target s b a p))).toNat) ∧
          OnlyRegs cx s t cx.g (cx.keysIn cx.lanes d 1) cx.next) ∧
      (Valid (.movxr d a b) cx s → cx.perform ≠ 0 → (∀ p ∈ cx.lanes, cx.early (cx.key p a.toNat) = false) →
        ∀ p ps, cx.lanes.filter (fun q => cx.g.budget ≤ cx.target s b a q) = p :: ps →
        exec (.movxr d a b) s = .next (cx.fault s 1 (maskOf ((p :: ps).map cx.g.vis)) 0 (cx.target s b a p))))

/-! ### Special registers and counters (R127 to R135, R157, R158, R415, R438 to R442) -/

/-- R128, R157: sread gives each performing lane the register as that lane sees it. R135, R415: locq reports where an address lives,
emsave the split's mask, in every active lane. -/
def Obligations.SpecialReads : Prop :=
  (∀ (d : Reg) (n : BitVec 16) (cx : Cx) (s : State), Clear (.sread d n) cx s →
    (n ≠ 0x40 → ∃ t, exec (.sread d n) s = .next t ∧
      Holds cx t cx.lanes d (if wide n.toNat then 2 else 1) (fun p => cx.shows s p n.toNat) ∧
      OnlyRegs cx s t cx.g (cx.keysIn cx.lanes d (if wide n.toNat then 2 else 1)) cx.next) ∧
    (n = 0x40 → ∃ t u c, exec (.sread d n) s = .next t ∧ ClockRead cx s u c ∧ Holds cx t cx.lanes d 2 (fun _ => c) ∧
      OnlyRegs cx u t cx.g (cx.keysIn cx.lanes d 2) cx.next)) ∧
  ∀ (d : Reg) (cx : Cx) (s : State),
    (∀ a : Reg, Clear (.locq d a) cx s → ∃ t f, exec (.locq d a) s = .next t ∧
      (∀ p ∈ cx.g.expand cx.active, Homed cx s (cx.rd2 s (cx.sameCopy p cx.low) a.toNat) (f p)) ∧
      Holds cx t (cx.g.expand cx.active) d 1 f ∧ OnlyRegs cx s t cx.g (cx.keysIn (cx.g.expand cx.active) d 1) cx.next) ∧
    (Clear (.emsave d) cx s → ∃ t, exec (.emsave d) s = .next t ∧ Holds cx t (cx.g.expand cx.active) d 1 (fun _ => cx.active.toNat) ∧
      OnlyRegs cx s t cx.g (cx.keysIn (cx.g.expand cx.active) d 1) cx.next)

/-- R128, R130, R158: swrite of a register other than emask writes it, and nothing else. R128, R415: emset, and swrite of emask, give
the split a new mask and set the lanes it leaves aside; a mask without a lane raises cause 0x01. -/
def Obligations.SpecialWrites : Prop :=
  (∀ (d : Reg) (n : BitVec 16) (cx : Cx) (s : State), Clear (.swrite d n) cx s → n ≠ 0 →
    ∃ t g, exec (.swrite d n) s = .next t ∧ Written cx s n.toNat d g ∧ OnlyRegs cx s t g [] cx.next) ∧
  ∀ (a : Reg) (cx : Cx) (s : State),
    (Clear (.emset a) cx s → SetsMask (.emset a) cx s (cx.rd s cx.lowPhys a.toNat)) ∧
    (Valid (.emset a) cx s → cx.perform ≠ 0 → cx.early (cx.key cx.lowPhys a.toNat) = false →
      LeavesNone (.emset a) cx s (cx.rd s cx.lowPhys a.toNat)) ∧
    let low := cx.g.prime (lowLane cx.perform)
    (Clear (.swrite a 0) cx s → SetsMask (.swrite a 0) cx s (cx.rd s low a.toNat)) ∧
    (Valid (.swrite a 0) cx s → cx.perform ≠ 0 → cx.early (cx.key low a.toNat) = false → LeavesNone (.swrite a 0) cx s (cx.rd s low a.toNat))

/-- R438, R441: cntrd reads a counter into a pair of every active lane; an index out of range raises 0x01 with TINFO d, and a counter
of system level read by user code 0x09. R438, R442: cntset sets a counter to the pair's value, cut to its width; an arrival counter is
the gang's own. -/
def Obligations.Counters : Prop :=
  (∀ (d : Reg) (n : BitVec 16) (cx : Cx) (s : State),
    let i := (cx.rd s cx.lowPhys d.toNat).toNat
    (Clear (.cntrd d n) cx s → (∃ t, s.team? cx.b.team = some t) →
      ∃ t u v, exec (.cntrd d n) s = .next t ∧ ReadAt s n.toNat u ∧ Counts cx u i n.toNat v ∧
        Holds cx t (cx.g.expand cx.active) d 2 (fun _ => v) ∧ OnlyRegs cx u t cx.g (cx.keysIn (cx.g.expand cx.active) d 2) cx.next) ∧
    (Valid (.cntrd d n) cx s → cx.perform ≠ 0 → systemRead n.toNat = true → indexes n.toNat ≤ i →
      cx.tooEarly s (.cntrd d n) = none → exec (.cntrd d n) s = .next (cx.fault s 0x01 cx.perform 0 d.toNat)) ∧
    (Valid (.cntrd d n) cx s → cx.perform ≠ 0 → systemRead n.toNat = true → i < indexes n.toNat → cx.g.system = false →
      cx.tooEarly s (.cntrd d n) = none → exec (.cntrd d n) s = .next (cx.fault s 0x09 cx.perform 0 1))) ∧
  ∀ (d : Reg) (n : BitVec 16) (cx : Cx) (s : State),
    let v := cx.rd2 s cx.lowPhys d.toNat
    (Clear (.cntset d n) cx s →
      (n.toNat < 16 → ∃ t g, exec (.cntset d n) s = .next t ∧ g = { cx.g with acs := g.acs } ∧
        (∀ k, Tab.getD g.acs k 0 = if k = n.toNat then BitVec.ofNat 32 v else Tab.getD cx.g.acs k 0) ∧ OnlyRegs cx s t g [] cx.next) ∧
      (systemSet n.toNat = true → ∃ t u, exec (.cntset d n) s = .next t ∧ CounterSet cx s v n.toNat u ∧
        OnlyRegs cx u t cx.g [] cx.next)) ∧
    (Valid (.cntset d n) cx s → cx.perform ≠ 0 → cx.tooEarly s (.cntset d n) = none →
      (systemSet n.toNat = true → cx.g.system = false → exec (.cntset d n) s = .next (cx.fault s 0x09 cx.perform 0 1)) ∧
      (systemRead n.toNat = true → cx.g.system = true → indexes n.toNat ≤ v / 2 ^ 32 →
        exec (.cntset d n) s = .next (cx.fault s 0x01 cx.perform 0 0)))

/-! ### Control flow (R70, R71, R217, R406 to R419) -/

/-- R70, R71: an instruction that no lane performs only moves its issuer on; a branch, an exit and an lda have their own rules. -/
def Obligations.PredicatedOff : Prop :=
  ∀ (i : Instr) (cx : Cx) (s : State), i.isEvent = false → i.runsEmpty = false → Idle i cx s →
    ∃ t, exec i s = .next t ∧ OnlyRegs cx s t cx.g [] cx.next

/-- R8, R44, R80, R84, R217, R221: an invalid word and a register past the budget raise cause 0x01 in every active lane, before the
predicate is looked at; then a role that may not run the instruction raises 0x03, a register read too early 0x04, user code that issues
a system instruction 0x09, and copies that disagree on the predicate 0x21, in this order. -/
def Obligations.DecodeFaults : Prop :=
  ∀ (i : Instr) (cx : Cx) (s : State), i.isEvent = false → cxOf i s = some cx →
    (i.wellFormed = false → exec i s = .next (cx.fault s 0x01 cx.active 0 i.illegalInfo)) ∧
    (∀ n, i.wellFormed = true → i.regs.findSome? cx.badReg = some n → exec i s = .next (cx.fault s 0x01 cx.active 0 n)) ∧
    (Valid i cx s → cx.perform ≠ 0 → cx.illegal s i = none → i.silent = false →
      (i.admits.role cx.g.role = false → exec i s = .next (cx.fault s 0x03 cx.perform 0 cx.g.role)) ∧
      (i.admits.role cx.g.role = true →
        (∀ m n, cx.tooEarly s i = some (m, n) → exec i s = .next (cx.fault s 0x04 m 0 n)) ∧
        (cx.tooEarly s i = none →
          (i.system = true → cx.g.system = false → exec i s = .next (cx.fault s 0x09 cx.perform 0 1)) ∧
          ((i.system = true → cx.g.system = true) → ∀ l m, cx.predicateSplit s i = m → lanesOf m = l :: (lanesOf m).tail →
            exec i s = .next (cx.fault s 0x21 m 0 (2 + l * 4))))))

/-- R407: bra moves the split when its lanes agree and divides it where they do not; a branch packet says which lanes it takes. R409:
brx sends every performing lane to its own target; an invalid target raises 0x02 before any split changes. R348 gives brx one target
packet; that it names the target of the lowest performing lane where they differ is the model's choice (log entry 44). -/
def Obligations.Branches : Prop :=
  (∀ (t j : BitVec 12) (cx : Cx) (s : State),
    (Idle (.bra t j) cx s → ∃ u, exec (.bra t j) s = .next u ∧ OnlyRegs cx (cx.traced s 0) u cx.g [] cx.next) ∧
    (Clear (.bra t j) cx s → cx.rest = 0 →
      ∃ u, exec (.bra t j) s = .next u ∧ OnlyRegs cx (cx.traced s cx.perform) u cx.g [] (jTarget cx.pc t)) ∧
    (∀ x, Clear (.bra t j) cx s → cx.rest ≠ 0 → cx.index = 0 → Tab.look cx.g.tree.splits cx.place = some x → x.park = .ready →
      cx.place < 8 → cx.g.tree.roomy →
      ∃ u, exec (.bra t j) s = .next u ∧ Divides cx (cx.traced s cx.perform) u x (if j = 0 then none else some (jTarget cx.pc j))
        (fun l => if cx.perform.getLsbD l then jTarget cx.pc t else cx.next))) ∧
  ∀ (k : Bool) (a : Reg) (b : Src) (cx : Cx) (s : State), Clear (.brx k a b) cx s → cx.targetSplit s a cx.perform = 0 →
    let target := fun l => BitVec.ofNat 64 (cx.rd2 s (cx.g.prime l) a.toNat)
    let u := (cx.traced s cx.perform).traceTarget cx.gid cx.g.num (target (lowLane cx.perform))
    (∀ p ps, (lanesOf cx.perform).filter (fun l => s.pcInvalid cx.viewer (target l)) = p :: ps →
      exec (.brx k a b) s = .next (cx.fault s 0x02 (maskOf (p :: ps)) (target p).toNat 0)) ∧
    ((∀ l ∈ lanesOf cx.perform, s.pcInvalid cx.viewer (target l) = false) →
      (cx.rest = 0 → (∀ l ∈ lanesOf cx.perform, target l = target (lowLane cx.perform)) →
        ∃ t, exec (.brx k a b) s = .next t ∧ OnlyRegs cx u t cx.g [] (target (lowLane cx.perform))) ∧
      (∀ x, (cx.rest ≠ 0 ∨ ∃ l ∈ lanesOf cx.perform, target l ≠ target (lowLane cx.perform)) →
        Tab.look cx.g.tree.splits cx.place = some x → x.park = .ready → cx.place < 8 → cx.g.tree.roomy →
        ∃ t, exec (.brx k a b) s = .next t ∧ Divides cx u t x
          (if k then some (match b with
            | .reg n => BitVec.ofNat 64 (cx.rd2 s cx.lowPhys n.toNat)
            | .lit32 w => pcBase cx.pc + w.signExtend 64 * 16 + 4
            | .lit64 w => w) else none)
          (fun l => if cx.perform.getLsbD l then target l else cx.next)))

/-- R413: call writes the return PC into a pair of every active lane and moves the split; ret moves it back. -/
def Obligations.Calls : Prop :=
  ∀ (cx : Cx) (s : State),
    (∀ (t : BitVec 12) (l : Reg), Clear (.call t l) cx s → ∃ u, exec (.call t l) s = .next u ∧
      Holds cx u (cx.g.expand cx.active) l 2 (fun _ => cx.next.toNat) ∧
      OnlyRegs cx (cx.traced s cx.active) u cx.g (cx.keysIn (cx.g.expand cx.active) l 2) (jTarget cx.pc t)) ∧
    (∀ a : Reg, Clear (.ret a) cx s → cx.targetSplit s a (maskOf [cx.low]) = 0 →
      let pc := BitVec.ofNat 64 (cx.rd2 s cx.lowPhys a.toNat)
      (s.pcInvalid cx.viewer pc = true → exec (.ret a) s = .next (cx.fault s 0x02 cx.active pc.toNat 0)) ∧
      (s.pcInvalid cx.viewer pc = false → ∃ u, exec (.ret a) s = .next u ∧
        OnlyRegs cx ((cx.traced s cx.active).traceTarget cx.gid cx.g.num pc) u cx.g [] pc))

/-- R404, R410, R411: at its record's join PC a split arrives and the records are tested; elsewhere join and joinw only move on. R404:
testing goes on until no record fuses, dissolves or is freed; no split is lost, and where a record fuses its lanes stand after its join
PC. Both complete: where the split's record has another join PC, or the split stands under the root, the gang moves on; at the join PC of
the only record its lanes arrive: while others are still expected the split is gone and the record holds them, armed by joinw; with the
last of them the record is gone and its lanes stand after it. -/
def Obligations.Joins : Prop :=
  (∀ (i : Instr) (cx : Cx) (s : State), (i = .join ∨ ∃ d n, i = .joinw d n) → Clear i cx s →
    ((cx.body ≠ none ∨ ∀ x e, Tab.look cx.g.tree.splits cx.place = some x → e ∈ cx.g.tree.recs → e.2.id = x.rec_ → e.2.jpc ≠ cx.pc) →
      ∃ t, exec i s = .next t ∧ GangMoves cx s t cx.g []) ∧
    (∀ x q r, cx.body = none → Tab.wf cx.g.tree.splits → Tab.look cx.g.tree.splits cx.place = some x → cx.g.tree.recs = [(q, r)] →
      r.id = x.rec_ → r.jpc = cx.pc → r.expect_ ≠ 0 →
      ∃ t g', exec i s = .next t ∧ t.gang? cx.gid = some g' ∧
        (r.arrived ||| x.mask ||| r.aside ≠ r.expect_ →
          (∀ p, Tab.look g'.tree.splits p = if p = cx.place then none else Tab.look cx.g.tree.splits p) ∧
          ∃ r', g'.tree.recs = [(q, r')] ∧ r'.arrived = r.arrived ||| x.mask ∧ r'.id = r.id ∧ r'.outer = r.outer ∧ r'.jpc = r.jpc ∧
            r'.expect_ = r.expect_ ∧ r'.aside = r.aside ∧ (r'.armed = true ↔ r.armed = true ∨ i ≠ .join)) ∧
        (r.arrived ||| x.mask ||| r.aside = r.expect_ → g'.tree.recs = [] ∧
          ∃ p y, Tab.look g'.tree.splits p = some y ∧ y.mask = r.expect_ ∧ y.pc = r.jpc + 4 ∧ y.rec_ = r.outer ∧ y.park = .ready))) ∧
  (∀ (i : Instr) (cx : Cx) (s : State), (i = .join ∨ ∃ d n, i = .joinw d n) → Clear i cx s →
    ((cx.body.isSome = true ∨ (∀ x q r, Tab.look cx.g.tree.splits cx.place = some x → cx.g.tree.record? x.rec_ = some (q, r) →
        r.jpc ≠ cx.pc)) →
      ∃ t, exec i s = .next t ∧ OnlyRegs cx (cx.traced s 0) t cx.g [] cx.next) ∧
    (∀ x q r, cx.body = none → Tab.look cx.g.tree.splits cx.place = some x → Tab.wf cx.g.tree.recs →
      Tab.look cx.g.tree.recs q = some r → r.id = x.rec_ → (∀ p y, Tab.look cx.g.tree.recs p = some y → y.id = x.rec_ → p = q) →
      r.jpc = cx.pc →
      ∃ t a, exec i s = .next t ∧
        cx.g.tree.afterArrival cx.place q x r cx.cyc (match i with
          | .joinw d n => some (cx.g.regCode d.toNat, n.toNat)
          | _ => none) a ∧
        TreeAndFlags cx (cx.traced s cx.active) t (a.settleAll cx.cyc).1 (a.settleAll cx.cyc).2)) ∧
  ∀ (t : Tree) (cyc : Nat), Tab.wf t.splits → Tab.wf t.recs → t.recs.length ≤ 64 → t.splits.length + t.recs.length ≤ 64 →
    (∀ p r, Tab.look (t.settleAll cyc).1.recs p = some r → (t.settleAll cyc).1.fate r = .wait) ∧
    (∀ p r, t.recs = [(p, r)] → t.fate r = .fuse → ∃ q x,
      Tab.look (t.settleAll cyc).1.splits q = some x ∧ x.mask = r.expect_ ∧ x.pc = r.jpc + 4 ∧ x.rec_ = r.outer ∧ x.park = .ready)

/-- R412: exit takes its lanes out of every split and record; the gang ends with its last lane. -/
def Obligations.Exits : Prop :=
  ∀ (cx : Cx) (s : State), 
    (Idle .exit cx s → ∃ t, exec .exit s = .next t ∧ OnlyRegs cx (cx.traced s 0) t cx.g [] cx.next) ∧
    (Clear .exit cx s → cx.index = 0 → ∃ t g', exec .exit s = .next t ∧ t.gang? cx.gid = some g' ∧ g'.exited = cx.g.exited ||| cx.perform ∧
      g'.tree.without cx.perform ∧ (∀ l ∈ g'.layers, l.tree.without cx.perform) ∧
      (cx.g.live &&& ~~~cx.perform = 0 → g'.ended = true) ∧
      (cx.g.ended = false → cx.g.live &&& ~~~cx.perform ≠ 0 → cx.rest ≠ 0 → (∀ l ∈ g'.layers, l.tree.allAside = false) →
        g'.ended = false ∧
        ∃ p y, Tab.look g'.tree.splits p = some y ∧ y.mask = cx.rest ∧ y.pc = cx.next) ∧
      (∀ k, k ≠ cx.gid → cx.g.role ≠ 1 → t.gang? k = s.gang? k) ∧
      (∀ c, ∃ n, t.core c = { (cx.traced s cx.perform).core c with laneDeath := n }) ∧
      t = { cx.traced s cx.perform with gangs := t.gangs, cores := t.cores })

/-- R69, R79, R414, R446: nop only moves on; yield gives the next cycle away and starts its age anew; sleep parks until the clock has
advanced by 64 ns for each unit, and with 0 yields. -/
def Obligations.Pauses : Prop :=
  ∀ (cx : Cx) (s : State), 
    (Clear .nop cx s → ∃ t, exec .nop s = .next t ∧ OnlyRegs cx s t cx.g [] cx.next) ∧
    (∀ i x, (i = .yield ∨ i = .sleep 0) → Clear i cx s → cx.index = 0 → Tab.look cx.g.tree.splits cx.place = some x →
      ∃ t g' y, exec i s = .next t ∧ OnlyRegs cx s t cx.g [] cx.next ∧ t.gang? cx.gid = some g' ∧
        Tab.look g'.tree.splits cx.place = some y ∧ y.since = cx.cyc + 2 ∧ cx.cyc + 2 ≤ y.readyAt ∧ y.starve = x.starve) ∧
    (∀ (n : BitVec 16) (x : Split), n ≠ 0 → Clear (.sleep n) cx s → cx.index = 0 → Tab.look cx.g.tree.splits cx.place = some x →
      ∃ t tr, exec (.sleep n) s = .next t ∧ OnlyTree cx s t tr ∧ tr.recs = cx.g.tree.recs ∧
        ∀ p, Tab.look tr.splits p = if p = cx.place then some { x with park := .sleep (s.clock + 64 * n.toNat) }
          else Tab.look cx.g.tree.splits p)

/-! ### Traps (R209 to R214, R34) -/

/-- R209 to R213: what a fault of the issuing split does: remote atomics of other splits that were issued after its instruction are called
off (unless a peer has answered in some lanes: log entry 116), and the handler is entered. R205, R206, R209: a trap of a gang whose helpers
still run, or one of whose splits waits for a peer's answer to what was issued before, waits for them; a fault of a helper is held for its recruiter, and its loop hands out no more iterations. -/
def Obligations.TrapEntry : Prop :=
  (∀ (cx : Cx) (b : Block) (s : State) (cause : Nat) (lanes : Mask) (addr info : Nat),
    s.gang? cx.gid = some cx.g → s.block? cx.g.bid = some b → cx.index = 0 → cx.g.helpersBusy = false →
    (cx.g.cancelLater cx.place).opsBusy = false → cause < 128 →
    Handled { cx with g := cx.g.cancelLater cx.place } b s (cx.fault s cause lanes addr info) cause lanes (BitVec.ofNat 64 addr) (BitVec.ofNat 64 info)) ∧
  ∀ (cx : Cx) (s : State) (cause : Nat) (lanes : Mask) (addr info : Nat), s.gang? cx.gid = some cx.g →
    (cx.index = 0 → cx.g.helpersBusy = true ∨ (cx.g.cancelLater cx.place).opsBusy = true → cx.g.pending = none → ∃ g', (cx.fault s cause lanes addr info).gang? cx.gid = some g' ∧
      g'.pending = some ⟨cause, lanes, cx.pc, BitVec.ofNat 64 addr, BitVec.ofNat 64 info, cx.place⟩ ∧ g'.tree = (cx.g.cancelLater cx.place).tree ∧
      (∀ l r, Tab.look g'.recruits l = some r → ∀ lp, r.loop = some lp → lp.stopped = true)) ∧
    (∀ l r h lp, cx.index ≠ 0 → cx.body = some l → Tab.look cx.g.recruits l = some r →
      r.helpers.find? (fun h => h.index = cx.index) = some h → r.loop = some lp →
      ∃ g' r' lp', (cx.fault s cause lanes addr info).gang? cx.gid = some g' ∧ Tab.look g'.recruits l = some r' ∧
        r'.helpers = r.helpers.filter (fun x => x.index ≠ cx.index) ∧ r'.loop = some lp' ∧ lp'.stopped = true ∧
        (lp'.heldIters.getLast?.map (fun e => (e.iter, e.index, e.trap.cause, e.trap.pc))) =
          some (h.iter.getD 0, cx.index, cause, cx.pc))

/-- R414: trap and brk raise 0x25 and 0x24 in the performing lanes, with imm16 in TINFO. R213, R214, R483: tret.retry goes on at tpc
and tret.skip after it, in the layer below and at its level; an invalid PC raises 0x02 in the handler; tret.end ends the team. -/
def Obligations.TrapsAndReturns : Prop :=
  (∀ (n : BitVec 16) (cx : Cx) (b : Block) (s : State), cx.index = 0 → cx.g.helpersBusy = false → cx.g.opsBusy = false →
    s.block? cx.g.bid = some b → (Clear (.trap n) cx s → ∃ t, exec (.trap n) s = .next t ∧ Handled cx b s t 0x25 cx.perform 0 (BitVec.ofNat 64 n.toNat)) ∧
    (Clear (.brk n) cx s → ∃ t, exec (.brk n) s = .next t ∧ Handled cx b s t 0x24 cx.perform 0 (BitVec.ofNat 64 n.toNat))) ∧
  ∀ (cx : Cx) (s : State) (l : Layer) (rest : List Layer), cx.g.layers = l :: rest → s.block? cx.g.bid = some cx.b →
    (∀ i, (i = .tretRetry ∨ i = .tretSkip) → Clear i cx s → (∀ x ∈ cx.g.ldas, x.taken ≠ some cx.g.layers.length) →
      let pc := if i = .tretRetry then cx.g.tpc else cx.skipPc s
      (s.pcInvalid cx.viewer pc = true → exec i s = .next (cx.fault s 0x02 cx.active pc.toNat 0)) ∧
      (s.pcInvalid cx.viewer pc = false → ∃ t, exec i s = .next (t.traceTarget cx.gid cx.g.num pc) ∧
        Returns cx s t l rest pc cx.g.ldas)) ∧
    (Clear .tretEnd cx s → ∃ t, exec .tretEnd s = .next t ∧
      TeamEnds s t cx.b.team cx.b.slot cx.g.num ⟨cx.g.tcause, cx.g.tmask, cx.g.tpc, cx.g.taddr, cx.g.tinfo, 0⟩ ∧
      t = { s with teams := t.teams })

/-! ### Memory (R254, R279 to R298) -/

/-- R281, R285: a load gives its lanes the bytes that the core sees, widened as SIZE and SX say; no byte of memory changes. R217, R254:
ld and u.ld complete: on words of the block's own stash against which no check of R217 finds anything, aligned where the label asks for
it, they answer a next state in which the gang has moved on and its lanes hold the bytes that stand there. -/
def Obligations.Loads : Prop :=
  (∀ (i : Instr) (m : MemForm) (cx : Cx) (s : State), loadForm i = some m → Clear i cx s →
    let n := 2 ^ m.x.size.toNat
    let rs := cx.reqs s m.uniform m.a m.x.offset n
    OwnWords cx s rs → (m.x.label ≠ 0 → ∀ r ∈ rs, r.va % n = 0) →
    ∃ t, exec i s = .next t ∧ GangMoves cx s t cx.g (cx.keysIn (cx.receivers m.uniform) m.d m.x.regs) ∧
      Holds cx t (cx.receivers m.uniform) m.d m.x.regs (fun p => arrived m.x
        (bytesOf n (s.stashValue cx.b (cx.address s m.a m.x.offset (cx.g.prime (cx.source m.uniform p))) n)))) ∧
  ∀ (i : Instr) (m : MemForm) (cx : Cx) (s u : State) (ps : List (Req × List Piece)), loadForm i = some m → Clear i cx s →
    Passes cx s u (loadHow m.x) noOwn (cx.reqs s m.uniform m.a m.x.offset (2 ^ m.x.size.toNat)) ps
      (labelBound m.x.label.toNat m.x.scope.toNat) →
    ∃ t f, exec i s = .next t ∧ LoadsBytes cx s ps f ∧
      Holds cx t (cx.receivers m.uniform) m.d m.x.regs (fun p => arrived m.x (f (cx.source m.uniform p))) ∧
      (∀ a, t.seen cx.core a = s.seen cx.core a) ∧
      GangMoves cx s t cx.g (cx.keysIn (cx.receivers m.uniform) m.d m.x.regs) ∧ MemoryOnly s t

/-- R286, R295: a store writes the low bytes of vd at every lane's address, later lanes last, and no other byte; one to a peer window
goes out and changes no memory here; a release, and any store of system scope, counts as a release. -/
def Obligations.Stores : Prop :=
  ∀ (i : Instr) (m : MemForm) (cx : Cx) (s u : State) (ps : List (Req × List Piece)), storeForm i = some m → Clear i cx s →
    let rs := cx.reqs s m.uniform m.a m.x.offset (2 ^ m.x.size.toNat)
    Passes cx s u (storeHow m.x) noOwn rs ps (labelBound m.x.label.toNat m.x.scope.toNat) →
    cx.shadowSplit s m.a m.x.offset [(m.d, m.x.regs)] rs = none → Unmixed ps →
    ∃ t, exec i s = .next t ∧
      (∀ a, t.seen cx.core a = (lastAt (ps.flatMap (fun e => (bytesAt e.2).zip
        (bytesOf (2 ^ m.x.size.toNat) (cx.rdn s e.1.phys m.d.toNat m.x.regs)))) a).or (s.seen cx.core a)) ∧
      (∀ e ∈ ps, ∀ p ∈ e.2, ∀ pa, p.place = .peer pa → (peerOf pa, pa) ∈ (t.core cx.core).peerWrites) ∧
      GangMoves cx s t cx.g [] ∧ Releases cx s t (m.x.label = 2 ∨ m.x.scope = 4) ∧ MemoryOnly s t

/-- R290 to R292: an atomic, cas or cas2 updates the bytes of one lane after another, and gives each lane the value before. R295: an
atomic to a peer window takes the next sequence number of the peer and changes no memory here; either every lane receives the peer's
answer, whose value is free, or the split waits to send it again. R296: of one that the host performs the completion may not come
back; then cause 0x0D is raised with TINFO 0, and the update has been made or not. R217, R254: atom, cas, cas2, u.atom and u.cas
complete: on aligned words of the block's own stash against which no check finds anything they answer a next state in which the gang
has moved on; one lane's at block scope has given the bytes from before and left what R290 or R292 makes of them. That a peer's answer or
error response comes in the step itself (log entry 18), and that a relaxed cas of cluster scope or wider counts as a release (28), are
the model's choices. -/
def Obligations.Atomics : Prop :=
  (∀ (i : Instr) (m : AtomForm) (cx : Cx) (s : State), atomForm i = some m → Clear i cx s →
    let x := m.form.x
    let n := 2 ^ x.size.toNat
    let rs := cx.reqs s m.form.uniform m.form.a x.offset n
    OwnWords cx s rs → (∀ r ∈ rs, r.va % n = 0) → cx.copiesAgree s m.form.a x.offset m.data rs →
    ∃ t, exec i s = .next t ∧ GangMoves cx s t cx.g (cx.keysIn (cx.receivers m.form.uniform) m.form.d x.regs) ∧
      ∀ r, rs = [r] → x.scope = 0 →
        let old := s.stashValue cx.b r.va n
        Holds cx t (cx.receivers m.form.uniform) m.form.d x.regs (fun _ => old) ∧
        ∀ j < n, Memory.byte? t.mem (cx.b.stashByte r.va + j) =
          some (BitVec.ofNat 8 ((m.f cx s r old).getD old / 2 ^ (8 * j)))) ∧
  ∀ (i : Instr) (m : AtomForm) (cx : Cx) (s u : State), atomForm i = some m → Clear i cx s →
    let x := m.form.x
    let rs := cx.reqs s m.form.uniform m.form.a x.offset (2 ^ x.size.toNat)
    let passes := fun (ps : List (Req × List Piece)) => Passes cx s u (atomicHow x) (atomicOwn (2 ^ x.size.toNat) x.size.toNat m.isOp)
      rs ps (labelBound x.label.toNat x.scope.toNat)
    let completes := fun (t : State) (ps : List (Req × List Piece)) (olds : List Nat) =>
      Holds cx t (cx.receivers m.form.uniform) m.form.d x.regs (fun p =>
        (((ps.zip olds).find? (fun e => e.1.1.vis = cx.source m.form.uniform p)).map Prod.snd).getD 0) ∧
      GangMoves cx s t cx.g (cx.keysIn (cx.receivers m.form.uniform) m.form.d x.regs) ∧
      Releases cx s t (x.label = 2 ∨ x.label = 3 ∨ (4 ≤ x.label.toNat ∧ x.scope ≠ 0) ∨ x.scope = 4) ∧ MemoryOnly s t
    cx.shadowSplit s m.form.a x.offset m.data rs = none →
    (∀ ps, passes ps → (∀ e ∈ ps, ∀ p ∈ e.2, ¬ p.far) → (∀ e ∈ ps, s.hostAtomic (atomicHow x) e.2 = false) →
      ∃ t olds, exec i s = .next t ∧ Updates (m.f cx s) ps (s.seen cx.core) (t.seen cx.core) olds ∧ completes t ps olds) ∧
    (∀ r ps, passes [(r, ps)] → (∀ p ∈ ps, ¬ p.far) → s.hostAtomic (atomicHow x) ps = true →
      ∃ after olds, Updates (m.f cx s) [(r, ps)] (s.seen cx.core) after olds ∧
        ((∃ t, exec i s = .next t ∧ t.seen cx.core = after ∧ completes t [(r, ps)] olds) ∨
        ∃ v, exec i s = .next (cx.fault v 0x0D (maskOf [r.vis]) r.va 0) ∧ (v.seen cx.core = after ∨ v.seen cx.core = s.seen cx.core))) ∧
    (∀ r pa, passes [(r, [⟨r.va, r.n, .peer pa⟩])] → cx.index = 0 →
      let seq := Tab.getD s.peerSeq (peerOf pa) 0
      ∃ t, exec i s = .next t ∧ Tab.getD t.peerSeq (peerOf pa) 0 = (seq + 1) % 2 ^ 32 ∧
        (∀ a, t.seen cx.core a = s.seen cx.core a) ∧ MemoryOnly s t ∧
        ((∃ v, Holds cx t (cx.receivers m.form.uniform) m.form.d x.regs (fun _ => v) ∧
          GangMoves cx s t cx.g (cx.keysIn (cx.receivers m.form.uniform) m.form.d x.regs)) ∨
        (∃ g' y c, t.gang? cx.gid = some g' ∧ Tab.look g'.tree.splits cx.place = some y ∧ y.pc = cx.pc ∧
          y.park = .remote m.form.d.toNat x.regs m.form.uniform c [⟨r.vis, r.va, seq, peerOf pa, none⟩])))

/-- R217, R249, R262, R423, R430: a memory access that fails a check takes the cause of the check, an absent translation parks the
split with a record, and a locked or absent line makes it wait; a misaligned address is looked for first. R59, R221: before a store, an
atomic or a cas of a protected team has any effect, the copies of each accessing lane are compared: lanes whose addresses differ raise
0x21 with TINFO[1:0] 0, and else lanes whose data differ with TINFO[1:0] 1; TINFO[6:2] is the lowest such lane. -/
def Obligations.AccessFaults : Prop :=
  (∀ (i : Instr) (m : MemForm) (data : List (Reg × Nat)) (cx : Cx) (s : State),
    (storeForm i = some m ∧ data = [(m.d, m.x.regs)] ∨ ∃ f, atomForm i = some f ∧ m = f.form ∧ data = f.data) → Clear i cx s →
    cx.g.prot = true → cx.g.role ≠ 2 →
    let rs := cx.reqs s m.uniform m.a m.x.offset (2 ^ m.x.size.toNat)
    let at_ := fun (p : Nat) => cx.address s m.a m.x.offset p
    let brings := fun (p : Nat) => data.map (fun e => cx.rdn s p e.1.toNat e.2)
    (∀ r rest, rs.filter (fun r => (cx.g.phys r.vis).any (fun p => at_ p ≠ at_ r.phys)) = r :: rest →
      exec i s = .next (cx.fault s 0x21 (maskOf (r.vis :: rest.map Req.vis)) r.va (0 + 4 * r.vis))) ∧
    ((∀ r ∈ rs, ∀ p ∈ cx.g.phys r.vis, at_ p = at_ r.phys) →
      ∀ r rest, rs.filter (fun r => (cx.g.phys r.vis).any (fun p => brings p ≠ brings r.phys)) = r :: rest →
      exec i s = .next (cx.fault s 0x21 (maskOf (r.vis :: rest.map Req.vis)) r.va (1 + 4 * r.vis)))) ∧
  ∀ (i : Instr) (m : MemForm) (cx : Cx) (s : State), (loadForm i = some m ∨ storeForm i = some m) → Clear i cx s →
    let h := if (loadForm i).isSome then loadHow m.x else storeHow m.x
    let rs := cx.reqs s m.uniform m.a m.x.offset (2 ^ m.x.size.toNat)
    let checked := s.check cx.viewer h (cx.toucher h.label h.reads h.writes) true noOwn rs
    ((storeForm i).isSome = true → cx.shadowSplit s m.a m.x.offset [(m.d, m.x.regs)] rs = none) →
    (∀ u f, checked = .fault u f → exec i s = .next (cx.fault u f.cause f.lanes f.addr f.info)) ∧
    (∀ u va level reason agent lanes, checked = .untranslated u va level reason agent lanes →
      exec i s = .next (cx.untranslated u h.need.w false va level reason agent lanes)) ∧
    (∀ u, checked = .wait u → exec i s = .next (cx.park u .resource)) ∧
    (∀ r rest, rs.filter (fun r => r.va % h.align ≠ 0) = r :: rest →
      checked = .fault s ⟨0x05, maskOf (r.vis :: rest.map Req.vis), r.va, m.x.size.toNat⟩)

/-- R287 to R289: lda leaves its registers pending and moves on; each reply writes one register of one lane, and the last counts in the
arrival counter. With no performing lane it only counts. R287, R289: the reply of a word that has been fetched writes its register at
once, unless a later write has overtaken it; when no word is left to come, and no fault is held, the load is gone and its counter
counts one more; a reply into a frame may be the last access of its loop, which then completes (R203). -/
def Obligations.SplitPhaseLoads : Prop :=
  (∀ (d a b : Reg) (x : Access) (cx : Cx) (s : State),
    (Idle (.lda d a b x) cx s → ∃ t acs, exec (.lda d a b x) s = .next t ∧ OnlyRegs cx s t { cx.g with acs := acs } [] cx.next ∧
        ∀ n, Tab.getD acs n 0 = Tab.getD cx.g.acs n 0 + if n = b.toNat then 1 else 0) ∧
    (∀ u ps, Clear (.lda d a b x) cx s → cx.index = 0 → Orderly s cx.core →
      s.check cx.viewer (loadHow x) (cx.toucher x.label.toNat true false) false noOwn (cx.reqs s false a x.offset (2 ^ x.size.toNat)) =
        .go u ps →
      ∃ t g' l, exec (.lda d a b x) s = .next t ∧ t.gang? cx.gid = some g' ∧ g'.regs = cx.g.regs ∧ g'.acs = cx.g.acs ∧
        g'.ldas = cx.g.ldas ++ [l] ∧ l.counter = b.toNat ∧ l.pending = cx.lanes.flatMap (fun p => (List.range x.regs).map (fun w => (p, w))) ∧
        l.captured = [] ∧ l.held = [] ∧ l.counted = false ∧ StandsAt cx cx.g g' cx.next ∧
        (∀ k, t.seen cx.core k = s.seen cx.core k) ∧ (∀ k, k ≠ cx.gid → t.gang? k = s.gang? k) ∧ MemoryOnly s t)) ∧
  ∀ (bid n id lane word : Nat) (s : State) (g : Gang) (b : Block) (l : Lda) (ws : List Word),
    s.gang? (gangId bid n) = some g → s.block? bid = some b → g.ldas = [l] → l.id = id → l.pending.contains (lane, word) = true →
    Tab.look l.captured (g.prime (g.vis lane)) = some ws → l.counted = false → l.held = [] → l.dropped.contains (lane, word) = false →
    ∃ t g', exec (.ldaReply bid n id lane word) s = .next (match frameLane (l.key (lane, word)) with
        | none => t
        | some recruiter => t.completeLoop (gangId bid n) recruiter) ∧ t.gang? (gangId bid n) = some g' ∧
      t.reg (gangId bid n) (l.key (lane, word)) = ws.getD word 0 ∧
      (∀ k, k ≠ l.key (lane, word) → Tab.getD g'.regs k 0 = Tab.getD g.regs k 0) ∧
      (l.pending.filter (· ≠ (lane, word)) = [] → g'.ldas = [] ∧
        ∀ c, Tab.getD g'.acs c 0 = Tab.getD g.acs c 0 + if c = l.counter then 1 else 0) ∧
      (l.pending.filter (· ≠ (lane, word)) ≠ [] → g'.acs = g.acs ∧
        g'.ldas.map Lda.pending = [l.pending.filter (· ≠ (lane, word))]) ∧
      (∀ k, k ≠ gangId bid n → t.gang? k = s.gang? k) ∧ (∀ c, ∃ n, t.core c = { s.core c with laneDeath := n }) ∧
      t = { s with gangs := t.gangs, cores := t.cores }

/-- R297, R298: pf brings its lane's lines into the L1 and evict takes them out; neither changes a register or a byte that the core
sees, and after evict the line is gone, or clean with .wb. Both complete whatever their addresses are. -/
def Obligations.LineControl : Prop :=
  (∀ (i : Instr) (a : Reg) (x : Access) (cx : Cx) (s : State), (i = .pf a x ∨ i = .evict a x) → Clear i cx s →
    ∃ t, exec i s = .next t ∧ GangMoves cx s t cx.g []) ∧
  ∀ (a : Reg) (x : Access) (cx : Cx) (s : State), Orderly s cx.core →
    (Clear (.pf a x) cx s → ∃ t, exec (.pf a x) s = .next t ∧ (∀ k, t.seen cx.core k = s.seen cx.core k) ∧ GangMoves cx s t cx.g [] ∧
      MemoryOnly s t) ∧
    (Clear (.evict a x) cx s → ∃ t, exec (.evict a x) s = .next t ∧ (∀ k, t.seen cx.core k = s.seen cx.core k) ∧
      GangMoves cx s t cx.g [] ∧ MemoryOnly s t ∧
      (∀ r ∈ cx.reqs s false a x.offset 1, ∀ va n pa attr,
        s.address cx.viewer ⟨false, false, false⟩ r.va 1 = .pieces [⟨va, n, .hbm pa attr⟩] → attr ≠ 2 →
        (x.op.getLsbD 0 = false → t.l1Line cx.core (pa / 128) = none) ∧
        (x.op.getLsbD 0 = true → ∀ y, t.l1Line cx.core (pa / 128) = some y → y.dirty = 0)))

/-- R306: smap sets a map entry to its region and hint; the region's lines are absent until first touched, and no other entry changes.
The faults of its announcements come first (R217), a dirty word of the old entry whose backing page does not translate and a race
among them; then those of the new entry. R307: sunmap writes an entry's dirty words back and clears it, its lines absent; sflush only
writes them back. Without a valid entry they only move on. R448: a word behind which the cellar lies is lost while the link is down,
with ERRSTAT.LINK. -/
def Obligations.StashMapping : Prop :=
  (∀ (a b : Reg) (x : Access) (cx : Cx) (s : State), Clear (.smap a b x) cx s → cx.b.bid = cx.bid → s.block? cx.bid = some cx.b →
    let n := x.op.toNat % 16
    let g := cx.address s a x.offset cx.lowPhys
    let off := (cx.rd s cx.lowPhys b.toNat).toNat
    let len := (cx.rd s cx.lowPhys (b.toNat + 1)).toNat
    let me := maskOf [cx.low]
    let old := Tab.look cx.b.smap n
    let words := ((old.map (fun e => mapPieces cx.b e.s e.l)).getD []) ++ mapPieces cx.b off len
    let bad := off % 128 ≠ 0 ∨ len % 128 ≠ 0 ∨ len = 0 ∨ cx.b.stashNeed < off + len ∨
      ∃ e ∈ cx.b.smap, e.1 ≠ n ∧ e.2.s < off + len ∧ off < e.2.s + e.2.l
    (∀ e va l r, old = some e → s.unbacked cx.b e = some (va, l, r) →
      exec (.smap a b x) s = .next (cx.untranslated s true false va l r 3 me)) ∧
    (old.bind (s.unbacked cx.b) = none → cx.loadsBefore true [(⟨cx.low, cx.lowPhys, 0, 0⟩, [])] = false →
      ∀ u at_ i, cx.checkRange s words = .race u at_ i → exec (.smap a b x) s = .next (cx.fault u 0x0B me at_ i)) ∧
    ∀ u, Backed cx s u old words →
      (g % 128 ≠ 0 → exec (.smap a b x) s = .next (cx.fault u 0x05 me g 0)) ∧
      (g % 128 = 0 → bad → exec (.smap a b x) s = .next (cx.fault u 0x09 me (localBase + off) 0)) ∧
      (g % 128 = 0 → ¬ bad → (∀ p e, u.rangeLocked cx.b off len = some (p, e) →
        exec (.smap a b x) s = .next (cx.fault u 0x0A me (localBase + p) e))) ∧
      (g % 128 = 0 → ¬ bad → u.rangeLocked cx.b off len = none →
        ∃ t c, exec (.smap a b x) s = .next t ∧ t.block? cx.bid = some c ∧
          (∀ k, Tab.look c.smap k = if k = n then some ⟨x.hint.toNat, g, off, len⟩ else Tab.look cx.b.smap k) ∧
          (∀ l, off / 128 ≤ l → l < (off + len) / 128 → l ∈ c.absent) ∧ (∀ l ∈ cx.b.absent, l ∈ c.absent) ∧
          (old = none → Orderly s cx.core → ∀ k, t.seen cx.core k = s.seen cx.core k) ∧
          GangMoves cx s t cx.g [] ∧ MemoryOrLink s t)) ∧
  ∀ (i : Instr) (x : Access) (cx : Cx) (s : State), (i = .sunmap x ∨ i = .sflush x) → Clear i cx s → cx.b.bid = cx.bid →
    s.block? cx.bid = some cx.b →
    let n := x.op.toNat % 16
    (Tab.look cx.b.smap n = none → ∃ t, exec i s = .next t ∧ OnlyRegs cx s t cx.g [] cx.next) ∧
    (∀ e u, Tab.look cx.b.smap n = some e → Backed cx s u (some e) (if i = .sunmap x then mapPieces cx.b e.s e.l else []) →
      ∃ t c, exec i s = .next t ∧ t.block? cx.bid = some c ∧ GangMoves cx s t cx.g [] ∧ MemoryOrLink s t ∧
        (i = .sunmap x → (∀ k, Tab.look c.smap k = if k = n then none else Tab.look cx.b.smap k) ∧
          (∀ l, e.s / 128 ≤ l → l < (e.s + e.l) / 128 → l ∈ c.absent) ∧
          ∀ w ∈ c.dirty, ¬ (e.s ≤ 4 * w ∧ 4 * w < e.s + e.l)) ∧
        (i = .sflush x → c.smap = cx.b.smap ∧ c.absent = cx.b.absent) ∧
        (∀ w pa, cx.b.dirty.filter (fun w => e.s ≤ 4 * w && 4 * w < e.s + e.l) = [w] →
          (cx.b.backing w).bind (fun g => s.backPa (cx.b.viewer true) g) = some pa → isStashKey pa = false →
          (∀ m ∈ s.migrations, m.2.pulling = false) → w ∉ c.dirty ∧
          ((isCellar pa = true → s.link ≠ .down) → ∀ j < 4,
            Memory.byte? t.mem (pa / 4 * 4 + j) = Memory.byte? s.mem (stashKey cx.b.core (cx.b.stashBase + 4 * w + j))) ∧
          (isCellar pa = true → s.link = .down → t.mem = s.mem ∧ t.errstat.testBit 5 = true)))

/-! ### Barriers, fences and waits (R255, R299 to R305, R400, R405, R446) -/

/-- R303: bar.init sets EXPECT and PENDING to the count and PHASE to 0; bar.arrive takes the count from PENDING, and with the last
arrival PHASE goes up and PENDING is EXPECT again. Both store the object and nothing else; an arrival is a release. R303: bar.wait goes
on at once when PHASE is past p and parks else; bar.sync arrives and waits past the phase before it. The last to arrive goes on at
once, unless the wait's own boundary must wait for a wrap or for split-phase loads (R271, R287). -/
def Obligations.PhaseBarriers : Prop :=
  (∀ (d a : Reg) (b : Src) (cx : Cx) (s u : State) (r : Req) (ps : List Piece) (x : Nat),
    let count := ((⟨cx, s⟩ : Lanes).src cx.lowPhys b).toNat
    ObjectAt s cx.core ps 8 x →
    (Clear (.barInit d a b) cx s →
      Passes cx s u (barHow 2 false true d.toNat) (barOwn cx.viewer (fun x => barInitialised x count)) (cx.barReq s a 8) [(r, ps)]
        ⟨false, false, d.toNat⟩ →
      ∃ t, exec (.barInit d a b) s = .next t ∧ StoresObject cx s t ps (count + 2 ^ 16 * count) ∧ GangMoves cx s t cx.g [] ∧
        Releases cx s t (d = 4) ∧ MemoryOnly s t) ∧
    (Clear (.barArrive d a b) cx s →
      Passes cx s u (barHow 2 true true d.toNat) (barOwn cx.viewer (fun x => barArrived x count)) (cx.barReq s a 8) [(r, ps)]
        ⟨true, false, d.toNat⟩ →
      ∃ t, exec (.barArrive d a b) s = .next t ∧ StoresObject cx s t ps (afterArrivals x count) ∧ GangMoves cx s t cx.g [] ∧
        Releases cx s t True ∧ MemoryOnly s t)) ∧
  ∀ (d a : Reg) (b : Src) (cx : Cx) (s u : State) (r : Req) (ps : List Piece) (x : Nat),
    let p := ((⟨cx, s⟩ : Lanes).src cx.lowPhys b).toNat
    let va := cx.rd2 s cx.lowPhys a.toNat
    ObjectAt s cx.core ps 8 x → cx.index = 0 →
    (Clear (.barWait d a b) cx s → Passes cx s u (barHow 1 true false d.toNat) noOwn (cx.barReq s a 8) [(r, ps)] ⟨false, false, d.toNat⟩ →
      (x / 2 ^ 32 ≠ p → ∃ t, exec (.barWait d a b) s = .next t ∧ (∀ k, t.seen cx.core k = s.seen cx.core k) ∧
        GangMoves cx s t cx.g [] ∧ MemoryOnly s t) ∧
      (x / 2 ^ 32 = p → ∃ t, exec (.barWait d a b) s = .next t ∧ (∀ k, t.seen cx.core k = s.seen cx.core k) ∧
        Parks cx s t (.barrier va p d.toNat) ∧ MemoryOnly s t)) ∧
    (Clear (.barSync d a b) cx s →
      Passes cx s u (barHow 3 true true d.toNat) (barOwn cx.viewer (fun x => barArrived x p)) (cx.barReq s a 8) [(r, ps)]
        ⟨true, false, d.toNat⟩ →
      let last := x / 2 ^ 16 % 2 ^ 16 = p ∧ ((s.board cx.b.slot).interval + if cx.b.opened then 0 else 1) % 2 ^ 18 ≠ 0x3FFFF
      ∃ t, exec (.barSync d a b) s = .next t ∧ StoresObject cx s t ps (afterArrivals x p) ∧ Releases cx s t True ∧ MemoryOnly s t ∧
        (last → GangMoves cx s t cx.g []) ∧
        (¬ last → Parks cx s t (.barrier va (x / 2 ^ 32) d.toNat)))

/-- R304: bar.init, bar.arrive and bar.sync raise 0x28 in the issuing split's lowest lane, at the object's address and before any change
to it, where the count or the object is wrong; TINFO holds the reason and PENDING: 0 an arrival at an object that is not initialised, 1
and 2 of bar.init, 3 an arrival of count 0 or above PENDING. No byte, no gang, and in the block's own stash no mark has changed then. A
fault that the checks of the access find comes before it (R217). -/
def Obligations.BarrierFaults : Prop :=
  ∀ (d a : Reg) (b : Src) (cx : Cx) (s : State),
    let count := ((⟨cx, s⟩ : Lanes).src cx.lowPhys b).toNat
    let init := fun (x : Nat) => barInitialised x count
    let arrive := fun (x : Nat) => barArrived x count
    let checked := fun (label : Nat) (reads : Bool) (own : State → Req → List Piece → Option (Nat × Nat × Nat)) =>
      s.check cx.viewer (barHow label reads true d.toNat) (cx.toucher label reads true) true own (cx.barReq s a 8)
    (∀ u f,
      (Clear (.barInit d a b) cx s → checked 2 false (barOwn cx.viewer init) = .fault u f →
        exec (.barInit d a b) s = .next (cx.fault u f.cause f.lanes f.addr f.info)) ∧
      (Clear (.barArrive d a b) cx s → checked 2 true (barOwn cx.viewer arrive) = .fault u f →
        exec (.barArrive d a b) s = .next (cx.fault u f.cause f.lanes f.addr f.info)) ∧
      (Clear (.barSync d a b) cx s → checked 3 true (barOwn cx.viewer arrive) = .fault u f →
        exec (.barSync d a b) s = .next (cx.fault u f.cause f.lanes f.addr f.info))) ∧
    ∀ (u : State) (r : Req) (ps : List Piece) (x : Nat), ObjectAt s cx.core ps 8 x → x < 2 ^ 64 → Orderly s cx.core →
      (∀ p ∈ ps, ¬ p.far) →
      let pending := x / 2 ^ 16 % 2 ^ 16
      let raises := fun (i : Instr) (reason : Nat) =>
        exec i s = .next (cx.fault u 0x28 (maskOf [cx.low]) (cx.rd2 s cx.lowPhys a.toNat) (reason + 2 ^ 3 * pending)) ∧
          (∀ k, u.seen cx.core k = s.seen cx.core k) ∧ u.gangs = s.gangs ∧ (OwnWords cx s (cx.barReq s a 8) → u.marks = s.marks)
      (Clear (.barInit d a b) cx s → checked 2 false noOwn = .go u [(r, ps)] →
        (count = 0 ∨ 65535 < count → raises (.barInit d a b) 1) ∧
        (count ≠ 0 → count ≤ 65535 → x % 2 ^ 16 ≠ 0 → pending ≠ x % 2 ^ 16 → raises (.barInit d a b) 2)) ∧
      ∀ i, (i = .barArrive d a b ∧ checked 2 true noOwn = .go u [(r, ps)]) ∨ (i = .barSync d a b ∧ checked 3 true noOwn = .go u [(r, ps)]) →
        Clear i cx s →
        (x % 2 ^ 16 = 0 → raises i 0) ∧ (x % 2 ^ 16 ≠ 0 → count = 0 ∨ pending < count → raises i 3)

/-- R255, R299, R300: fence at cluster scope or wider, and u.isplit, write every dirty word of the L1 back, empty it and open the next
interval, a fence of system scope once no remote atomic of the core is unanswered and no write to a peer was dropped (R455); fence.blk only moves on, once no split-phase load of the block is out. No byte that the core sees changes. -/
def Obligations.Boundaries : Prop :=
  ∀ (i : Instr) (cx : Cx) (s : State), Clear i cx s →
    (i = .fence 0 → s.loadsOut cx.b = false → ∃ t, exec i s = .next t ∧ OnlyRegs cx s t cx.g [] cx.next) ∧
    ((i = .uIsplit ∨ ∃ scope : BitVec 3, scope ≠ 0 ∧ i = .fence scope ∧ cx.peerLost s ⟨true, true, scope.toNat⟩ = none ∧
        cx.remoteOut s ⟨true, true, scope.toNat⟩ = false) →
      Orderly s cx.core → s.block? cx.b.bid = some cx.b → cx.b.dirty = [] →
      ∃ t, exec i s = .next t ∧ (∀ k, t.seen cx.core k = s.seen cx.core k) ∧ (t.core cx.core).l1 = [] ∧
        (cx.b.opened = false → (t.board cx.b.slot).interval = ((s.board cx.b.slot).interval + 1) % 2 ^ 18) ∧
        GangMoves cx s t cx.g [] ∧ MemoryOnly s t)

/-- R305, R400: u.waitring goes on with an acquire when its word has moved past vb, waitc when its counter has; each parks else. -/
def Obligations.RingAndCounterWaits : Prop :=
  ∀ (d a : Reg) (b : Src) (n : BitVec 16) (cx : Cx) (s : State), cx.index = 0 →
    (∀ u r ps w, Clear (.uWaitring d a b) cx s → Passes cx s u (ringHow d.toNat) noOwn (cx.barReq s a 4) [(r, ps)] ⟨false, true, d.toNat⟩ →
      s.check cx.viewer (ringHow d.toNat) (cx.toucher 1 true false) false noOwn (cx.barReq s a 4) = .go u [(r, ps)] →
      ObjectAt s cx.core ps 4 w → w < 2 ^ 32 →
      let past := ((⟨cx, s⟩ : Lanes).src cx.lowPhys b).toNat
      let moved := (w + 2 ^ 32 - past) % 2 ^ 32 < 2 ^ 31
      ∃ t, exec (.uWaitring d a b) s = .next t ∧ (∀ k, t.seen cx.core k = s.seen cx.core k) ∧ MemoryOnly s t ∧
        (moved → GangMoves cx s t cx.g []) ∧
        (¬ moved → u.lostData cx.viewer (ringHow d.toNat) ps = false → Parks cx s t (.ring (cx.rd2 s cx.lowPhys a.toNat) past d.toNat))) ∧
    (Clear (.waitc d n) cx s →
      let moved := ((Tab.getD cx.g.acs d.toNat 0).toNat % 2 ^ 16 + 2 ^ 16 - n.toNat) % 2 ^ 16 < 2 ^ 15
      (moved → ∃ t, exec (.waitc d n) s = .next t ∧ OnlyRegs cx s t cx.g [] cx.next) ∧
      (¬ moved → ∃ t, exec (.waitc d n) s = .next t ∧ Parks cx s t (.counter d.toNat n.toNat) ∧ t = { s with gangs := t.gangs }))

/-- R303, R305, R400, R405, R429, R446: a parked split wakes when what it waits for has come: past a barrier's phase, a counter's
threshold or its time it goes on after its instruction, unless a fault is held there for it to take (R288) or its own access raises
one (R262); past a ring's word, or when a resource is free, it tries it again; one whose
access has been refused raises 0x09. -/
def Obligations.Wakes : Prop :=
  ∀ (bid n place : Nat) (s : State) (g : Gang) (b : Block) (x : Split), s.gang? (gangId bid n) = some g → s.block? bid = some b →
    Tab.look g.tree.splits place = some x →
    (∀ until_, x.park = .sleep until_ → until_ ≤ s.clock → ∃ t, exec (.sleepExpiry bid n place) s = .next t ∧
      Replaces s t (gangId bid n) g place (x.passed (s.cycle b.core))) ∧
    (∀ c past, x.park = .counter c past → (∃ l ∈ g.ldas, l.counter = c ∧ l.held ≠ [] ∧ l.counted = true ∧ l.taken = none) →
      ∃ t, exec (.waitcWake bid n place) s = .next t ∧ Replaces s t (gangId bid n) g place (x.retried (s.cycle b.core))) ∧
    (∀ c past, x.park = .counter c past → (∀ l ∈ g.ldas, l.counter = c → l.held = []) → ((Tab.getD g.acs c 0).toNat % 2 ^ 16 + 2 ^ 16 - past) % 2 ^ 16 < 2 ^ 15 →
      ∃ t, exec (.waitcWake bid n place) s = .next t ∧ Replaces s t (gangId bid n) g place (x.passed (s.cycle b.core))) ∧
    (∀ va phase scope ps o, x.park = .barrier va phase scope → s.watched b va 8 = some ps → ObjectAt s b.core ps 8 o → o < 2 ^ 64 →
      Orderly s b.core → (∀ p ∈ ps, isPeerPiece p = false) → o / 2 ^ 32 ≠ phase → s.boundaryWaits b = false →
      let l := g.prime (lowLane x.mask)
      let checked := s.check (b.viewer true) (barHow 1 true false scope) (fun _ => ⟨b.core, b.slot, g.num, l, 1, 1, true, false, none⟩)
        true noOwn [⟨lowLane x.mask, l, va, 8⟩]
      (∀ u f, checked = .fault u f → g.pending = none → exec (.barrierWaitWake bid n place) s =
        .next ((u.wake (gangId bid n) place (s.cycle b.core)).takeTrap (gangId bid n)
          ⟨f.cause, f.lanes, x.pc, BitVec.ofNat 64 f.addr, BitVec.ofNat 64 f.info, place⟩)) ∧
      ∀ u qs, checked = .go u qs → (∀ e ∈ qs, ∀ p ∈ e.2, isPeerPiece p = false) → ∃ t g' y, exec (.barrierWaitWake bid n place) s = .next t ∧ t.gang? (gangId bid n) = some g' ∧
        Tab.look g'.tree.splits place = some y ∧ y = x.passed (s.cycle b.core) ∧ (∀ k, t.seen b.core k = s.seen b.core k) ∧
        g'.regs = g.regs ∧ MemoryOnly s t) ∧
    (∀ va past scope ps w, x.park = .ring va past scope → s.watched b va 4 = some ps → ObjectAt s b.core ps 4 w → w < 2 ^ 32 →
      Orderly s b.core → (∀ p ∈ ps, isPeerPiece p = false) → (w + 2 ^ 32 - past) % 2 ^ 32 < 2 ^ 31 →
      ∃ t, exec (.waitringWake bid n place) s = .next t ∧ Replaces s t (gangId bid n) g place (x.retried (s.cycle b.core))) ∧
    (x.park = .resource → ∃ t, exec (.resourceWake bid n place) s = .next t ∧
      Replaces s t (gangId bid n) g place (x.retried (s.cycle b.core))) ∧
    (∀ va lanes, x.park = .refused va lanes → g.pending = none → ∃ u, Replaces s u (gangId bid n) g place (x.retried (s.cycle b.core)) ∧
      exec (.resourceWake bid n place) s =
        .next (u.takeTrap (gangId bid n) ⟨0x09, lanes, x.pc, BitVec.ofNat 64 va, 0, place⟩))

/-! ### Helper loops (R191 to R208) -/

/-- R192 to R198: u.recruit gives back what its lane had reserved and reserves as many lanes as it asks for, at most 31 and at most
those that R192 admits, and none where R193 refuses: a split of several lanes (which reservations it leaves then is log entry 104, the
model's choice), a protected team, a copy-role gang, a handler, a loop's participant, or four recruitments that are active in the quad;
u.hrel gives them back; u.hloop
starts the loop, with iteration 0 for the recruiter and one iteration for each helper, or goes to the join with a count of 0; by
several lanes, or in a loop's body, it raises 0x01. -/
def Obligations.HelperLoops : Prop :=
  ∀ (cx : Cx) (s : State),
    (∀ (d a : Reg), Clear (.uRecruit d a) cx s →
      let freed := s.modGang cx.gid (fun g => g.dropReserved (maskOf [cx.low]))
      let asked := min (cx.rd s cx.lowPhys a.toNat).toNat 31
      let refused := (lanesOf cx.active).length ≠ 1 ∨ cx.g.prot = true ∨ cx.g.role = 2 ∨ cx.g.inHandler = true ∨ cx.body ≠ none ∨
        4 ≤ freed.recruitments cx.core (cx.g.num % 4)
      ∃ t rs n, exec (.uRecruit d a) s = .next t ∧
      OnlyRegs cx s t { cx.g with recruits := rs } (cx.keysIn (cx.g.expand cx.active) d 1) cx.next ∧
      Holds cx t (cx.g.expand cx.active) d 1 (fun _ => n) ∧ n ≤ asked ∧ (refused → n = 0) ∧
      (¬ refused → cx.gid = gangId cx.b.bid cx.g.num → cx.b.gangs.Nodup →
        (∀ k x, freed.gang? (gangId cx.b.bid k) = some x → x.num = k) →
        ∀ free : List (Nat × Nat), free.Nodup → (∀ e, e ∈ free ↔ cx.grantable freed e) → n = min asked free.length) ∧
      (∀ l, l ≠ cx.low → Tab.look rs l = Tab.look cx.g.recruits l) ∧
      (0 < n → ∃ hs, Tab.look rs cx.low = some ⟨hs, none⟩ ∧ hs.map Helper.index = (List.range n).map (· + 1) ∧
        ∀ h ∈ hs, h.iter = none ∧ ((h.gang = cx.g.num ∧ cx.g.exited.getLsbD h.lane = true ∧ cx.g.dmask.getLsbD h.lane = false) ∨
          (∃ n x, n ≠ cx.g.num ∧ n % 4 = cx.g.num % 4 ∧ s.gang? (gangId cx.b.bid n) = some x ∧ x.num = h.gang ∧ x.lender = true ∧
            x.dmask.getLsbD h.lane = false)))) ∧
    (Clear .uHrel cx s → ∃ t, exec .uHrel s = .next t ∧
      OnlyRegs cx s t { cx.g with recruits := cx.g.recruits.filter (fun r => r.1 ≠ cx.low || r.2.loop.isSome) } [] cx.next) ∧
    (∀ (d a : Reg) (b : Src), Clear (.uHloop d a b) cx s →
      let count := ((⟨cx, s⟩ : Lanes).src cx.lowPhys b).toNat
      let start := cx.rd s cx.lowPhys a.toNat
      let stride := cx.rd s cx.lowPhys (a.toNat + 1)
      let jpc := pcBase cx.pc + BitVec.ofNat 64 (16 * d.toNat) + 4
      let hs := ((Tab.look cx.g.recruits cx.low).map Recruit.helpers).getD []
      ∃ t l, exec (.uHloop d a b) s = .next t ∧ OnlyGang cx s t [] ∧
        l.start = start ∧ l.stride = stride ∧ l.count = count ∧ l.jpc = jpc ∧ l.first = cx.next ∧ l.done = 0 ∧ l.fmode = cx.g.fmode ∧
        (count = 0 → LoopIs t cx.gid cx.low hs l ∧ l.iter0 = none ∧
          ∀ x, Tab.look cx.g.tree.splits cx.place = some x → x.park = .ready → SplitAt cx t jpc) ∧
        (count ≠ 0 → (∀ h ∈ hs, h.iter = none ∧ h.released = false ∧ 1 ≤ h.index ∧ h.index < 32) → (hs.map Helper.index).Nodup →
          l.iter0 = some 0 ∧ l.taken = min count (hs.length + 1) ∧ FrameIs cx t cx.low 0 start ∧
          (∃ hs', LoopIs t cx.gid cx.low hs' l ∧ hs'.map (fun h => (h.index, h.iter)) =
            hs.zipIdx.map (fun e => (e.1.index, if e.2 + 1 < count then some (e.2 + 1) else none))) ∧
          (∀ (k : Nat) (h : Helper), hs[k]? = some h → k + 1 < count →
            FrameIs cx t cx.low h.index (start + BitVec.ofNat 32 (k + 1) * stride)) ∧
          ∀ x, Tab.look cx.g.tree.splits cx.place = some x → x.park = .ready → SplitAt cx t cx.next)) ∧
    (∀ (d a : Reg) (b : Src), Formed (.uHloop d a b) cx s → (lanesOf cx.active).length ≠ 1 ∨ cx.body ≠ none →
      exec (.uHloop d a b) s = .next (cx.fault s 0x01 cx.active 0 0))

/-- R190, R198, R202, R203: u.hjoin outside the join PC raises 0x01; at it, it adds its contribution, unless that raises an enabled
exception; then the participant takes the next iteration, the recruiter waits for the others or for the accesses of the loop's frames, or the loop
is over. -/
def Obligations.LoopJoins : Prop :=
  ∀ (d a b : Reg) (cx : Cx) (s : State),
    (Formed (.uHjoin d a b) cx s → (∀ l, cx.loop = some l → cx.pc ≠ l.jpc) →
      exec (.uHjoin d a b) s = .next (cx.fault s 0x01 cx.active 0 0)) ∧
    (∀ lane hs l p, Clear (.uHjoin d a b) cx s → cx.body = some lane → lane < 32 → Tab.look cx.g.recruits lane = some ⟨hs, some l⟩ → cx.pc = l.jpc →
      cx.g.phys lane = [p] → cx.active = maskOf [lane] → cx.g.dead = 0 →
      let vd := cx.g.codeKey none 0 p d.toNat
      let before := (l.acc ++ [Tab.getD l.snap vd 0]).headD 0
      let gives := fun (after : Word) (raised : Flags5) =>
        if b = 0 ∨ l.count = 0 then raised = 0 else Contributes b.toNat l.fmode before (cx.rd s p a.toNat) after raised
      (∀ after raised, gives after raised → raised &&& l.ftrap ≠ 0 →
        exec (.uHjoin d a b) s = .next (cx.fault s (lowestFpCause (raised &&& l.ftrap)) cx.active 0 (raised &&& l.ftrap))) ∧
      (∀ after raised, gives after raised → raised &&& l.ftrap = 0 → l.acc.length ≤ 1 →
        let counted := l.done + if l.count = 0 then 0 else 1
        let left := l.heldIters = [] ∧ l.taken < l.count
        (cx.index = 0 → left → ∃ t l', exec (.uHjoin d a b) s = .next t ∧ OnlyGang cx s t [] ∧ LoopIs t cx.gid lane hs l' ∧
          l'.taken = l.taken + 1 ∧ l'.iter0 = some l.taken ∧ l'.done = counted ∧ (b ≠ 0 → l'.acc = [after]) ∧
          FrameIs cx t lane 0 (l.start + BitVec.ofNat 32 l.taken * l.stride) ∧
          ∀ x, Tab.look cx.g.tree.splits cx.place = some x → x.park = .ready → x.mask = cx.active → SplitAt cx t l.first) ∧
        (cx.index = 0 → ¬ left → (∃ h ∈ hs, h.iter ≠ none) → ∃ t l', exec (.uHjoin d a b) s = .next t ∧ OnlyGang cx s t [] ∧
          LoopIs t cx.gid lane hs l' ∧ l'.iter0 = none ∧ l'.done = counted ∧ (b ≠ 0 → l.count ≠ 0 → l'.acc = [after]) ∧
          ∃ g y, t.gang? cx.gid = some g ∧ Tab.look g.tree.splits cx.place = some y ∧ y.park = .loop) ∧
        (cx.index = 0 → l.heldIters = [] → l.count ≤ l.taken → (∀ h ∈ hs, h.iter = none) → s.block? cx.g.bid = some cx.b →
          (cx.g.frameLoads lane = true → ∃ t l' g y, exec (.uHjoin d a b) s = .next t ∧ OnlyGang cx s t [] ∧ LoopIs t cx.gid lane hs l' ∧
            l'.iter0 = none ∧ t.gang? cx.gid = some g ∧ Tab.look g.tree.splits cx.place = some y ∧ y.park = .loop)) ∧
        (cx.index = 0 → l.heldIters = [] → l.count ≤ l.taken → (∀ h ∈ hs, h.iter = none) → s.block? cx.g.bid = some cx.b →
          cx.g.frameLoads lane = false →
          (∀ q y, Tab.look cx.g.tree.splits q = some y → y.mask = cx.active → q = cx.place) → Tab.wf cx.g.tree.splits →
          ∃ t g', exec (.uHjoin d a b) s = .next t ∧ OnlyGang cx s t [vd] ∧ t.gang? cx.gid = some g' ∧
            Tab.look g'.recruits lane = none ∧
            t.reg cx.gid vd = (if b = 0 then s.reg cx.gid vd else if l.count = 0 then before else after) ∧
            (∀ x, Tab.look cx.g.tree.splits cx.place = some x → x.mask = cx.active → SplitAt cx t cx.next)) ∧
        (∀ h, cx.index ≠ 0 → h ∈ hs → h.index = cx.index → (hs.map Helper.index).Nodup → h.released = false → l.stopped = false →
          l.taken < l.count → (∀ y ∈ hs, y.iter ≠ none) → cx.index < 32 → ∃ t l' hs', exec (.uHjoin d a b) s = .next t ∧
          OnlyGang cx s t [] ∧ LoopIs t cx.gid lane hs' l' ∧ l'.taken = l.taken + 1 ∧ l'.done = counted ∧ (b ≠ 0 → l'.acc = [after]) ∧
          hs'.map (fun y => (y.index, y.iter)) = hs.map (fun y => (y.index, if y.index = cx.index then some l.taken else y.iter)) ∧
          FrameIs cx t lane cx.index (l.start + BitVec.ofNat 32 l.taken * l.stride))))

/-- R205 to R207: a trap that waited is entered when the helpers have finished; the lowest faulted iteration of a helper is charged to
its recruiter with cause 0x20; a lender whose wait is over gets its idle lanes back, and the others at the end of their iteration. -/
def Obligations.HelperEvents : Prop :=
  ∀ (bid n : Nat) (s : State) (g : Gang) (b : Block), s.gang? (gangId bid n) = some g →
    (∀ t, g.pending = some t → g.helpersBusy = false → g.opsBusy = false → s.block? g.bid = some b → g.inHandler = false →
      g.tdeleg.getLsbD t.cause = false → ∃ u g', exec (.trapEntry bid n) s = .next u ∧ u.gang? (gangId bid n) = some g' ∧
        g'.pending = none ∧ g'.tmask = t.mask ∧ g'.tpc = t.pc ∧ g'.tcause = t.cause % 128 ∧ g'.taddr = t.addr ∧ g'.tinfo = t.info ∧
        g'.system = true ∧ g'.layers.length = 1 ∧ g'.regs = g.regs) ∧
    (∀ lane place r l h x, g.pending = none → g.inHandler = false → s.block? g.bid = some b → g.tdeleg.getLsbD 0x20 = false →
      g.recruits = [(lane, r)] → r.loop = some l → l.heldIters = [h] → l.iter0 = none → (∀ y ∈ r.helpers, y.iter = none) →
      g.tree.splits = [(place, x)] → x.park = .loop → x.mask = maskOf [lane] → (h.frame.map Prod.fst).Nodup →
      ∃ u g' r' l', exec (.trapEntry bid n) s = .next u ∧ u.gang? (gangId bid n) = some g' ∧ g'.tcause = 0x20 ∧
        g'.tmask = maskOf [lane] ∧ g'.tpc = h.trap.pc ∧ g'.taddr = h.trap.addr ∧
        g'.tinfo = BitVec.ofNat 64 (h.trap.cause % 256 + h.index * 2 ^ 8 + h.iter * 2 ^ 32) ∧ Tab.look g'.recruits lane = some r' ∧
        r'.loop = some l' ∧ l'.heldIters = [] ∧ l'.iter0 = some h.iter ∧ l'.stopped = true ∧ r'.helpers = [] ∧
        ∀ e ∈ h.frame, Tab.getD g'.regs (hKey lane 0 0 e.1) 0 = e.2) ∧
    (∀ p x, s.block? bid = some b → g.ended = false → Tab.look g.tree.splits p = some x → x.park = .ready →
      ∃ t, exec (.helperForcedRelease bid n) s = .next t ∧ t = { s with gangs := t.gangs } ∧ t.gang? (gangId bid n) = some g ∧
        ∀ m ∈ b.gangs, m ≠ n → ∀ y, s.gang? (gangId bid m) = some y → Tab.wf y.recruits →
          ∃ y', t.gang? (gangId bid m) = some y' ∧ y' = { y with recruits := y'.recruits } ∧
            ∀ l r, Tab.look y.recruits l = some r → r.loop ≠ none → Tab.look y'.recruits l = some { r with
              helpers := (r.helpers.filter (fun h => h.gang ≠ n || h.iter.isSome)).map (fun h =>
                if h.gang = n then { h with released := true } else h) })

/-- R55, R242, R345, R411: a quad selects its first ready split, a starved one before all others; a record whose joinw timer runs out
lets the lanes that have arrived go on with 1 in their flag registers; and a mapped stash line that is touched takes the data behind
it. -/
def Obligations.SplitEvents : Prop :=
  ∀ (s : State),
    (∀ (core quad : Nat) (c : Cand) (p : Nat), s.turns.contains (core * 5 + quad) = true → c.who.who = .split p → p < 8 →
      (∃ g, s.gang? (gangId c.who.bid c.who.gang) = some g) →
      (c ∈ s.selectable core quad → (∀ x ∈ s.selectable core quad, x = c ∨ keyLess c.key x.key = true) →
        ∃ t, exec (.issueSelect core quad) s = .next t ∧ t.issue = some c.who ∧ t.turns = s.turns.erase (core * 5 + quad) ∧
          t = { s with
            issue := t.issue
            turns := t.turns
            gangs := t.gangs }) ∧
      (c ∈ s.selectable core quad → 1024 ≤ c.starve →
        (∀ x ∈ s.selectable core quad, x = c ∨ x.starve < 1024 ∨ x.gang > c.gang ∨ (x.gang = c.gang ∧ x.place > c.place)) →
        ∃ t, exec (.starvationLimit core quad) s = .next t ∧ t.issue = some c.who ∧ t.turns = s.turns.erase (core * 5 + quad))) ∧
    (∀ (bid n q : Nat) (g : Gang) (b : Block) (r : JoinRec), s.gang? (gangId bid n) = some g → s.block? bid = some b →
      g.tree.recs = [(q, r)] → r.armed = true → r.timer ≤ s.cycle b.core - r.armedAt → r.arrived ≠ 0 → r.expect_ &&& ~~~r.arrived ≠ 0 →
      r.arrived ||| r.aside ≠ r.expect_ → g.tree.roomy → ((s.team? b.team).map Team.frozen).getD false = false →
      ∃ t g' k x, exec (.joinwTimeout bid n q) s = .next t ∧ t.gang? (gangId bid n) = some g' ∧
        Tab.look g'.tree.splits k = some x ∧ x.mask = r.arrived ∧ x.pc = r.jpc + 4 ∧ x.rec_ = r.outer ∧ x.park = .ready ∧
        g'.tree.recs.map Prod.snd = [{ r with
          expect_ := r.expect_ &&& ~~~r.arrived
          arrived := 0
          wmask := 0
          wregs := []
          armed := false
          late := true }] ∧
        (∀ w ∈ r.wregs, r.wmask.getLsbD w.1 = true → ∀ p ∈ g.phys w.1, t.reg (gangId bid n) (vKey p w.2) = 1) ∧
        (∀ c, ∃ n, t.core c = { s.core c with laneDeath := n }) ∧ t = { s with gangs := t.gangs, cores := t.cores }) ∧
    (∀ (bid line pa : Nat) (b : Block) (e : MapEntry) (s1 : State), s.block? bid = some b → line ∈ b.fills →
      b.mapEntry (128 * line) = some e → s.backPa (b.viewer true) (e.g + (128 * line - e.s)) = some pa → isStashKey pa = false →
      s.atHome b.asid e.hint (pa / 128) = some s1 → Orderly s b.core →
      ∃ t c, exec (.firstTouchFill bid line) s = .next t ∧ t.block? bid = some c ∧ line ∉ c.fills ∧ line ∉ c.absent ∧
        (∀ l, l ≠ line → (l ∈ c.absent ↔ l ∈ b.absent)) ∧
        ∀ j < 128, ∀ x, s.seen b.core (pa / 128 * 128 + j) = some x →
          Memory.byte? t.mem (stashKey b.core (b.stashBase + 128 * line) + j) = some x)

/-! ### Tiles and the matrix engine (R309 to R377) -/

/-- R312, R325: tld brings a frame into a register block; STATE, NOSTRIP and RECOMP say what becomes of its strip and its tag, and a
frame whose strip does not fit its elements raises 0x19. -/
def Obligations.TileLoads : Prop :=
  ∀ (d a : Reg) (x : Access) (cx : Cx) (s v u : State) (h : Header), Clear (.tld d a x) cx s →
    let f := cx.address s a x.offset cx.lowPhys
    let off := f - localBase
    let tile := s.frameTile cx.b off h
    let old := s.frameStrip cx.b off h
    let count := blockRegs cx.g.width h.geom
    let scoff := if fmtBx (geomFmt h.geom) then off + h.x else 0
    let loads := fun (y : Tile) (strip : Option Strip) (stale : Option Bool) (n : Nat) (again : Bool) =>
      ∃ t, exec (.tld d a x) s = .next t ∧ BlockHolds t cx.gid cx.g d.toNat y ∧
        (∀ z, strip = some z → StripHolds t cx.gid cx.g d.toNat h.geom z) ∧
        (∀ b, stale = some b → Tagged t cx.gid ⟨d.toNat, h.geom, scoff, b⟩) ∧ (stale = none → Untagged t cx.gid d.toNat count) ∧
        Corrected cx s t n again ∧ TileMoves cx s t d.toNat count
    f % 16 = 0 → inLocal f = true → cx.b.direct off 16 = true → s.frameHeaderAt cx.b off = some h →
    cx.badBlock d.toNat count = none → cx.blockBusy s d.toNat count = false → cx.b.direct off h.size = true → cx.deadTile h.geom = 0 →
    cx.headerOpen s off →
    cx.stashOpen s v u [(false, (off, 16) :: (h.parts (x.op.getLsbD 0 = false ∧ h.state ≠ 0 ∧ ¬(x.op.getLsbD 1 = true ∧ h.state = 2))).map
      (fun e => (off + e.1, e.2)))] →
    (x.op.getLsbD 0 = true → loads tile none none 0 false) ∧
    (x.op.getLsbD 0 = false → h.state = 1 →
      (tile.compare old = .pass → loads tile (some old) (some false) 0 false) ∧
      (∀ i j y, tile.compare old = .element i j y → loads (tile.set i j y) (some old) (some false) 1 false) ∧
      (∀ z, tile.compare old = .entry z → loads tile (some z) (some false) 1 false) ∧
      (∀ m, tile.compare old = .mismatch m → exec (.tld d a x) s = .next (cx.fault v 0x19 cx.perform f m.info))) ∧
    (x.op.getLsbD 0 = false → h.state ≠ 1 → x.op.getLsbD 1 = true → loads tile (some tile.strip) (some false) 0 true) ∧
    (x.op.getLsbD 0 = false → h.state = 2 → x.op.getLsbD 1 = false → loads tile (some old) (some true) 0 false) ∧
    (x.op.getLsbD 0 = false → h.state = 0 → x.op.getLsbD 1 = false →
      loads tile (some (Strip.zero (geomRows h.geom) (geomCols h.geom))) none 0 false)

/-- R312, R325: tst writes a register block to a frame with the least pitch; the state of the block's tag, NOSTRIP and RECOMP say which
strip and STATE it writes. Nothing outside the frame changes, and no register. -/
def Obligations.TileStores : Prop :=
  ∀ (d a b : Reg) (x : Access) (cx : Cx) (s v u : State) (geom : Word), Clear (.tst d a b x) cx s →
    geomResolve cx.g.shape (cx.rd s cx.lowPhys b.toNat) = some geom →
    let f := cx.address s a x.offset cx.lowPhys
    let off := f - localBase
    let h := fun (state : Nat) => (⟨geom, leastStride geom, state⟩ : Header)
    let tag := cx.g.tagAt d.toNat
    let scoff := (tag.map Tag.scoff).getD 0
    let rd := cx.g.blockRead s cx.cyc
    let tile := blockTile cx.g.width d.toNat geom rd (s.scalesOf cx.b geom scoff)
    let old := blockStrip cx.g.width d.toNat geom rd
    let base := stashKey cx.b.core (cx.b.stashBase + off)
    let stores := fun (y : Tile) (state n : Nat) (again : Bool) (strip : Option Strip) =>
      ∃ t, exec (.tst d a b x) s = .next t ∧ t.frameHeaderAt cx.b off = some (h state) ∧ t.frameTile cx.b off (h state) = y ∧
        (∀ z, strip = some z → t.frameStrip cx.b off (h state) = z) ∧
        (∀ k, k < base ∨ base + (if strip = none then (h 0).y else (h 0).size) ≤ k → Memory.byte? t.mem k = Memory.byte? s.mem k) ∧
        Corrected cx s t n again ∧ GangMoves cx s t cx.g [] ∧ TileOnly cx s t
    f % 16 = 0 → inLocal f = true → cx.b.direct off (h 0).size = true → cx.deadTile geom = 0 →
    (∀ y, tag = some y → y.geom = geom) → (fmtBx (geomFmt geom) = true → tag ≠ none) →
    cx.stashOpen s v u [(false, if tag = none then [] else scaleParts geom scoff),
      (true, (off, 16) :: ((h 0).parts (x.op.getLsbD 0 = false)).map (fun e => (off + e.1, e.2)))] →
    (x.op.getLsbD 0 = true → stores tile 0 0 false none) ∧
    (x.op.getLsbD 0 = false → x.op.getLsbD 1 = true → stores tile 1 0 true (some tile.strip)) ∧
    (x.op.getLsbD 0 = false → x.op.getLsbD 1 = false →
      (tag = none → stores tile 0 0 false (some (Strip.zero (geomRows geom) (geomCols geom)))) ∧
      (∀ y, tag = some y → y.stale = true → stores tile 2 0 false (some old)) ∧
      (∀ y, tag = some y → y.stale = false → tile.compare old = .pass → stores tile 1 0 false (some old)) ∧
      (∀ y i j e, tag = some y → y.stale = false → tile.compare old = .element i j e → stores (tile.set i j e) 1 1 false (some old)) ∧
      (∀ y z, tag = some y → y.stale = false → tile.compare old = .entry z → stores tile 1 1 false (some z)) ∧
      (∀ y m, tag = some y → y.stale = false → tile.compare old = .mismatch m →
        exec (.tst d a b x) s = .next (cx.fault v 0x19 cx.perform f m.info)))

/-- R314 to R321, R326 to R328: cksum forms a block's strip anew and makes its tag valid; ckchk compares, and corrects or raises 0x19;
ckinj flips bits of an element or of a sum, leaves the tag, and counts. A block without a tag raises 0x1A. -/
def Obligations.Checksums : Prop :=
  ∀ (cx : Cx) (s v u : State),
    (∀ (d : Reg) (b : Src) (geom : Word), Clear (.cksum d b) cx s → geomResolve cx.g.shape (cx.srcWord s cx.lowPhys b) = some geom →
      let tag := cx.g.tagAt d.toNat
      let scoff := if fmtBx (geomFmt geom) then (tag.map Tag.scoff).getD 0 else 0
      let tile := blockTile cx.g.width d.toNat geom (cx.g.blockRead s cx.cyc) (s.scalesOf cx.b geom scoff)
      let strips := stripBase cx.g.width d.toNat geom
      cx.deadTile geom = 0 → (fmtBx (geomFmt geom) = true → ∃ y, tag = some y ∧ y.geom = geom) →
      cx.stashOpen s v u [(false, if fmtBx (geomFmt geom) then scaleParts geom scoff else [])] →
      ∃ t, exec (.cksum d b) s = .next t ∧ StripHolds t cx.gid cx.g d.toNat geom tile.strip ∧ Tagged t cx.gid ⟨d.toNat, geom, scoff, false⟩ ∧
        TileMoves cx s t strips (blockRegs cx.g.width geom - colGroups cx.g.width geom * groupRegs geom)) ∧
    (∀ (d : Reg), Clear (.ckchk d) cx s →
      (cx.g.tagAt d.toNat = none → exec (.ckchk d) s = .next (cx.fault s 0x1A cx.perform 0 (1 + d.toNat * 2 ^ 8))) ∧
      (∀ tag, cx.g.tagAt d.toNat = some tag → cx.deadTile tag.geom = 0 → cx.stashOpen s v u [(false, scaleParts tag.geom tag.scoff)] →
        let tile := blockTile cx.g.width d.toNat tag.geom (cx.g.blockRead s cx.cyc) (s.scalesOf cx.b tag.geom tag.scoff)
        let old := blockStrip cx.g.width d.toNat tag.geom (cx.g.blockRead s cx.cyc)
        (tag.stale = true → exec (.ckchk d) s = .next (cx.fault v 0x1A cx.perform 0 (0 + d.toNat * 2 ^ 8))) ∧
        (tag.stale = false → tile.compare old = .pass → ∃ t, exec (.ckchk d) s = .next t ∧ Corrected cx s t 0 false ∧
          GangMoves cx s t cx.g [] ∧ TileOnly cx s t) ∧
        (∀ i j y, tag.stale = false → tile.compare old = .element i j y → cx.g.fly = [] → d.toNat + blockRegs cx.g.width tag.geom ≤ 256 →
          (∀ c < (cx.g.phys 0).length, s.blockReg cx.gid cx.g c = s.blockReg cx.gid cx.g 0) →
          ∃ t, exec (.ckchk d) s = .next t ∧ BlockHolds t cx.gid cx.g d.toNat (tile.set i j y) ∧ Tagged t cx.gid tag ∧
            Corrected cx s t 1 false ∧ TileMoves cx s t d.toNat (colGroups cx.g.width tag.geom * groupRegs tag.geom)) ∧
        (∀ m, tag.stale = false → tile.compare old = .mismatch m →
          exec (.ckchk d) s = .next (cx.fault v 0x19 cx.perform 0 m.info)))) ∧
    (∀ (d a : Reg) (b : Src), Clear (.ckinj d a b) cx s →
      let p := (cx.rd s cx.lowPhys a.toNat).toNat
      let i := p % 2 ^ 8
      let j := p / 2 ^ 8 % 2 ^ 8
      let target := p / 2 ^ 16 % 4
      (cx.g.tagAt d.toNat = none → exec (.ckinj d a b) s = .next (cx.fault s 0x1A cx.perform 0 (1 + d.toNat * 2 ^ 8))) ∧
      (∀ tag, cx.g.tagAt d.toNat = some tag → cx.deadTile tag.geom = 0 → cx.g.fly = [] →
        (target = 1 ∨ i < geomRows tag.geom) → (target = 2 ∨ j < geomCols tag.geom) → (geomFmt tag.geom = 0 → ∀ r, b = .reg r → r.toNat % 2 = 0) →
        geomValid tag.geom = true → d.toNat + blockRegs cx.g.width tag.geom ≤ 256 →
        let m := match b with
          | .reg r => if geomFmt tag.geom = 0 then cx.rd2 s cx.lowPhys r.toNat else (cx.rd s cx.lowPhys r.toNat).toNat
          | y => (cx.srcWord s cx.lowPhys y).toNat
        ∃ t g', exec (.ckinj d a b) s = .next t ∧ t.gang? cx.gid = some g' ∧ g'.tags = cx.g.tags ∧ g'.accs = cx.g.accs ∧
          (t.core cx.core).ckinj = satAdd 32 (s.core cx.core).ckinj 1 ∧
          (∀ c < (cx.g.phys 0).length,
            let before := s.blockReg cx.gid cx.g c
            let after := t.blockReg cx.gid cx.g c
            let strip := blockStrip cx.g.width d.toNat tag.geom
            (target = 0 → blockElem cx.g.width d.toNat tag.geom after i j =
              blockElem cx.g.width d.toNat tag.geom before i j ^^^ m % 2 ^ fmtBits (geomFmt tag.geom)) ∧
            (target = 1 → (strip after).cs = (strip before).cs.set j ((strip before).cs.getD j 0 ^^^ m)) ∧
            (target = 2 → (strip after).rs = (strip before).rs.set i ((strip before).rs.getD i 0 ^^^ m))) ∧
          TileMoves cx s t d.toNat (blockRegs cx.g.width tag.geom)))

/-- R356, R361 to R373: setshape writes the grant; a posting instruction waits for its quartet, raises 0x01 where a partner has ended or
differs, and else enters its operation in the FIFO, after which all four gangs go on. -/
def Obligations.MatrixPosts : Prop :=
  ∀ (cx : Cx) (s : State),
    (∀ (d a : Reg), Clear (.setshape d a) cx s →
      let x := (cx.rd s cx.lowPhys a.toNat).toNat
      let m := min (x % 2 ^ 8 / 8 * 8) (Config.coreMaxM cx.core)
      let n := min (x / 2 ^ 8 % 2 ^ 8 / 8 * 8) 128
      let step := 4 * kStep (x / 2 ^ 27)
      let k := min (x / 2 ^ 16 % 2 ^ 10 / step * step) 512
      let grant := m + n * 2 ^ 8 + k * 2 ^ 16 + x / 2 ^ 27 * 2 ^ 27
      ∃ t, exec (.setshape d a) s = .next t ∧ Holds cx t (cx.g.expand cx.active) d 1 (fun _ => grant) ∧
        OnlyRegs cx s t { cx.g with shape := BitVec.ofNat 32 grant } (cx.keysIn (cx.g.expand cx.active) d 1) cx.next) ∧
    (∀ i op d b vals, posting i cx s = some (op, d, b, vals) → Clear i cx s →
      let me : Member := ⟨cx.gid, cx.g, op, d, b, vals, cx.place, cx.pc⟩
      let partner := fun (q : Nat) => s.gang? (gangId cx.bid (cx.g.num / 4 * 4 + q))
      let shape := cx.g.shape
      let m := shapeM shape / 4
      let n := shapeN shape
      let k := shapeK shape
      let bar := vals.getLastD 0xFFFFFFFF
      ((∃ q < 4, ∀ g, partner q = some g → g.ended = true) → exec i s = .next (cx.fault s 0x01 cx.g.live 0 (3 * 2 ^ 16))) ∧
      ((∀ q < 4, ∃ g, partner q = some g ∧ g.ended = false) → (∃ q < 4, cx.g.num / 4 * 4 + q ≠ cx.g.num ∧ cx.g.num < 32 ∧
          cx.gid = gangId cx.bid cx.g.num ∧ ∀ g, partner q = some g → ∀ e ∈ g.tree.splits, e.2.park.code ≠ 3) →
        ∃ t, exec i s = .next t ∧ Parks cx s t (.rendezvous op d b vals) ∧ t = { s with gangs := t.gangs }) ∧
      (∀ ms, cx.meeting s me = .all ms →
        (¬ Agreed cx me ms → ∃ t, exec i s = .next t ∧ AllTrap cx s ms 0x01 0 (2 * 2 ^ 16) t) ∧
        (Agreed cx me ms →
          (op = 0x44 → PostOpen cx s me 0 1 → ∃ t o, exec i s = .next t ∧ Posted cx s t ms o ∧ o.kind = 0x44 ∧ o.bar = bar ∧
            o.cbase = ms.map Member.d ∧ o.m / 4 = m ∧ o.n = n ∧ o.cfmt = b ∧
            (m ≠ 0 → n ≠ 0 → ∀ x ∈ ms, Recorded t x (some ⟨x.d, geomWord m n b false, 0, [], []⟩))) ∧
          (op = 0x43 → shapeM shape = 0 ∨ n = 0 → PostOpen cx s me 16 16 →
            ∃ t o, exec i s = .next t ∧ Posted cx s t ms o ∧ o.kind = 0x43 ∧ o.bar = bar ∧ o.before = [5, 5, 5, 5]) ∧
          (∀ geom r, op = 0x43 → shapeM shape ≠ 0 → n ≠ 0 → (∀ x ∈ ms, x.g.accAt x.d = some (r x) ∧ (r x).geom = geom) →
            4 * geomRows geom ≤ 128 → (geomFmt geom ≤ 3 ∨ geomFmt geom = 0x0E) →
            PostOpen cx s me (drainHeader (4 * geomRows geom) (geomCols geom) (geomFmt geom) 1).size 16 →
            (s.core cx.core).locks.length < 64 →
            ∃ t o, exec i s = .next t ∧ Posted cx s t ms o ∧ o.kind = 0x43 ∧ o.bar = bar ∧ o.blockAddr = vals.getD 0 0 ∧
              o.m = 4 * geomRows geom ∧ o.n = geomCols geom ∧ o.records = ms.map r ∧
              ∀ x ∈ ms, Recorded t x (if b / 2 % 2 = 1 then some ⟨x.d, geomWord (geomRows geom) o.n o.cfmt false, 0, [], []⟩ else none)) ∧
          (∀ w, op = 0x41 → PostOpen cx s me 32 32 → cx.blockWords s ms (vals.getD 0 0) w →
            FormatBlock.valid w shape cx.b.stashNeed = true → m ≠ 0 → n ≠ 0 → k ≠ 0 →
            let f := FormatBlock.ofWords w
            let cgeom := geomWord m n f.cf false
            let bgeom := geomWord n (k / 4) f.bf f.len16
            (∀ x ∈ ms, x.bad x.d (blockRegs cx.g.width cgeom) = none ∧ x.bad x.b (blockRegs cx.g.width bgeom) = none ∧
              mmaB x f bgeom = none) → f.zinit = true → (s.core cx.core).locks.length < 63 →
            ∃ t o, exec i s = .next t ∧ Posted cx s t ms o ∧ o.kind = 0x41 ∧ o.bar = bar ∧ o.block = w.map (BitVec.ofNat 32) ∧
              o.k = k ∧ o.cbase = ms.map Member.d ∧ o.bbase = ms.map Member.b ∧
              ∀ x ∈ ms, Recorded t x (some ⟨x.d, cgeom, k, [], []⟩)) ∧
          (∀ w, op = 0x42 → PostOpen cx s me 32 32 → cx.blockWords s ms (vals.getD 0 0) w → Gather.valid w = true → n ≠ 0 → k ≠ 0 →
            (∀ x ∈ ms, x.bad x.d (blockRegs cx.g.width (geomWord n (k / 4) (Gather.ofWords w).vfmt false)) = none) →
            (s.core cx.core).locks.length < 62 →
            ∃ t o, exec i s = .next t ∧ Posted cx s t ms o ∧ o.kind = 0x42 ∧ o.bar = bar ∧ o.block = w.map (BitVec.ofNat 32) ∧
              o.bbase = ms.map Member.d ∧ ∀ x ∈ ms, ∃ g, t.gang? x.gid = some g ∧ g.accs = x.g.accs))))

/-- R357, R364, R368 to R377: the engine starts the head of its FIFO and reads its sources; gives a source range free; and completes the
operation, which then leaves the FIFO: mzero clears its four blocks, mma writes the sums; mgath writes the gathered blocks, unless R373
finds a fault among what it has read; mdrain writes the frame of the four blocks, checked and corrected under R320 to R323, and leaves
each with its sums and a valid tag, or cleared; a dead lane below N that an operation writes fails it (R58); a cancelled operation does
nothing, and a failed one is held in its four gangs and cancels the quartet's later ones. No register that the engine reads holds an
uncorrectable error here (R219). -/
def Obligations.MatrixEngine : Prop :=
  ∀ (core : Nat) (s : State) (o : MatOp) (rest : List MatOp) (b : Block) (gq : Nat → Gang), (s.core core).fifo = o :: rest →
    s.block? o.bid = some b → (∀ q < 4, s.gang? (o.gid q) = some (gq q)) →
    let sameRegs := fun (t : State) => ∀ k g, s.gang? k = some g → ∃ g', t.gang? k = some g' ∧ g'.regs = g.regs ∧ g'.tags = g.tags
    let fails := fun (h : Held) => ∃ t, exec (.matrixOpComplete core) s = .next t ∧
      (t.core core).fifo = rest.map (fun x => if x.bid = o.bid ∧ x.quartet = o.quartet then { x with cancelled := true } else x) ∧
      ∀ q < 4, ∃ g x, t.gang? (o.gid q) = some g ∧ g.heldMatrix = (gq q).heldMatrix ++ [x] ∧ x.cause = h.cause ∧ x.addr = h.addr ∧
        x.info = h.info ∧ (o.cregs ≠ 0 → g.accAt (o.cbase.getD q 0) = none ∧
          ∃ y, g.tagAt (o.cbase.getD q 0) = some y ∧ y.stale = true)
    let alive := fun (n : Nat) => ∀ q < 4, ∀ l < min n (gq q).width, (gq q).dmask.getLsbD l = false
    let runs := o.fail = none ∧ o.cancelled = false ∧ ∃ q < 4, o.before.getD q 5 ≠ 5
    (o.started = false → o.ticket = none → s.loadsUnder core (o.srcLocks ++ o.dstLocks) = false →
      (o.cancelled = true ∨ o.fail ≠ none → ∃ t, exec (.matrixOpStart core) s = .next t ∧
        (t.core core).fifo = { o with started := true } :: rest ∧ t = { s with cores := t.cores }) ∧
      (o.cancelled = false → o.fail = none →
        (o.k = 0 ∨ (o.kind ≠ 0x41 ∧ o.kind ≠ 0x42) → ∃ t, exec (.matrixOpStart core) s = .next t ∧
          (t.core core).fifo = { o with
            started := true
            image := List.replicate 12 [] } :: rest ∧ t = { s with cores := t.cores }) ∧
        (∀ u xs, State.readQuads o b (List.range 4) s = .ok u xs → ∃ t, exec (.matrixOpStart core) s = .next t ∧
          ∃ x r, (t.core core).fifo = x :: r ∧ x.started = true ∧ x.image = xs))) ∧
    (∀ range, o.started = true → range ∈ o.srcLocks → ∃ t, exec (.matrixSourceRelease core range) s = .next t ∧
      (t.core core).fifo = { o with srcLocks := o.srcLocks.filter (· ≠ range) } :: rest ∧
      (∀ k, Tab.look (t.core core).locks k = if k = range then none else Tab.look (s.core core).locks k) ∧ sameRegs t) ∧
    (o.started = true → o.bar = 0xFFFFFFFF →
      (o.cancelled = true → o.fail = none → ∃ t, exec (.matrixOpComplete core) s = .next t ∧ (t.core core).fifo = rest ∧ sameRegs t) ∧
      (∀ h, o.fail = some h → fails h) ∧
      (o.fail = none → o.cancelled = false → o.kind = 0x44 → o.before = [4, 4, 4, 4] →
        (∀ q < 4, (∀ l < min o.n (gq q).width, (gq q).dmask.getLsbD l = false) ∧
          o.cbase.getD q 0 + blockRegs (gq q).width o.cgeom ≤ 256) →
        ∃ t, exec (.matrixOpComplete core) s = .next t ∧ (t.core core).fifo = rest ∧
          ∀ q < 4, ∃ g, t.gang? (o.gid q) = some g ∧ g.tagAt (o.cbase.getD q 0) = some ⟨o.cbase.getD q 0, o.cgeom, 0, false⟩ ∧
            g.accAt (o.cbase.getD q 0) = (gq q).accAt (o.cbase.getD q 0) ∧
            (∀ k, InBlock g (o.cbase.getD q 0) (blockRegs (gq q).width o.cgeom) k → Tab.getD g.regs k 0 = 0) ∧
            (∀ k, ¬ InBlock g (o.cbase.getD q 0) (blockRegs (gq q).width o.cgeom) k → Tab.getD g.regs k 0 = Tab.getD (gq q).regs k 0)) ∧
      (o.fail = none → o.cancelled = false → o.kind = 0x41 → o.before = [0, 0, 0, 0] → o.k ≠ 0 →
        let f := FormatBlock.ofWords (o.block.map BitVec.toNat)
        let bgeom := geomWord o.n (o.k / 4) f.bf f.len16
        let bTile := fun (q : Nat) => blockTile (gq q).width (o.bbase.getD q 0) bgeom ((gq q).blockRead s (s.cycle core))
          ((o.image.getD (3 * q + 2) []).map BitVec.toNat)
        let sums := fun (q : Nat) => mmaQuad o.cfmt (kStep f.af) o.k o.n f.sat (o.aTerms q) (bRows o.n ((List.range 4).map bTile))
          (List.replicate (o.m / 4) (List.replicate o.n 0)) (Strip.zero (o.m / 4) o.n)
        f.chkb = false → (o.cfmt ≤ 3 ∨ o.cfmt = 0x0E) → o.m < 256 → o.n < 256 → (∀ q < 4, (gq q).bad = []) →
        (∀ q < 4, (∀ l < min (max o.n (o.k / 4)) (gq q).width, (gq q).dmask.getLsbD l = false) ∧
          o.cbase.getD q 0 + blockRegs (gq q).width o.cgeom ≤ 256) →
        ∃ t, exec (.matrixOpComplete core) s = .next t ∧ (t.core core).fifo.length = rest.length ∧
          ∀ q < 4, BlockHolds t (o.gid q) (gq q) (o.cbase.getD q 0) ⟨o.cgeom, (sums q).elems, []⟩ ∧
            ∃ g, t.gang? (o.gid q) = some g ∧ g.tagAt (o.cbase.getD q 0) = some ⟨o.cbase.getD q 0, o.cgeom, 0, true⟩) ∧
      (runs → o.kind = 0x42 →
        let d := Gather.ofWords (o.block.map BitVec.toNat)
        let n := o.k / 4
        let geom := geomWord o.n n d.vfmt false
        let base := fun (q : Nat) => o.bbase.getD q 0
        let sound := fun (q : Nat) => d.sound o.n (q * n) n b.stashNeed (rowsOf o d q)
        alive n →
        (∀ q < 4, (∀ p < q, sound p) → ∀ h, d.fail o.n (q * n) n b.stashNeed (rowsOf o d q) = some h → fails h) ∧
        (d.vfmt ≤ 5 ∨ d.vfmt = 0x0A ∨ d.vfmt = 0x0B → o.n < 256 → n < 256 → (∀ q < 4, sound q) → (rowsOf o d 3).ptr.getD n 0 ≤ d.limit →
          (∀ q < 4, base q + blockRegs (gq q).width geom ≤ 256) →
          ∃ t, exec (.matrixOpComplete core) s = .next t ∧ (t.core core).fifo = rest ∧
            ∀ q < 4, (∀ j < o.n, ∀ i < n, ∀ c < ((gq q).phys 0).length,
              (rowsOf o d q).gives j i (blockElem (gq q).width (base q) geom (t.blockReg (o.gid q) (gq q) c) j i)) ∧
              ∃ g, t.gang? (o.gid q) = some g ∧ (∀ k, ¬ InBlock (gq q) (base q) (blockRegs (gq q).width geom) k →
                Tab.getD g.regs k 0 = Tab.getD (gq q).regs k 0) ∧ ∀ x, g.tagAt (base q) = some x → x.stale = true)) ∧
      (runs → o.kind = 0x43 → b.bid = o.bid → o.m % 4 = 0 → o.m < 256 → o.n < 256 → geomValid (geomWord o.m o.n o.cfmt false) = true →
        (o.cfmt ≤ 3 ∨ o.cfmt = 0x0E) → (∀ q < 4, (gq q).bad = []) → alive o.n →
        let tile := fun (q : Nat) => blockTile (gq q).width (o.cbase.getD q 0) o.cgeom ((gq q).blockRead s (s.cycle core)) []
        let old := fun (q : Nat) => blockStrip (gq q).width (o.cbase.getD q 0) o.cgeom ((gq q).blockRead s (s.cycle core))
        let record := fun (q : Nat) => o.records.getD q ⟨o.cbase.getD q 0, o.cgeom, 0, [], []⟩
        (∀ q < 4, DrainFails (o.before.getD q 5) (record q) (tile q) (old q) →
          ∃ h, h.cause = 0x18 ∧ h.addr = BitVec.ofNat 64 (localBase + o.blockAddr) ∧ fails h) ∧
        ∀ (y z : Nat → Tile) (n : Nat → Nat) (v : State),
          (∀ q < 4, Drained (o.before.getD q 5) (record q) (tile q) (old q) (y q) (z q) (n q)) →
          let h := drainHeader o.m o.n o.cfmt 1
          let c : Tile := ⟨h.geom, (List.range 4).flatMap (fun q => (y q).elems), []⟩
          s.drainFrame o b c = .ok v () → b.direct o.blockAddr h.size = true → o.blockAddr % 16 = 0 →
          (∀ q < 4, o.cbase.getD q 0 + blockRegs (gq q).width o.cgeom ≤ 256) →
          ∃ t, exec (.matrixOpComplete core) s = .next t ∧ (t.core core).fifo = rest ∧ t.frameHeaderAt b o.blockAddr = some h ∧
            t.frameTile b o.blockAddr h = c ∧ t.frameStrip b o.blockAddr h = c.strip ∧
            (t.core core).ckcorr = satAdd 32 (s.core core).ckcorr (n 0 + n 1 + n 2 + n 3) ∧
            ∀ q < 4, let zero : Tile := ⟨o.cgeom, List.replicate (o.m / 4) (List.replicate o.n 0), []⟩
              BlockHolds t (o.gid q) (gq q) (o.cbase.getD q 0) (if o.flagB then zero else z q) ∧
              StripHolds t (o.gid q) (gq q) (o.cbase.getD q 0) o.cgeom
                (if o.flagB then Strip.zero (o.m / 4) o.n else (z q).strip) ∧
              Tagged t (o.gid q) ⟨o.cbase.getD q 0, o.cgeom, 0, false⟩))

/-! ### The copy engine (R379 to R399) -/

/-- R382 to R385, R392, R393: a copy instruction reads its parameter block; a bad address raises 0x05 or 0x09, bad parameters 0x1D with
the lowest CREASON, and else the copy enters the queue, its ranges are locked and vd receives its operation id. -/
def Obligations.CopyPosts : Prop :=
  ∀ (i : Instr) (kind : Nat) (d a b : Reg) (cx : Cx) (s u : State) (bs : List Byte), copyForm i = some (kind, d, a, b) → Clear i cx s →
    let pa := cx.rd2 s cx.lowPhys a.toNat
    let slot := (cx.rd s cx.lowPhys b.toNat).toNat
    let bar := (cx.rd s cx.lowPhys (b.toNat + 1)).toNat
    (pa % 64 ≠ 0 → exec i s = .next (cx.fault s 0x05 cx.perform pa 0)) ∧
    (pa % 64 = 0 → s.paramsPlaced cx pa = false → exec i s = .next (cx.fault s 0x09 cx.perform pa 0)) ∧
    (pa % 64 = 0 → s.paramsPlaced cx pa = true → (∀ f k, cx.dataRead s (cx.wordReqs pa 16) f k = k u bs) →
      u.block? cx.bid = some cx.b → cx.b.bid = cx.bid → (u.core cx.core).pbcache = [] →
      let w := (List.range 16).map (fun n => ofBytes ((bs.drop (4 * n)).take 4))
      let refuses := fun (reason : Nat) => ∃ v, exec i s = .next (cx.fault v 0x1D cx.perform pa reason) ∧ v.gangs = u.gangs ∧ v.mem = u.mem
      bs.length = 64 → kind ≠ 1 → pbRing w = 0 →
      (pbKind w ≠ kind → refuses 0) ∧
      (pbKind w = kind → fieldsBad w = true → refuses 1) ∧
      (pbKind w = kind → fieldsBad w = false → formatBad w = true → refuses 2) ∧
      (pbKind w = kind → fieldsBad w = false → formatBad w = false → limitsBad w [] = true → refuses 3) ∧
      (pbKind w = kind → fieldsBad w = false → formatBad w = false → limitsBad w [] = false →
        (addressesBad w = true → refuses 4) ∧
        (addressesBad w = false → barrierBad cx.b bar = true → refuses 6) ∧
        (addressesBad w = false → barrierBad cx.b bar = false → cx.b.rangesBad w [] = true → refuses 7) ∧
        (addressesBad w = false → barrierBad cx.b bar = false → cx.b.rangesBad w [] = false → (u.core cx.core).copies.length < 32 →
          cx.b.smap = [] → (u.core cx.core).locks.length ≤ 61 →
          ∃ t c b', exec i s = .next t ∧ (t.core cx.core).copies = (u.core cx.core).copies ++ [c] ∧ c.bid = cx.bid ∧
            c.opid = cx.b.opid ∧ c.pb.map BitVec.toNat = w ∧ c.slot = slot ∧ c.bar = bar ∧ c.phase = 0 ∧ c.fault = none ∧
            Holds cx t (cx.g.expand cx.active) d 1 (fun _ => cx.b.opid) ∧
            (∀ r ∈ (cx.b.copyLocks cx.b.opid w []).1, ∃ n ∈ c.srcLocks, Tab.look (t.core cx.core).locks n = some r) ∧
            (∀ r ∈ (cx.b.copyLocks cx.b.opid w []).2, ∃ n ∈ c.dstLocks, Tab.look (t.core cx.core).locks n = some r) ∧
            t.block? cx.bid = some b' ∧ b'.opid = (if cx.b.opid = 2 ^ 32 - 1 then 1 else cx.b.opid + 1) ∧
            b'.copies = cx.b.copies + 1 ∧ (∃ g', t.gang? cx.gid = some g' ∧ StandsAt cx cx.g g' cx.next) ∧ t.mem = u.mem))) ∧
    (∀ v hs h, pa % 64 = 0 → s.paramsPlaced cx pa = true → (∀ f k, cx.dataRead s (cx.wordReqs pa 16) f k = k u bs) →
      u.block? cx.bid = some cx.b → cx.b.bid = cx.bid → (u.core cx.core).pbcache = [] → bs.length = 64 →
      let w := (List.range 16).map (fun n => ofBytes ((bs.drop (4 * n)).take 4))
      let u1 := u.modCore cx.core (fun c => { c with pbcache := [(cx.bid, u.paramTag cx.viewer pa, w.map (BitVec.ofNat 32))] })
      kind = 1 → (∀ f k, cx.dataRead u1 (cx.wordReqs (pbSrc w) 4) f k = k v hs) → v.block? cx.bid = some cx.b →
      headerOf (valuesOf 4 4 hs) = some h → pbKind w = 1 → pbRing w = 0 → fieldsBad w = false → formatBad w = false →
      limitsBad w (valuesOf 4 4 hs) = false → addressesBad w = false → barrierBad cx.b bar = false →
      cx.b.rangesBad w (valuesOf 4 4 hs) = false →
      (h.state ≠ 1 → pbCheck w = true → pbRecomp w = false →
        exec i s = .next (cx.fault v 0x1A cx.perform (pbSrc w) (if h.state = 2 then 2 else 3))) ∧
      ((h.state = 1 ∨ pbCheck w = false ∨ pbRecomp w = true) → (v.core cx.core).copies.length < 32 → cx.b.smap = [] →
        (v.core cx.core).locks.length ≤ 61 →
        ∃ t c, exec i s = .next t ∧ (t.core cx.core).copies = (v.core cx.core).copies ++ [c] ∧ c.opid = cx.b.opid ∧
          c.header = valuesOf 4 4 hs ∧ Holds cx t (cx.g.expand cx.active) d 1 (fun _ => cx.b.opid)))

/-- R379, R386 to R391, R393 to R397: the engine starts a copy that no earlier one stands against, reads its index list, or its frame,
which it compares and corrects on the way; moves piece after piece, of a row, of an indexed row, of a frame, of a convolution's row, or
adds an element to its destination; gives its source ranges free, holds a fault for the copy-role gang and cancels the block's later copies, and completes it
after every earlier one of its block. -/
def Obligations.CopyEngine : Prop :=
  ∀ (bid opid : Nat) (s : State) (b : Block) (c : Copy), s.block? bid = some b →
    (s.core b.core).copies.find? (fun x => x.bid = bid && x.opid = opid) = some c → c.ticket = none →
    let w := c.words
    let earlier := earlierCopies bid opid (s.core b.core).copies
    let after := fun (t : State) (x : Copy) => (t.core b.core).copies.find? (fun y => y.bid = bid && y.opid = opid) = some x
    (c.phase = 0 → (∀ e ∈ earlier, s.copyBehind c b e = false) → s.loadsUnder b.core (c.srcLocks ++ c.dstLocks) = false →
      (c.kind = 0 ∨ c.kind = 4 ∨ c.kind = 5 → ∃ t, exec (.copyStart bid opid) s = .next t ∧ t = { s with cores := t.cores } ∧
        after t { c with phase := if pbRows w ≤ c.row ∨ pbRowBytes w = 0 then 2 else 1 }) ∧
      (∀ u bs, (c.kind = 2 ∨ c.kind = 3) → State.engineRead (c.mover b) (chunksOf (pbIdx w) (4 * pbRows w)) s = .ok u bs →
        (u.core b.core).copies = (s.core b.core).copies →
        let ix := valuesOf 4 (pbRows w) bs
        ((∀ r < pbRows w, ix.getD r 0 < pbLimit w) → ∃ t x, exec (.copyStart bid opid) s = .next t ∧ after t x ∧ x.indices = ix ∧
          x.fault = c.fault ∧ (x.phase = 1 ∨ x.phase = 2)) ∧
        (∀ r, r < pbRows w → pbLimit w ≤ ix.getD r 0 → (∀ q < r, ix.getD q 0 < pbLimit w) →
          ∃ t x h, exec (.copyStart bid opid) s = .next t ∧ after t x ∧ x.phase = 2 ∧ x.status = 2 ∧ x.cause = 0x1C ∧ x.fault = some h ∧
            h.cause = 0x1C ∧ h.addr = BitVec.ofNat 64 (pbIdx w + 4 * r))) ∧
      (∀ u h bs, c.kind = 1 → headerOf c.header = some h →
        let parts := (0, 16) :: h.parts (h.state ≠ 0)
        State.engineRead (c.mover b) (parts.flatMap (fun r => chunksOf (pbSrc w + r.1) r.2)) s = .ok u bs →
        (u.core b.core).copies = (s.core b.core).copies →
        let tile := h.tile (partBytes parts bs)
        let old := stripOf h.geom (partBytes parts bs h.y (stripBytes h.geom))
        let works := fun (y : Tile) (z : Strip) (state n : Nat) (again : Bool) => ∃ t x, exec (.copyStart bid opid) s = .next t ∧ after t x ∧
          x.phase = 1 ∧ x.work = ((destHeader w h state).segments y (some z)).flatMap (fun e => cutBytes (pbDst w + e.1) e.2) ∧
          t.mem = u.mem ∧ (t.core b.core).ckcorr = satAdd 32 (u.core b.core).ckcorr n ∧
          (t.core b.core).ckrecomp = if again then satAdd 32 (u.core b.core).ckrecomp 1 else (u.core b.core).ckrecomp
        (h.state = 1 →
          (tile.compare old = .pass → works tile old 1 0 false) ∧
          (∀ i j y, tile.compare old = .element i j y → works (tile.set i j y) old 1 1 false) ∧
          (∀ z, tile.compare old = .entry z → works tile z 1 1 false) ∧
          (∀ m, tile.compare old = .mismatch m → ∃ t x f, exec (.copyStart bid opid) s = .next t ∧ after t x ∧ x.phase = 2 ∧
            x.status = 2 ∧ x.cause = 0x19 ∧ x.fault = some f ∧ f.cause = 0x19 ∧ f.addr = BitVec.ofNat 64 (pbSrc w) ∧ t.mem = u.mem)) ∧
        (h.state ≠ 1 → pbCheck w = true → pbRecomp w = true → works tile tile.strip 1 0 true) ∧
        (h.state = 0 → pbCheck w = false ∨ pbRecomp w = false →
          works tile (Strip.zero (geomRows h.geom) (geomCols h.geom)) 0 0 false) ∧
        (h.state = 2 → pbCheck w = false ∨ pbRecomp w = false → works tile old 2 0 false))) ∧
    (c.phase = 2 → c.status = 1 → c.srcLocks ≠ [] → (c.kind = 3 → c.srcLocks.length ≠ 2) →
      ∃ t, exec (.copySourceRelease bid opid) s = .next t ∧ after t { c with srcLocks := [] } ∧
        (∀ n, Tab.look (t.core b.core).locks n = if n ∈ c.srcLocks then none else Tab.look (s.core b.core).locks n) ∧ t.mem = s.mem) ∧
    (∀ u v bs, c.phase = 1 → (v.core b.core).copies = (s.core b.core).copies →
      let dstRow := if c.kind = 3 then c.indices.getD c.row 0 else c.row
      let srcRow := if c.kind = 2 then c.indices.getD c.row 0 else c.row
      let va := addrPlus (addrPlus (pbDst w) (pbDStride w * (dstRow : Nat))) c.col
      let src := addrPlus (addrPlus (pbSrc w) (pbSStride w * (srcRow : Nat))) c.col
      let n := min (pbRowBytes w - c.col) (128 - va % 128)
      let moves := fun (n : Nat) => ∃ t x, exec (.copyLineArrival bid opid) s = .next t ∧ t.mem = v.mem ∧ after t x ∧ x.bytes = c.bytes + n ∧
        (c.col + n ≠ pbRowBytes w → x.row = c.row ∧ x.col = c.col + n ∧ x.phase = 1) ∧
        (c.col + n = pbRowBytes w → x.row = c.row + 1 ∧ x.col = 0 ∧
          x.phase = if pbRows w ≤ c.row + 1 ∨ pbRowBytes w = 0 then 2 else 1)
      (c.kind = 0 ∨ c.kind = 2 ∨ c.kind = 3 → State.engineRead (c.mover b) (chunksOf src n) s = .ok u bs →
        u.engineWrite (c.mover b) va bs = .ok v () → moves n) ∧
      (c.kind = 4 → State.engineRead (c.mover b) (chunksOf src (pbSize w)) s = .ok u bs → pbSize w = 4 ∨ pbSize w = 8 →
        u.engineUpdate (c.mover b) 4 (1 < pbFmt w) (some c.interval) va (pbSize w)
          (fun old => atomLeaves (if pbFmt w ≤ 1 then 1 else 0) (pbSize w) old (ofBytes bs)) = .ok v () → moves (pbSize w)) ∧
      (c.kind = 5 → 0 < pbSize w →
        let first := c.col / pbSize w
        let count := (c.col % pbSize w + n + pbSize w - 1) / pbSize w
        ConvRow (c.mover b) w c.row ((List.range count).map (first + ·)) s u bs →
        u.engineWrite (c.mover b) va ((bs.drop (c.col % pbSize w)).take n) = .ok v () → moves n) ∧
      (∀ e rest, c.kind = 1 → c.work = e :: rest → s.engineWrite (c.mover b) e.1 e.2 = .ok v () →
        ∃ t x, exec (.copyLineArrival bid opid) s = .next t ∧ t.mem = v.mem ∧ after t x ∧ x.bytes = c.bytes + e.2.length ∧
          x.work = rest ∧ x.phase = if rest = [] then 2 else 1)) ∧
    (∀ h g, c.fault = some h → s.gang? (gangId bid 31) = some g → g.ended = false →
      ∃ t g', exec (.copyFault bid opid) s = .next t ∧ t.gang? (gangId bid 31) = some g' ∧ g'.heldCopy = g.heldCopy ++ [h] ∧
        (∀ x ∈ (t.core b.core).copies, x.bid = bid → x.opid = opid → x.fault = none) ∧
        (∀ y ∈ ((s.core b.core).copies.drop earlier.length), y.bid = bid → y.opid ≠ opid → y.phase = 0 →
          { y with
            phase := 2
            status := 3
            bytes := 0
            ticket := none } ∈ (t.core b.core).copies) ∧ t.mem = s.mem) ∧
    (c.phase = 2 → c.fault = none → c.done = 0 → (∀ e ∈ earlier, e.bid ≠ bid) → pbRing w = 0 → pbScope w = 0 → c.bar = 0xFFFFFFFF →
      s.boundaryWaits b = false → ∃ t b', exec (.copyComplete bid opid) s = .next t ∧
        (t.core b.core).copies = (s.core b.core).copies.filter (fun x => x.bid ≠ bid || x.opid ≠ opid) ∧
        (∀ n, n ∈ c.srcLocks ∨ n ∈ c.dstLocks → Tab.look (t.core b.core).locks n = none) ∧
        t.block? bid = some b' ∧ b'.copies = b.copies - 1)

/-! ### System instructions (R341, R342, R349, R424 to R436) -/

/-- R427: tlbinv drops the named translations package-wide, once no split-phase load is left that went through them; what the core's
own L1 held goes back first, and no byte changes. -/
def Obligations.TranslationInvalidation : Prop :=
  ∀ (i : Instr) (p : TlbEntry → Bool) (ids : Nat → Bool) (cx : Cx) (s : State), Clear i cx s → Orderly s cx.core →
    let id := fun (b : Reg) => (cx.rd s cx.lowPhys b.toNat).toNat
    ((∃ a b, i = .tlbinvPage a b ∧ p = (fun e => e.covers (id b) (cx.rd2 s cx.lowPhys a.toNat)) ∧ ids = (fun k => decide (k = id b))) ∨
      (∃ b, i = .tlbinvAsid b ∧ p = (fun e => decide (e.asid = id b)) ∧ ids = (fun k => decide (k = id b))) ∨
      (i = .tlbinvAll ∧ p = (fun _ => true) ∧ ids = (fun _ => true))) →
    s.loadsPending ids = false → ∃ t, exec i s = .next t ∧
      (∀ c, (t.core c).tlb = (s.core c).tlb.filter (fun e => !p e)) ∧
      (∀ k, Tab.getD t.clusterTlbs k [] = (Tab.getD s.clusterTlbs k []).filter (fun e => !p e)) ∧
      (∀ a, t.seen cx.core a = s.seen cx.core a) ∧ GangMoves cx s t cx.g [] ∧ MemoryOnly s t

/-- R424, R426, R433, R434: asidset binds an identifier to a descriptor or unbinds it, and mgate starts a migration; vd receives the
status, and a status other than 0 means that nothing else happened. No page is being pulled (R435) and no stack retrained (R465), so that
neither waits. -/
def Obligations.IdentifiersAndMigrations : Prop :=
  ∀ (cx : Cx) (s : State), s.loadsPending (fun _ => true) = false → (∀ m ∈ s.migrations, m.2.pulling = false) →
    (∀ k, (s.stack k).retraining = false) →
    (∀ (d a b : Reg), Clear (.asidset d a b) cx s →
      let pa := cx.rd2 s cx.lowPhys a.toNat
      let id := (cx.rd s cx.lowPhys b.toNat).toNat
      let lanes := cx.g.expand cx.active
      let only := fun (n : Nat) => ∃ t, exec (.asidset d a b) s = .next t ∧ Holds cx t lanes d 1 (fun _ => n) ∧
        OnlyRegs cx s t cx.g (cx.keysIn lanes d 1) cx.next
      let used := (∃ e ∈ s.teams, e.2.asid = id) ∨ ∃ e ∈ s.queues, e.2.bound = some id
      (2047 < id → only 1) ∧
      (id ≤ 2047 → s.descriptor pa = none → only 2) ∧
      (∀ x, id ≤ 2047 → s.descriptor pa = some (false, x) → used → only 3) ∧
      (∀ x, id ≤ 2047 → s.descriptor pa = some (false, x) → ¬ used → ∃ t, exec (.asidset d a b) s = .next t ∧
        Holds cx t lanes d 1 (fun _ => 0) ∧ (∀ k, Tab.look t.identifiers k = if k = id then none else Tab.look s.identifiers k) ∧
        (∀ c, ∀ e ∈ (t.core c).tlb, e.asid ≠ id) ∧ (∀ r, r ∈ t.transRecs ↔ r ∈ s.transRecs ∧ r.asid ≠ id) ∧ t.mem = s.mem) ∧
      (∀ x, id ≤ 2047 → s.descriptor pa = some (true, x) → Tab.look s.identifiers id = none → ∃ t, exec (.asidset d a b) s = .next t ∧
        Holds cx t lanes d 1 (fun _ => 0) ∧
        (∀ k, Tab.look t.identifiers k = if k = id then some x else Tab.look s.identifiers k) ∧ Tab.look t.fqdrop id = some 0 ∧
        (∀ j < 32, Memory.byte? t.mem (x.fqbase + j) = some 0) ∧
        (∀ k, k < x.fqbase ∨ x.fqbase + 32 ≤ k → Memory.byte? t.mem k = Memory.byte? s.mem k)) ∧
      (∀ x o, id ≤ 2047 → s.descriptor pa = some (true, x) → Tab.look s.identifiers id = some o →
        ((o.fqbase = x.fqbase ∧ o.fqsize = x.fqsize) ∨ s.deviceNat 60 o.fqbase 4 = s.deviceNat 60 (o.fqbase + 4) 4 →
          ∃ t, exec (.asidset d a b) s = .next t ∧ Holds cx t lanes d 1 (fun _ => 0) ∧
            (∀ k, Tab.look t.identifiers k = if k = id then some x else Tab.look s.identifiers k) ∧ Tab.look t.fqdrop id = some 0 ∧
            t.mem = s.mem) ∧
        (¬ (o.fqbase = x.fqbase ∧ o.fqsize = x.fqsize) → s.deviceNat 60 o.fqbase 4 ≠ s.deviceNat 60 (o.fqbase + 4) 4 → only 4))) ∧
    (∀ (d a : Reg), Clear (.mgate d a) cx s →
      let pa := cx.rd2 s cx.lowPhys a.toNat
      let lanes := cx.g.expand cx.active
      let only := fun (n : Nat) => ∃ t, exec (.mgate d a) s = .next t ∧ Holds cx t lanes d 1 (fun _ => n) ∧
        OnlyRegs cx s t cx.g (cx.keysIn lanes d 1) cx.next
      (s.migration pa = none → only 2) ∧
      (∀ m pte leaf, s.migration pa = some (m, pte, leaf) →
        let old := s.deviceNat 59 pte 8
        let fits := pteValid old = true ∧ pteLeaf old = true ∧ malformed (3 - m.size) old = false ∧ pteAddr old = m.oldPa ∧
          ptePull old = false
        (∀ e, Tab.look s.migrations (pteMig leaf) = some e → only 1) ∧
        (Tab.look s.migrations (pteMig leaf) = none → ¬ fits → only 3) ∧
        (Tab.look s.migrations (pteMig leaf) = none → fits → ∃ t, exec (.mgate d a) s = .next t ∧ Holds cx t lanes d 1 (fun _ => 0) ∧
          Tab.look t.migrations (pteMig leaf) = some m ∧
          (∀ k, k ≠ pteMig leaf → Tab.look t.migrations k = Tab.look s.migrations k) ∧
          (∀ j < 8, Memory.byte? t.mem (pte + j) = some (BitVec.ofNat 8 (leaf / 2 ^ (8 * j)))) ∧
          ∀ c, ∀ e ∈ (t.core c).tlb, e.covers m.asid m.va = false)))

/-- R341, R342, R349: launch offers a packet to a queue, and vd says what became of it; amsend sends a message, which stands in the queue
of a core of the package in the same step (log entry 97, the model's choice) unless its handler entry is none; trctl switches the gang's
tracing, and trmark writes a mark. -/
def Obligations.LaunchesMessagesTraces : Prop :=
  ∀ (cx : Cx) (s : State),
    (∀ (d a : Reg) (b : Src) u r ps, Clear (.launch d a b) cx s → Passes cx s u packetHow noOwn
        [⟨cx.low, cx.lowPhys, cx.rd2 s cx.lowPhys a.toNat, 64⟩] [(r, ps)] ⟨true, false, 3⟩ →
      let q := ((⟨cx, s⟩ : Lanes).src cx.lowPhys b).toNat
      let x := s.queue q
      ∃ ws : List Word, ws.length = 16 ∧
        (∀ (j k : Nat) (y : Byte), (bytesAt ps)[j]? = some k → s.seen cx.core k = some y →
          BitVec.ofNat 8 ((ws.getD (j / 4) 0).toNat / 2 ^ (8 * (j % 4))) = y) ∧
        let answers := fun (n : Nat) (t : State) => exec (.launch d a b) s = .next t ∧
          Holds cx t (cx.g.expand cx.active) d 1 (fun _ => n) ∧ GangMoves cx s t cx.g (cx.keysIn (cx.g.expand cx.active) d 1) ∧
          (∀ k, t.seen cx.core k = s.seen cx.core k)
        (127 < q → ∃ t, answers 3 t ∧ t.queues = s.queues) ∧
        (q ≤ 127 → x.bound ≠ some cx.asid → ∃ t, answers 2 t ∧ t.queues = s.queues) ∧
        (q ≤ 127 → x.bound = some cx.asid → (∀ p ∈ s.ports, p.1 ≠ q) →
          (x.full = false → ((ws.getD 13 0).toNat = 0 ∨ s.tokens.length < 4096) → ∃ t, answers 0 t ∧
            t.queue q = { x with
              qseq := (x.qseq + 1) % 2 ^ 25
              packets := x.packets ++ [(q + x.qseq * 128, ws)] } ∧
            ((ws.getD 13 0).toNat ≠ 0 → Tab.look t.tokens (cx.asid * 2 ^ 32 + (ws.getD 13 0).toNat) = some true)))) ∧
    (∀ (d a : Reg) (b : Src), Clear (.amsend d a b) cx s →
      let dst := (cx.rd s cx.lowPhys d.toNat).toNat
      let ctl := ((⟨cx, s⟩ : Lanes).src cx.lowPhys b).toNat
      let len := ctl / 2 ^ 8 % 2 ^ 5
      let core := dst % 2 ^ 11
      let msg := fun (k : Nat) => (⟨s.nextId, k, cx.b.handler, (List.range len).map (fun k => cx.rd s cx.lowPhys (a.toNat + k)),
        ctl % 2 ^ 8, cx.core, none, cx.b.slot, cx.asid, false⟩ : Message)
      (16 < len ∨ 2 ^ 13 ≤ ctl ∨ 2 ^ 24 ≤ dst → exec (.amsend d a b) s = .next (cx.fault s 0x01 cx.perform 0 0)) ∧
      (len ≤ 16 → ctl < 2 ^ 13 → dst < 2 ^ 11 → cx.badPayload a.toNat len = none →
        (1536 ≤ core ∨ (s.die (dieOf core)).state ≠ 0 → exec (.amsend d a b) s = .next (cx.fault s 0x09 cx.perform 0 0)) ∧
        (core < 1536 → (s.die (dieOf core)).state = 0 → s.hasEntry core cx.b.handler = true →
          s.handlerWaits core (msg core) = false → Orderly s cx.core → s.block? cx.b.bid = some cx.b → cx.b.dirty = [] →
          let u := cx.boundBefore s ⟨true, false, 3⟩
          ∃ t, exec (.amsend d a b) s = .next t ∧ t.nextId = s.nextId + 1 ∧ GangMoves cx s t cx.g [] ∧
            (u.handlerPc core (msg core) ≠ none → (t.core core).msgs = (s.core core).msgs ++ [msg core] ∧
              ∀ k, t.seen cx.core k = s.seen cx.core k) ∧
            (u.handlerPc core (msg core) = none → (t.core core).msgs = (s.core core).msgs)) ∧
        (core < 1536 → (s.die (dieOf core)).state = 0 → s.hasEntry core cx.b.handler = false →
          ∃ t, exec (.amsend d a b) s = .next t ∧ (cx.index = 0 → Parks cx s t .resource))) ∧
      (len ≤ 16 → ctl < 2 ^ 13 → 2 ^ 11 ≤ dst % 2 ^ 12 → dst < 2 ^ 24 → core < 1536 → cx.badPayload a.toNat len = none →
        (s.routed (dst / 2 ^ 12) = false → exec (.amsend d a b) s = .next (cx.fault s 0x09 cx.perform 0 0)) ∧
        (s.routed (dst / 2 ^ 12) = true → cx.remoteOut s ⟨true, false, 4⟩ = false → cx.peerLost s ⟨true, false, 4⟩ = none → Orderly s cx.core → s.block? cx.b.bid = some cx.b →
          cx.b.dirty = [] → ∃ t, exec (.amsend d a b) s = .next t ∧ t.outbox = s.outbox ++ [(dst / 2 ^ 12, msg core)] ∧
            GangMoves cx s t cx.g [] ∧ ∀ k, t.seen cx.core k = s.seen cx.core k))) ∧
    (∀ on_, Clear (.trctl on_) cx s → ∃ t, exec (.trctl on_) s = .next t ∧ OnlyRegs cx s t { cx.g with trace := on_ } [] cx.next) ∧
    (∀ imm : BitVec 16, Clear (.trmark imm) cx s → ∃ t, exec (.trmark imm) s = .next t ∧
      OnlyRegs cx (s.tracePacket cx.gid true (4 + cx.g.num * 2 ^ 4 + cx.tracePlace % 8 * 2 ^ 9 + imm.toNat * 2 ^ 32)) t cx.g [] cx.next)

/-! ### Blocks and teams (R34, R45 to R51, R224 to R248, R335 to R340, R353) -/

/-- R45 to R47, R235, R248, R335 to R340: the scheduler takes the head of the chosen queue; free capacity goes to the first team that can
have it; a placed block starts with its image, and ends when its gangs have; a core without a block empties its L1. -/
def Obligations.BlockLives : Prop :=
  ∀ (s : State),
    (∀ q tid ws rest asid, s.nextQueue = some q → q ≠ 127 → (s.queue q).packets = (tid, ws) :: rest → (s.queue q).bound = some asid →
      s.rejectReason asid (launchOf ws) = none → (launchOf ws).blocks ≠ 0 → (launchOf ws).cores = 0 →
      (∀ m ∈ s.migrations, m.2.pulling = false) → s.imageWaits asid (launchOf ws) = false →
      ∃ t x, exec .schedulerTake s = .next t ∧ (t.queue q).packets = rest ∧ t.team? tid = some x ∧ x.packet = ws ∧ x.asid = asid ∧
        x.queue = q ∧ x.state = .live ∧ x.nextBlock = 0 ∧ x.ended = 0 ∧ Tab.look t.lastQueue (launchOf ws).prio = some q ∧
        t.gangs = s.gangs ∧ t.blocks = s.blocks ∧ t.mem = s.mem) ∧
    (∀ tid x core base slot, s.team? tid = some x → x.tid = tid → (launchOf x.packet).cores = 0 → x.waited = false →
      s.placement x = some [(core, base)] → s.outranked x = false → s.freeSlot = some slot →
      let p := launchOf x.packet
      ∃ t b, exec (.blockPlace tid) s = .next t ∧ t.block? s.nextBid = some b ∧ b.slot = slot ∧ b.core = core ∧ b.index = x.nextIndex ∧
        b.team = tid ∧ b.asid = x.asid ∧ b.stashBase = base ∧ b.stashNeed = p.stash ∧ b.started = false ∧ t.nextBid = s.nextBid + 1 ∧
        (∃ y, t.team? tid = some y ∧ y.requeued = x.requeued.tail ∧
          y.nextBlock = if x.requeued = [] then x.nextBlock + 1 else x.nextBlock) ∧ (t.board slot).state = 1 ∧ (t.board slot).interval = 0 ∧
        (t.core core).bndreg = p.breg ∧ (t.core core).bndstash = p.bstash ∧ (t.core core).bndcache = p.bcache ∧ t.gangs = s.gangs) ∧
    (∀ core, (∀ e ∈ s.blocks, e.2.core = core → e.2.handler = true) → (s.core core).cupboard = none → Orderly s core →
      ∃ t, exec (.boundaryDrain core) s = .next t ∧ (t.core core).l1 = [] ∧ (∀ a, t.seen core a = s.seen core a) ∧ t.gangs = s.gangs) ∧
    (∀ core bid bs x y, s.nextImage core bid = some bs → (s.core core).cupboard = none →
      (∃ k, (k, x) ∈ s.blocks) → x.core = core → x.handler = false → s.team? x.team = some y → y.state = .saving →
      bs.length ≤ 0x40000 - (s.core core).bndcache → s.nextWaits bid = false →
      ∃ t, exec (.contextStage core bid) s = .next t ∧ (t.core core).cupboard = some (bid, bs) ∧ t = { s with cores := t.cores }) ∧
    (∀ bid b x bs xs, s.block? bid = some b → s.team? b.team = some x → b.started = false → x.state = .live → x.begun = true →
      let p := launchOf x.packet
      (s.staged b.core bid = some bs ∨ (s.staged b.core bid = none ∧ s.launchBytes x.asid p = some bs ∧
        s.imageWaits x.asid p = false ∧ ∀ m ∈ s.migrations, m.2.pulling = false)) → launchSections p bs = some xs → p.gangs.Nodup → (∀ n ∈ p.gangs, n < 32) →
      ∃ t c, exec (.blockStart bid) s = .next t ∧ t.block? bid = some c ∧ c = { b with started := true } ∧ t.staged b.core bid = none ∧
        (∀ n ∈ p.gangs, ∃ g, t.gang? (gangId bid n) = some g ∧ g.num = n ∧ g.bid = bid ∧ g.role = p.role n ∧ g.budget = p.budget n ∧
          g.tvec = p.tvec ∧ g.tdeleg = p.tdeleg &&& delegable ∧ g.system = false ∧ g.layers = [] ∧ g.dmask = 0 ∧ g.exited = 0 ∧
          g.fmode = 0 ∧ g.ftrap = 0 ∧ g.shape = 0 ∧ g.acs = [] ∧ g.fflags = [] ∧
          g.regs = imageRegs xs n (if n = 31 then 1 else 32) (p.budget n) (some (p.indexReg, BitVec.ofNat 32 b.index)) ∧
          ∃ y, g.tree.splits = [(0, y)] ∧ y.mask = lowMask g.width ∧ y.pc = p.entry ∧ y.rec_ = 0 ∧ y.park = .ready) ∧
        (∀ o < b.stashNeed, Memory.byte? t.mem (stashKey b.core (b.stashBase + o)) = some 0) ∧
        ∀ a, (∀ o < b.stashNeed, a ≠ stashKey b.core (b.stashBase + o)) → Memory.byte? t.mem a = Memory.byte? s.mem a) ∧
    (∀ bid b x, s.block? bid = some b → b.bid = bid → s.team? b.team = some x → s.blockDone b = true → x.state = .live → b.dirty = [] →
      x.queue ≠ 128 → x.ended + 1 < (launchOf x.packet).blocks → x.ended + 1 < 2 ^ 24 →
      ∃ t y, exec (.blockEnd bid) s = .next t ∧ Gone t [b] ∧ t.team? b.team = some y ∧ y.ended = x.ended + 1 ∧
        ((t.board b.slot).state = if (s.board b.slot).attic = 0 then 0 else 3) ∧
        (∀ k, k ≠ bid → t.block? k = s.block? k) ∧ t.mem = s.mem)

/-- R34, R206, R224 to R232, R353: a request to pre-empt freezes a team and chooses drain, discard or save; each is carried out when the
team's operations have completed; a saved team is restored on request; an ended or aborted team's blocks are gone. R403, R404, R418: what a
save writes of a gang's places, eight words for a split and eight for a join record, brings them back, a timer in units of 16 cycles. R317, R366: with
them come the tile tags and the accumulation records. The order of the sections, the layout of section kind 3 and of the stash map
behind the stash (log entry 9), what a request replaces and accepts (117) and what a save leaves of a split that was being woken (73,
74) are the model's choices. -/
def Obligations.TeamLives : Prop :=
  (∀ (g : Gang), g.tree.savable → (∀ l ∈ g.layers, l.tree.savable) → g.tablesSavable →
    let h := g.loaded g.placeWords
    h.tree = g.tree.reloaded ∧ h.layers = g.layers.map (fun l => { l with tree := l.tree.reloaded }) ∧ h.tags = g.tags ∧
    (g.role = 1 → List.Forall₂ AccRec.same g.accs h.accs) ∧
    (∀ e ∈ g.tree.splits, e.2.words = [BitVec.ofNat 32 (1 + 6 * 2 ^ 2 + e.2.rec_ * 2 ^ 5), 0, e.2.mask, 0,
      BitVec.ofNat 32 (e.2.pc.toNat % 2 ^ 32), BitVec.ofNat 32 (e.2.pc.toNat / 2 ^ 32), 0, 0])) ∧
  ∀ (s : State) (tid : Nat) (x : Team), s.team? tid = some x → x.tid = tid → s.link ≠ .down →
    (∀ deadline area nodrain nodiscard, tid < 2 ^ 32 → (x.state = .live ∨ x.state = .draining) →
      (∀ k g p y, s.gang? k = some g → (p, y) ∈ g.tree.splits → y.park.atPeer = false) → ∃ t y, exec (.preemptRequest tid deadline area nodrain nodiscard) s = .next t ∧ t.team? tid = some y ∧
        (y.state = .draining ∨ y.state = .discarding ∨ y.state = .saving) ∧ (y.frozen = false ↔ y.state = .draining) ∧
        (nodrain = true ∨ x.ended = 0 → y.state ≠ .draining) ∧ (nodiscard = true ∨ x.releases ≠ 0 → y.state ≠ .discarding) ∧
        y.area = area ∧ y.deadline = s.clock + deadline ∧ (∃ missed, y.request = some missed ∧
          (missed = true → y.state = .saving) ∧ y.dlmiss = if missed then satAdd 16 x.dlmiss 1 else x.dlmiss) ∧
        (∀ k g, s.gang? k = some g → ∃ tr, t.gang? k = some { g with tree := tr } ∧ tr.splits = g.tree.splits) ∧
        t = { s with
          teams := t.teams
          gangs := t.gangs } ∧ ∀ k, k ≠ tid → t.team? k = s.team? k) ∧
    (∀ deadline area nodrain nodiscard b n g p y, tid < 2 ^ 32 → (x.state = .live ∨ x.state = .draining) → s.blocksOf tid = [b] →
      b.gangs = [n] → s.gang? (gangId b.bid n) = some g → g.tree.splits = [(p, y)] → y.park.atPeer = true → y.park.unanswered = true →
      ∃ t h, exec (.preemptRequest tid deadline area nodrain nodiscard) s = .next t ∧ t.gang? (gangId b.bid n) = some h ∧
        h.tree.splits = [(p, { y with
          park := .ready
          again := false })] ∧ h.regs = g.regs ∧ t.mem = s.mem) ∧
    (∀ area, x.state = .saved → x.area = area → ∃ t, exec (.restoreRequest tid area) s = .next t ∧
      t.team? tid = some { x with state := .restoring } ∧ t = { s with teams := t.teams }) ∧
    (tid < 2 ^ 32 → x.state ≠ .ending → ∃ t y, exec (.endRequest tid) s = .next t ∧ t.team? tid = some y ∧ y.state = .ending ∧
      y.frozen = true ∧ y.endTrap = none ∧ t = { s with teams := t.teams }) ∧
    (exec (.preemptDiscardedOp tid) s = .next s) ∧
    (x.state = .discarding → x.waited = false → (∀ b ∈ s.blocksOf tid, b.copies = 0 ∧ b.mops = 0) → x.request = none →
      ∃ t, exec (.teamDiscard tid) s = .next t ∧ Gone t (s.blocksOf tid) ∧ t.team? tid = none ∧
        (t.queue x.queue).packets = (tid, x.packet) :: (s.queue x.queue).packets ∧ t.mem = s.mem) ∧
    (x.state = .saving → x.request = none → s.blocksOf tid = [] → x.savedBlocks = [] → (∀ e ∈ s.hbm, e.2.retraining = true → s.streamsInto x e.1 = false) →
      ∃ t, exec (.teamSave tid) s = .next t ∧ t.team? tid = some { x with state := .saved } ∧ t = { s with teams := t.teams }) ∧
    (∀ b, x.state = .saving → x.request = none → s.blocksOf tid = [b] → b.started = true → b.dirty = [] → b.copies = 0 → b.mops = 0 → s.block? b.bid = some b →
      s.quiet b = true → (∀ n ∈ b.gangs, ∀ g, s.gang? (gangId b.bid n) = some g → g.recruits = []) → s.wraps b = false →
      (∀ e ∈ s.hbm, e.2.retraining = true → s.streamsInto x e.1 = false) → x.savedBlocks = [] →
      ∃ t y z, exec (.teamSave tid) s = .next t ∧ Gone t [b] ∧ t.team? tid = some y ∧ y.state = .saved ∧ y.savedBlocks = [z] ∧
        z.at_ = x.area ∧ z.block.bid = b.bid ∧ z.block.impSplits = satAdd 32 b.impSplits 1 ∧
        (∀ n ∈ b.gangs, ∀ g, s.gang? (gangId b.bid n) = some g → ∃ h ∈ z.gangs, h.num = g.num ∧ h.regs = g.regs ∧ h.tpc = g.tpc ∧
          h.acs = g.acs ∧ h.fly = []) ∧
        (isHbm x.area = true → isStashKey (x.area + z.image.length) = false → (∀ e ∈ s.hbm, e.2.retraining = false) → (∀ m ∈ s.migrations, m.2.pulling = false) → ∀ (k : Nat) (v : Byte), z.image[k]? = some v → Memory.byte? t.mem (x.area + k) = some v)) ∧
    (∀ b, x.state = .saving → x.request = none → x.savedBlocks = [] → s.blocksOf tid = [b] → b.started = false → s.block? b.bid = some b →
      (∀ e ∈ s.hbm, e.2.retraining = true → s.streamsInto x e.1 = false) → ∃ t, exec (.teamSave tid) s = .next t ∧ Gone t [b] ∧ t.team? tid = some { x with
          state := .saved
          requeued := (x.requeued ++ [b.index]).mergeSort (· ≤ ·) } ∧ t.mem = s.mem) ∧
    (x.state = .restoring → x.savedBlocks = [] → x.requeued = [] → s.restorePlan x = some [] → s.outranked x = false →
      ∃ t, exec (.teamRestore tid) s = .next t ∧ t.team? tid = some { x with
        state := .live
        frozen := false }) ∧
    (∀ z xs core base slot, x.state = .restoring → x.savedBlocks = [z] → x.requeued = [] → s.restorePlan x = some [(core, base)] →
      s.outranked x = false → s.staged core z.block.bid = none → s.savedSections z.at_ z.image.length = some xs → s.savedWaits z = false →
      (∀ m ∈ s.migrations, m.2.pulling = false) → s.freeSlot = some slot → (z.gangs.map Gang.num).Nodup →
      ∃ t b y, exec (.teamRestore tid) s = .next t ∧ t.block? z.block.bid = some b ∧ b.slot = slot ∧ b.core = core ∧ b.stashBase = base ∧
        b.started = true ∧ b.smap = mapOf ((sectionWords xs 5 0xFF).drop (z.block.stashNeed / 4)) ∧ b.opid = z.block.opid ∧ t.team? tid = some y ∧ y.state = .live ∧ y.frozen = false ∧
        ∀ g ∈ z.gangs, ∃ h, t.gang? (gangId z.block.bid g.num) = some h ∧ h.tpc = g.tpc ∧ h.tcause = g.tcause ∧ h.acs = g.acs ∧
          h.dmask = g.dmask ∧ h.system = g.system ∧ h.fmode = g.fmode ∧ h.layers.length = g.layers.length ∧
          ∀ p, (Tab.look h.tree.splits p).map (fun e => (e.pc, e.mask, e.rec_)) =
            (Tab.look (g.loaded (sectionWords xs 3 g.num)).tree.splits p).map (fun e => (e.pc, e.mask, e.rec_))) ∧
    (x.state = .ending → (∀ b ∈ s.blocksOf tid, s.block? b.bid = some b ∧ b.copies = 0 ∧ b.mops = 0 ∧ b.dirty = []) → ∃ t, exec (.teamAbort tid) s = .next t ∧
      Gone t (s.blocksOf tid) ∧ t.team? tid = none)

/-! ### Queues, messages, records and pages of control (R330 to R352, R429 to R436) -/

/-- R331 to R334, R338, R346, R348, R350, R449, R480: what a write to a launch port, to a queue's control page or to a trace register does;
a done token may be evicted; the trace unit writes the sync sets and the loss packets that it owes. -/
def Obligations.ControlPages : Prop :=
  ∀ (s : State) (q value : Nat), s.link ≠ .down → q < 128 →
    let x := s.queue q
    let after := fun (i : Instr) (y : Queue) => ∃ t, exec i s = .next t ∧ t.queue q = y ∧ (∀ k, k ≠ q → t.queue k = s.queue k) ∧
      t = { s with queues := t.queues }
    let busy := x.packets ≠ []
    let asid := value / 2 ^ 3 % 2 ^ 11
    (value = 0 → after (.qcmdNop q value) x) ∧
    (∀ op, (5 ≤ op ∧ op < 8 ∧ value % 8 = op) → after (.qcmdNop q value) { x with cmderr := true }) ∧
    (value % 8 = 1 → value < 2 ^ 14 →
      (x.bound = none → ¬ busy → Tab.look s.identifiers asid ≠ none → after (.qcmdBind q value) { x with
        bound := some asid
        asid := asid
        en := true }) ∧
      (x.bound ≠ none ∨ busy ∨ Tab.look s.identifiers asid = none → after (.qcmdBind q value) { x with cmderr := true })) ∧
    (value = 2 → (x.bound ≠ none → ¬ busy → after (.qcmdUnbind q value) { x with
        bound := none
        en := false }) ∧ (x.bound = none ∨ busy → after (.qcmdUnbind q value) { x with cmderr := true })) ∧
    (value = 3 → (x.bound ≠ none → after (.qcmdEnable q value) { x with en := true }) ∧
      (x.bound = none → after (.qcmdEnable q value) { x with cmderr := true })) ∧
    (value = 4 → after (.qcmdDisable q value) { x with en := false }) ∧
    (after (.qstatWrite q value) { x with
      ovr := x.ovr && !value.testBit 1
      cmderr := x.cmderr && !value.testBit 34 }) ∧
    (x.bound = none → value < 2 ^ 64 → after (.qspillWrite q value) { x with qspill := value - value % 2 ^ 12 }) ∧
    (x.bound ≠ none → after (.qspillWrite q value) { x with cmderr := true }) ∧
    (∀ data : List Byte, data.length = 64 → (∀ p ∈ s.ports, p.1 ≠ q) → x.bound ≠ none → x.full = false →
      let ws := (List.range 16).map (fun n => BitVec.ofNat 32 (ofBytes ((data.drop (4 * n)).take 4)))
      (ws.getD 13 0 = 0 ∨ s.tokens.length < 4096) → ∃ t, exec (.launchPortWrite q 0 data) s = .next t ∧ t.queue q = { x with
        qseq := (x.qseq + 1) % 2 ^ 25
        packets := x.packets ++ [(q + x.qseq * 128, ws)] }) ∧
    (∀ data : List Byte, data.length = 64 → (∀ p ∈ s.ports, p.1 ≠ q) → x.bound = none →
      ∃ t, exec (.launchPortWrite q 0 data) s = .next t ∧ t.errstat.testBit 1 = true ∧ t.queue q = { x with
        ovr := true
        qdrop := (x.qdrop + 1) % 2 ^ 32 }) ∧
    (∀ offset (data : List Byte), offset ≠ 0 ∨ data.length ≠ 64 → ∃ t, exec (.launchPortWrite q offset data) s = .next t ∧
      t.errstat.testBit 0 = true ∧ t.queue q = { x with qdrop := (x.qdrop + 1) % 2 ^ 32 }) ∧
    (∀ a token, Tab.look s.tokens (a * 2 ^ 32 + token) = some false → s.ports = [] →
      ∃ t, exec (.tokenEvict a token) s = .next t ∧ Tab.look t.tokens (a * 2 ^ 32 + token) = none ∧
        (∀ k, k ≠ a * 2 ^ 32 + token → Tab.look t.tokens k = Tab.look s.tokens k) ∧ t = { s with tokens := t.tokens }) ∧
    (∀ queues windows on_, ∃ t, exec (.recordingControl queues windows on_) s = .next t ∧
      (t.replayRings.head?).map (fun r => r.queues) = some queues ∧
      (∀ k, t.replayRings.filter (fun r => r.queues = k) =
        if k = queues ∧ s.replayRings.filter (fun r => r.queues = k) = [] then [⟨queues, []⟩] else s.replayRings.filter (fun r => r.queues = k)) ∧
      t = { s with
        recQueues := queues
        recWindows := windows.take 16
        recording := on_
        replayRings := t.replayRings }) ∧
    (∀ core, core < 1536 →
      let u := (s.core core).trace
      let trace := fun (i : Instr) (y : Trace) => ∃ t, exec i s = .next t ∧ t.core core = { s.core core with trace := y } ∧
        (∀ k, k ≠ core → t.core k = s.core k) ∧ t = { s with cores := t.cores }
      (value < 2 ^ 64 → trace (.trrpWrite core value) { u with rp := value } ∧
        (u.size = 0 → trace (.registerWrite (0x100000 + 32 * core) value) { u with base := value - value % 2 ^ 12 } ∧
          trace (.registerWrite (0x100000 + 32 * core + 16) value) { u with wp := value })) ∧
      let n := (s.traceSet core).length
      let room := 8 * (2 * n + 2) ≤ u.free
      (u.enabled = true → u.losing = true → u.pending ≠ [] → room → ∃ t, exec (.traceLossWrite core) s = .next t ∧
        (t.core core).trace.losing = false ∧ (t.core core).trace.dropped = 0 ∧
        (t.core core).trace.wp = (u.wp + 8 * (2 * n + 1)) % u.size) ∧
      (u.pending = [] ∨ ¬ room → exec (.traceLossWrite core) s = .next s) ∧
      (u.enabled = true → u.losing = false → n ≠ 0 → 4096 ≤ u.sinceSync ∨ u.syncCycle + 65536 ≤ s.cycle core →
        16 * n ≤ u.free → ∃ t, exec (.tracePeriodicSync core) s = .next t ∧
          (t.core core).trace.wp = (u.wp + 16 * n) % u.size ∧ (t.core core).trace.sinceSync = 0))

/-! ### Intervals, messages, answers (R268 to R272, R342 to R344, R429, R433 to R436) -/

/-- R268 to R272: a slice that runs short compacts what fits and asks the slot of its oldest open stamp; the block that is asked makes a
boundary; a line leaves with its record; a slot at its last interval is renewed or purged; a sweep forgets retired slots. -/
def Obligations.Intervals : Prop :=
  ∀ (s : State) (span slice bid line : Nat) (b : Block),
    let n := span * 16 + slice
    let short := s.freeTags n < 1024 ∨ s.stuckSet n = true
    (¬ short → exec (.closeRequest span slice) s = .next s) ∧
    (short → s.shelfLines n = [line] → isHbm (line * 128) = true → s.fits line = true → ∃ t, exec (.closeRequest span slice) s = .next t ∧
      ∀ w ∈ lineWords line, ∀ x, ((t.mark w).w = some x ∨ (t.mark w).r = some x) → x.who = .unknown ∧ s.stampLive x = true) ∧
    (∀ (m : Nat × Stamp × Bool), short → (∀ l ∈ s.shelfLines n, s.fits l = false) → (∃ l ∈ s.shelfLines n, m ∈ s.openMarks l) →
      (∀ l ∈ s.shelfLines n, ∀ e ∈ s.openMarks l, e.2.1.slot = m.2.1.slot ∨ m.2.1.born < e.2.1.born) →
      s.block? bid = some b → (bid, b) ∈ s.blocks → b.slot = m.2.1.slot → (∀ e ∈ s.blocks, e.2.slot = b.slot → e = (bid, b)) →
      b.closeSeen = false → ∃ t, exec (.closeRequest span slice) s = .next t ∧ t.block? bid = some { b with
          closeReq := true
          closeSeen := true } ∧
        (∀ k, k ≠ bid → t.block? k = s.block? k) ∧ t = { s with
          blocks := t.blocks
          wants := t.wants
          dies := t.dies }) ∧
    (s.block? bid = some b → b.bid = bid →
      (b.closeReq = true → s.boundaryWaits b = false → Orderly s b.core → b.dirty = [] →
        ∃ t c, exec (.implicitSplit bid) s = .next t ∧ t.block? bid = some c ∧ c.impSplits = satAdd 32 b.impSplits 1 ∧
          c.closeReq = false ∧ (∀ k, t.seen b.core k = s.seen b.core k) ∧ (t.core b.core).l1 = [] ∧
          (b.opened = false → (t.board b.slot).interval = ((s.board b.slot).interval + 1) % 2 ^ 18) ∧ t.gangs = s.gangs ∧ MemoryOnly s t) ∧
      (b.wrapping = true → s.wraps b = true →
        (∀ slot, (s.board b.slot).attic ≠ 0 → s.freeSlot = some slot → ∃ t, exec (.slotRenewal bid) s = .next t ∧
          t.block? bid = some { b with
            slot := slot
            opened := true
            wrapping := false } ∧
          (t.board slot).interval = 0 ∧ (t.board slot).state = 1 ∧ (t.board b.slot).state = 3 ∧
          (∀ c, ∀ l ∈ (t.core c).l1, ∀ q ∈ l.seen, q.1 ≠ slot) ∧
          (∀ w x, (t.mark w).w = some x ∨ (t.mark w).r = some x → x.slot ≠ b.slot) ∧
          (t.die (dieOf b.core)).renew = satAdd 32 (s.die (dieOf b.core)).renew 1 ∧ t.mem = s.mem ∧ t.gangs = s.gangs) ∧
        ((s.board b.slot).attic ≠ 0 → s.freeSlot = none → exec (.slotRenewal bid) s = .next s) ∧
        ((s.board b.slot).attic = 0 → (s.board b.slot).state ≠ 2 → ∃ t, exec (.slotPurge bid) s = .next t ∧
          t.board b.slot = { s.board b.slot with state := 2 } ∧ (∀ k, k ≠ b.slot → t.board k = s.board k) ∧ t = { s with boards := t.boards }) ∧
        ((s.board b.slot).attic = 0 → (s.board b.slot).state = 2 → ∃ t, exec (.slotPurge bid) s = .next t ∧ t.block? bid = some { b with
            opened := true
            wrapping := false } ∧
          (t.board b.slot).interval = 0 ∧ (t.board b.slot).state = 1 ∧
          (∀ w x, (t.mark w).w = some x ∨ (t.mark w).r = some x → x.slot ≠ b.slot) ∧
          (∀ c, t.core c = { s.core c with
            l1 := (s.core c).l1.map (fun l => { l with seen := l.seen.filter (fun q => q.1 ≠ b.slot) }) }) ∧ t = { s with
            cores := t.cores
            marks := t.marks
            boards := t.boards
            blocks := t.blocks }))) ∧
    (s.resident line = true → (∀ e ∈ Tab.getD s.slices (setKey line) [], e.line = line → e.second ≠ some line) →
      (s.mayLeave line = false → exec (.lineEvict line) s = .next s) ∧
      (s.mayLeave line = true → ∃ t, exec (.lineEvict line) s = .next t ∧ t.resident line = false ∧ t.mem = s.mem ∧
        (∀ w ∈ lineWords line, t.mark w = Mark.empty) ∧ (isHbm (line * 128) = true → Tab.getD t.side line 0 = s.record line ∧
          ∀ k ∈ recordSlots (s.record line).toNat, (t.board k).attic = ((s.board k).attic + 1) % 2 ^ 32))) ∧
    (isHbm (line * 128) = true → (s.stack (stackOf line)).retraining = true → exec (.atticSweep line) s = .next s) ∧
    (let r := (Tab.getD s.side line 0).toNat
     isPoisonRecord r = false → (isHbm (line * 128) = true → (s.stack (stackOf line)).retraining = false) → ∃ t, exec (.atticSweep line) s = .next t ∧
        (∀ k, k ∈ recordSlots (Tab.getD t.side line 0).toNat ↔ k ∈ recordSlots r ∧ (s.board k).state ≠ 3) ∧
        (∀ k ∈ recordSlots r, (s.board k).state = 3 → t.board k = ⟨(s.board k).interval, if (s.board k).attic ≤ 1 then 0 else 3, (s.board k).attic - 1⟩) ∧
        t = { s with
          side := t.side
          boards := t.boards
          dies := t.dies })

/-- R343, R344, R351, R429, R435, R436: a message joins its core's queue, or is dropped with a record; the oldest gets a handler block;
the three answers to a translation record; the filler of a migration pulls the next line, or stores DONE. -/
def Obligations.MessagesAndAnswers : Prop :=
  ∀ (s : State),
    (∀ (m : Message) (rest : List Message), s.flying = m :: rest → (∀ n ∈ rest, n.id ≠ m.id) → s.recordsMessage m = false →
      (s.hasEntry m.dest m.fromHandler = false → exec (.messageArrival m.id) s = .next s) ∧
      (s.handlerWaits m.dest m = true → exec (.messageArrival m.id) s = .next s) ∧
      (s.hasEntry m.dest m.fromHandler = true → s.handlerWaits m.dest m = false → (∀ e ∈ s.migrations, e.2.pulling = false) →
        s.handlerPc m.dest m ≠ none → ∃ t, exec (.messageArrival m.id) s = .next t ∧ t.flying = rest ∧
        (t.core m.dest).msgs = (s.core m.dest).msgs ++ [m] ∧ (∀ c, c ≠ m.dest → t.core c = s.core c) ∧ t = { s with
          flying := t.flying
          cores := t.cores }) ∧
      (∀ d produced, s.hasEntry m.dest m.fromHandler = true → s.handlerPc m.dest m = none → QueueOpen s m.asid d produced →
        ∃ t, exec (.messageArrival m.id) s = .next t ∧
        t.flying = rest ∧ (t.core m.dest).msgs = (s.core m.dest).msgs ∧ RecordStored t m.asid 8 d produced [m.dest, m.handler, m.core])) ∧
    (∀ core m rest pc slot, (s.core core).msgs = m :: rest → s.handlerPc core m = some pc → s.freeSlot = some slot →
      s.handlerWaits core m = false → (∀ e ∈ s.migrations, e.2.pulling = false) →
      (s.blocks.filter (fun p => p.2.core = core && p.2.handler)).length < 4 → (s.die (dieOf core)).state = 0 →
      ∃ t, exec (.handlerSpawn core) s = .next t ∧ (t.core core).msgs = rest ∧ HandlerStarts t core slot m pc s.nextBid ∧
        (t.board slot).interval = 0 ∧ (t.board slot).state = 1 ∧ ∀ k, k ≠ gangId s.nextBid 0 → t.gang? k = s.gang? k) ∧
    (∀ asid ticket, exec (.resumeDiscarded asid ticket) s = .next s ∧
      (s.record? asid ticket = none ∨ s.link = .down → ∀ i, i = .resumeRetry asid ticket ∨ i = .resumeRefuse asid ticket ∨ i = .resumeEnd asid ticket →
        exec i s = .next s) ∧
      (s.record? asid ticket ≠ none → s.link ≠ .down → ∀ i f, (i = .resumeRetry asid ticket ∧ f = fun _ _ => Park.resource) ∨
          (i = .resumeRefuse asid ticket ∧ f = fun va lanes => Park.refused va lanes) →
        ∃ t, exec i s = .next t ∧ t.record? asid ticket = none ∧ Answered s t asid ticket f ∧ t = { s with
          transRecs := t.transRecs
          gangs := t.gangs
          cores := t.cores }) ∧
      (s.record? asid ticket ≠ none → s.link ≠ .down → ∃ t, exec (.resumeEnd asid ticket) s = .next t ∧ t.record? asid ticket = none ∧
        (∀ k g b p x va lanes y, (k, g) ∈ s.gangs → s.block? g.bid = some b → b.asid = asid → (p, x) ∈ g.tree.splits →
          x.park = .translation ticket va lanes → s.team? b.team = some y → ∃ z, t.team? b.team = some z ∧ z.state = .ending) ∧
        (∀ core c b y, (core, c) ∈ s.cores → (∃ x ∈ c.copies, x.ticket = some ticket ∧ s.block? x.bid = some b) ∨
            (∃ o ∈ c.fifo, o.ticket = some ticket ∧ s.block? o.bid = some b) → b.asid = asid → s.team? b.team = some y →
          ∃ z, t.team? b.team = some z ∧ z.state = .ending) ∧
        (∀ core b, (∀ x ∈ (t.core core).copies, s.block? x.bid = some b → b.asid = asid → x.ticket ≠ some ticket) ∧
          ∀ o ∈ (t.core core).fifo, s.block? o.bid = some b → b.asid = asid → o.ticket ≠ some ticket) ∧
        t = { s with
          transRecs := t.transRecs
          cores := t.cores
          teams := t.teams })) ∧
    (∀ entry m, Tab.look s.migrations entry = some m → m.pulling = true →
      ((∀ i < migSize m.size / 128, s.pulled m i = true) → ∃ t, exec (.migrationFiller entry) s = .next t ∧
        Tab.look t.migrations entry = none ∧
        ((isHbm m.done = true ∧ ∀ l ∈ linesTouched m.done 4, s.unpulled l = false ∧ s.lineWaits l = false) ∨
            (isCellar m.done = true ∧ s.link ≠ .down) →
          (∀ j < 4, Memory.byte? t.mem (m.done + j) = some (if j = 0 then 1 else 0)) ∧
          ∀ a, a < m.done ∨ m.done + 4 ≤ a → Memory.byte? t.mem a = Memory.byte? s.mem a) ∧
        (isPeer m.done = true → s.routed (peerOf m.done) = true → t.mem = s.mem ∧
          t.peerPosted = s.peerPosted ++ [(peerOf m.done, m.done, bytesOf 4 1)])) ∧
      (∀ i, s.fillLines m = [i] → i < migSize m.size / 128 → s.pulled m i = false →
        let old := m.oldPa / 128 + i
        let new := m.newPa / 128 + i
        let at_ := m.bitmap + i / 8
        s.holdsLine new = true → old ≠ new → at_ / 128 ≠ new → isStashKey (new * 128) = false → ∃ t, exec (.migrationFiller entry) s = .next t ∧
          t.pulled m i = true ∧ (∀ k < 128, Memory.byte? t.mem (new * 128 + k) = Memory.byte? s.mem (old * 128 + k)) ∧
          ∀ a, a ≠ at_ → a / 128 ≠ new → Memory.byte? t.mem a = Memory.byte? s.mem a))

/-! ### The host link and the peers (R286, R295, R447 to R455, R467, R472, R475) -/

/-- R451 to R453, R455, R472: a write from outside waits at the I/O die in pieces of at most a doubleword, behind earlier ones of
its link, save with relaxed ordering; a longer one of the host is several, each of at most 4,096 bytes, and one for which there is no
credit waits in the host (R474); a write that leaves the window is discarded, and reported; an acknowledged route stands in memory.
Where a write is cut is a choice of the model (log entry 76). -/
def Obligations.InboundWrites : Prop :=
  ∀ (s : State) (pa : Nat) (data : List Byte),
    (data ≠ [] → s.recording = false → ∀ i source relaxed,
      (i = .inboundWrite pa relaxed data ∧ source = none ∧ s.link ≠ .down ∧ data.length ≤ 4096 ∧ s.hostHeld = [] ∧ s.credit = true) ∨
        (∃ peer, i = .remoteWriteArrival peer pa data ∧ source = some peer ∧ relaxed = false) →
      (2 ^ 39 < pa + data.length → exec i s = .next (match source with
        | some _ => s
        | none => { s with unsupported := s.unsupported + 1 })) ∧
      (pa + data.length ≤ 2 ^ 39 → ∃ t x xs, exec i s = .next t ∧ t.inbound = xs ++ [x] ∧
        xs.map (fun e => (e.id, e.parts, e.spans)) = s.inbound.map (fun e => (e.id, e.parts, e.spans)) ∧
        x.id = s.nextId ∧ x.source = source ∧ x.relaxed = relaxed ∧ x.spoiled = [] ∧ x.parts.flatMap Prod.snd = data ∧
        (x.parts.flatMap (fun p => (List.range p.2.length).map (fun k => p.1 + k)) = (List.range data.length).map (fun k => pa + k)) ∧
        x.base = pa ∧ (∀ p ∈ x.parts, p.2 ≠ [] ∧ p.1 % 8 + p.2.length ≤ 8) ∧ (∀ k, k ∈ x.spans ↔ ∃ p ∈ x.parts, spanOfPa p.1 = k) ∧
        (x.sent = true ↔ (∀ e ∈ s.inbound, e.source ≠ source) ∨ relaxed = true) ∧ t = { s with
            nextId := s.nextId + 1
            inbound := t.inbound })) ∧
    (s.link ≠ .down → s.recording = false → s.hostHeld = [] → s.inbound = [] → 4096 < data.length → data.length ≤ 8192 →
      pa + data.length ≤ 2 ^ 39 → ∀ relaxed, ∃ t x y, exec (.inboundWrite pa relaxed data) s = .next t ∧ t.inbound = [x, y] ∧
        x.base = pa ∧ x.parts.flatMap Prod.snd = data.take 4096 ∧ x.sent = true ∧
        y.base = pa + 4096 ∧ y.parts.flatMap Prod.snd = data.drop 4096 ∧ y.sent = relaxed) ∧
    (s.link ≠ .down → data ≠ [] → data.length ≤ 4096 → pa + data.length ≤ 2 ^ 39 → s.hostHeld = [] → s.credit = false → ∀ relaxed,
      exec (.inboundWrite pa relaxed data) s = .next { s with hostHeld := [.write pa relaxed data] }) ∧
    (∀ x span, s.inbound = [x] → x.sent = true → x.spans = [span] → x.spoiled = [] → x.parts = partsOf pa data → (∀ p ∈ x.parts, spanOfPa p.1 = span) →
      (∀ l ∈ linesTouched pa data.length, s.holdsLine l = true ∧
        ∀ e ∈ Tab.getD s.slices (setKey l) [], e.holds l = true → e.second = none) →
      (∀ m ∈ s.migrations, m.2.pulling = false) → s.hostHeld = [] → ∃ t, exec (.inboundRouteAck x.id span) s = .next t ∧ t.inbound = [] ∧
        (∀ a, Memory.byte? t.mem a = if pa ≤ a ∧ a < pa + data.length then data[a - pa]? else Memory.byte? s.mem a) ∧
        (∀ w, coversWord pa data.length w = true → (t.mark w).poison = false) ∧ t.cores = s.cores ∧ t.gangs = s.gangs) ∧
    (∀ x span, s.inbound.find? (fun y => y.id = x.id) = some x → x.sent = false → exec (.inboundRouteAck x.id span) s = .next s)

/-- R447, R448, R450, R452, R467, R475: a read of BAR2 returns what the homes hold, and waits behind the host's writes; the link comes up
in one of its modes and goes down with ERRSTAT.LINK; a write of 1 clears a bit of ERRSTAT; a snooped write lands in memory, and takes the line's data out of
its slice on the coherent mapping. -/
def Obligations.HostLink : Prop :=
  ∀ (s : State) (a n : Nat),
    (s.link ≠ .down → a + n ≤ 2 ^ 39 →
      s.hostHeld = [] → (∀ m ∈ s.migrations, m.2.pulling = false) →
      let answers := fun (t : State) => exec (.hostBar2Read a n) s = .next t ∧ t.bar2Read.length = n ∧
        (∀ (k : Nat) (v : Byte), k < n → Memory.byte? s.mem (a + k) = some v → t.bar2Read[k]? = some v) ∧ t.mem = s.mem ∧
        t.cores = s.cores ∧ t.gangs = s.gangs
      ((∃ x ∈ s.inbound, x.source = none ∧ x.id < s.nextId) →
        exec (.hostBar2Read a n) s = .next { s with hostHeld := [.read s.nextId a n] }) ∧
      ((∀ x ∈ s.inbound, x.source ≠ none) →
        ((∀ l ∈ linesTouched a n, s.holdsLine l = true) → ∃ t, answers t ∧ t = { s with
          bar2Read := t.bar2Read
          dies := t.dies }) ∧
        (∀ l, linesTouched a n = [l] → (s.stack (stackOf l)).retraining = false →
          s.resident l = true ∨ (Tab.getD s.slices (setKey l) []).length < 16 → ∃ t, answers t ∧ t.holdsLine l = true) ∧
        (∀ l, linesTouched a n = [l] → isHbm (l * 128) = true → (s.stack (stackOf l)).retraining = true → s.holdsLine l = false →
          exec (.hostBar2Read a n) s = .next { s with hostHeld := [.read s.nextId a n] }))) ∧
    (isCellar a = true → isCellar (a + n - 1) = true →
      (∃ t, exec (.hostSnoop a n none) s = .next t ∧ t.bar2Read.length = n ∧
        (∀ (k : Nat) (v : Byte), k < n → Memory.byte? s.mem (a + k) = some v → t.bar2Read[k]? = some v) ∧ t = { s with bar2Read := t.bar2Read }) ∧
      (∀ data : List Byte, data.length = n → (∀ w ∈ wordsTouched a n, w ∉ s.narrow) → ∃ t, exec (.hostSnoop a n (some data)) s = .next t ∧
        (∀ k, Memory.byte? t.mem k = if a ≤ k ∧ k < a + n then data[k - a]? else Memory.byte? s.mem k) ∧
        (s.link ≠ .coherent → t = { s with mem := t.mem }) ∧
        (s.link = .coherent → ∀ l ∈ linesTouched a n,
          (∀ e ∈ Tab.getD s.slices (setKey l) [], e.line = l → e.second ≠ some l) → t.holdsLine l = false) ∧ t = { s with
            mem := t.mem
            slices := t.slices
            marks := t.marks
            hollow := t.hollow })) ∧
    (∀ coherent mode, (s.linkMode = some mode ∨ (s.linkMode = none ∧ mode = if coherent then .coherent else .fallback)) →
      exec (.linkUp coherent) s = .next (if s.link = .down then { s with
        link := mode
        linkMode := some mode } else s)) ∧
    (s.link = .down → exec .linkDown s = .next s) ∧
    (s.link ≠ .down → ∃ t, exec .linkDown s = .next t ∧ t.link = .down ∧ t.errstat.testBit 5 = true ∧
      (∀ k, k ≠ 5 → t.errstat.testBit k = s.errstat.testBit k) ∧ t.msix0 = (if s.errstat.testBit 5 then s.msix0 else s.msix0 + 1) ∧ t = { s with
        link := .down
        hostHeld := []
        errstat := t.errstat
        msix0 := t.msix0 }) ∧
    (s.link ≠ .down → ∀ value, ∃ t, exec (.errstatWrite value) s = .next t ∧
      (∀ k < 9, t.errstat.testBit k = (s.errstat.testBit k && !value.testBit k)) ∧ (∀ k, 9 ≤ k → t.errstat.testBit k = false) ∧
      t = { s with errstat := t.errstat })

/-- R286, R295, R454, R455: an atomic from a peer is applied once, and answered from the window of 64 when it comes again; the
requester's copy is answered or has expired; a lost frame is sent again on a port of its peer's route; an I/O die's entry has ports of
that die; a route that goes takes its pending writes with it. That a frame's number names its peer in its low twelve bits is a choice
of the model (log entry 76). -/
def Obligations.Peers : Prop :=
  ∀ (s : State),
    (∀ peer seq replay pa n op x y old, n = 4 ∨ n = 8 → op ≤ 12 → old < 2 ^ (8 * n) → x < 2 ^ (8 * n) → y < 2 ^ (8 * n) →
      let w := Tab.getD s.replayWindows peer ⟨[], []⟩
      let seen := seq ∈ w.window.map Prod.fst ∨ seq ∈ w.older
      (replay = true → seen → exec (.remoteAtomicArrival peer seq replay pa n op x y) s = .next s) ∧
      (replay = false ∨ ¬ seen → pa + n ≤ 2 ^ 39 → s.canRead pa n = true → w.window.length ≤ 64 →
        (∀ j < n, Memory.byte? s.mem (pa + j) = some (BitVec.ofNat 8 (old / 2 ^ (8 * j)))) →
        (∀ l ∈ linesTouched pa n, s.holdsLine l = true) → (∀ m ∈ s.migrations, m.2.pulling = false) →
        ∃ t v, exec (.remoteAtomicArrival peer seq replay pa n op x y) s = .next t ∧
          v = (if op = 12 then (if old = x then y else old) else atomLeaves op n old x) ∧
          (∀ j < n, Memory.byte? t.mem (pa + j) = some (BitVec.ofNat 8 (v / 2 ^ (8 * j)))) ∧
          (∀ a, a < pa ∨ pa + n ≤ a → Memory.byte? t.mem a = Memory.byte? s.mem a) ∧
          ∃ z, Tab.look t.replayWindows peer = some z ∧ z.window.length ≤ 64 ∧ (seq, old) ∈ z.window ∧
            (∀ e ∈ w.window, e ∈ z.window ∨ e.1 ∈ z.older) ∧ ∀ k, k ≠ peer → Tab.look t.replayWindows k = Tab.look s.replayWindows k)) ∧
    (∀ bid n place g b x d width uniform counts (before after : List RemoteReq) q, s.gang? (gangId bid n) = some g →
      s.block? bid = some b → Tab.look g.tree.splits place = some x →
      x.park = .remote d width uniform counts (before ++ q :: after) → (∀ r ∈ before, r.answer ≠ none) → q.answer = none →
      let gid := gangId bid n
      let held := fun (e : Option Nat) => { x with park := .remote d width uniform counts (before ++ { q with answer := some e } :: after) }
      let good := fun (r : RemoteReq) => ∃ v, r.answer = some (some v)
      ((∃ r ∈ after, r.answer = none) →
        (∃ t, exec (.remoteAtomicRetry bid n place true) s = .next t ∧ Replaces s t gid g place (held none)) ∧
        ∃ t v, exec (.remoteAtomicRetry bid n place false) s = .next t ∧ v < 2 ^ (32 * width) ∧ Replaces s t gid g place (held (some v))) ∧
      ((∀ r ∈ before ++ after, good r) →
        (g.pending = none → ∃ u, Replaces s u gid g place (x.retried (s.cycle b.core)) ∧ exec (.remoteAtomicRetry bid n place true) s =
          .next (u.takeTrap gid ⟨0x0D, maskOf [q.lane] &&& x.mask, x.pc, BitVec.ofNat 64 q.va, BitVec.ofNat 64 q.seq, place⟩)) ∧
        ∃ t g', exec (.remoteAtomicRetry bid n place false) s = .next t ∧ t.gang? gid = some g' ∧
          Tab.look g'.tree.splits place = some (x.passed (s.cycle b.core)) ∧
          (∀ q, q ≠ place → Tab.look g'.tree.splits q = Tab.look g.tree.splits q) ∧
          (∀ k, (∀ p ∈ g.expand x.mask, k ∉ keysFrom (g.codeKey (g.bodyOf x.mask) 0 p d) width) →
            Tab.getD g'.regs k 0 = Tab.getD g.regs k 0) ∧
          (before = [] → after = [] → d + width ≤ 256 → ∃ v < 2 ^ (32 * width),
            ∀ p ∈ g.expand (if uniform then x.mask else maskOf [q.lane] &&& x.mask), ∀ j < width,
              Tab.getD g'.regs (g.codeKey (g.bodyOf x.mask) 0 p d + j) 0 = BitVec.ofNat 32 (v / 2 ^ (32 * j))) ∧
          (∀ k, k ≠ gid → t.gang? k = s.gang? k) ∧ (∀ c, ∃ n, t.core c = { s.core c with laneDeath := n }) ∧ t = { s with
            gangs := t.gangs
            teams := t.teams
            cores := t.cores })) ∧
    (∀ id port,
      let carries := ∃ r, Tab.look s.routes ((if port < 9 then 0 else 4096) + id % 4096) = some r ∧ port ∈ r.ports
      (carries → ∃ t, exec (.frameResend id port) s = .next t ∧ Tab.look t.framePorts id = some port ∧
        (∀ k, k ≠ id → Tab.look t.framePorts k = Tab.look s.framePorts k) ∧ t = { s with framePorts := t.framePorts }) ∧
      (¬ carries → exec (.frameResend id port) s = .next s)) ∧
    (∀ iodie peer acked, s.mgmtReset = false → peer < 4096 →
      let key := (if iodie = 13 then 4096 else 0) + peer
      let own := fun (p : Nat) => p < 18 ∧ (p < 9 ↔ iodie ≠ 13)
      let others := fun (t : State) => ∀ k, k ≠ key → Tab.look t.routes k = Tab.look s.routes k
      (∀ r, (∃ p ∈ r.ports, own p) → ∃ t z, exec (.routeTableWrite iodie peer (some r) acked) s = .next t ∧ Tab.look t.routes key = some z ∧
        z.address = r.address ∧ (∀ p, p ∈ z.ports ↔ p ∈ r.ports ∧ own p) ∧ others t ∧ t = { s with routes := t.routes }) ∧
      (∀ route : Option Route, (∀ r, route = some r → ∀ p ∈ r.ports, ¬ own p) → ∃ t, exec (.routeTableWrite iodie peer route acked) s = .next t ∧
        Tab.look t.routes key = route.map (fun r => { r with ports := [] }) ∧ others t ∧ t.mem = s.mem ∧
        (s.routed peer = true → t.routed peer = false →
          (∀ e ∈ t.peerPosted, e.1 ≠ peer) ∧
          (acked < (s.peerPosted.filter (fun w => w.1 = peer)).length → t.errstat.testBit 6 = true) ∧
          (∀ c, ∀ w ∈ (t.core c).peerWrites, w.1 ≠ peer) ∧
          ∀ c, (s.core c).peerDropped = none → acked < ((s.core c).peerWrites.filter (fun w => w.1 = peer)).length →
            (t.core c).peerDropped = (((s.core c).peerWrites.filter (fun w => w.1 = peer))[acked]?).map Prod.snd ∧ t.errstat.testBit 6 = true)))

/-! ### The management plane, power and errors (R19, R28 to R35, R61, R220, R222, R273, R457 to R466) -/

/-- R28, R32, R33, R35, R273, R462 to R464, R487: what the management controller does to queues, dies, fault queues, the ballast setpoint
and firmware; what the governor's test finds; what a power-up leaves. What a die's reset does to stashes, L1s and messages (log entry
80), that host memory and firmware outlive a power-up (83) and the form of a signed report (4) are choices of the model. -/
def Obligations.ManagementPlane : Prop :=
  ∀ (s : State),
    (s.mgmtReset = false → ∀ q, q < 128 → ∀ i h, (i = .mgmtQueueDisable q ∧ h = true) ∨ (i = .mgmtQueueEnable q ∧ h = false) →
      ∃ t, exec i s = .next t ∧ t.queue q = { s.queue q with mhold := h } ∧ (∀ k, k ≠ q → t.queue k = s.queue k) ∧
        t = { s with queues := t.queues }) ∧
    (s.mgmtReset = false → (∀ e ∈ s.blocks, e.2.bid = e.1) → ∀ die disable, die < 4 → ∃ t, exec (.mgmtDieReset die disable) s = .next t ∧
      (t.die die).state = (if disable then 2 else 1) ∧ (∀ k, k ≠ die → (t.die k).state = (s.die k).state) ∧
      (∀ e ∈ t.blocks, dieOf e.2.core ≠ die) ∧
      (∀ e ∈ s.blocks, dieOf e.2.core = die → ∀ y, s.team? e.2.team = some y → ∃ z, t.team? e.2.team = some z ∧ z.state = .ending) ∧
      (∀ core, dieOf core = die → (t.core core).l1 = [] ∧ (t.core core).msgs = [] ∧ (t.core core).copies = [] ∧
        ∀ off < 2 ^ 18, Memory.byte? t.mem (stashKey core off) = some 0) ∧
      (∀ a, isStashKey a = false → Memory.byte? t.mem a = Memory.byte? s.mem a) ∧ t.queues = s.queues ∧ t.tokens = s.tokens) ∧
    (s.mgmtReset = false → ∀ die, die < 4 → ∃ t, exec (.mgmtDieEnable die) s = .next t ∧ t.die die = { s.die die with state := 0 } ∧
      (∀ k, k ≠ die → t.die k = s.die k) ∧ t = { s with dies := t.dies }) ∧
    (s.mgmtReset = false → ∀ asid d, Tab.look s.identifiers asid = some d → ∃ t xs, exec (.mgmtFaultQueueRead asid) s = .next t ∧
      Tab.look t.faultsRead asid = some xs ∧ xs.length = 32 + 32 * d.fqsize ∧
      (∀ (k : Nat) (v : Byte), k < xs.length → Memory.byte? s.mem (d.fqbase + k) = some v → xs[k]? = some v) ∧
      t = { s with faultsRead := t.faultsRead }) ∧
    exec .mgmtControllerReset s = .next { s with mgmtReset := true } ∧
    exec .mgmtControllerResetRelease s = .next { s with mgmtReset := false } ∧
    (s.mgmtReset = false → (∀ value, exec (.ballastWrite value) s =
        .next (if 60 ≤ value ∧ value ≤ 100 then { s with ballast := value } else s)) ∧
      (∀ power, exec (.governorTest power) s = .next { s with
        governor := if power < 98 * s.ballast then 0 else if power ≤ 102 * s.ballast then 1 else 2 }) ∧
      (∀ request, ∃ t, exec (.spdmRequest request) s = .next t ∧ t = { s with
          spdmAnswered := s.spdmAnswered + 1
          spdmReport := t.spdmReport } ∧
        (request = 0 ∨ 4 < request → t.spdmReport = s.spdmReport) ∧
        (1 ≤ request → request ≤ 4 → ∃ r, t.spdmReport = some r ∧ r.block = request ∧
          r.config = (if request = 4 then some (s.link, (List.range 8).map (fun k => (s.stack k).rate), s.ballast) else none) ∧
          (request = 1 → r.measurement = Config.bootRom) ∧
          let key := Config.identityKey Config.fusedSecret Config.bootRom
          let hash := Config.transcript s.spdmAnswered request r.measurement
          r.certificates = Config.certificates key ∧ r.signature = Config.ecdsaP384 key hash ∧ r.lms = Config.lmsSign key hash))) ∧
    (∀ target version ecdsa lms, exec (.firmwareImageLoad target version ecdsa lms) s =
      .next (if ecdsa = true ∧ lms = true ∧ Config.fusedVersion ≤ version then { s with firmware := Tab.put s.firmware target version } else s)) ∧
    (∃ t, exec .powerUp s = .next t ∧ t = { State.reset with
        serial := s.serial
        agenda := s.agenda
        stimuli := s.stimuli
        firmware := s.firmware
        mem := t.mem } ∧
      ∀ a, Memory.byte? t.mem a = if isCellar a then Memory.byte? s.mem a else if isStashKey a then some 0 else none)

/-- R450, R459 to R461, R465, R466, R29: what a temperature sample does to its sensor, to ports, dies and refresh; how a die's clock
follows its hottest sensor; how a stack changes its rate, fails, and is reset. -/
def Obligations.TemperatureAndRates : Prop :=
  ∀ (s : State),
    (∀ sensor temp, sensor < 80 → ∃ t, exec (.sensorSample sensor temp false) s = .next t ∧
      Tab.look t.sensors sensor = some { Tab.getD s.sensors sensor Sensor.reset with valid := false } ∧ t = { s with sensors := t.sensors }) ∧
    (∀ sensor (temp : Int), sensor < 80 → -(2 ^ 15 : Int) ≤ temp → temp < 2 ^ 15 →
      let level := if 118 * 16 ≤ temp then 3 else if 108 * 16 ≤ temp then 2 else if 100 * 16 ≤ temp then 1 else 0
      ∃ t, exec (.sensorSample sensor temp true) s = .next t ∧ Tab.look t.sensors sensor = some ⟨temp, true, level⟩ ∧
        (∀ k, k ≠ sensor → Tab.look t.sensors k = Tab.look s.sensors k) ∧ (1 ≤ level → t.errstat.testBit 2 = true) ∧
        (level = 0 → t.errstat = s.errstat) ∧
        (sensor < 64 → t = { s with
          sensors := t.sensors
          errstat := t.errstat
          msix0 := t.msix0 }) ∧
        (64 ≤ sensor → sensor < 72 → let io := 12 + (sensor - 64) / 4
          (io ∈ t.ioRateHalved ↔ ∃ i < 4, let x := Tab.getD t.sensors (64 + (io - 12) * 4 + i) Sensor.reset
            x.valid = true ∧ 2 ≤ x.level) ∧
          (level = 3 → t.errstat.testBit 4 = true ∧ (∀ d < 4, (t.die d).state = 1) ∧ ∀ k < 2, Tab.look t.ioStates k = some 1)) ∧
        (72 ≤ sensor → let old := (s.stack (sensor - 72)).refresh
          let row := if temp < 85 * 16 then 0 else if temp < 95 * 16 then 1 else if temp ≤ 105 * 16 then 2 else 3
          (t.stack (sensor - 72)).refresh =
            if old ≤ row then row else if temp ≤ (85 + 10 * (row : Int)) * 16 - 32 then row else min old (row + 1))) ∧
    (∀ die i, die < 4 → i < 16 →
      let x := fun (j : Nat) => Tab.getD s.sensors (die * 16 + j) Sensor.reset
      let c := (s.die die).pendingClock.getD (s.die die).clock
      let turns := fun (u : State) (n : Nat) => (u.die die).pendingClock.getD (u.die die).clock = n ∧ (u.die die).clock = (s.die die).clock
      (x i).valid = true → (∀ j < 16, (x j).valid = true → (x j).temp ≤ (x i).temp) → ∃ t, exec (.thermalDecision die) s = .next t ∧
        (118 * 16 ≤ (x i).temp → t.errstat.testBit 4 = true ∧ (t.die die).state = 1) ∧
        (108 * 16 ≤ (x i).temp → (x i).temp < 118 * 16 → turns t (max (c - 1) 6) ∧ t.errstat.testBit 3 = true) ∧
        (104 * 16 < (x i).temp → (x i).temp < 108 * 16 → t = s) ∧
        ((x i).temp ≤ 104 * 16 → turns t (min (c + 1) 12) ∧ t.errstat = s.errstat) ∧
        ((x i).temp < 118 * 16 → ∀ k, k ≠ die → t.die k = s.die k)) ∧
    (∀ die, ∃ t, exec (.clockChange die) s = .next t ∧ t.die die = { s.die die with
        clock := (s.die die).pendingClock.getD (s.die die).clock
        pendingClock := none } ∧ (∀ k, k ≠ die → t.die k = s.die k) ∧ t = { s with dies := t.dies }) ∧
    (∀ k, k < 8 → let x := s.stack k
      let streams := ∃ e ∈ s.teams, e.2.state = .saving ∧ s.clock < e.2.deadline ∧ s.streamsInto e.2 k = true
      let after := fun (i : Instr) (y : Stack) => ∃ t, exec i s = .next t ∧ t.stack k = y ∧ (∀ j, j ≠ k → t.stack j = s.stack j) ∧
        t = { s with hbm := t.hbm }
      (∀ rate, s.mgmtReset = false → rate < 3 → x.state ≠ 3 →
        (x.retraining = true ∨ x.deferred ≠ none → after (.hbmRateChange k rate) { x with pendingRate := some rate }) ∧
        (x.retraining = false → x.deferred = none → streams → after (.hbmRateChange k rate) { x with
          pendingRate := some rate
          deferred := some s.clock
          rtdefer := satAdd 32 x.rtdefer 1 }) ∧
        (x.retraining = false → x.deferred = none → ¬ streams → after (.hbmRateChange k rate) { x with
          pendingRate := some rate
          retraining := true })) ∧
      (∀ c, x.deferred = some c → (¬ streams ∨ c + 2000000 ≤ s.clock → after (.retrainingDeferralExpiry k) { x with
          deferred := none
          retraining := true }) ∧ (streams → s.clock < c + 2000000 → exec (.retrainingDeferralExpiry k) s = .next s)) ∧
      (x.retraining = true → s.heldWrites = [] → s.hostHeld = [] → (∀ rate, x.pendingRate = some rate → after (.hbmRetrainDone k 0) { x with
          retraining := false
          pendingRate := none
          rate := rate }) ∧
        after (.hbmRetrainDone k 1) { x with
          retraining := false
          pendingRate := none } ∧
        ∃ t, exec (.hbmRetrainDone k 2) s = .next t ∧ t.stack k = { x with
            retraining := false
            pendingRate := none
            state := 3 } ∧ t.errstat.testBit 7 = true) ∧
      (∀ pa bs outcome, x.retraining = true → outcome < 2 → s.heldWrites = [(pa, bs)] → s.hostHeld = [] → pa + bs.length ≤ 2 ^ 39 → isHbm pa = true →
        (∀ e ∈ s.hbm, e.1 ≠ k → e.2.retraining = false) → (∀ m ∈ s.migrations, m.2.pulling = false) →
        ∃ t, exec (.hbmRetrainDone k outcome) s = .next t ∧ t.heldWrites = [] ∧
          ∀ a, Memory.byte? t.mem a = if pa ≤ a ∧ a < pa + bs.length then bs[a - pa]? else Memory.byte? s.mem a) ∧
      (s.mgmtReset = false → s.heldWrites = [] → s.hostHeld = [] → ∃ t, exec (.hbmStackReset k) s = .next t ∧ t.stack k = { x with
          state := 0
          retraining := false
          pendingRate := none
          deferred := none } ∧
        (∀ a, isHbm a = true → stackOf (a / 128) = k → s.holdsLine (a / 128) = false → Memory.byte? t.mem a = none) ∧
        (∀ a, isHbm a = false ∨ stackOf (a / 128) ≠ k ∨ s.holdsLine (a / 128) = true → Memory.byte? t.mem a = Memory.byte? s.mem a) ∧
        (∀ line, stackOf line = k → Tab.getD t.side line 0 = 0) ∧ t.gangs = s.gangs))

/-- R61, R220, R222, R223, R457, R458: an uncorrectable error poisons its word; a parity error spoils an inbound write, or the next read
from the cellar; an error in a gang's state kills every live lane, as sixteen squashes in a row of one instruction do. -/
def Obligations.HardwareErrors : Prop :=
  ∀ (s : State),
    (∀ pa, isStashKey pa = true ∨ ((isHbm pa = true ∨ isCellar pa = true) ∧ s.holdsLine (pa / 128) = true) →
      ∃ t, exec (.memoryPoison pa) s = .next t ∧ (t.mark (pa / 4)).poison = true ∧ (t.mark (pa / 4)).w = (s.mark (pa / 4)).w ∧
        t.mem = s.mem ∧ t.gangs = s.gangs ∧ t.cores = s.cores) ∧
    (∀ id offset, (∀ x, s.inbound = [x] → x.id = id → ∃ t, exec (.ioParityError id offset) s = .next t ∧
        t.errstat.testBit 8 = true ∧ t.inbound = [{ x with spoiled := x.spoiled ++ [(x.base + offset) / 4] }] ∧ t.parityRead = s.parityRead) ∧
      ((∀ x ∈ s.inbound, x.id ≠ id) → ∃ t, exec (.ioParityError id offset) s = .next t ∧ t.errstat.testBit 8 = true ∧
        t.inbound = s.inbound ∧ t.parityRead = true)) ∧
    (∀ bid n g b, s.gang? (gangId bid n) = some g → s.block? g.bid = some b → g.ended = false →
      let dies := fun (i : Instr) => ∃ t g', exec i s = .next t ∧ t.gang? (gangId bid n) = some g' ∧ g'.ended = true ∧
        (∀ p ∈ g.expand g.live, g'.dmask.getLsbD p = true) ∧
        (g.bad = [] → (t.core b.core).laneDeath = satAdd 32 (s.core b.core).laneDeath (g.expand g.live).length)
      dies (.gangStateError bid n) ∧
      (∀ x place, s.block? bid = some b → Tab.look g.tree.splits place = some x → g.prot = true →
        (x.squash < 15 →
          ∃ t tr, exec (.scoreboardSquash bid n place) s = .next t ∧ t.gang? (gangId bid n) = some { g with tree := tr } ∧
            (∀ q, Tab.look tr.splits q = if q = place then some { x with squash := x.squash + 1 } else Tab.look g.tree.splits q) ∧
            tr.recs = g.tree.recs ∧ t.core b.core = { s.core b.core with squash := satAdd 32 (s.core b.core).squash 1 } ∧
            (∀ k, k ≠ gangId bid n → t.gang? k = s.gang? k) ∧ t = { s with
              gangs := t.gangs
              cores := t.cores }) ∧
        (x.squash = 15 → dies (.scoreboardSquash bid n place))))

/-! ### Encoding, the step and the whole machine (R19, R64 to R92, R239, R248, R331, R450, R459, R462, R487) -/

/-- R72, R73, R249: some words, written out from the encoding tables, and the instructions that they are. -/
def Obligations.DecodeWords : Prop :=
  decodeSlot 0x00010203 .none = .ok (.add 1 2 (.reg 3)) ∧
  decodeSlot 0x80040500 (.l32 7) = .ok (.uAdd 4 5 (.lit32 7)) ∧
  decodeSlot 0x26060810 .none = .ok (.setltI64 6 8 (.reg 16)) ∧
  decodeSlot 0x2E050702 .none = .ok (.lred 5 7 2) ∧
  decodeSlot 0x56040883 .none = .ok (.cvt 4 8 true 0 3) ∧
  decodeSlot 0x60040800 (.l32 0x00100100) = .ok (.ld 4 8 ⟨16, 0, 0, 2, 0, 0⟩) ∧
  decodeSlot 0x76060022 .none = .ok (.swrite 6 0x22) ∧
  decodeSlot 0xA0FFF002 .none = .ok (.bra 0xFFF 2) ∧
  decodeSlot 0xB3000003 .none = .ok (.fence 3) ∧
  decodeSlot 0xC1102040 .none = .ok (.mma 0x10 0x20 0x40) ∧
  decodeSlot 0xD0040810 .none = .ok (.copy 4 8 0x10) ∧
  decodeSlot 0xF1040800 .none = .ok (.locq 4 8) ∧
  decodeSlot 0x60040800 .none = .error .literalMissing ∧
  (∃ e, decodeSlot 0xFF000000 .none = .error e) ∧ ∃ e, decodeSlot 0xF7000001 .none = .error e

/-- R64 to R75: decoding the word and the literal of a well-formed instruction gives that instruction; every instruction has a word but
the events of the package, and two instructions have not the same one. -/
def Obligations.RoundTrip : Prop :=
  (∀ i w lit, i.wellFormed = true → encode i = some (w, lit) → decodeSlot w lit = .ok i) ∧
  (∀ i, i.isEvent = false ↔ ∃ w lit, encode i = some (w, lit)) ∧
  ∀ i j w lit, i.wellFormed = true → j.wellFormed = true → encode i = some (w, lit) → encode j = some (w, lit) → i = j

/-- R64 to R69, R86 (the order of steps is log entry 6): while a split is selected to issue, a step executes the instruction that its
slot holds; where the split has not entered the packet yet, that is what the bytes at its PC decode to. R72, R73, R8: a step of a split
whose slot holds a word that is no instruction raises cause 0x01; with nobody selected, an event that other agents bring happens once
its time has come (log entry 6). -/
def Obligations.StepRunsDecoded : Prop :=
  (∀ (s : State) (bid n place : Nat) (g : Gang) (b : Block) (x : Split) (i : Instr), s.issue = some ⟨bid, n, .split place⟩ →
    s.gang? (gangId bid n) = some g → s.block? bid = some b → Tab.look g.tree.splits place = some x → x.squash = 0 →
    let sc : State := { s with serial := s.serial + 1 }
    let runs := fun (u : State) => (∀ t, exec i u = .next t → step s = .next { t with issue := none }) ∧
      (∀ f, exec i u = .fault f → step s = .fault f) ∧ ∀ r, exec i u = .refused r → step s = .refused r
    let counted := fun (u : State) => (∀ k, u.core k = { sc.core k with
        issued := (u.core k).issued
        slotCycle := (u.core k).slotCycle
        slots := (u.core k).slots
        tlb := (u.core k).tlb }) ∧
      (u.core b.core).issued = (if x.again then (s.core b.core).issued else ((s.core b.core).issued + 1) % 2 ^ 64) ∧
      u = { sc with
        gangs := u.gangs
        cores := u.cores
        clusterTlbs := u.clusterTlbs
        dies := u.dies }
    (∀ p, x.packet = some p → decodeSlot (p.word (pcSlot x.pc)) (p.lit (pcSlot x.pc)) = .ok i →
      ∃ u, runs u ∧ counted u ∧ u.gangs = s.gangs) ∧
    (∀ pa attr hold (p : Packet), x.packet = none →
      sc.reachGlobal ⟨b.asid, b.core, b.bid, g.system⟩ ⟨false, false, true⟩ (pcBase x.pc).toNat = .at_ (.hbm pa attr) hold false →
      (pcBase x.pc).toNat < 2 ^ 57 → inLocal (pcBase x.pc).toNat = false → inWindow (pcBase x.pc).toNat = false → p.base = pcBase x.pc →
      (∀ j < 4, Memory.byte? s.mem (pa + j) = some (BitVec.ofNat 8 (p.w0.toNat / 2 ^ (8 * j)))) →
      (∀ j < 4, Memory.byte? s.mem (pa + 4 + j) = some (BitVec.ofNat 8 (p.w1.toNat / 2 ^ (8 * j)))) →
      (∀ j < 4, Memory.byte? s.mem (pa + 8 + j) = some (BitVec.ofNat 8 (p.w2.toNat / 2 ^ (8 * j)))) →
      (∀ j < 4, Memory.byte? s.mem (pa + 12 + j) = some (BitVec.ofNat 8 (p.w3.toNat / 2 ^ (8 * j)))) →
      (∀ m ∈ s.migrations, m.2.pulling = false) → Tab.getD s.rewritten (pa / 16) [] = [] → p.badSlot = none → pcBadBits x.pc = false → literalSlot p.kind (pcSlot x.pc) = false →
      decodeSlot (p.word (pcSlot x.pc)) (p.lit (pcSlot x.pc)) = .ok i →
      ∃ u, runs u ∧ counted u ∧ (∀ k, k ≠ gangId bid n → u.gang? k = s.gang? k) ∧
        ∃ tr, u.gang? (gangId bid n) = some { g with tree := tr } ∧ tr.recs = g.tree.recs ∧
          ∀ q, Tab.look tr.splits q = if q = place then some { x with packet := some p } else Tab.look g.tree.splits q)) ∧
  ∀ (s : State),
    (∀ bid n place g b x p e, s.issue = some ⟨bid, n, .split place⟩ → s.gang? (gangId bid n) = some g → s.block? bid = some b →
      Tab.look g.tree.splits place = some x → x.packet = some p → x.squash = 0 →
      decodeSlot (p.word (pcSlot x.pc)) (p.lit (pcSlot x.pc)) = .error e → ∃ u : State, u.gangs = s.gangs ∧ u.mem = s.mem ∧ u.blocks = s.blocks ∧
        step s = .next { u.takeTrap (gangId bid n) ⟨1, x.mask, x.pc, 0, 0, place⟩ with issue := none }) ∧
    (∀ time i rest, s.issue = none → s.agenda = (time, i) :: rest → time ≤ s.time → i.isEvent = true → step s = exec i { s with
      serial := s.serial + 1
      agenda := rest }) ∧
    (∀ time i rest, s.issue = none → s.agenda = (time, i) :: rest → time ≤ s.time → i.isEvent = false → step s = .next { s with
      serial := s.serial + 1
      agenda := rest }) ∧
    (∀ time x rest, s.issue = none → (∀ e ∈ s.agenda.head?, s.time < e.1) → s.stimuli = (time, x) :: rest → time ≤ s.time →
      step s = stimulate x { s with
        serial := s.serial + 1
        stimuli := rest })

/-- R237, R239, R487: every step keeps memory in its one form: rising addresses, and no stash byte listed as zero. -/
def Obligations.MemoryForm : Prop :=
  ∀ (s t : State), MemoryKept s → step s = .next t → MemoryKept t

/-- R19, R248, R331, R346, R450, R459, R462, R487: what a power-up leaves: no gang, block or team; the whole pool serves as L1; queues are
unbound and empty; errors, sensors and trace registers are clear; every die and stack is online; BALLAST holds 80; no word of memory has a
value, a mark or poison; and memory is in its one form. -/
def Obligations.ResetState : Prop :=
  let r := State.reset
  MemoryKept r ∧ r.gangs = [] ∧ r.blocks = [] ∧ r.teams = [] ∧ (∀ a < 2 ^ 60, Memory.byte? r.mem a = none) ∧
  (∀ w, r.mark w = ⟨none, none, none, false⟩) ∧ (∀ line, Tab.getD r.side line 0 = 0) ∧ (∀ slot, r.board slot = ⟨0, 0, 0⟩) ∧
  (∀ c, (r.core c).bndreg = 0 ∧ (r.core c).bndstash = 0 ∧ (r.core c).bndcache = 0x40000 ∧ (r.core c).l1 = [] ∧
    (r.core c).trace.base = 0 ∧ (r.core c).trace.size = 0 ∧ (r.core c).trace.wp = 0 ∧ (r.core c).trace.rp = 0) ∧
  (∀ q, let x := r.queue q
    x.en = false ∧ x.ovr = false ∧ x.bound = none ∧ x.asid = 0 ∧ x.packets = [] ∧ x.mhold = false ∧ x.cmderr = false) ∧
  r.errstat = 0 ∧ (∀ k, Tab.getD r.sensors k Sensor.reset = ⟨0, false, 0⟩) ∧ r.ballast = 80 ∧
  (∀ d, (r.die d).state = 0) ∧ ∀ k, (r.stack k).state = 0
end

