-- ==== Sys2Proof/Laws/Encoding.lean ====
section
/-!
SUPPORT. Laws/Encoding.lean: the bytes of an instruction word come back as they were packed.
-/

namespace Sys2Proof

@[simp] theorem opField_pack (op d a b : BitVec 8) : opField (pack op d a b) = op := by
  apply BitVec.eq_of_getLsbD_eq; intro i hi
  simp [opField, pack, hi]; grind
@[simp] theorem dField_pack (op d a b : BitVec 8) : dField (pack op d a b) = d := by
  apply BitVec.eq_of_getLsbD_eq; intro i hi
  simp [dField, pack, hi]; grind
@[simp] theorem aField_pack (op d a b : BitVec 8) : aField (pack op d a b) = a := by
  apply BitVec.eq_of_getLsbD_eq; intro i hi
  simp [aField, pack, hi]; grind
@[simp] theorem bField_pack (op d a b : BitVec 8) : bField (pack op d a b) = b := by
  apply BitVec.eq_of_getLsbD_eq; intro i hi
  simp [bField, pack, hi]; grind

@[simp] theorem imm16_imm (m : BitVec 16) : imm16 (immHi m) (immLo m) = m := by
  apply BitVec.eq_of_getLsbD_eq; intro i hi
  simp [imm16, immHi, immLo]; grind
@[simp] theorem jHi_j (t j : BitVec 12) : jHi (jA t) (jB t j) = t := by
  apply BitVec.eq_of_getLsbD_eq; intro i hi
  simp [jHi, jA, jB]; grind
@[simp] theorem jLo_j (t j : BitVec 12) : jLo (jB t j) (jC j) = j := by
  apply BitVec.eq_of_getLsbD_eq; intro i hi
  simp [jLo, jB, jC]; grind
@[simp] theorem jB_low (t : BitVec 12) : (jB t 0#12).extractLsb' 0 4 = 0#4 := by
  apply BitVec.eq_of_getLsbD_eq; intro i hi
  simp [jB]; grind
@[simp] theorem access_word (x : Access) : Access.ofWord x.word = x := by
  obtain ⟨o, l, s, z, h, p⟩ := x
  simp only [Access.ofWord, Access.word, Access.mk.injEq]
  refine ⟨?_, ?_, ?_, ?_, ?_, ?_⟩ <;>
    (apply BitVec.eq_of_getLsbD_eq; intro i hi; simp [hi]; try grind)

@[simp] theorem decodeSlot_pack (op d a b : BitVec 8) (lit : Lit) :
    decodeSlot (pack op d a b) lit = decodeBytes op d a b lit := by
  simp [decodeSlot]

end Sys2Proof
end

