-- ==== Sys2Proof/Laws/Maps.lean ====
section
/-!
SUPPORT. Laws/Maps.lean: reading a table or memory after a change, and the one form that every change keeps.
-/

namespace Sys2Proof.Machine

open Sys2Proof

/-! ### Tables -/

@[simp] theorem Tab.look_nil {α : Type} (x : Nat) : Tab.look ([] : Tab α) x = none := rfl

theorem Tab.look_cons {α : Type} (k x : Nat) (v : α) (t : Tab α) : Tab.look ((k, v) :: t) x = if k = x then some v else Tab.look t x := rfl

theorem Tab.look_put {α : Type} (t : Tab α) (x y : Nat) (v : α) :
    Tab.look (Tab.put t x v) y = if x = y then some v else Tab.look t y := by
  induction t with
  | nil => simp [Tab.put, Tab.look_cons]
  | cons e t ih =>
    obtain ⟨k, u⟩ := e
    simp only [Tab.put]
    split
    · simp [Tab.look_cons]
    · split
      · next h => subst h; by_cases h : x = y <;> simp [Tab.look_cons, h]
      · next h1 h2 =>
        simp only [Tab.look_cons, ih]
        by_cases h : x = y
        · subst h; simp [h2]; intro h3; exact absurd h3.symm h2
        · simp [h]

theorem Tab.look_del {α : Type} (t : Tab α) (x y : Nat) : Tab.look (Tab.del t x) y = if x = y then none else Tab.look t y := by
  induction t with
  | nil => simp [Tab.del]
  | cons e t ih =>
    obtain ⟨k, u⟩ := e
    simp only [Tab.del]
    split
    · next h => subst h; rw [ih]; by_cases h : k = y <;> simp [Tab.look_cons, h]
    · next h1 =>
      simp only [Tab.look_cons, ih]
      by_cases h : x = y
      · subst h; simp [h1]
      · simp [h]

@[simp] theorem Tab.look_put_self {α : Type} (t : Tab α) (x : Nat) (v : α) : Tab.look (Tab.put t x v) x = some v := by
  simp [Tab.look_put]

theorem Tab.getD_put {α : Type} (t : Tab α) (x y : Nat) (v d : α) :
    Tab.getD (Tab.put t x v) y d = if x = y then v else Tab.getD t y d := by
  simp only [Tab.getD, Tab.look_put]; split <;> rfl

theorem Tab.getD_set {α : Type} [DecidableEq α] (t : Tab α) (x y : Nat) (v d : α) :
    Tab.getD (Tab.set t x v d) y d = if x = y then v else Tab.getD t y d := by
  unfold Tab.set
  split
  · next h => subst h; simp only [Tab.getD, Tab.look_del]; split <;> rfl
  · simp only [Tab.getD, Tab.look_put]; split <;> rfl

theorem Tab.look_modify {α : Type} (t : Tab α) (x y : Nat) (f : α → α) :
    Tab.look (Tab.modify t x f) y = if x = y then (Tab.look t y).map f else Tab.look t y := by
  unfold Tab.modify
  split
  · next h => by_cases e : x = y
              · subst e; simp [h]
              · simp [e]
  · next v h => rw [Tab.look_put]; by_cases e : x = y
                · subst e; simp [h]
                · simp [e]

theorem Tab.getD_upd {α : Type} (t : Tab α) (x y : Nat) (d : α) (f : α → α) :
    Tab.getD (Tab.upd t x d f) y d = if x = y then f (Tab.getD t x d) else Tab.getD t y d := by
  simp only [Tab.upd, Tab.getD_put]

theorem Tab.mem_put {α : Type} {t : Tab α} {x : Nat} {v : α} {e : Nat × α} (h : e ∈ Tab.put t x v) : e = (x, v) ∨ e ∈ t := by
  induction t with
  | nil => simpa [Tab.put] using h
  | cons c t ih =>
    obtain ⟨k, u⟩ := c
    simp only [Tab.put] at h
    split at h
    · simpa using h
    · split at h
      · simp only [List.mem_cons] at h ⊢; rcases h with h | h <;> simp [h]
      · simp only [List.mem_cons] at h ⊢
        rcases h with h | h
        · simp [h]
        · rcases ih h with h | h <;> simp [h]

theorem Tab.mem_del {α : Type} {t : Tab α} {x : Nat} {e : Nat × α} (h : e ∈ Tab.del t x) : e ∈ t ∧ e.1 ≠ x := by
  induction t with
  | nil => simp [Tab.del] at h
  | cons c t ih =>
    obtain ⟨k, u⟩ := c
    simp only [Tab.del] at h
    split at h
    · have := ih h; simp [this]
    · next hk =>
      simp only [List.mem_cons] at h
      rcases h with h | h
      · subst h; simp [hk]
      · have := ih h; simp [this]

theorem Tab.wf_nil {α : Type} : Tab.wf ([] : Tab α) := by simp [Tab.wf]

theorem Tab.wf_put {α : Type} {t : Tab α} (x : Nat) (v : α) (h : Tab.wf t) : Tab.wf (Tab.put t x v) := by
  induction t with
  | nil => simp [Tab.put, Tab.wf]
  | cons c t ih =>
    obtain ⟨k, u⟩ := c
    simp only [Tab.wf, List.map_cons, List.pairwise_cons, List.mem_map, forall_exists_index, and_imp] at h
    simp only [Tab.put]
    split
    · next hx =>
      simp only [Tab.wf, List.map_cons, List.pairwise_cons, List.mem_cons, List.mem_map]
      refine ⟨?_, ?_, h.2⟩
      · rintro a (rfl | ⟨e, he, rfl⟩)
        · exact hx
        · exact lt_trans hx (h.1 _ e he rfl)
      · rintro a ⟨e, he, rfl⟩; exact h.1 _ e he rfl
    · split
      · next _ hx => subst hx
                     simp only [Tab.wf, List.map_cons, List.pairwise_cons, List.mem_map]
                     exact ⟨by rintro a ⟨e, he, rfl⟩; exact h.1 _ e he rfl, h.2⟩
      · next h1 h2 =>
        simp only [Tab.wf, List.map_cons, List.pairwise_cons, List.mem_map]
        refine ⟨?_, ih h.2⟩
        rintro a ⟨e, he, rfl⟩
        rcases Tab.mem_put he with rfl | he
        · exact lt_of_le_of_ne (not_lt.mp h1) (fun c => h2 c.symm)
        · exact h.1 _ e he rfl

theorem Tab.wf_del {α : Type} {t : Tab α} (x : Nat) (h : Tab.wf t) : Tab.wf (Tab.del t x) := by
  induction t with
  | nil => simpa [Tab.del] using h
  | cons c t ih =>
    obtain ⟨k, u⟩ := c
    simp only [Tab.wf, List.map_cons, List.pairwise_cons, List.mem_map, forall_exists_index, and_imp] at h
    simp only [Tab.del]
    split
    · exact ih h.2
    · simp only [Tab.wf, List.map_cons, List.pairwise_cons, List.mem_map]
      exact ⟨by rintro a ⟨e, he, rfl⟩; exact h.1 _ e (Tab.mem_del he).1 rfl, ih h.2⟩

theorem Tab.wf_filter {α : Type} {t : Tab α} (p : Nat × α → Bool) (h : Tab.wf t) : Tab.wf (t.filter p) := by
  unfold Tab.wf at *
  exact h.sublist (List.filter_sublist.map Prod.fst)

/-! ### Memory -/

theorem Memory.wf_nil : Memory.wf [] := by simp [Memory.wf]

/-- A write keeps the one form. -/
theorem Memory.wf_write {m : List Host.Cell} (a : Nat) (b : Byte) (h : Memory.wf m) : Memory.wf (Memory.write m a b) := by
  unfold Memory.write
  split
  · exact ⟨Tab.wf_del a h.1, fun c hc => h.2 c (Tab.mem_del hc).1⟩
  · next hz =>
    refine ⟨Tab.wf_put a b h.1, fun c hc hs => ?_⟩
    rcases Tab.mem_put hc with rfl | hc
    · simpa [hs] using hz
    · exact h.2 c hc hs

theorem Memory.wf_writes {m : List Host.Cell} (a : Nat) (bs : List Byte) (h : Memory.wf m) : Memory.wf (Memory.writes m a bs) := by
  induction bs generalizing m a with
  | nil => exact h
  | cons b bs ih => exact ih (a + 1) (Memory.wf_write a b h)

theorem Memory.wf_erase {m : List Host.Cell} (a : Nat) (h : Memory.wf m) : Memory.wf (Memory.erase m a) :=
  ⟨Tab.wf_del a h.1, fun c hc => h.2 c (Tab.mem_del hc).1⟩

theorem Memory.wf_filter {m : List Host.Cell} (p : Host.Cell → Bool) (h : Memory.wf m) : Memory.wf (m.filter p) :=
  ⟨Tab.wf_filter p h.1, fun c hc => h.2 c (List.mem_filter.mp hc).1⟩

/-- A read after a write of one byte. -/
theorem Memory.byte?_write (m : List Host.Cell) (a x : Nat) (b : Byte) :
    Memory.byte? (Memory.write m a b) x = if a = x then some b else Memory.byte? m x := by
  by_cases h : (isStashKey a && b = 0) = true
  · have hw : Memory.write m a b = Tab.del m a := by simp only [Memory.write, h, if_true]
    simp only [Bool.and_eq_true, decide_eq_true_eq] at h
    rw [hw, Memory.byte?, Tab.look_del]
    by_cases e : a = x
    · subst e; simp [h.1, h.2]
    · simp [e, Memory.byte?]
  · have hw : Memory.write m a b = Tab.put m a b := by simp only [Memory.write, h]; rfl
    rw [hw, Memory.byte?, Tab.look_put]
    by_cases e : a = x
    · subst e; simp
    · simp [e, Memory.byte?]

/-- A read outside the bytes written. -/
theorem Memory.byte?_writes_other (m : List Host.Cell) (a x : Nat) (bs : List Byte) (h : x < a ∨ a + bs.length ≤ x) :
    Memory.byte? (Memory.writes m a bs) x = Memory.byte? m x := by
  induction bs generalizing m a with
  | nil => rfl
  | cons b bs ih =>
    simp only [List.length_cons] at h
    rw [Memory.writes, ih _ _ (by omega), Memory.byte?_write, if_neg (by omega)]

/-- A read of a byte written. -/
theorem Memory.byte?_writes_same (m : List Host.Cell) (a i : Nat) (bs : List Byte) (h : i < bs.length) :
    Memory.byte? (Memory.writes m a bs) (a + i) = bs[i]? := by
  induction bs generalizing m a i with
  | nil => simp at h
  | cons b bs ih =>
    simp only [Memory.writes]
    cases i with
    | zero => rw [Memory.byte?_writes_other _ _ _ _ (by omega), Memory.byte?_write]; simp
    | succ i =>
      rw [show a + (i + 1) = a + 1 + i by omega, ih _ _ _ (by simpa using h)]
      simp

end Sys2Proof.Machine
end

