-- ==== Sys2Proof/Laws/Regs.lean ====
section
/-!
SUPPORT. Laws/Regs.lean: what a gang's registers are after writes, and what writes leave alone.
-/

namespace Sys2Proof.Machine

open Sys2Proof

theorem Gang.write_regs (g : Gang) (cyc : Nat) (lat : Option Nat) (key k : Nat) (v : Word) :
    Tab.getD (g.write cyc lat key v).regs k 0 = if key = k then v else Tab.getD g.regs k 0 := by
  unfold Gang.write
  dsimp only
  split <;> exact Tab.getD_set _ _ _ _ _

/-- A write changes registers, results in flight, errors not yet found, tags, records and pending loads, and nothing else. -/
theorem Gang.write_frame (g : Gang) (cyc : Nat) (lat : Option Nat) (key : Nat) (v : Word) :
    ∃ regs fly bad tags accs ldas,
      g.write cyc lat key v = { g with regs := regs, fly := fly, bad := bad, tags := tags, accs := accs, ldas := ldas } := by
  unfold Gang.write
  dsimp only
  split
  · exact ⟨_, _, _, g.tags, g.accs, _, rfl⟩
  · exact ⟨_, _, _, _, _, _, rfl⟩

theorem Gang.writes_frame (ws : List (Nat × Word)) (g : Gang) (cyc : Nat) (lat : Option Nat) :
    ∃ regs fly bad tags accs ldas,
      g.writes cyc lat ws = { g with regs := regs, fly := fly, bad := bad, tags := tags, accs := accs, ldas := ldas } := by
  induction ws generalizing g with
  | nil => exact ⟨g.regs, g.fly, g.bad, g.tags, g.accs, g.ldas, rfl⟩
  | cons e ws ih =>
    obtain ⟨k, v⟩ := e
    obtain ⟨r, f, b, t, a, l, h⟩ := g.write_frame cyc lat k v
    obtain ⟨r', f', b', t', a', l', h'⟩ := ih (g.write cyc lat k v)
    refine ⟨r', f', b', t', a', l', ?_⟩
    rw [Gang.writes, h', h]

theorem Gang.writes_regs_other (ws : List (Nat × Word)) (g : Gang) (cyc : Nat) (lat : Option Nat) (k : Nat)
    (h : ∀ e ∈ ws, e.1 ≠ k) : Tab.getD (g.writes cyc lat ws).regs k 0 = Tab.getD g.regs k 0 := by
  induction ws generalizing g with
  | nil => rfl
  | cons e ws ih =>
    obtain ⟨x, v⟩ := e
    rw [Gang.writes, ih _ (fun e he => h e (List.mem_cons_of_mem _ he)), Gang.write_regs,
      if_neg (h (x, v) List.mem_cons_self)]

theorem Gang.writes_regs_mem (ws : List (Nat × Word)) (g : Gang) (cyc : Nat) (lat : Option Nat) (k : Nat) (v : Word)
    (hn : (ws.map Prod.fst).Nodup) (h : (k, v) ∈ ws) : Tab.getD (g.writes cyc lat ws).regs k 0 = v := by
  induction ws generalizing g with
  | nil => simp at h
  | cons e ws ih =>
    obtain ⟨x, u⟩ := e
    simp only [List.map_cons, List.nodup_cons, List.mem_map, not_exists, not_and] at hn
    rcases List.mem_cons.mp h with h | h
    · obtain ⟨rfl, rfl⟩ := Prod.mk.inj h
      rw [Gang.writes, Gang.writes_regs_other _ _ _ _ _ (fun e he => hn.1 e he), Gang.write_regs, if_pos rfl]
    · exact ih _ hn.2 h

/-! ### Lanes -/

theorem mem_lanesOf {m : Mask} {l : Nat} : l ∈ lanesOf m ↔ l < 32 ∧ m.getLsbD l = true := by
  simp [lanesOf]

theorem lanesOf_nodup (m : Mask) : (lanesOf m).Nodup := List.Nodup.filter _ List.nodup_range

theorem Gang.mem_phys {g : Gang} {l p : Nat} (h : p ∈ g.phys l) : g.vis p = l := by
  unfold Gang.phys at h
  unfold Gang.vis
  split at h
  · next hp => simp only [List.mem_cons, List.not_mem_nil, or_false] at h
               rw [if_pos hp]; omega
  · next hp => simp only [List.mem_cons, List.not_mem_nil, or_false] at h
               rw [if_neg hp]; exact h

theorem Gang.phys_nodup (g : Gang) (l : Nat) : (g.phys l).Nodup := by
  unfold Gang.phys; split <;> simp

theorem Gang.mem_expand {g : Gang} {m : Mask} {p : Nat} (h : p ∈ g.expand m) : g.vis p ∈ lanesOf m ∧ p ∈ g.phys (g.vis p) := by
  simp only [Gang.expand, List.mem_flatMap] at h
  obtain ⟨l, hl, hp⟩ := h
  have := Gang.mem_phys hp
  subst this
  exact ⟨hl, hp⟩

theorem Gang.expand_nodup (g : Gang) (m : Mask) : (g.expand m).Nodup := by
  unfold Gang.expand
  rw [List.nodup_flatMap]
  refine ⟨fun l _ => g.phys_nodup l, ?_⟩
  refine (lanesOf_nodup m).imp_of_mem ?_
  intro a b _ _ hab x hx hy
  exact hab ((Gang.mem_phys hx).symm.trans (Gang.mem_phys hy))

end Sys2Proof.Machine
end

