-- ==== Sys2Proof/Laws/State.lean ====
section
/-!
SUPPORT. Laws/State.lean: what each named change of the state leaves as it was, field by field, and what it makes of the part it
changes.
-/

namespace Sys2Proof.Machine

open Sys2Proof

@[simp] theorem State.setGang_serial (s : State) (gid : Nat) (g : Gang) : (s.setGang gid g).serial = s.serial := rfl
@[simp] theorem State.setGang_time (s : State) (gid : Nat) (g : Gang) : (s.setGang gid g).time = s.time := rfl
@[simp] theorem State.setGang_issue (s : State) (gid : Nat) (g : Gang) : (s.setGang gid g).issue = s.issue := rfl
@[simp] theorem State.setGang_agenda (s : State) (gid : Nat) (g : Gang) : (s.setGang gid g).agenda = s.agenda := rfl
@[simp] theorem State.setGang_stimuli (s : State) (gid : Nat) (g : Gang) : (s.setGang gid g).stimuli = s.stimuli := rfl
@[simp] theorem State.setGang_turns (s : State) (gid : Nat) (g : Gang) : (s.setGang gid g).turns = s.turns := rfl
@[simp] theorem State.setGang_nextBid (s : State) (gid : Nat) (g : Gang) : (s.setGang gid g).nextBid = s.nextBid := rfl
@[simp] theorem State.setGang_nextId (s : State) (gid : Nat) (g : Gang) : (s.setGang gid g).nextId = s.nextId := rfl
@[simp] theorem State.setGang_mem (s : State) (gid : Nat) (g : Gang) : (s.setGang gid g).mem = s.mem := rfl
@[simp] theorem State.setGang_rewritten (s : State) (gid : Nat) (g : Gang) : (s.setGang gid g).rewritten = s.rewritten := rfl
@[simp] theorem State.setGang_heldWrites (s : State) (gid : Nat) (g : Gang) : (s.setGang gid g).heldWrites = s.heldWrites := rfl
@[simp] theorem State.setGang_narrow (s : State) (gid : Nat) (g : Gang) : (s.setGang gid g).narrow = s.narrow := rfl
@[simp] theorem State.setGang_hollow (s : State) (gid : Nat) (g : Gang) : (s.setGang gid g).hollow = s.hollow := rfl
@[simp] theorem State.setGang_wants (s : State) (gid : Nat) (g : Gang) : (s.setGang gid g).wants = s.wants := rfl
@[simp] theorem State.setGang_side (s : State) (gid : Nat) (g : Gang) : (s.setGang gid g).side = s.side := rfl
@[simp] theorem State.setGang_marks (s : State) (gid : Nat) (g : Gang) : (s.setGang gid g).marks = s.marks := rfl
@[simp] theorem State.setGang_slices (s : State) (gid : Nat) (g : Gang) : (s.setGang gid g).slices = s.slices := rfl
@[simp] theorem State.setGang_selectors (s : State) (gid : Nat) (g : Gang) : (s.setGang gid g).selectors = s.selectors := rfl
@[simp] theorem State.setGang_boards (s : State) (gid : Nat) (g : Gang) : (s.setGang gid g).boards = s.boards := rfl
@[simp] theorem State.setGang_cores (s : State) (gid : Nat) (g : Gang) : (s.setGang gid g).cores = s.cores := rfl
@[simp] theorem State.setGang_blocks (s : State) (gid : Nat) (g : Gang) : (s.setGang gid g).blocks = s.blocks := rfl
@[simp] theorem State.setGang_teams (s : State) (gid : Nat) (g : Gang) : (s.setGang gid g).teams = s.teams := rfl
@[simp] theorem State.setGang_clusterTlbs (s : State) (gid : Nat) (g : Gang) : (s.setGang gid g).clusterTlbs = s.clusterTlbs := rfl
@[simp] theorem State.setGang_queues (s : State) (gid : Nat) (g : Gang) : (s.setGang gid g).queues = s.queues := rfl
@[simp] theorem State.setGang_lastQueue (s : State) (gid : Nat) (g : Gang) : (s.setGang gid g).lastQueue = s.lastQueue := rfl
@[simp] theorem State.setGang_ports (s : State) (gid : Nat) (g : Gang) : (s.setGang gid g).ports = s.ports := rfl
@[simp] theorem State.setGang_tokens (s : State) (gid : Nat) (g : Gang) : (s.setGang gid g).tokens = s.tokens := rfl
@[simp] theorem State.setGang_identifiers (s : State) (gid : Nat) (g : Gang) : (s.setGang gid g).identifiers = s.identifiers := rfl
@[simp] theorem State.setGang_fqdrop (s : State) (gid : Nat) (g : Gang) : (s.setGang gid g).fqdrop = s.fqdrop := rfl
@[simp] theorem State.setGang_fqdropStart (s : State) (gid : Nat) (g : Gang) : (s.setGang gid g).fqdropStart = s.fqdropStart := rfl
@[simp] theorem State.setGang_tickets (s : State) (gid : Nat) (g : Gang) : (s.setGang gid g).tickets = s.tickets := rfl
@[simp] theorem State.setGang_transRecs (s : State) (gid : Nat) (g : Gang) : (s.setGang gid g).transRecs = s.transRecs := rfl
@[simp] theorem State.setGang_migrations (s : State) (gid : Nat) (g : Gang) : (s.setGang gid g).migrations = s.migrations := rfl
@[simp] theorem State.setGang_flying (s : State) (gid : Nat) (g : Gang) : (s.setGang gid g).flying = s.flying := rfl
@[simp] theorem State.setGang_outbox (s : State) (gid : Nat) (g : Gang) : (s.setGang gid g).outbox = s.outbox := rfl
@[simp] theorem State.setGang_peerPosted (s : State) (gid : Nat) (g : Gang) : (s.setGang gid g).peerPosted = s.peerPosted := rfl
@[simp] theorem State.setGang_framePorts (s : State) (gid : Nat) (g : Gang) : (s.setGang gid g).framePorts = s.framePorts := rfl
@[simp] theorem State.setGang_dies (s : State) (gid : Nat) (g : Gang) : (s.setGang gid g).dies = s.dies := rfl
@[simp] theorem State.setGang_ioStates (s : State) (gid : Nat) (g : Gang) : (s.setGang gid g).ioStates = s.ioStates := rfl
@[simp] theorem State.setGang_hbm (s : State) (gid : Nat) (g : Gang) : (s.setGang gid g).hbm = s.hbm := rfl
@[simp] theorem State.setGang_ioRateHalved (s : State) (gid : Nat) (g : Gang) : (s.setGang gid g).ioRateHalved = s.ioRateHalved := rfl
@[simp] theorem State.setGang_sensors (s : State) (gid : Nat) (g : Gang) : (s.setGang gid g).sensors = s.sensors := rfl
@[simp] theorem State.setGang_errstat (s : State) (gid : Nat) (g : Gang) : (s.setGang gid g).errstat = s.errstat := rfl
@[simp] theorem State.setGang_msix0 (s : State) (gid : Nat) (g : Gang) : (s.setGang gid g).msix0 = s.msix0 := rfl
@[simp] theorem State.setGang_msix1 (s : State) (gid : Nat) (g : Gang) : (s.setGang gid g).msix1 = s.msix1 := rfl
@[simp] theorem State.setGang_link (s : State) (gid : Nat) (g : Gang) : (s.setGang gid g).link = s.link := rfl
@[simp] theorem State.setGang_linkMode (s : State) (gid : Nat) (g : Gang) : (s.setGang gid g).linkMode = s.linkMode := rfl
@[simp] theorem State.setGang_inbound (s : State) (gid : Nat) (g : Gang) : (s.setGang gid g).inbound = s.inbound := rfl
@[simp] theorem State.setGang_hostHeld (s : State) (gid : Nat) (g : Gang) : (s.setGang gid g).hostHeld = s.hostHeld := rfl
@[simp] theorem State.setGang_unsupported (s : State) (gid : Nat) (g : Gang) : (s.setGang gid g).unsupported = s.unsupported := rfl
@[simp] theorem State.setGang_parityRead (s : State) (gid : Nat) (g : Gang) : (s.setGang gid g).parityRead = s.parityRead := rfl
@[simp] theorem State.setGang_routes (s : State) (gid : Nat) (g : Gang) : (s.setGang gid g).routes = s.routes := rfl
@[simp] theorem State.setGang_peerSeq (s : State) (gid : Nat) (g : Gang) : (s.setGang gid g).peerSeq = s.peerSeq := rfl
@[simp] theorem State.setGang_replayWindows (s : State) (gid : Nat) (g : Gang) : (s.setGang gid g).replayWindows = s.replayWindows := rfl
@[simp] theorem State.setGang_ballast (s : State) (gid : Nat) (g : Gang) : (s.setGang gid g).ballast = s.ballast := rfl
@[simp] theorem State.setGang_governor (s : State) (gid : Nat) (g : Gang) : (s.setGang gid g).governor = s.governor := rfl
@[simp] theorem State.setGang_mgmtReset (s : State) (gid : Nat) (g : Gang) : (s.setGang gid g).mgmtReset = s.mgmtReset := rfl
@[simp] theorem State.setGang_firmware (s : State) (gid : Nat) (g : Gang) : (s.setGang gid g).firmware = s.firmware := rfl
@[simp] theorem State.setGang_spdmAnswered (s : State) (gid : Nat) (g : Gang) : (s.setGang gid g).spdmAnswered = s.spdmAnswered := rfl
@[simp] theorem State.setGang_spdmReport (s : State) (gid : Nat) (g : Gang) : (s.setGang gid g).spdmReport = s.spdmReport := rfl
@[simp] theorem State.setGang_bar2Read (s : State) (gid : Nat) (g : Gang) : (s.setGang gid g).bar2Read = s.bar2Read := rfl
@[simp] theorem State.setGang_faultsRead (s : State) (gid : Nat) (g : Gang) : (s.setGang gid g).faultsRead = s.faultsRead := rfl
@[simp] theorem State.setGang_recQueues (s : State) (gid : Nat) (g : Gang) : (s.setGang gid g).recQueues = s.recQueues := rfl
@[simp] theorem State.setGang_recWindows (s : State) (gid : Nat) (g : Gang) : (s.setGang gid g).recWindows = s.recWindows := rfl
@[simp] theorem State.setGang_recording (s : State) (gid : Nat) (g : Gang) : (s.setGang gid g).recording = s.recording := rfl
@[simp] theorem State.setGang_replayRings (s : State) (gid : Nat) (g : Gang) : (s.setGang gid g).replayRings = s.replayRings := rfl
@[simp] theorem State.setGang_rerun (s : State) (gid : Nat) (g : Gang) : (s.setGang gid g).rerun = s.rerun := rfl

@[simp] theorem State.modGang_serial (s : State) (gid : Nat) (f : Gang → Gang) : (s.modGang gid f).serial = s.serial := rfl
@[simp] theorem State.modGang_time (s : State) (gid : Nat) (f : Gang → Gang) : (s.modGang gid f).time = s.time := rfl
@[simp] theorem State.modGang_issue (s : State) (gid : Nat) (f : Gang → Gang) : (s.modGang gid f).issue = s.issue := rfl
@[simp] theorem State.modGang_agenda (s : State) (gid : Nat) (f : Gang → Gang) : (s.modGang gid f).agenda = s.agenda := rfl
@[simp] theorem State.modGang_stimuli (s : State) (gid : Nat) (f : Gang → Gang) : (s.modGang gid f).stimuli = s.stimuli := rfl
@[simp] theorem State.modGang_turns (s : State) (gid : Nat) (f : Gang → Gang) : (s.modGang gid f).turns = s.turns := rfl
@[simp] theorem State.modGang_nextBid (s : State) (gid : Nat) (f : Gang → Gang) : (s.modGang gid f).nextBid = s.nextBid := rfl
@[simp] theorem State.modGang_nextId (s : State) (gid : Nat) (f : Gang → Gang) : (s.modGang gid f).nextId = s.nextId := rfl
@[simp] theorem State.modGang_mem (s : State) (gid : Nat) (f : Gang → Gang) : (s.modGang gid f).mem = s.mem := rfl
@[simp] theorem State.modGang_rewritten (s : State) (gid : Nat) (f : Gang → Gang) : (s.modGang gid f).rewritten = s.rewritten := rfl
@[simp] theorem State.modGang_heldWrites (s : State) (gid : Nat) (f : Gang → Gang) : (s.modGang gid f).heldWrites = s.heldWrites := rfl
@[simp] theorem State.modGang_narrow (s : State) (gid : Nat) (f : Gang → Gang) : (s.modGang gid f).narrow = s.narrow := rfl
@[simp] theorem State.modGang_hollow (s : State) (gid : Nat) (f : Gang → Gang) : (s.modGang gid f).hollow = s.hollow := rfl
@[simp] theorem State.modGang_wants (s : State) (gid : Nat) (f : Gang → Gang) : (s.modGang gid f).wants = s.wants := rfl
@[simp] theorem State.modGang_side (s : State) (gid : Nat) (f : Gang → Gang) : (s.modGang gid f).side = s.side := rfl
@[simp] theorem State.modGang_marks (s : State) (gid : Nat) (f : Gang → Gang) : (s.modGang gid f).marks = s.marks := rfl
@[simp] theorem State.modGang_slices (s : State) (gid : Nat) (f : Gang → Gang) : (s.modGang gid f).slices = s.slices := rfl
@[simp] theorem State.modGang_selectors (s : State) (gid : Nat) (f : Gang → Gang) : (s.modGang gid f).selectors = s.selectors := rfl
@[simp] theorem State.modGang_boards (s : State) (gid : Nat) (f : Gang → Gang) : (s.modGang gid f).boards = s.boards := rfl
@[simp] theorem State.modGang_cores (s : State) (gid : Nat) (f : Gang → Gang) : (s.modGang gid f).cores = s.cores := rfl
@[simp] theorem State.modGang_blocks (s : State) (gid : Nat) (f : Gang → Gang) : (s.modGang gid f).blocks = s.blocks := rfl
@[simp] theorem State.modGang_teams (s : State) (gid : Nat) (f : Gang → Gang) : (s.modGang gid f).teams = s.teams := rfl
@[simp] theorem State.modGang_clusterTlbs (s : State) (gid : Nat) (f : Gang → Gang) : (s.modGang gid f).clusterTlbs = s.clusterTlbs := rfl
@[simp] theorem State.modGang_queues (s : State) (gid : Nat) (f : Gang → Gang) : (s.modGang gid f).queues = s.queues := rfl
@[simp] theorem State.modGang_lastQueue (s : State) (gid : Nat) (f : Gang → Gang) : (s.modGang gid f).lastQueue = s.lastQueue := rfl
@[simp] theorem State.modGang_ports (s : State) (gid : Nat) (f : Gang → Gang) : (s.modGang gid f).ports = s.ports := rfl
@[simp] theorem State.modGang_tokens (s : State) (gid : Nat) (f : Gang → Gang) : (s.modGang gid f).tokens = s.tokens := rfl
@[simp] theorem State.modGang_identifiers (s : State) (gid : Nat) (f : Gang → Gang) : (s.modGang gid f).identifiers = s.identifiers := rfl
@[simp] theorem State.modGang_fqdrop (s : State) (gid : Nat) (f : Gang → Gang) : (s.modGang gid f).fqdrop = s.fqdrop := rfl
@[simp] theorem State.modGang_fqdropStart (s : State) (gid : Nat) (f : Gang → Gang) : (s.modGang gid f).fqdropStart = s.fqdropStart := rfl
@[simp] theorem State.modGang_tickets (s : State) (gid : Nat) (f : Gang → Gang) : (s.modGang gid f).tickets = s.tickets := rfl
@[simp] theorem State.modGang_transRecs (s : State) (gid : Nat) (f : Gang → Gang) : (s.modGang gid f).transRecs = s.transRecs := rfl
@[simp] theorem State.modGang_migrations (s : State) (gid : Nat) (f : Gang → Gang) : (s.modGang gid f).migrations = s.migrations := rfl
@[simp] theorem State.modGang_flying (s : State) (gid : Nat) (f : Gang → Gang) : (s.modGang gid f).flying = s.flying := rfl
@[simp] theorem State.modGang_outbox (s : State) (gid : Nat) (f : Gang → Gang) : (s.modGang gid f).outbox = s.outbox := rfl
@[simp] theorem State.modGang_peerPosted (s : State) (gid : Nat) (f : Gang → Gang) : (s.modGang gid f).peerPosted = s.peerPosted := rfl
@[simp] theorem State.modGang_framePorts (s : State) (gid : Nat) (f : Gang → Gang) : (s.modGang gid f).framePorts = s.framePorts := rfl
@[simp] theorem State.modGang_dies (s : State) (gid : Nat) (f : Gang → Gang) : (s.modGang gid f).dies = s.dies := rfl
@[simp] theorem State.modGang_ioStates (s : State) (gid : Nat) (f : Gang → Gang) : (s.modGang gid f).ioStates = s.ioStates := rfl
@[simp] theorem State.modGang_hbm (s : State) (gid : Nat) (f : Gang → Gang) : (s.modGang gid f).hbm = s.hbm := rfl
@[simp] theorem State.modGang_ioRateHalved (s : State) (gid : Nat) (f : Gang → Gang) : (s.modGang gid f).ioRateHalved = s.ioRateHalved := rfl
@[simp] theorem State.modGang_sensors (s : State) (gid : Nat) (f : Gang → Gang) : (s.modGang gid f).sensors = s.sensors := rfl
@[simp] theorem State.modGang_errstat (s : State) (gid : Nat) (f : Gang → Gang) : (s.modGang gid f).errstat = s.errstat := rfl
@[simp] theorem State.modGang_msix0 (s : State) (gid : Nat) (f : Gang → Gang) : (s.modGang gid f).msix0 = s.msix0 := rfl
@[simp] theorem State.modGang_msix1 (s : State) (gid : Nat) (f : Gang → Gang) : (s.modGang gid f).msix1 = s.msix1 := rfl
@[simp] theorem State.modGang_link (s : State) (gid : Nat) (f : Gang → Gang) : (s.modGang gid f).link = s.link := rfl
@[simp] theorem State.modGang_linkMode (s : State) (gid : Nat) (f : Gang → Gang) : (s.modGang gid f).linkMode = s.linkMode := rfl
@[simp] theorem State.modGang_inbound (s : State) (gid : Nat) (f : Gang → Gang) : (s.modGang gid f).inbound = s.inbound := rfl
@[simp] theorem State.modGang_hostHeld (s : State) (gid : Nat) (f : Gang → Gang) : (s.modGang gid f).hostHeld = s.hostHeld := rfl
@[simp] theorem State.modGang_unsupported (s : State) (gid : Nat) (f : Gang → Gang) : (s.modGang gid f).unsupported = s.unsupported := rfl
@[simp] theorem State.modGang_parityRead (s : State) (gid : Nat) (f : Gang → Gang) : (s.modGang gid f).parityRead = s.parityRead := rfl
@[simp] theorem State.modGang_routes (s : State) (gid : Nat) (f : Gang → Gang) : (s.modGang gid f).routes = s.routes := rfl
@[simp] theorem State.modGang_peerSeq (s : State) (gid : Nat) (f : Gang → Gang) : (s.modGang gid f).peerSeq = s.peerSeq := rfl
@[simp] theorem State.modGang_replayWindows (s : State) (gid : Nat) (f : Gang → Gang) : (s.modGang gid f).replayWindows = s.replayWindows := rfl
@[simp] theorem State.modGang_ballast (s : State) (gid : Nat) (f : Gang → Gang) : (s.modGang gid f).ballast = s.ballast := rfl
@[simp] theorem State.modGang_governor (s : State) (gid : Nat) (f : Gang → Gang) : (s.modGang gid f).governor = s.governor := rfl
@[simp] theorem State.modGang_mgmtReset (s : State) (gid : Nat) (f : Gang → Gang) : (s.modGang gid f).mgmtReset = s.mgmtReset := rfl
@[simp] theorem State.modGang_firmware (s : State) (gid : Nat) (f : Gang → Gang) : (s.modGang gid f).firmware = s.firmware := rfl
@[simp] theorem State.modGang_spdmAnswered (s : State) (gid : Nat) (f : Gang → Gang) : (s.modGang gid f).spdmAnswered = s.spdmAnswered := rfl
@[simp] theorem State.modGang_spdmReport (s : State) (gid : Nat) (f : Gang → Gang) : (s.modGang gid f).spdmReport = s.spdmReport := rfl
@[simp] theorem State.modGang_bar2Read (s : State) (gid : Nat) (f : Gang → Gang) : (s.modGang gid f).bar2Read = s.bar2Read := rfl
@[simp] theorem State.modGang_faultsRead (s : State) (gid : Nat) (f : Gang → Gang) : (s.modGang gid f).faultsRead = s.faultsRead := rfl
@[simp] theorem State.modGang_recQueues (s : State) (gid : Nat) (f : Gang → Gang) : (s.modGang gid f).recQueues = s.recQueues := rfl
@[simp] theorem State.modGang_recWindows (s : State) (gid : Nat) (f : Gang → Gang) : (s.modGang gid f).recWindows = s.recWindows := rfl
@[simp] theorem State.modGang_recording (s : State) (gid : Nat) (f : Gang → Gang) : (s.modGang gid f).recording = s.recording := rfl
@[simp] theorem State.modGang_replayRings (s : State) (gid : Nat) (f : Gang → Gang) : (s.modGang gid f).replayRings = s.replayRings := rfl
@[simp] theorem State.modGang_rerun (s : State) (gid : Nat) (f : Gang → Gang) : (s.modGang gid f).rerun = s.rerun := rfl

@[simp] theorem State.modBlock_serial (s : State) (bid : Nat) (f : Block → Block) : (s.modBlock bid f).serial = s.serial := rfl
@[simp] theorem State.modBlock_time (s : State) (bid : Nat) (f : Block → Block) : (s.modBlock bid f).time = s.time := rfl
@[simp] theorem State.modBlock_issue (s : State) (bid : Nat) (f : Block → Block) : (s.modBlock bid f).issue = s.issue := rfl
@[simp] theorem State.modBlock_agenda (s : State) (bid : Nat) (f : Block → Block) : (s.modBlock bid f).agenda = s.agenda := rfl
@[simp] theorem State.modBlock_stimuli (s : State) (bid : Nat) (f : Block → Block) : (s.modBlock bid f).stimuli = s.stimuli := rfl
@[simp] theorem State.modBlock_turns (s : State) (bid : Nat) (f : Block → Block) : (s.modBlock bid f).turns = s.turns := rfl
@[simp] theorem State.modBlock_nextBid (s : State) (bid : Nat) (f : Block → Block) : (s.modBlock bid f).nextBid = s.nextBid := rfl
@[simp] theorem State.modBlock_nextId (s : State) (bid : Nat) (f : Block → Block) : (s.modBlock bid f).nextId = s.nextId := rfl
@[simp] theorem State.modBlock_mem (s : State) (bid : Nat) (f : Block → Block) : (s.modBlock bid f).mem = s.mem := rfl
@[simp] theorem State.modBlock_rewritten (s : State) (bid : Nat) (f : Block → Block) : (s.modBlock bid f).rewritten = s.rewritten := rfl
@[simp] theorem State.modBlock_heldWrites (s : State) (bid : Nat) (f : Block → Block) : (s.modBlock bid f).heldWrites = s.heldWrites := rfl
@[simp] theorem State.modBlock_narrow (s : State) (bid : Nat) (f : Block → Block) : (s.modBlock bid f).narrow = s.narrow := rfl
@[simp] theorem State.modBlock_hollow (s : State) (bid : Nat) (f : Block → Block) : (s.modBlock bid f).hollow = s.hollow := rfl
@[simp] theorem State.modBlock_wants (s : State) (bid : Nat) (f : Block → Block) : (s.modBlock bid f).wants = s.wants := rfl
@[simp] theorem State.modBlock_side (s : State) (bid : Nat) (f : Block → Block) : (s.modBlock bid f).side = s.side := rfl
@[simp] theorem State.modBlock_marks (s : State) (bid : Nat) (f : Block → Block) : (s.modBlock bid f).marks = s.marks := rfl
@[simp] theorem State.modBlock_slices (s : State) (bid : Nat) (f : Block → Block) : (s.modBlock bid f).slices = s.slices := rfl
@[simp] theorem State.modBlock_selectors (s : State) (bid : Nat) (f : Block → Block) : (s.modBlock bid f).selectors = s.selectors := rfl
@[simp] theorem State.modBlock_boards (s : State) (bid : Nat) (f : Block → Block) : (s.modBlock bid f).boards = s.boards := rfl
@[simp] theorem State.modBlock_cores (s : State) (bid : Nat) (f : Block → Block) : (s.modBlock bid f).cores = s.cores := rfl
@[simp] theorem State.modBlock_gangs (s : State) (bid : Nat) (f : Block → Block) : (s.modBlock bid f).gangs = s.gangs := rfl
@[simp] theorem State.modBlock_teams (s : State) (bid : Nat) (f : Block → Block) : (s.modBlock bid f).teams = s.teams := rfl
@[simp] theorem State.modBlock_clusterTlbs (s : State) (bid : Nat) (f : Block → Block) : (s.modBlock bid f).clusterTlbs = s.clusterTlbs := rfl
@[simp] theorem State.modBlock_queues (s : State) (bid : Nat) (f : Block → Block) : (s.modBlock bid f).queues = s.queues := rfl
@[simp] theorem State.modBlock_lastQueue (s : State) (bid : Nat) (f : Block → Block) : (s.modBlock bid f).lastQueue = s.lastQueue := rfl
@[simp] theorem State.modBlock_ports (s : State) (bid : Nat) (f : Block → Block) : (s.modBlock bid f).ports = s.ports := rfl
@[simp] theorem State.modBlock_tokens (s : State) (bid : Nat) (f : Block → Block) : (s.modBlock bid f).tokens = s.tokens := rfl
@[simp] theorem State.modBlock_identifiers (s : State) (bid : Nat) (f : Block → Block) : (s.modBlock bid f).identifiers = s.identifiers := rfl
@[simp] theorem State.modBlock_fqdrop (s : State) (bid : Nat) (f : Block → Block) : (s.modBlock bid f).fqdrop = s.fqdrop := rfl
@[simp] theorem State.modBlock_fqdropStart (s : State) (bid : Nat) (f : Block → Block) : (s.modBlock bid f).fqdropStart = s.fqdropStart := rfl
@[simp] theorem State.modBlock_tickets (s : State) (bid : Nat) (f : Block → Block) : (s.modBlock bid f).tickets = s.tickets := rfl
@[simp] theorem State.modBlock_transRecs (s : State) (bid : Nat) (f : Block → Block) : (s.modBlock bid f).transRecs = s.transRecs := rfl
@[simp] theorem State.modBlock_migrations (s : State) (bid : Nat) (f : Block → Block) : (s.modBlock bid f).migrations = s.migrations := rfl
@[simp] theorem State.modBlock_flying (s : State) (bid : Nat) (f : Block → Block) : (s.modBlock bid f).flying = s.flying := rfl
@[simp] theorem State.modBlock_outbox (s : State) (bid : Nat) (f : Block → Block) : (s.modBlock bid f).outbox = s.outbox := rfl
@[simp] theorem State.modBlock_peerPosted (s : State) (bid : Nat) (f : Block → Block) : (s.modBlock bid f).peerPosted = s.peerPosted := rfl
@[simp] theorem State.modBlock_framePorts (s : State) (bid : Nat) (f : Block → Block) : (s.modBlock bid f).framePorts = s.framePorts := rfl
@[simp] theorem State.modBlock_dies (s : State) (bid : Nat) (f : Block → Block) : (s.modBlock bid f).dies = s.dies := rfl
@[simp] theorem State.modBlock_ioStates (s : State) (bid : Nat) (f : Block → Block) : (s.modBlock bid f).ioStates = s.ioStates := rfl
@[simp] theorem State.modBlock_hbm (s : State) (bid : Nat) (f : Block → Block) : (s.modBlock bid f).hbm = s.hbm := rfl
@[simp] theorem State.modBlock_ioRateHalved (s : State) (bid : Nat) (f : Block → Block) : (s.modBlock bid f).ioRateHalved = s.ioRateHalved := rfl
@[simp] theorem State.modBlock_sensors (s : State) (bid : Nat) (f : Block → Block) : (s.modBlock bid f).sensors = s.sensors := rfl
@[simp] theorem State.modBlock_errstat (s : State) (bid : Nat) (f : Block → Block) : (s.modBlock bid f).errstat = s.errstat := rfl
@[simp] theorem State.modBlock_msix0 (s : State) (bid : Nat) (f : Block → Block) : (s.modBlock bid f).msix0 = s.msix0 := rfl
@[simp] theorem State.modBlock_msix1 (s : State) (bid : Nat) (f : Block → Block) : (s.modBlock bid f).msix1 = s.msix1 := rfl
@[simp] theorem State.modBlock_link (s : State) (bid : Nat) (f : Block → Block) : (s.modBlock bid f).link = s.link := rfl
@[simp] theorem State.modBlock_linkMode (s : State) (bid : Nat) (f : Block → Block) : (s.modBlock bid f).linkMode = s.linkMode := rfl
@[simp] theorem State.modBlock_inbound (s : State) (bid : Nat) (f : Block → Block) : (s.modBlock bid f).inbound = s.inbound := rfl
@[simp] theorem State.modBlock_hostHeld (s : State) (bid : Nat) (f : Block → Block) : (s.modBlock bid f).hostHeld = s.hostHeld := rfl
@[simp] theorem State.modBlock_unsupported (s : State) (bid : Nat) (f : Block → Block) : (s.modBlock bid f).unsupported = s.unsupported := rfl
@[simp] theorem State.modBlock_parityRead (s : State) (bid : Nat) (f : Block → Block) : (s.modBlock bid f).parityRead = s.parityRead := rfl
@[simp] theorem State.modBlock_routes (s : State) (bid : Nat) (f : Block → Block) : (s.modBlock bid f).routes = s.routes := rfl
@[simp] theorem State.modBlock_peerSeq (s : State) (bid : Nat) (f : Block → Block) : (s.modBlock bid f).peerSeq = s.peerSeq := rfl
@[simp] theorem State.modBlock_replayWindows (s : State) (bid : Nat) (f : Block → Block) : (s.modBlock bid f).replayWindows = s.replayWindows := rfl
@[simp] theorem State.modBlock_ballast (s : State) (bid : Nat) (f : Block → Block) : (s.modBlock bid f).ballast = s.ballast := rfl
@[simp] theorem State.modBlock_governor (s : State) (bid : Nat) (f : Block → Block) : (s.modBlock bid f).governor = s.governor := rfl
@[simp] theorem State.modBlock_mgmtReset (s : State) (bid : Nat) (f : Block → Block) : (s.modBlock bid f).mgmtReset = s.mgmtReset := rfl
@[simp] theorem State.modBlock_firmware (s : State) (bid : Nat) (f : Block → Block) : (s.modBlock bid f).firmware = s.firmware := rfl
@[simp] theorem State.modBlock_spdmAnswered (s : State) (bid : Nat) (f : Block → Block) : (s.modBlock bid f).spdmAnswered = s.spdmAnswered := rfl
@[simp] theorem State.modBlock_spdmReport (s : State) (bid : Nat) (f : Block → Block) : (s.modBlock bid f).spdmReport = s.spdmReport := rfl
@[simp] theorem State.modBlock_bar2Read (s : State) (bid : Nat) (f : Block → Block) : (s.modBlock bid f).bar2Read = s.bar2Read := rfl
@[simp] theorem State.modBlock_faultsRead (s : State) (bid : Nat) (f : Block → Block) : (s.modBlock bid f).faultsRead = s.faultsRead := rfl
@[simp] theorem State.modBlock_recQueues (s : State) (bid : Nat) (f : Block → Block) : (s.modBlock bid f).recQueues = s.recQueues := rfl
@[simp] theorem State.modBlock_recWindows (s : State) (bid : Nat) (f : Block → Block) : (s.modBlock bid f).recWindows = s.recWindows := rfl
@[simp] theorem State.modBlock_recording (s : State) (bid : Nat) (f : Block → Block) : (s.modBlock bid f).recording = s.recording := rfl
@[simp] theorem State.modBlock_replayRings (s : State) (bid : Nat) (f : Block → Block) : (s.modBlock bid f).replayRings = s.replayRings := rfl
@[simp] theorem State.modBlock_rerun (s : State) (bid : Nat) (f : Block → Block) : (s.modBlock bid f).rerun = s.rerun := rfl

@[simp] theorem State.modTeam_serial (s : State) (tid : Nat) (f : Team → Team) : (s.modTeam tid f).serial = s.serial := rfl
@[simp] theorem State.modTeam_time (s : State) (tid : Nat) (f : Team → Team) : (s.modTeam tid f).time = s.time := rfl
@[simp] theorem State.modTeam_issue (s : State) (tid : Nat) (f : Team → Team) : (s.modTeam tid f).issue = s.issue := rfl
@[simp] theorem State.modTeam_agenda (s : State) (tid : Nat) (f : Team → Team) : (s.modTeam tid f).agenda = s.agenda := rfl
@[simp] theorem State.modTeam_stimuli (s : State) (tid : Nat) (f : Team → Team) : (s.modTeam tid f).stimuli = s.stimuli := rfl
@[simp] theorem State.modTeam_turns (s : State) (tid : Nat) (f : Team → Team) : (s.modTeam tid f).turns = s.turns := rfl
@[simp] theorem State.modTeam_nextBid (s : State) (tid : Nat) (f : Team → Team) : (s.modTeam tid f).nextBid = s.nextBid := rfl
@[simp] theorem State.modTeam_nextId (s : State) (tid : Nat) (f : Team → Team) : (s.modTeam tid f).nextId = s.nextId := rfl
@[simp] theorem State.modTeam_mem (s : State) (tid : Nat) (f : Team → Team) : (s.modTeam tid f).mem = s.mem := rfl
@[simp] theorem State.modTeam_rewritten (s : State) (tid : Nat) (f : Team → Team) : (s.modTeam tid f).rewritten = s.rewritten := rfl
@[simp] theorem State.modTeam_heldWrites (s : State) (tid : Nat) (f : Team → Team) : (s.modTeam tid f).heldWrites = s.heldWrites := rfl
@[simp] theorem State.modTeam_narrow (s : State) (tid : Nat) (f : Team → Team) : (s.modTeam tid f).narrow = s.narrow := rfl
@[simp] theorem State.modTeam_hollow (s : State) (tid : Nat) (f : Team → Team) : (s.modTeam tid f).hollow = s.hollow := rfl
@[simp] theorem State.modTeam_wants (s : State) (tid : Nat) (f : Team → Team) : (s.modTeam tid f).wants = s.wants := rfl
@[simp] theorem State.modTeam_side (s : State) (tid : Nat) (f : Team → Team) : (s.modTeam tid f).side = s.side := rfl
@[simp] theorem State.modTeam_marks (s : State) (tid : Nat) (f : Team → Team) : (s.modTeam tid f).marks = s.marks := rfl
@[simp] theorem State.modTeam_slices (s : State) (tid : Nat) (f : Team → Team) : (s.modTeam tid f).slices = s.slices := rfl
@[simp] theorem State.modTeam_selectors (s : State) (tid : Nat) (f : Team → Team) : (s.modTeam tid f).selectors = s.selectors := rfl
@[simp] theorem State.modTeam_boards (s : State) (tid : Nat) (f : Team → Team) : (s.modTeam tid f).boards = s.boards := rfl
@[simp] theorem State.modTeam_cores (s : State) (tid : Nat) (f : Team → Team) : (s.modTeam tid f).cores = s.cores := rfl
@[simp] theorem State.modTeam_gangs (s : State) (tid : Nat) (f : Team → Team) : (s.modTeam tid f).gangs = s.gangs := rfl
@[simp] theorem State.modTeam_blocks (s : State) (tid : Nat) (f : Team → Team) : (s.modTeam tid f).blocks = s.blocks := rfl
@[simp] theorem State.modTeam_clusterTlbs (s : State) (tid : Nat) (f : Team → Team) : (s.modTeam tid f).clusterTlbs = s.clusterTlbs := rfl
@[simp] theorem State.modTeam_queues (s : State) (tid : Nat) (f : Team → Team) : (s.modTeam tid f).queues = s.queues := rfl
@[simp] theorem State.modTeam_lastQueue (s : State) (tid : Nat) (f : Team → Team) : (s.modTeam tid f).lastQueue = s.lastQueue := rfl
@[simp] theorem State.modTeam_ports (s : State) (tid : Nat) (f : Team → Team) : (s.modTeam tid f).ports = s.ports := rfl
@[simp] theorem State.modTeam_tokens (s : State) (tid : Nat) (f : Team → Team) : (s.modTeam tid f).tokens = s.tokens := rfl
@[simp] theorem State.modTeam_identifiers (s : State) (tid : Nat) (f : Team → Team) : (s.modTeam tid f).identifiers = s.identifiers := rfl
@[simp] theorem State.modTeam_fqdrop (s : State) (tid : Nat) (f : Team → Team) : (s.modTeam tid f).fqdrop = s.fqdrop := rfl
@[simp] theorem State.modTeam_fqdropStart (s : State) (tid : Nat) (f : Team → Team) : (s.modTeam tid f).fqdropStart = s.fqdropStart := rfl
@[simp] theorem State.modTeam_tickets (s : State) (tid : Nat) (f : Team → Team) : (s.modTeam tid f).tickets = s.tickets := rfl
@[simp] theorem State.modTeam_transRecs (s : State) (tid : Nat) (f : Team → Team) : (s.modTeam tid f).transRecs = s.transRecs := rfl
@[simp] theorem State.modTeam_migrations (s : State) (tid : Nat) (f : Team → Team) : (s.modTeam tid f).migrations = s.migrations := rfl
@[simp] theorem State.modTeam_flying (s : State) (tid : Nat) (f : Team → Team) : (s.modTeam tid f).flying = s.flying := rfl
@[simp] theorem State.modTeam_outbox (s : State) (tid : Nat) (f : Team → Team) : (s.modTeam tid f).outbox = s.outbox := rfl
@[simp] theorem State.modTeam_peerPosted (s : State) (tid : Nat) (f : Team → Team) : (s.modTeam tid f).peerPosted = s.peerPosted := rfl
@[simp] theorem State.modTeam_framePorts (s : State) (tid : Nat) (f : Team → Team) : (s.modTeam tid f).framePorts = s.framePorts := rfl
@[simp] theorem State.modTeam_dies (s : State) (tid : Nat) (f : Team → Team) : (s.modTeam tid f).dies = s.dies := rfl
@[simp] theorem State.modTeam_ioStates (s : State) (tid : Nat) (f : Team → Team) : (s.modTeam tid f).ioStates = s.ioStates := rfl
@[simp] theorem State.modTeam_hbm (s : State) (tid : Nat) (f : Team → Team) : (s.modTeam tid f).hbm = s.hbm := rfl
@[simp] theorem State.modTeam_ioRateHalved (s : State) (tid : Nat) (f : Team → Team) : (s.modTeam tid f).ioRateHalved = s.ioRateHalved := rfl
@[simp] theorem State.modTeam_sensors (s : State) (tid : Nat) (f : Team → Team) : (s.modTeam tid f).sensors = s.sensors := rfl
@[simp] theorem State.modTeam_errstat (s : State) (tid : Nat) (f : Team → Team) : (s.modTeam tid f).errstat = s.errstat := rfl
@[simp] theorem State.modTeam_msix0 (s : State) (tid : Nat) (f : Team → Team) : (s.modTeam tid f).msix0 = s.msix0 := rfl
@[simp] theorem State.modTeam_msix1 (s : State) (tid : Nat) (f : Team → Team) : (s.modTeam tid f).msix1 = s.msix1 := rfl
@[simp] theorem State.modTeam_link (s : State) (tid : Nat) (f : Team → Team) : (s.modTeam tid f).link = s.link := rfl
@[simp] theorem State.modTeam_linkMode (s : State) (tid : Nat) (f : Team → Team) : (s.modTeam tid f).linkMode = s.linkMode := rfl
@[simp] theorem State.modTeam_inbound (s : State) (tid : Nat) (f : Team → Team) : (s.modTeam tid f).inbound = s.inbound := rfl
@[simp] theorem State.modTeam_hostHeld (s : State) (tid : Nat) (f : Team → Team) : (s.modTeam tid f).hostHeld = s.hostHeld := rfl
@[simp] theorem State.modTeam_unsupported (s : State) (tid : Nat) (f : Team → Team) : (s.modTeam tid f).unsupported = s.unsupported := rfl
@[simp] theorem State.modTeam_parityRead (s : State) (tid : Nat) (f : Team → Team) : (s.modTeam tid f).parityRead = s.parityRead := rfl
@[simp] theorem State.modTeam_routes (s : State) (tid : Nat) (f : Team → Team) : (s.modTeam tid f).routes = s.routes := rfl
@[simp] theorem State.modTeam_peerSeq (s : State) (tid : Nat) (f : Team → Team) : (s.modTeam tid f).peerSeq = s.peerSeq := rfl
@[simp] theorem State.modTeam_replayWindows (s : State) (tid : Nat) (f : Team → Team) : (s.modTeam tid f).replayWindows = s.replayWindows := rfl
@[simp] theorem State.modTeam_ballast (s : State) (tid : Nat) (f : Team → Team) : (s.modTeam tid f).ballast = s.ballast := rfl
@[simp] theorem State.modTeam_governor (s : State) (tid : Nat) (f : Team → Team) : (s.modTeam tid f).governor = s.governor := rfl
@[simp] theorem State.modTeam_mgmtReset (s : State) (tid : Nat) (f : Team → Team) : (s.modTeam tid f).mgmtReset = s.mgmtReset := rfl
@[simp] theorem State.modTeam_firmware (s : State) (tid : Nat) (f : Team → Team) : (s.modTeam tid f).firmware = s.firmware := rfl
@[simp] theorem State.modTeam_spdmAnswered (s : State) (tid : Nat) (f : Team → Team) : (s.modTeam tid f).spdmAnswered = s.spdmAnswered := rfl
@[simp] theorem State.modTeam_spdmReport (s : State) (tid : Nat) (f : Team → Team) : (s.modTeam tid f).spdmReport = s.spdmReport := rfl
@[simp] theorem State.modTeam_bar2Read (s : State) (tid : Nat) (f : Team → Team) : (s.modTeam tid f).bar2Read = s.bar2Read := rfl
@[simp] theorem State.modTeam_faultsRead (s : State) (tid : Nat) (f : Team → Team) : (s.modTeam tid f).faultsRead = s.faultsRead := rfl
@[simp] theorem State.modTeam_recQueues (s : State) (tid : Nat) (f : Team → Team) : (s.modTeam tid f).recQueues = s.recQueues := rfl
@[simp] theorem State.modTeam_recWindows (s : State) (tid : Nat) (f : Team → Team) : (s.modTeam tid f).recWindows = s.recWindows := rfl
@[simp] theorem State.modTeam_recording (s : State) (tid : Nat) (f : Team → Team) : (s.modTeam tid f).recording = s.recording := rfl
@[simp] theorem State.modTeam_replayRings (s : State) (tid : Nat) (f : Team → Team) : (s.modTeam tid f).replayRings = s.replayRings := rfl
@[simp] theorem State.modTeam_rerun (s : State) (tid : Nat) (f : Team → Team) : (s.modTeam tid f).rerun = s.rerun := rfl

@[simp] theorem State.modCore_serial (s : State) (c : Nat) (f : Core → Core) : (s.modCore c f).serial = s.serial := rfl
@[simp] theorem State.modCore_time (s : State) (c : Nat) (f : Core → Core) : (s.modCore c f).time = s.time := rfl
@[simp] theorem State.modCore_issue (s : State) (c : Nat) (f : Core → Core) : (s.modCore c f).issue = s.issue := rfl
@[simp] theorem State.modCore_agenda (s : State) (c : Nat) (f : Core → Core) : (s.modCore c f).agenda = s.agenda := rfl
@[simp] theorem State.modCore_stimuli (s : State) (c : Nat) (f : Core → Core) : (s.modCore c f).stimuli = s.stimuli := rfl
@[simp] theorem State.modCore_turns (s : State) (c : Nat) (f : Core → Core) : (s.modCore c f).turns = s.turns := rfl
@[simp] theorem State.modCore_nextBid (s : State) (c : Nat) (f : Core → Core) : (s.modCore c f).nextBid = s.nextBid := rfl
@[simp] theorem State.modCore_nextId (s : State) (c : Nat) (f : Core → Core) : (s.modCore c f).nextId = s.nextId := rfl
@[simp] theorem State.modCore_mem (s : State) (c : Nat) (f : Core → Core) : (s.modCore c f).mem = s.mem := rfl
@[simp] theorem State.modCore_rewritten (s : State) (c : Nat) (f : Core → Core) : (s.modCore c f).rewritten = s.rewritten := rfl
@[simp] theorem State.modCore_heldWrites (s : State) (c : Nat) (f : Core → Core) : (s.modCore c f).heldWrites = s.heldWrites := rfl
@[simp] theorem State.modCore_narrow (s : State) (c : Nat) (f : Core → Core) : (s.modCore c f).narrow = s.narrow := rfl
@[simp] theorem State.modCore_hollow (s : State) (c : Nat) (f : Core → Core) : (s.modCore c f).hollow = s.hollow := rfl
@[simp] theorem State.modCore_wants (s : State) (c : Nat) (f : Core → Core) : (s.modCore c f).wants = s.wants := rfl
@[simp] theorem State.modCore_side (s : State) (c : Nat) (f : Core → Core) : (s.modCore c f).side = s.side := rfl
@[simp] theorem State.modCore_marks (s : State) (c : Nat) (f : Core → Core) : (s.modCore c f).marks = s.marks := rfl
@[simp] theorem State.modCore_slices (s : State) (c : Nat) (f : Core → Core) : (s.modCore c f).slices = s.slices := rfl
@[simp] theorem State.modCore_selectors (s : State) (c : Nat) (f : Core → Core) : (s.modCore c f).selectors = s.selectors := rfl
@[simp] theorem State.modCore_boards (s : State) (c : Nat) (f : Core → Core) : (s.modCore c f).boards = s.boards := rfl
@[simp] theorem State.modCore_gangs (s : State) (c : Nat) (f : Core → Core) : (s.modCore c f).gangs = s.gangs := rfl
@[simp] theorem State.modCore_blocks (s : State) (c : Nat) (f : Core → Core) : (s.modCore c f).blocks = s.blocks := rfl
@[simp] theorem State.modCore_teams (s : State) (c : Nat) (f : Core → Core) : (s.modCore c f).teams = s.teams := rfl
@[simp] theorem State.modCore_clusterTlbs (s : State) (c : Nat) (f : Core → Core) : (s.modCore c f).clusterTlbs = s.clusterTlbs := rfl
@[simp] theorem State.modCore_queues (s : State) (c : Nat) (f : Core → Core) : (s.modCore c f).queues = s.queues := rfl
@[simp] theorem State.modCore_lastQueue (s : State) (c : Nat) (f : Core → Core) : (s.modCore c f).lastQueue = s.lastQueue := rfl
@[simp] theorem State.modCore_ports (s : State) (c : Nat) (f : Core → Core) : (s.modCore c f).ports = s.ports := rfl
@[simp] theorem State.modCore_tokens (s : State) (c : Nat) (f : Core → Core) : (s.modCore c f).tokens = s.tokens := rfl
@[simp] theorem State.modCore_identifiers (s : State) (c : Nat) (f : Core → Core) : (s.modCore c f).identifiers = s.identifiers := rfl
@[simp] theorem State.modCore_fqdrop (s : State) (c : Nat) (f : Core → Core) : (s.modCore c f).fqdrop = s.fqdrop := rfl
@[simp] theorem State.modCore_fqdropStart (s : State) (c : Nat) (f : Core → Core) : (s.modCore c f).fqdropStart = s.fqdropStart := rfl
@[simp] theorem State.modCore_tickets (s : State) (c : Nat) (f : Core → Core) : (s.modCore c f).tickets = s.tickets := rfl
@[simp] theorem State.modCore_transRecs (s : State) (c : Nat) (f : Core → Core) : (s.modCore c f).transRecs = s.transRecs := rfl
@[simp] theorem State.modCore_migrations (s : State) (c : Nat) (f : Core → Core) : (s.modCore c f).migrations = s.migrations := rfl
@[simp] theorem State.modCore_flying (s : State) (c : Nat) (f : Core → Core) : (s.modCore c f).flying = s.flying := rfl
@[simp] theorem State.modCore_outbox (s : State) (c : Nat) (f : Core → Core) : (s.modCore c f).outbox = s.outbox := rfl
@[simp] theorem State.modCore_peerPosted (s : State) (c : Nat) (f : Core → Core) : (s.modCore c f).peerPosted = s.peerPosted := rfl
@[simp] theorem State.modCore_framePorts (s : State) (c : Nat) (f : Core → Core) : (s.modCore c f).framePorts = s.framePorts := rfl
@[simp] theorem State.modCore_dies (s : State) (c : Nat) (f : Core → Core) : (s.modCore c f).dies = s.dies := rfl
@[simp] theorem State.modCore_ioStates (s : State) (c : Nat) (f : Core → Core) : (s.modCore c f).ioStates = s.ioStates := rfl
@[simp] theorem State.modCore_hbm (s : State) (c : Nat) (f : Core → Core) : (s.modCore c f).hbm = s.hbm := rfl
@[simp] theorem State.modCore_ioRateHalved (s : State) (c : Nat) (f : Core → Core) : (s.modCore c f).ioRateHalved = s.ioRateHalved := rfl
@[simp] theorem State.modCore_sensors (s : State) (c : Nat) (f : Core → Core) : (s.modCore c f).sensors = s.sensors := rfl
@[simp] theorem State.modCore_errstat (s : State) (c : Nat) (f : Core → Core) : (s.modCore c f).errstat = s.errstat := rfl
@[simp] theorem State.modCore_msix0 (s : State) (c : Nat) (f : Core → Core) : (s.modCore c f).msix0 = s.msix0 := rfl
@[simp] theorem State.modCore_msix1 (s : State) (c : Nat) (f : Core → Core) : (s.modCore c f).msix1 = s.msix1 := rfl
@[simp] theorem State.modCore_link (s : State) (c : Nat) (f : Core → Core) : (s.modCore c f).link = s.link := rfl
@[simp] theorem State.modCore_linkMode (s : State) (c : Nat) (f : Core → Core) : (s.modCore c f).linkMode = s.linkMode := rfl
@[simp] theorem State.modCore_inbound (s : State) (c : Nat) (f : Core → Core) : (s.modCore c f).inbound = s.inbound := rfl
@[simp] theorem State.modCore_hostHeld (s : State) (c : Nat) (f : Core → Core) : (s.modCore c f).hostHeld = s.hostHeld := rfl
@[simp] theorem State.modCore_unsupported (s : State) (c : Nat) (f : Core → Core) : (s.modCore c f).unsupported = s.unsupported := rfl
@[simp] theorem State.modCore_parityRead (s : State) (c : Nat) (f : Core → Core) : (s.modCore c f).parityRead = s.parityRead := rfl
@[simp] theorem State.modCore_routes (s : State) (c : Nat) (f : Core → Core) : (s.modCore c f).routes = s.routes := rfl
@[simp] theorem State.modCore_peerSeq (s : State) (c : Nat) (f : Core → Core) : (s.modCore c f).peerSeq = s.peerSeq := rfl
@[simp] theorem State.modCore_replayWindows (s : State) (c : Nat) (f : Core → Core) : (s.modCore c f).replayWindows = s.replayWindows := rfl
@[simp] theorem State.modCore_ballast (s : State) (c : Nat) (f : Core → Core) : (s.modCore c f).ballast = s.ballast := rfl
@[simp] theorem State.modCore_governor (s : State) (c : Nat) (f : Core → Core) : (s.modCore c f).governor = s.governor := rfl
@[simp] theorem State.modCore_mgmtReset (s : State) (c : Nat) (f : Core → Core) : (s.modCore c f).mgmtReset = s.mgmtReset := rfl
@[simp] theorem State.modCore_firmware (s : State) (c : Nat) (f : Core → Core) : (s.modCore c f).firmware = s.firmware := rfl
@[simp] theorem State.modCore_spdmAnswered (s : State) (c : Nat) (f : Core → Core) : (s.modCore c f).spdmAnswered = s.spdmAnswered := rfl
@[simp] theorem State.modCore_spdmReport (s : State) (c : Nat) (f : Core → Core) : (s.modCore c f).spdmReport = s.spdmReport := rfl
@[simp] theorem State.modCore_bar2Read (s : State) (c : Nat) (f : Core → Core) : (s.modCore c f).bar2Read = s.bar2Read := rfl
@[simp] theorem State.modCore_faultsRead (s : State) (c : Nat) (f : Core → Core) : (s.modCore c f).faultsRead = s.faultsRead := rfl
@[simp] theorem State.modCore_recQueues (s : State) (c : Nat) (f : Core → Core) : (s.modCore c f).recQueues = s.recQueues := rfl
@[simp] theorem State.modCore_recWindows (s : State) (c : Nat) (f : Core → Core) : (s.modCore c f).recWindows = s.recWindows := rfl
@[simp] theorem State.modCore_recording (s : State) (c : Nat) (f : Core → Core) : (s.modCore c f).recording = s.recording := rfl
@[simp] theorem State.modCore_replayRings (s : State) (c : Nat) (f : Core → Core) : (s.modCore c f).replayRings = s.replayRings := rfl
@[simp] theorem State.modCore_rerun (s : State) (c : Nat) (f : Core → Core) : (s.modCore c f).rerun = s.rerun := rfl

@[simp] theorem State.modDie_serial (s : State) (k : Nat) (f : Die → Die) : (s.modDie k f).serial = s.serial := rfl
@[simp] theorem State.modDie_time (s : State) (k : Nat) (f : Die → Die) : (s.modDie k f).time = s.time := rfl
@[simp] theorem State.modDie_issue (s : State) (k : Nat) (f : Die → Die) : (s.modDie k f).issue = s.issue := rfl
@[simp] theorem State.modDie_agenda (s : State) (k : Nat) (f : Die → Die) : (s.modDie k f).agenda = s.agenda := rfl
@[simp] theorem State.modDie_stimuli (s : State) (k : Nat) (f : Die → Die) : (s.modDie k f).stimuli = s.stimuli := rfl
@[simp] theorem State.modDie_turns (s : State) (k : Nat) (f : Die → Die) : (s.modDie k f).turns = s.turns := rfl
@[simp] theorem State.modDie_nextBid (s : State) (k : Nat) (f : Die → Die) : (s.modDie k f).nextBid = s.nextBid := rfl
@[simp] theorem State.modDie_nextId (s : State) (k : Nat) (f : Die → Die) : (s.modDie k f).nextId = s.nextId := rfl
@[simp] theorem State.modDie_mem (s : State) (k : Nat) (f : Die → Die) : (s.modDie k f).mem = s.mem := rfl
@[simp] theorem State.modDie_rewritten (s : State) (k : Nat) (f : Die → Die) : (s.modDie k f).rewritten = s.rewritten := rfl
@[simp] theorem State.modDie_heldWrites (s : State) (k : Nat) (f : Die → Die) : (s.modDie k f).heldWrites = s.heldWrites := rfl
@[simp] theorem State.modDie_narrow (s : State) (k : Nat) (f : Die → Die) : (s.modDie k f).narrow = s.narrow := rfl
@[simp] theorem State.modDie_hollow (s : State) (k : Nat) (f : Die → Die) : (s.modDie k f).hollow = s.hollow := rfl
@[simp] theorem State.modDie_wants (s : State) (k : Nat) (f : Die → Die) : (s.modDie k f).wants = s.wants := rfl
@[simp] theorem State.modDie_side (s : State) (k : Nat) (f : Die → Die) : (s.modDie k f).side = s.side := rfl
@[simp] theorem State.modDie_marks (s : State) (k : Nat) (f : Die → Die) : (s.modDie k f).marks = s.marks := rfl
@[simp] theorem State.modDie_slices (s : State) (k : Nat) (f : Die → Die) : (s.modDie k f).slices = s.slices := rfl
@[simp] theorem State.modDie_selectors (s : State) (k : Nat) (f : Die → Die) : (s.modDie k f).selectors = s.selectors := rfl
@[simp] theorem State.modDie_boards (s : State) (k : Nat) (f : Die → Die) : (s.modDie k f).boards = s.boards := rfl
@[simp] theorem State.modDie_cores (s : State) (k : Nat) (f : Die → Die) : (s.modDie k f).cores = s.cores := rfl
@[simp] theorem State.modDie_gangs (s : State) (k : Nat) (f : Die → Die) : (s.modDie k f).gangs = s.gangs := rfl
@[simp] theorem State.modDie_blocks (s : State) (k : Nat) (f : Die → Die) : (s.modDie k f).blocks = s.blocks := rfl
@[simp] theorem State.modDie_teams (s : State) (k : Nat) (f : Die → Die) : (s.modDie k f).teams = s.teams := rfl
@[simp] theorem State.modDie_clusterTlbs (s : State) (k : Nat) (f : Die → Die) : (s.modDie k f).clusterTlbs = s.clusterTlbs := rfl
@[simp] theorem State.modDie_queues (s : State) (k : Nat) (f : Die → Die) : (s.modDie k f).queues = s.queues := rfl
@[simp] theorem State.modDie_lastQueue (s : State) (k : Nat) (f : Die → Die) : (s.modDie k f).lastQueue = s.lastQueue := rfl
@[simp] theorem State.modDie_ports (s : State) (k : Nat) (f : Die → Die) : (s.modDie k f).ports = s.ports := rfl
@[simp] theorem State.modDie_tokens (s : State) (k : Nat) (f : Die → Die) : (s.modDie k f).tokens = s.tokens := rfl
@[simp] theorem State.modDie_identifiers (s : State) (k : Nat) (f : Die → Die) : (s.modDie k f).identifiers = s.identifiers := rfl
@[simp] theorem State.modDie_fqdrop (s : State) (k : Nat) (f : Die → Die) : (s.modDie k f).fqdrop = s.fqdrop := rfl
@[simp] theorem State.modDie_fqdropStart (s : State) (k : Nat) (f : Die → Die) : (s.modDie k f).fqdropStart = s.fqdropStart := rfl
@[simp] theorem State.modDie_tickets (s : State) (k : Nat) (f : Die → Die) : (s.modDie k f).tickets = s.tickets := rfl
@[simp] theorem State.modDie_transRecs (s : State) (k : Nat) (f : Die → Die) : (s.modDie k f).transRecs = s.transRecs := rfl
@[simp] theorem State.modDie_migrations (s : State) (k : Nat) (f : Die → Die) : (s.modDie k f).migrations = s.migrations := rfl
@[simp] theorem State.modDie_flying (s : State) (k : Nat) (f : Die → Die) : (s.modDie k f).flying = s.flying := rfl
@[simp] theorem State.modDie_outbox (s : State) (k : Nat) (f : Die → Die) : (s.modDie k f).outbox = s.outbox := rfl
@[simp] theorem State.modDie_peerPosted (s : State) (k : Nat) (f : Die → Die) : (s.modDie k f).peerPosted = s.peerPosted := rfl
@[simp] theorem State.modDie_framePorts (s : State) (k : Nat) (f : Die → Die) : (s.modDie k f).framePorts = s.framePorts := rfl
@[simp] theorem State.modDie_ioStates (s : State) (k : Nat) (f : Die → Die) : (s.modDie k f).ioStates = s.ioStates := rfl
@[simp] theorem State.modDie_hbm (s : State) (k : Nat) (f : Die → Die) : (s.modDie k f).hbm = s.hbm := rfl
@[simp] theorem State.modDie_ioRateHalved (s : State) (k : Nat) (f : Die → Die) : (s.modDie k f).ioRateHalved = s.ioRateHalved := rfl
@[simp] theorem State.modDie_sensors (s : State) (k : Nat) (f : Die → Die) : (s.modDie k f).sensors = s.sensors := rfl
@[simp] theorem State.modDie_errstat (s : State) (k : Nat) (f : Die → Die) : (s.modDie k f).errstat = s.errstat := rfl
@[simp] theorem State.modDie_msix0 (s : State) (k : Nat) (f : Die → Die) : (s.modDie k f).msix0 = s.msix0 := rfl
@[simp] theorem State.modDie_msix1 (s : State) (k : Nat) (f : Die → Die) : (s.modDie k f).msix1 = s.msix1 := rfl
@[simp] theorem State.modDie_link (s : State) (k : Nat) (f : Die → Die) : (s.modDie k f).link = s.link := rfl
@[simp] theorem State.modDie_linkMode (s : State) (k : Nat) (f : Die → Die) : (s.modDie k f).linkMode = s.linkMode := rfl
@[simp] theorem State.modDie_inbound (s : State) (k : Nat) (f : Die → Die) : (s.modDie k f).inbound = s.inbound := rfl
@[simp] theorem State.modDie_hostHeld (s : State) (k : Nat) (f : Die → Die) : (s.modDie k f).hostHeld = s.hostHeld := rfl
@[simp] theorem State.modDie_unsupported (s : State) (k : Nat) (f : Die → Die) : (s.modDie k f).unsupported = s.unsupported := rfl
@[simp] theorem State.modDie_parityRead (s : State) (k : Nat) (f : Die → Die) : (s.modDie k f).parityRead = s.parityRead := rfl
@[simp] theorem State.modDie_routes (s : State) (k : Nat) (f : Die → Die) : (s.modDie k f).routes = s.routes := rfl
@[simp] theorem State.modDie_peerSeq (s : State) (k : Nat) (f : Die → Die) : (s.modDie k f).peerSeq = s.peerSeq := rfl
@[simp] theorem State.modDie_replayWindows (s : State) (k : Nat) (f : Die → Die) : (s.modDie k f).replayWindows = s.replayWindows := rfl
@[simp] theorem State.modDie_ballast (s : State) (k : Nat) (f : Die → Die) : (s.modDie k f).ballast = s.ballast := rfl
@[simp] theorem State.modDie_governor (s : State) (k : Nat) (f : Die → Die) : (s.modDie k f).governor = s.governor := rfl
@[simp] theorem State.modDie_mgmtReset (s : State) (k : Nat) (f : Die → Die) : (s.modDie k f).mgmtReset = s.mgmtReset := rfl
@[simp] theorem State.modDie_firmware (s : State) (k : Nat) (f : Die → Die) : (s.modDie k f).firmware = s.firmware := rfl
@[simp] theorem State.modDie_spdmAnswered (s : State) (k : Nat) (f : Die → Die) : (s.modDie k f).spdmAnswered = s.spdmAnswered := rfl
@[simp] theorem State.modDie_spdmReport (s : State) (k : Nat) (f : Die → Die) : (s.modDie k f).spdmReport = s.spdmReport := rfl
@[simp] theorem State.modDie_bar2Read (s : State) (k : Nat) (f : Die → Die) : (s.modDie k f).bar2Read = s.bar2Read := rfl
@[simp] theorem State.modDie_faultsRead (s : State) (k : Nat) (f : Die → Die) : (s.modDie k f).faultsRead = s.faultsRead := rfl
@[simp] theorem State.modDie_recQueues (s : State) (k : Nat) (f : Die → Die) : (s.modDie k f).recQueues = s.recQueues := rfl
@[simp] theorem State.modDie_recWindows (s : State) (k : Nat) (f : Die → Die) : (s.modDie k f).recWindows = s.recWindows := rfl
@[simp] theorem State.modDie_recording (s : State) (k : Nat) (f : Die → Die) : (s.modDie k f).recording = s.recording := rfl
@[simp] theorem State.modDie_replayRings (s : State) (k : Nat) (f : Die → Die) : (s.modDie k f).replayRings = s.replayRings := rfl
@[simp] theorem State.modDie_rerun (s : State) (k : Nat) (f : Die → Die) : (s.modDie k f).rerun = s.rerun := rfl

@[simp] theorem State.modStack_serial (s : State) (k : Nat) (f : Stack → Stack) : (s.modStack k f).serial = s.serial := rfl
@[simp] theorem State.modStack_time (s : State) (k : Nat) (f : Stack → Stack) : (s.modStack k f).time = s.time := rfl
@[simp] theorem State.modStack_issue (s : State) (k : Nat) (f : Stack → Stack) : (s.modStack k f).issue = s.issue := rfl
@[simp] theorem State.modStack_agenda (s : State) (k : Nat) (f : Stack → Stack) : (s.modStack k f).agenda = s.agenda := rfl
@[simp] theorem State.modStack_stimuli (s : State) (k : Nat) (f : Stack → Stack) : (s.modStack k f).stimuli = s.stimuli := rfl
@[simp] theorem State.modStack_turns (s : State) (k : Nat) (f : Stack → Stack) : (s.modStack k f).turns = s.turns := rfl
@[simp] theorem State.modStack_nextBid (s : State) (k : Nat) (f : Stack → Stack) : (s.modStack k f).nextBid = s.nextBid := rfl
@[simp] theorem State.modStack_nextId (s : State) (k : Nat) (f : Stack → Stack) : (s.modStack k f).nextId = s.nextId := rfl
@[simp] theorem State.modStack_mem (s : State) (k : Nat) (f : Stack → Stack) : (s.modStack k f).mem = s.mem := rfl
@[simp] theorem State.modStack_rewritten (s : State) (k : Nat) (f : Stack → Stack) : (s.modStack k f).rewritten = s.rewritten := rfl
@[simp] theorem State.modStack_heldWrites (s : State) (k : Nat) (f : Stack → Stack) : (s.modStack k f).heldWrites = s.heldWrites := rfl
@[simp] theorem State.modStack_narrow (s : State) (k : Nat) (f : Stack → Stack) : (s.modStack k f).narrow = s.narrow := rfl
@[simp] theorem State.modStack_hollow (s : State) (k : Nat) (f : Stack → Stack) : (s.modStack k f).hollow = s.hollow := rfl
@[simp] theorem State.modStack_wants (s : State) (k : Nat) (f : Stack → Stack) : (s.modStack k f).wants = s.wants := rfl
@[simp] theorem State.modStack_side (s : State) (k : Nat) (f : Stack → Stack) : (s.modStack k f).side = s.side := rfl
@[simp] theorem State.modStack_marks (s : State) (k : Nat) (f : Stack → Stack) : (s.modStack k f).marks = s.marks := rfl
@[simp] theorem State.modStack_slices (s : State) (k : Nat) (f : Stack → Stack) : (s.modStack k f).slices = s.slices := rfl
@[simp] theorem State.modStack_selectors (s : State) (k : Nat) (f : Stack → Stack) : (s.modStack k f).selectors = s.selectors := rfl
@[simp] theorem State.modStack_boards (s : State) (k : Nat) (f : Stack → Stack) : (s.modStack k f).boards = s.boards := rfl
@[simp] theorem State.modStack_cores (s : State) (k : Nat) (f : Stack → Stack) : (s.modStack k f).cores = s.cores := rfl
@[simp] theorem State.modStack_gangs (s : State) (k : Nat) (f : Stack → Stack) : (s.modStack k f).gangs = s.gangs := rfl
@[simp] theorem State.modStack_blocks (s : State) (k : Nat) (f : Stack → Stack) : (s.modStack k f).blocks = s.blocks := rfl
@[simp] theorem State.modStack_teams (s : State) (k : Nat) (f : Stack → Stack) : (s.modStack k f).teams = s.teams := rfl
@[simp] theorem State.modStack_clusterTlbs (s : State) (k : Nat) (f : Stack → Stack) : (s.modStack k f).clusterTlbs = s.clusterTlbs := rfl
@[simp] theorem State.modStack_queues (s : State) (k : Nat) (f : Stack → Stack) : (s.modStack k f).queues = s.queues := rfl
@[simp] theorem State.modStack_lastQueue (s : State) (k : Nat) (f : Stack → Stack) : (s.modStack k f).lastQueue = s.lastQueue := rfl
@[simp] theorem State.modStack_ports (s : State) (k : Nat) (f : Stack → Stack) : (s.modStack k f).ports = s.ports := rfl
@[simp] theorem State.modStack_tokens (s : State) (k : Nat) (f : Stack → Stack) : (s.modStack k f).tokens = s.tokens := rfl
@[simp] theorem State.modStack_identifiers (s : State) (k : Nat) (f : Stack → Stack) : (s.modStack k f).identifiers = s.identifiers := rfl
@[simp] theorem State.modStack_fqdrop (s : State) (k : Nat) (f : Stack → Stack) : (s.modStack k f).fqdrop = s.fqdrop := rfl
@[simp] theorem State.modStack_fqdropStart (s : State) (k : Nat) (f : Stack → Stack) : (s.modStack k f).fqdropStart = s.fqdropStart := rfl
@[simp] theorem State.modStack_tickets (s : State) (k : Nat) (f : Stack → Stack) : (s.modStack k f).tickets = s.tickets := rfl
@[simp] theorem State.modStack_transRecs (s : State) (k : Nat) (f : Stack → Stack) : (s.modStack k f).transRecs = s.transRecs := rfl
@[simp] theorem State.modStack_migrations (s : State) (k : Nat) (f : Stack → Stack) : (s.modStack k f).migrations = s.migrations := rfl
@[simp] theorem State.modStack_flying (s : State) (k : Nat) (f : Stack → Stack) : (s.modStack k f).flying = s.flying := rfl
@[simp] theorem State.modStack_outbox (s : State) (k : Nat) (f : Stack → Stack) : (s.modStack k f).outbox = s.outbox := rfl
@[simp] theorem State.modStack_peerPosted (s : State) (k : Nat) (f : Stack → Stack) : (s.modStack k f).peerPosted = s.peerPosted := rfl
@[simp] theorem State.modStack_framePorts (s : State) (k : Nat) (f : Stack → Stack) : (s.modStack k f).framePorts = s.framePorts := rfl
@[simp] theorem State.modStack_dies (s : State) (k : Nat) (f : Stack → Stack) : (s.modStack k f).dies = s.dies := rfl
@[simp] theorem State.modStack_ioStates (s : State) (k : Nat) (f : Stack → Stack) : (s.modStack k f).ioStates = s.ioStates := rfl
@[simp] theorem State.modStack_ioRateHalved (s : State) (k : Nat) (f : Stack → Stack) : (s.modStack k f).ioRateHalved = s.ioRateHalved := rfl
@[simp] theorem State.modStack_sensors (s : State) (k : Nat) (f : Stack → Stack) : (s.modStack k f).sensors = s.sensors := rfl
@[simp] theorem State.modStack_errstat (s : State) (k : Nat) (f : Stack → Stack) : (s.modStack k f).errstat = s.errstat := rfl
@[simp] theorem State.modStack_msix0 (s : State) (k : Nat) (f : Stack → Stack) : (s.modStack k f).msix0 = s.msix0 := rfl
@[simp] theorem State.modStack_msix1 (s : State) (k : Nat) (f : Stack → Stack) : (s.modStack k f).msix1 = s.msix1 := rfl
@[simp] theorem State.modStack_link (s : State) (k : Nat) (f : Stack → Stack) : (s.modStack k f).link = s.link := rfl
@[simp] theorem State.modStack_linkMode (s : State) (k : Nat) (f : Stack → Stack) : (s.modStack k f).linkMode = s.linkMode := rfl
@[simp] theorem State.modStack_inbound (s : State) (k : Nat) (f : Stack → Stack) : (s.modStack k f).inbound = s.inbound := rfl
@[simp] theorem State.modStack_hostHeld (s : State) (k : Nat) (f : Stack → Stack) : (s.modStack k f).hostHeld = s.hostHeld := rfl
@[simp] theorem State.modStack_unsupported (s : State) (k : Nat) (f : Stack → Stack) : (s.modStack k f).unsupported = s.unsupported := rfl
@[simp] theorem State.modStack_parityRead (s : State) (k : Nat) (f : Stack → Stack) : (s.modStack k f).parityRead = s.parityRead := rfl
@[simp] theorem State.modStack_routes (s : State) (k : Nat) (f : Stack → Stack) : (s.modStack k f).routes = s.routes := rfl
@[simp] theorem State.modStack_peerSeq (s : State) (k : Nat) (f : Stack → Stack) : (s.modStack k f).peerSeq = s.peerSeq := rfl
@[simp] theorem State.modStack_replayWindows (s : State) (k : Nat) (f : Stack → Stack) : (s.modStack k f).replayWindows = s.replayWindows := rfl
@[simp] theorem State.modStack_ballast (s : State) (k : Nat) (f : Stack → Stack) : (s.modStack k f).ballast = s.ballast := rfl
@[simp] theorem State.modStack_governor (s : State) (k : Nat) (f : Stack → Stack) : (s.modStack k f).governor = s.governor := rfl
@[simp] theorem State.modStack_mgmtReset (s : State) (k : Nat) (f : Stack → Stack) : (s.modStack k f).mgmtReset = s.mgmtReset := rfl
@[simp] theorem State.modStack_firmware (s : State) (k : Nat) (f : Stack → Stack) : (s.modStack k f).firmware = s.firmware := rfl
@[simp] theorem State.modStack_spdmAnswered (s : State) (k : Nat) (f : Stack → Stack) : (s.modStack k f).spdmAnswered = s.spdmAnswered := rfl
@[simp] theorem State.modStack_spdmReport (s : State) (k : Nat) (f : Stack → Stack) : (s.modStack k f).spdmReport = s.spdmReport := rfl
@[simp] theorem State.modStack_bar2Read (s : State) (k : Nat) (f : Stack → Stack) : (s.modStack k f).bar2Read = s.bar2Read := rfl
@[simp] theorem State.modStack_faultsRead (s : State) (k : Nat) (f : Stack → Stack) : (s.modStack k f).faultsRead = s.faultsRead := rfl
@[simp] theorem State.modStack_recQueues (s : State) (k : Nat) (f : Stack → Stack) : (s.modStack k f).recQueues = s.recQueues := rfl
@[simp] theorem State.modStack_recWindows (s : State) (k : Nat) (f : Stack → Stack) : (s.modStack k f).recWindows = s.recWindows := rfl
@[simp] theorem State.modStack_recording (s : State) (k : Nat) (f : Stack → Stack) : (s.modStack k f).recording = s.recording := rfl
@[simp] theorem State.modStack_replayRings (s : State) (k : Nat) (f : Stack → Stack) : (s.modStack k f).replayRings = s.replayRings := rfl
@[simp] theorem State.modStack_rerun (s : State) (k : Nat) (f : Stack → Stack) : (s.modStack k f).rerun = s.rerun := rfl

@[simp] theorem State.modQueue_serial (s : State) (q : Nat) (f : Queue → Queue) : (s.modQueue q f).serial = s.serial := rfl
@[simp] theorem State.modQueue_time (s : State) (q : Nat) (f : Queue → Queue) : (s.modQueue q f).time = s.time := rfl
@[simp] theorem State.modQueue_issue (s : State) (q : Nat) (f : Queue → Queue) : (s.modQueue q f).issue = s.issue := rfl
@[simp] theorem State.modQueue_agenda (s : State) (q : Nat) (f : Queue → Queue) : (s.modQueue q f).agenda = s.agenda := rfl
@[simp] theorem State.modQueue_stimuli (s : State) (q : Nat) (f : Queue → Queue) : (s.modQueue q f).stimuli = s.stimuli := rfl
@[simp] theorem State.modQueue_turns (s : State) (q : Nat) (f : Queue → Queue) : (s.modQueue q f).turns = s.turns := rfl
@[simp] theorem State.modQueue_nextBid (s : State) (q : Nat) (f : Queue → Queue) : (s.modQueue q f).nextBid = s.nextBid := rfl
@[simp] theorem State.modQueue_nextId (s : State) (q : Nat) (f : Queue → Queue) : (s.modQueue q f).nextId = s.nextId := rfl
@[simp] theorem State.modQueue_mem (s : State) (q : Nat) (f : Queue → Queue) : (s.modQueue q f).mem = s.mem := rfl
@[simp] theorem State.modQueue_rewritten (s : State) (q : Nat) (f : Queue → Queue) : (s.modQueue q f).rewritten = s.rewritten := rfl
@[simp] theorem State.modQueue_heldWrites (s : State) (q : Nat) (f : Queue → Queue) : (s.modQueue q f).heldWrites = s.heldWrites := rfl
@[simp] theorem State.modQueue_narrow (s : State) (q : Nat) (f : Queue → Queue) : (s.modQueue q f).narrow = s.narrow := rfl
@[simp] theorem State.modQueue_hollow (s : State) (q : Nat) (f : Queue → Queue) : (s.modQueue q f).hollow = s.hollow := rfl
@[simp] theorem State.modQueue_wants (s : State) (q : Nat) (f : Queue → Queue) : (s.modQueue q f).wants = s.wants := rfl
@[simp] theorem State.modQueue_side (s : State) (q : Nat) (f : Queue → Queue) : (s.modQueue q f).side = s.side := rfl
@[simp] theorem State.modQueue_marks (s : State) (q : Nat) (f : Queue → Queue) : (s.modQueue q f).marks = s.marks := rfl
@[simp] theorem State.modQueue_slices (s : State) (q : Nat) (f : Queue → Queue) : (s.modQueue q f).slices = s.slices := rfl
@[simp] theorem State.modQueue_selectors (s : State) (q : Nat) (f : Queue → Queue) : (s.modQueue q f).selectors = s.selectors := rfl
@[simp] theorem State.modQueue_boards (s : State) (q : Nat) (f : Queue → Queue) : (s.modQueue q f).boards = s.boards := rfl
@[simp] theorem State.modQueue_cores (s : State) (q : Nat) (f : Queue → Queue) : (s.modQueue q f).cores = s.cores := rfl
@[simp] theorem State.modQueue_gangs (s : State) (q : Nat) (f : Queue → Queue) : (s.modQueue q f).gangs = s.gangs := rfl
@[simp] theorem State.modQueue_blocks (s : State) (q : Nat) (f : Queue → Queue) : (s.modQueue q f).blocks = s.blocks := rfl
@[simp] theorem State.modQueue_teams (s : State) (q : Nat) (f : Queue → Queue) : (s.modQueue q f).teams = s.teams := rfl
@[simp] theorem State.modQueue_clusterTlbs (s : State) (q : Nat) (f : Queue → Queue) : (s.modQueue q f).clusterTlbs = s.clusterTlbs := rfl
@[simp] theorem State.modQueue_lastQueue (s : State) (q : Nat) (f : Queue → Queue) : (s.modQueue q f).lastQueue = s.lastQueue := rfl
@[simp] theorem State.modQueue_ports (s : State) (q : Nat) (f : Queue → Queue) : (s.modQueue q f).ports = s.ports := rfl
@[simp] theorem State.modQueue_tokens (s : State) (q : Nat) (f : Queue → Queue) : (s.modQueue q f).tokens = s.tokens := rfl
@[simp] theorem State.modQueue_identifiers (s : State) (q : Nat) (f : Queue → Queue) : (s.modQueue q f).identifiers = s.identifiers := rfl
@[simp] theorem State.modQueue_fqdrop (s : State) (q : Nat) (f : Queue → Queue) : (s.modQueue q f).fqdrop = s.fqdrop := rfl
@[simp] theorem State.modQueue_fqdropStart (s : State) (q : Nat) (f : Queue → Queue) : (s.modQueue q f).fqdropStart = s.fqdropStart := rfl
@[simp] theorem State.modQueue_tickets (s : State) (q : Nat) (f : Queue → Queue) : (s.modQueue q f).tickets = s.tickets := rfl
@[simp] theorem State.modQueue_transRecs (s : State) (q : Nat) (f : Queue → Queue) : (s.modQueue q f).transRecs = s.transRecs := rfl
@[simp] theorem State.modQueue_migrations (s : State) (q : Nat) (f : Queue → Queue) : (s.modQueue q f).migrations = s.migrations := rfl
@[simp] theorem State.modQueue_flying (s : State) (q : Nat) (f : Queue → Queue) : (s.modQueue q f).flying = s.flying := rfl
@[simp] theorem State.modQueue_outbox (s : State) (q : Nat) (f : Queue → Queue) : (s.modQueue q f).outbox = s.outbox := rfl
@[simp] theorem State.modQueue_peerPosted (s : State) (q : Nat) (f : Queue → Queue) : (s.modQueue q f).peerPosted = s.peerPosted := rfl
@[simp] theorem State.modQueue_framePorts (s : State) (q : Nat) (f : Queue → Queue) : (s.modQueue q f).framePorts = s.framePorts := rfl
@[simp] theorem State.modQueue_dies (s : State) (q : Nat) (f : Queue → Queue) : (s.modQueue q f).dies = s.dies := rfl
@[simp] theorem State.modQueue_ioStates (s : State) (q : Nat) (f : Queue → Queue) : (s.modQueue q f).ioStates = s.ioStates := rfl
@[simp] theorem State.modQueue_hbm (s : State) (q : Nat) (f : Queue → Queue) : (s.modQueue q f).hbm = s.hbm := rfl
@[simp] theorem State.modQueue_ioRateHalved (s : State) (q : Nat) (f : Queue → Queue) : (s.modQueue q f).ioRateHalved = s.ioRateHalved := rfl
@[simp] theorem State.modQueue_sensors (s : State) (q : Nat) (f : Queue → Queue) : (s.modQueue q f).sensors = s.sensors := rfl
@[simp] theorem State.modQueue_errstat (s : State) (q : Nat) (f : Queue → Queue) : (s.modQueue q f).errstat = s.errstat := rfl
@[simp] theorem State.modQueue_msix0 (s : State) (q : Nat) (f : Queue → Queue) : (s.modQueue q f).msix0 = s.msix0 := rfl
@[simp] theorem State.modQueue_msix1 (s : State) (q : Nat) (f : Queue → Queue) : (s.modQueue q f).msix1 = s.msix1 := rfl
@[simp] theorem State.modQueue_link (s : State) (q : Nat) (f : Queue → Queue) : (s.modQueue q f).link = s.link := rfl
@[simp] theorem State.modQueue_linkMode (s : State) (q : Nat) (f : Queue → Queue) : (s.modQueue q f).linkMode = s.linkMode := rfl
@[simp] theorem State.modQueue_inbound (s : State) (q : Nat) (f : Queue → Queue) : (s.modQueue q f).inbound = s.inbound := rfl
@[simp] theorem State.modQueue_hostHeld (s : State) (q : Nat) (f : Queue → Queue) : (s.modQueue q f).hostHeld = s.hostHeld := rfl
@[simp] theorem State.modQueue_unsupported (s : State) (q : Nat) (f : Queue → Queue) : (s.modQueue q f).unsupported = s.unsupported := rfl
@[simp] theorem State.modQueue_parityRead (s : State) (q : Nat) (f : Queue → Queue) : (s.modQueue q f).parityRead = s.parityRead := rfl
@[simp] theorem State.modQueue_routes (s : State) (q : Nat) (f : Queue → Queue) : (s.modQueue q f).routes = s.routes := rfl
@[simp] theorem State.modQueue_peerSeq (s : State) (q : Nat) (f : Queue → Queue) : (s.modQueue q f).peerSeq = s.peerSeq := rfl
@[simp] theorem State.modQueue_replayWindows (s : State) (q : Nat) (f : Queue → Queue) : (s.modQueue q f).replayWindows = s.replayWindows := rfl
@[simp] theorem State.modQueue_ballast (s : State) (q : Nat) (f : Queue → Queue) : (s.modQueue q f).ballast = s.ballast := rfl
@[simp] theorem State.modQueue_governor (s : State) (q : Nat) (f : Queue → Queue) : (s.modQueue q f).governor = s.governor := rfl
@[simp] theorem State.modQueue_mgmtReset (s : State) (q : Nat) (f : Queue → Queue) : (s.modQueue q f).mgmtReset = s.mgmtReset := rfl
@[simp] theorem State.modQueue_firmware (s : State) (q : Nat) (f : Queue → Queue) : (s.modQueue q f).firmware = s.firmware := rfl
@[simp] theorem State.modQueue_spdmAnswered (s : State) (q : Nat) (f : Queue → Queue) : (s.modQueue q f).spdmAnswered = s.spdmAnswered := rfl
@[simp] theorem State.modQueue_spdmReport (s : State) (q : Nat) (f : Queue → Queue) : (s.modQueue q f).spdmReport = s.spdmReport := rfl
@[simp] theorem State.modQueue_bar2Read (s : State) (q : Nat) (f : Queue → Queue) : (s.modQueue q f).bar2Read = s.bar2Read := rfl
@[simp] theorem State.modQueue_faultsRead (s : State) (q : Nat) (f : Queue → Queue) : (s.modQueue q f).faultsRead = s.faultsRead := rfl
@[simp] theorem State.modQueue_recQueues (s : State) (q : Nat) (f : Queue → Queue) : (s.modQueue q f).recQueues = s.recQueues := rfl
@[simp] theorem State.modQueue_recWindows (s : State) (q : Nat) (f : Queue → Queue) : (s.modQueue q f).recWindows = s.recWindows := rfl
@[simp] theorem State.modQueue_recording (s : State) (q : Nat) (f : Queue → Queue) : (s.modQueue q f).recording = s.recording := rfl
@[simp] theorem State.modQueue_replayRings (s : State) (q : Nat) (f : Queue → Queue) : (s.modQueue q f).replayRings = s.replayRings := rfl
@[simp] theorem State.modQueue_rerun (s : State) (q : Nat) (f : Queue → Queue) : (s.modQueue q f).rerun = s.rerun := rfl

@[simp] theorem State.modBoard_serial (s : State) (b : Nat) (f : Board → Board) : (s.modBoard b f).serial = s.serial := rfl
@[simp] theorem State.modBoard_time (s : State) (b : Nat) (f : Board → Board) : (s.modBoard b f).time = s.time := rfl
@[simp] theorem State.modBoard_issue (s : State) (b : Nat) (f : Board → Board) : (s.modBoard b f).issue = s.issue := rfl
@[simp] theorem State.modBoard_agenda (s : State) (b : Nat) (f : Board → Board) : (s.modBoard b f).agenda = s.agenda := rfl
@[simp] theorem State.modBoard_stimuli (s : State) (b : Nat) (f : Board → Board) : (s.modBoard b f).stimuli = s.stimuli := rfl
@[simp] theorem State.modBoard_turns (s : State) (b : Nat) (f : Board → Board) : (s.modBoard b f).turns = s.turns := rfl
@[simp] theorem State.modBoard_nextBid (s : State) (b : Nat) (f : Board → Board) : (s.modBoard b f).nextBid = s.nextBid := rfl
@[simp] theorem State.modBoard_nextId (s : State) (b : Nat) (f : Board → Board) : (s.modBoard b f).nextId = s.nextId := rfl
@[simp] theorem State.modBoard_mem (s : State) (b : Nat) (f : Board → Board) : (s.modBoard b f).mem = s.mem := rfl
@[simp] theorem State.modBoard_rewritten (s : State) (b : Nat) (f : Board → Board) : (s.modBoard b f).rewritten = s.rewritten := rfl
@[simp] theorem State.modBoard_heldWrites (s : State) (b : Nat) (f : Board → Board) : (s.modBoard b f).heldWrites = s.heldWrites := rfl
@[simp] theorem State.modBoard_narrow (s : State) (b : Nat) (f : Board → Board) : (s.modBoard b f).narrow = s.narrow := rfl
@[simp] theorem State.modBoard_hollow (s : State) (b : Nat) (f : Board → Board) : (s.modBoard b f).hollow = s.hollow := rfl
@[simp] theorem State.modBoard_wants (s : State) (b : Nat) (f : Board → Board) : (s.modBoard b f).wants = s.wants := rfl
@[simp] theorem State.modBoard_side (s : State) (b : Nat) (f : Board → Board) : (s.modBoard b f).side = s.side := rfl
@[simp] theorem State.modBoard_marks (s : State) (b : Nat) (f : Board → Board) : (s.modBoard b f).marks = s.marks := rfl
@[simp] theorem State.modBoard_slices (s : State) (b : Nat) (f : Board → Board) : (s.modBoard b f).slices = s.slices := rfl
@[simp] theorem State.modBoard_selectors (s : State) (b : Nat) (f : Board → Board) : (s.modBoard b f).selectors = s.selectors := rfl
@[simp] theorem State.modBoard_cores (s : State) (b : Nat) (f : Board → Board) : (s.modBoard b f).cores = s.cores := rfl
@[simp] theorem State.modBoard_gangs (s : State) (b : Nat) (f : Board → Board) : (s.modBoard b f).gangs = s.gangs := rfl
@[simp] theorem State.modBoard_blocks (s : State) (b : Nat) (f : Board → Board) : (s.modBoard b f).blocks = s.blocks := rfl
@[simp] theorem State.modBoard_teams (s : State) (b : Nat) (f : Board → Board) : (s.modBoard b f).teams = s.teams := rfl
@[simp] theorem State.modBoard_clusterTlbs (s : State) (b : Nat) (f : Board → Board) : (s.modBoard b f).clusterTlbs = s.clusterTlbs := rfl
@[simp] theorem State.modBoard_queues (s : State) (b : Nat) (f : Board → Board) : (s.modBoard b f).queues = s.queues := rfl
@[simp] theorem State.modBoard_lastQueue (s : State) (b : Nat) (f : Board → Board) : (s.modBoard b f).lastQueue = s.lastQueue := rfl
@[simp] theorem State.modBoard_ports (s : State) (b : Nat) (f : Board → Board) : (s.modBoard b f).ports = s.ports := rfl
@[simp] theorem State.modBoard_tokens (s : State) (b : Nat) (f : Board → Board) : (s.modBoard b f).tokens = s.tokens := rfl
@[simp] theorem State.modBoard_identifiers (s : State) (b : Nat) (f : Board → Board) : (s.modBoard b f).identifiers = s.identifiers := rfl
@[simp] theorem State.modBoard_fqdrop (s : State) (b : Nat) (f : Board → Board) : (s.modBoard b f).fqdrop = s.fqdrop := rfl
@[simp] theorem State.modBoard_fqdropStart (s : State) (b : Nat) (f : Board → Board) : (s.modBoard b f).fqdropStart = s.fqdropStart := rfl
@[simp] theorem State.modBoard_tickets (s : State) (b : Nat) (f : Board → Board) : (s.modBoard b f).tickets = s.tickets := rfl
@[simp] theorem State.modBoard_transRecs (s : State) (b : Nat) (f : Board → Board) : (s.modBoard b f).transRecs = s.transRecs := rfl
@[simp] theorem State.modBoard_migrations (s : State) (b : Nat) (f : Board → Board) : (s.modBoard b f).migrations = s.migrations := rfl
@[simp] theorem State.modBoard_flying (s : State) (b : Nat) (f : Board → Board) : (s.modBoard b f).flying = s.flying := rfl
@[simp] theorem State.modBoard_outbox (s : State) (b : Nat) (f : Board → Board) : (s.modBoard b f).outbox = s.outbox := rfl
@[simp] theorem State.modBoard_peerPosted (s : State) (b : Nat) (f : Board → Board) : (s.modBoard b f).peerPosted = s.peerPosted := rfl
@[simp] theorem State.modBoard_framePorts (s : State) (b : Nat) (f : Board → Board) : (s.modBoard b f).framePorts = s.framePorts := rfl
@[simp] theorem State.modBoard_dies (s : State) (b : Nat) (f : Board → Board) : (s.modBoard b f).dies = s.dies := rfl
@[simp] theorem State.modBoard_ioStates (s : State) (b : Nat) (f : Board → Board) : (s.modBoard b f).ioStates = s.ioStates := rfl
@[simp] theorem State.modBoard_hbm (s : State) (b : Nat) (f : Board → Board) : (s.modBoard b f).hbm = s.hbm := rfl
@[simp] theorem State.modBoard_ioRateHalved (s : State) (b : Nat) (f : Board → Board) : (s.modBoard b f).ioRateHalved = s.ioRateHalved := rfl
@[simp] theorem State.modBoard_sensors (s : State) (b : Nat) (f : Board → Board) : (s.modBoard b f).sensors = s.sensors := rfl
@[simp] theorem State.modBoard_errstat (s : State) (b : Nat) (f : Board → Board) : (s.modBoard b f).errstat = s.errstat := rfl
@[simp] theorem State.modBoard_msix0 (s : State) (b : Nat) (f : Board → Board) : (s.modBoard b f).msix0 = s.msix0 := rfl
@[simp] theorem State.modBoard_msix1 (s : State) (b : Nat) (f : Board → Board) : (s.modBoard b f).msix1 = s.msix1 := rfl
@[simp] theorem State.modBoard_link (s : State) (b : Nat) (f : Board → Board) : (s.modBoard b f).link = s.link := rfl
@[simp] theorem State.modBoard_linkMode (s : State) (b : Nat) (f : Board → Board) : (s.modBoard b f).linkMode = s.linkMode := rfl
@[simp] theorem State.modBoard_inbound (s : State) (b : Nat) (f : Board → Board) : (s.modBoard b f).inbound = s.inbound := rfl
@[simp] theorem State.modBoard_hostHeld (s : State) (b : Nat) (f : Board → Board) : (s.modBoard b f).hostHeld = s.hostHeld := rfl
@[simp] theorem State.modBoard_unsupported (s : State) (b : Nat) (f : Board → Board) : (s.modBoard b f).unsupported = s.unsupported := rfl
@[simp] theorem State.modBoard_parityRead (s : State) (b : Nat) (f : Board → Board) : (s.modBoard b f).parityRead = s.parityRead := rfl
@[simp] theorem State.modBoard_routes (s : State) (b : Nat) (f : Board → Board) : (s.modBoard b f).routes = s.routes := rfl
@[simp] theorem State.modBoard_peerSeq (s : State) (b : Nat) (f : Board → Board) : (s.modBoard b f).peerSeq = s.peerSeq := rfl
@[simp] theorem State.modBoard_replayWindows (s : State) (b : Nat) (f : Board → Board) : (s.modBoard b f).replayWindows = s.replayWindows := rfl
@[simp] theorem State.modBoard_ballast (s : State) (b : Nat) (f : Board → Board) : (s.modBoard b f).ballast = s.ballast := rfl
@[simp] theorem State.modBoard_governor (s : State) (b : Nat) (f : Board → Board) : (s.modBoard b f).governor = s.governor := rfl
@[simp] theorem State.modBoard_mgmtReset (s : State) (b : Nat) (f : Board → Board) : (s.modBoard b f).mgmtReset = s.mgmtReset := rfl
@[simp] theorem State.modBoard_firmware (s : State) (b : Nat) (f : Board → Board) : (s.modBoard b f).firmware = s.firmware := rfl
@[simp] theorem State.modBoard_spdmAnswered (s : State) (b : Nat) (f : Board → Board) : (s.modBoard b f).spdmAnswered = s.spdmAnswered := rfl
@[simp] theorem State.modBoard_spdmReport (s : State) (b : Nat) (f : Board → Board) : (s.modBoard b f).spdmReport = s.spdmReport := rfl
@[simp] theorem State.modBoard_bar2Read (s : State) (b : Nat) (f : Board → Board) : (s.modBoard b f).bar2Read = s.bar2Read := rfl
@[simp] theorem State.modBoard_faultsRead (s : State) (b : Nat) (f : Board → Board) : (s.modBoard b f).faultsRead = s.faultsRead := rfl
@[simp] theorem State.modBoard_recQueues (s : State) (b : Nat) (f : Board → Board) : (s.modBoard b f).recQueues = s.recQueues := rfl
@[simp] theorem State.modBoard_recWindows (s : State) (b : Nat) (f : Board → Board) : (s.modBoard b f).recWindows = s.recWindows := rfl
@[simp] theorem State.modBoard_recording (s : State) (b : Nat) (f : Board → Board) : (s.modBoard b f).recording = s.recording := rfl
@[simp] theorem State.modBoard_replayRings (s : State) (b : Nat) (f : Board → Board) : (s.modBoard b f).replayRings = s.replayRings := rfl
@[simp] theorem State.modBoard_rerun (s : State) (b : Nat) (f : Board → Board) : (s.modBoard b f).rerun = s.rerun := rfl

@[simp] theorem State.setMark_serial (s : State) (w : Nat) (m : Mark) : (s.setMark w m).serial = s.serial := rfl
@[simp] theorem State.setMark_time (s : State) (w : Nat) (m : Mark) : (s.setMark w m).time = s.time := rfl
@[simp] theorem State.setMark_issue (s : State) (w : Nat) (m : Mark) : (s.setMark w m).issue = s.issue := rfl
@[simp] theorem State.setMark_agenda (s : State) (w : Nat) (m : Mark) : (s.setMark w m).agenda = s.agenda := rfl
@[simp] theorem State.setMark_stimuli (s : State) (w : Nat) (m : Mark) : (s.setMark w m).stimuli = s.stimuli := rfl
@[simp] theorem State.setMark_turns (s : State) (w : Nat) (m : Mark) : (s.setMark w m).turns = s.turns := rfl
@[simp] theorem State.setMark_nextBid (s : State) (w : Nat) (m : Mark) : (s.setMark w m).nextBid = s.nextBid := rfl
@[simp] theorem State.setMark_nextId (s : State) (w : Nat) (m : Mark) : (s.setMark w m).nextId = s.nextId := rfl
@[simp] theorem State.setMark_mem (s : State) (w : Nat) (m : Mark) : (s.setMark w m).mem = s.mem := rfl
@[simp] theorem State.setMark_rewritten (s : State) (w : Nat) (m : Mark) : (s.setMark w m).rewritten = s.rewritten := rfl
@[simp] theorem State.setMark_heldWrites (s : State) (w : Nat) (m : Mark) : (s.setMark w m).heldWrites = s.heldWrites := rfl
@[simp] theorem State.setMark_narrow (s : State) (w : Nat) (m : Mark) : (s.setMark w m).narrow = s.narrow := rfl
@[simp] theorem State.setMark_hollow (s : State) (w : Nat) (m : Mark) : (s.setMark w m).hollow = s.hollow := rfl
@[simp] theorem State.setMark_wants (s : State) (w : Nat) (m : Mark) : (s.setMark w m).wants = s.wants := rfl
@[simp] theorem State.setMark_side (s : State) (w : Nat) (m : Mark) : (s.setMark w m).side = s.side := rfl
@[simp] theorem State.setMark_slices (s : State) (w : Nat) (m : Mark) : (s.setMark w m).slices = s.slices := rfl
@[simp] theorem State.setMark_selectors (s : State) (w : Nat) (m : Mark) : (s.setMark w m).selectors = s.selectors := rfl
@[simp] theorem State.setMark_boards (s : State) (w : Nat) (m : Mark) : (s.setMark w m).boards = s.boards := rfl
@[simp] theorem State.setMark_cores (s : State) (w : Nat) (m : Mark) : (s.setMark w m).cores = s.cores := rfl
@[simp] theorem State.setMark_gangs (s : State) (w : Nat) (m : Mark) : (s.setMark w m).gangs = s.gangs := rfl
@[simp] theorem State.setMark_blocks (s : State) (w : Nat) (m : Mark) : (s.setMark w m).blocks = s.blocks := rfl
@[simp] theorem State.setMark_teams (s : State) (w : Nat) (m : Mark) : (s.setMark w m).teams = s.teams := rfl
@[simp] theorem State.setMark_clusterTlbs (s : State) (w : Nat) (m : Mark) : (s.setMark w m).clusterTlbs = s.clusterTlbs := rfl
@[simp] theorem State.setMark_queues (s : State) (w : Nat) (m : Mark) : (s.setMark w m).queues = s.queues := rfl
@[simp] theorem State.setMark_lastQueue (s : State) (w : Nat) (m : Mark) : (s.setMark w m).lastQueue = s.lastQueue := rfl
@[simp] theorem State.setMark_ports (s : State) (w : Nat) (m : Mark) : (s.setMark w m).ports = s.ports := rfl
@[simp] theorem State.setMark_tokens (s : State) (w : Nat) (m : Mark) : (s.setMark w m).tokens = s.tokens := rfl
@[simp] theorem State.setMark_identifiers (s : State) (w : Nat) (m : Mark) : (s.setMark w m).identifiers = s.identifiers := rfl
@[simp] theorem State.setMark_fqdrop (s : State) (w : Nat) (m : Mark) : (s.setMark w m).fqdrop = s.fqdrop := rfl
@[simp] theorem State.setMark_fqdropStart (s : State) (w : Nat) (m : Mark) : (s.setMark w m).fqdropStart = s.fqdropStart := rfl
@[simp] theorem State.setMark_tickets (s : State) (w : Nat) (m : Mark) : (s.setMark w m).tickets = s.tickets := rfl
@[simp] theorem State.setMark_transRecs (s : State) (w : Nat) (m : Mark) : (s.setMark w m).transRecs = s.transRecs := rfl
@[simp] theorem State.setMark_migrations (s : State) (w : Nat) (m : Mark) : (s.setMark w m).migrations = s.migrations := rfl
@[simp] theorem State.setMark_flying (s : State) (w : Nat) (m : Mark) : (s.setMark w m).flying = s.flying := rfl
@[simp] theorem State.setMark_outbox (s : State) (w : Nat) (m : Mark) : (s.setMark w m).outbox = s.outbox := rfl
@[simp] theorem State.setMark_peerPosted (s : State) (w : Nat) (m : Mark) : (s.setMark w m).peerPosted = s.peerPosted := rfl
@[simp] theorem State.setMark_framePorts (s : State) (w : Nat) (m : Mark) : (s.setMark w m).framePorts = s.framePorts := rfl
@[simp] theorem State.setMark_dies (s : State) (w : Nat) (m : Mark) : (s.setMark w m).dies = s.dies := rfl
@[simp] theorem State.setMark_ioStates (s : State) (w : Nat) (m : Mark) : (s.setMark w m).ioStates = s.ioStates := rfl
@[simp] theorem State.setMark_hbm (s : State) (w : Nat) (m : Mark) : (s.setMark w m).hbm = s.hbm := rfl
@[simp] theorem State.setMark_ioRateHalved (s : State) (w : Nat) (m : Mark) : (s.setMark w m).ioRateHalved = s.ioRateHalved := rfl
@[simp] theorem State.setMark_sensors (s : State) (w : Nat) (m : Mark) : (s.setMark w m).sensors = s.sensors := rfl
@[simp] theorem State.setMark_errstat (s : State) (w : Nat) (m : Mark) : (s.setMark w m).errstat = s.errstat := rfl
@[simp] theorem State.setMark_msix0 (s : State) (w : Nat) (m : Mark) : (s.setMark w m).msix0 = s.msix0 := rfl
@[simp] theorem State.setMark_msix1 (s : State) (w : Nat) (m : Mark) : (s.setMark w m).msix1 = s.msix1 := rfl
@[simp] theorem State.setMark_link (s : State) (w : Nat) (m : Mark) : (s.setMark w m).link = s.link := rfl
@[simp] theorem State.setMark_linkMode (s : State) (w : Nat) (m : Mark) : (s.setMark w m).linkMode = s.linkMode := rfl
@[simp] theorem State.setMark_inbound (s : State) (w : Nat) (m : Mark) : (s.setMark w m).inbound = s.inbound := rfl
@[simp] theorem State.setMark_hostHeld (s : State) (w : Nat) (m : Mark) : (s.setMark w m).hostHeld = s.hostHeld := rfl
@[simp] theorem State.setMark_unsupported (s : State) (w : Nat) (m : Mark) : (s.setMark w m).unsupported = s.unsupported := rfl
@[simp] theorem State.setMark_parityRead (s : State) (w : Nat) (m : Mark) : (s.setMark w m).parityRead = s.parityRead := rfl
@[simp] theorem State.setMark_routes (s : State) (w : Nat) (m : Mark) : (s.setMark w m).routes = s.routes := rfl
@[simp] theorem State.setMark_peerSeq (s : State) (w : Nat) (m : Mark) : (s.setMark w m).peerSeq = s.peerSeq := rfl
@[simp] theorem State.setMark_replayWindows (s : State) (w : Nat) (m : Mark) : (s.setMark w m).replayWindows = s.replayWindows := rfl
@[simp] theorem State.setMark_ballast (s : State) (w : Nat) (m : Mark) : (s.setMark w m).ballast = s.ballast := rfl
@[simp] theorem State.setMark_governor (s : State) (w : Nat) (m : Mark) : (s.setMark w m).governor = s.governor := rfl
@[simp] theorem State.setMark_mgmtReset (s : State) (w : Nat) (m : Mark) : (s.setMark w m).mgmtReset = s.mgmtReset := rfl
@[simp] theorem State.setMark_firmware (s : State) (w : Nat) (m : Mark) : (s.setMark w m).firmware = s.firmware := rfl
@[simp] theorem State.setMark_spdmAnswered (s : State) (w : Nat) (m : Mark) : (s.setMark w m).spdmAnswered = s.spdmAnswered := rfl
@[simp] theorem State.setMark_spdmReport (s : State) (w : Nat) (m : Mark) : (s.setMark w m).spdmReport = s.spdmReport := rfl
@[simp] theorem State.setMark_bar2Read (s : State) (w : Nat) (m : Mark) : (s.setMark w m).bar2Read = s.bar2Read := rfl
@[simp] theorem State.setMark_faultsRead (s : State) (w : Nat) (m : Mark) : (s.setMark w m).faultsRead = s.faultsRead := rfl
@[simp] theorem State.setMark_recQueues (s : State) (w : Nat) (m : Mark) : (s.setMark w m).recQueues = s.recQueues := rfl
@[simp] theorem State.setMark_recWindows (s : State) (w : Nat) (m : Mark) : (s.setMark w m).recWindows = s.recWindows := rfl
@[simp] theorem State.setMark_recording (s : State) (w : Nat) (m : Mark) : (s.setMark w m).recording = s.recording := rfl
@[simp] theorem State.setMark_replayRings (s : State) (w : Nat) (m : Mark) : (s.setMark w m).replayRings = s.replayRings := rfl
@[simp] theorem State.setMark_rerun (s : State) (w : Nat) (m : Mark) : (s.setMark w m).rerun = s.rerun := rfl

@[simp] theorem State.writeBytes_serial (s : State) (a : Nat) (bs : List Byte) : (s.writeBytes a bs).serial = s.serial := rfl
@[simp] theorem State.writeBytes_time (s : State) (a : Nat) (bs : List Byte) : (s.writeBytes a bs).time = s.time := rfl
@[simp] theorem State.writeBytes_issue (s : State) (a : Nat) (bs : List Byte) : (s.writeBytes a bs).issue = s.issue := rfl
@[simp] theorem State.writeBytes_agenda (s : State) (a : Nat) (bs : List Byte) : (s.writeBytes a bs).agenda = s.agenda := rfl
@[simp] theorem State.writeBytes_stimuli (s : State) (a : Nat) (bs : List Byte) : (s.writeBytes a bs).stimuli = s.stimuli := rfl
@[simp] theorem State.writeBytes_turns (s : State) (a : Nat) (bs : List Byte) : (s.writeBytes a bs).turns = s.turns := rfl
@[simp] theorem State.writeBytes_nextBid (s : State) (a : Nat) (bs : List Byte) : (s.writeBytes a bs).nextBid = s.nextBid := rfl
@[simp] theorem State.writeBytes_nextId (s : State) (a : Nat) (bs : List Byte) : (s.writeBytes a bs).nextId = s.nextId := rfl
@[simp] theorem State.writeBytes_heldWrites (s : State) (a : Nat) (bs : List Byte) : (s.writeBytes a bs).heldWrites = s.heldWrites := rfl
@[simp] theorem State.writeBytes_hollow (s : State) (a : Nat) (bs : List Byte) : (s.writeBytes a bs).hollow = s.hollow := rfl
@[simp] theorem State.writeBytes_wants (s : State) (a : Nat) (bs : List Byte) : (s.writeBytes a bs).wants = s.wants := rfl
@[simp] theorem State.writeBytes_side (s : State) (a : Nat) (bs : List Byte) : (s.writeBytes a bs).side = s.side := rfl
@[simp] theorem State.writeBytes_marks (s : State) (a : Nat) (bs : List Byte) : (s.writeBytes a bs).marks = s.marks := rfl
@[simp] theorem State.writeBytes_slices (s : State) (a : Nat) (bs : List Byte) : (s.writeBytes a bs).slices = s.slices := rfl
@[simp] theorem State.writeBytes_selectors (s : State) (a : Nat) (bs : List Byte) : (s.writeBytes a bs).selectors = s.selectors := rfl
@[simp] theorem State.writeBytes_boards (s : State) (a : Nat) (bs : List Byte) : (s.writeBytes a bs).boards = s.boards := rfl
@[simp] theorem State.writeBytes_cores (s : State) (a : Nat) (bs : List Byte) : (s.writeBytes a bs).cores = s.cores := rfl
@[simp] theorem State.writeBytes_gangs (s : State) (a : Nat) (bs : List Byte) : (s.writeBytes a bs).gangs = s.gangs := rfl
@[simp] theorem State.writeBytes_blocks (s : State) (a : Nat) (bs : List Byte) : (s.writeBytes a bs).blocks = s.blocks := rfl
@[simp] theorem State.writeBytes_teams (s : State) (a : Nat) (bs : List Byte) : (s.writeBytes a bs).teams = s.teams := rfl
@[simp] theorem State.writeBytes_clusterTlbs (s : State) (a : Nat) (bs : List Byte) : (s.writeBytes a bs).clusterTlbs = s.clusterTlbs := rfl
@[simp] theorem State.writeBytes_queues (s : State) (a : Nat) (bs : List Byte) : (s.writeBytes a bs).queues = s.queues := rfl
@[simp] theorem State.writeBytes_lastQueue (s : State) (a : Nat) (bs : List Byte) : (s.writeBytes a bs).lastQueue = s.lastQueue := rfl
@[simp] theorem State.writeBytes_ports (s : State) (a : Nat) (bs : List Byte) : (s.writeBytes a bs).ports = s.ports := rfl
@[simp] theorem State.writeBytes_tokens (s : State) (a : Nat) (bs : List Byte) : (s.writeBytes a bs).tokens = s.tokens := rfl
@[simp] theorem State.writeBytes_identifiers (s : State) (a : Nat) (bs : List Byte) : (s.writeBytes a bs).identifiers = s.identifiers := rfl
@[simp] theorem State.writeBytes_fqdrop (s : State) (a : Nat) (bs : List Byte) : (s.writeBytes a bs).fqdrop = s.fqdrop := rfl
@[simp] theorem State.writeBytes_fqdropStart (s : State) (a : Nat) (bs : List Byte) : (s.writeBytes a bs).fqdropStart = s.fqdropStart := rfl
@[simp] theorem State.writeBytes_tickets (s : State) (a : Nat) (bs : List Byte) : (s.writeBytes a bs).tickets = s.tickets := rfl
@[simp] theorem State.writeBytes_transRecs (s : State) (a : Nat) (bs : List Byte) : (s.writeBytes a bs).transRecs = s.transRecs := rfl
@[simp] theorem State.writeBytes_migrations (s : State) (a : Nat) (bs : List Byte) : (s.writeBytes a bs).migrations = s.migrations := rfl
@[simp] theorem State.writeBytes_flying (s : State) (a : Nat) (bs : List Byte) : (s.writeBytes a bs).flying = s.flying := rfl
@[simp] theorem State.writeBytes_outbox (s : State) (a : Nat) (bs : List Byte) : (s.writeBytes a bs).outbox = s.outbox := rfl
@[simp] theorem State.writeBytes_peerPosted (s : State) (a : Nat) (bs : List Byte) : (s.writeBytes a bs).peerPosted = s.peerPosted := rfl
@[simp] theorem State.writeBytes_framePorts (s : State) (a : Nat) (bs : List Byte) : (s.writeBytes a bs).framePorts = s.framePorts := rfl
@[simp] theorem State.writeBytes_dies (s : State) (a : Nat) (bs : List Byte) : (s.writeBytes a bs).dies = s.dies := rfl
@[simp] theorem State.writeBytes_ioStates (s : State) (a : Nat) (bs : List Byte) : (s.writeBytes a bs).ioStates = s.ioStates := rfl
@[simp] theorem State.writeBytes_hbm (s : State) (a : Nat) (bs : List Byte) : (s.writeBytes a bs).hbm = s.hbm := rfl
@[simp] theorem State.writeBytes_ioRateHalved (s : State) (a : Nat) (bs : List Byte) : (s.writeBytes a bs).ioRateHalved = s.ioRateHalved := rfl
@[simp] theorem State.writeBytes_sensors (s : State) (a : Nat) (bs : List Byte) : (s.writeBytes a bs).sensors = s.sensors := rfl
@[simp] theorem State.writeBytes_errstat (s : State) (a : Nat) (bs : List Byte) : (s.writeBytes a bs).errstat = s.errstat := rfl
@[simp] theorem State.writeBytes_msix0 (s : State) (a : Nat) (bs : List Byte) : (s.writeBytes a bs).msix0 = s.msix0 := rfl
@[simp] theorem State.writeBytes_msix1 (s : State) (a : Nat) (bs : List Byte) : (s.writeBytes a bs).msix1 = s.msix1 := rfl
@[simp] theorem State.writeBytes_link (s : State) (a : Nat) (bs : List Byte) : (s.writeBytes a bs).link = s.link := rfl
@[simp] theorem State.writeBytes_linkMode (s : State) (a : Nat) (bs : List Byte) : (s.writeBytes a bs).linkMode = s.linkMode := rfl
@[simp] theorem State.writeBytes_inbound (s : State) (a : Nat) (bs : List Byte) : (s.writeBytes a bs).inbound = s.inbound := rfl
@[simp] theorem State.writeBytes_hostHeld (s : State) (a : Nat) (bs : List Byte) : (s.writeBytes a bs).hostHeld = s.hostHeld := rfl
@[simp] theorem State.writeBytes_unsupported (s : State) (a : Nat) (bs : List Byte) : (s.writeBytes a bs).unsupported = s.unsupported := rfl
@[simp] theorem State.writeBytes_parityRead (s : State) (a : Nat) (bs : List Byte) : (s.writeBytes a bs).parityRead = s.parityRead := rfl
@[simp] theorem State.writeBytes_routes (s : State) (a : Nat) (bs : List Byte) : (s.writeBytes a bs).routes = s.routes := rfl
@[simp] theorem State.writeBytes_peerSeq (s : State) (a : Nat) (bs : List Byte) : (s.writeBytes a bs).peerSeq = s.peerSeq := rfl
@[simp] theorem State.writeBytes_replayWindows (s : State) (a : Nat) (bs : List Byte) : (s.writeBytes a bs).replayWindows = s.replayWindows := rfl
@[simp] theorem State.writeBytes_ballast (s : State) (a : Nat) (bs : List Byte) : (s.writeBytes a bs).ballast = s.ballast := rfl
@[simp] theorem State.writeBytes_governor (s : State) (a : Nat) (bs : List Byte) : (s.writeBytes a bs).governor = s.governor := rfl
@[simp] theorem State.writeBytes_mgmtReset (s : State) (a : Nat) (bs : List Byte) : (s.writeBytes a bs).mgmtReset = s.mgmtReset := rfl
@[simp] theorem State.writeBytes_firmware (s : State) (a : Nat) (bs : List Byte) : (s.writeBytes a bs).firmware = s.firmware := rfl
@[simp] theorem State.writeBytes_spdmAnswered (s : State) (a : Nat) (bs : List Byte) : (s.writeBytes a bs).spdmAnswered = s.spdmAnswered := rfl
@[simp] theorem State.writeBytes_spdmReport (s : State) (a : Nat) (bs : List Byte) : (s.writeBytes a bs).spdmReport = s.spdmReport := rfl
@[simp] theorem State.writeBytes_bar2Read (s : State) (a : Nat) (bs : List Byte) : (s.writeBytes a bs).bar2Read = s.bar2Read := rfl
@[simp] theorem State.writeBytes_faultsRead (s : State) (a : Nat) (bs : List Byte) : (s.writeBytes a bs).faultsRead = s.faultsRead := rfl
@[simp] theorem State.writeBytes_recQueues (s : State) (a : Nat) (bs : List Byte) : (s.writeBytes a bs).recQueues = s.recQueues := rfl
@[simp] theorem State.writeBytes_recWindows (s : State) (a : Nat) (bs : List Byte) : (s.writeBytes a bs).recWindows = s.recWindows := rfl
@[simp] theorem State.writeBytes_recording (s : State) (a : Nat) (bs : List Byte) : (s.writeBytes a bs).recording = s.recording := rfl
@[simp] theorem State.writeBytes_replayRings (s : State) (a : Nat) (bs : List Byte) : (s.writeBytes a bs).replayRings = s.replayRings := rfl
@[simp] theorem State.writeBytes_rerun (s : State) (a : Nat) (bs : List Byte) : (s.writeBytes a bs).rerun = s.rerun := rfl

theorem State.gang?_modGang (s : State) (gid k : Nat) (f : Gang → Gang) :
    (s.modGang gid f).gang? k = if gid = k then (s.gang? k).map f else s.gang? k := by
  simp only [State.modGang, State.gang?, Tab.look_modify]
@[simp] theorem State.gang?_modGang_self (s : State) (gid : Nat) (f : Gang → Gang) : (s.modGang gid f).gang? gid = (s.gang? gid).map f := by
  simp [State.gang?_modGang]
@[simp] theorem State.gang?_modCore (s : State) (c gid : Nat) (f : Core → Core) : (s.modCore c f).gang? gid = s.gang? gid := rfl
@[simp] theorem State.core_modGang (s : State) (gid c : Nat) (f : Gang → Gang) : (s.modGang gid f).core c = s.core c := rfl
@[simp] theorem State.block?_modGang (s : State) (gid b : Nat) (f : Gang → Gang) : (s.modGang gid f).block? b = s.block? b := rfl
@[simp] theorem State.team?_modGang (s : State) (gid b : Nat) (f : Gang → Gang) : (s.modGang gid f).team? b = s.team? b := rfl
theorem State.block?_modBlock (s : State) (bid k : Nat) (f : Block → Block) :
    (s.modBlock bid f).block? k = if bid = k then (s.block? k).map f else s.block? k := by
  simp only [State.modBlock, State.block?, Tab.look_modify]
theorem State.team?_modTeam (s : State) (tid k : Nat) (f : Team → Team) :
    (s.modTeam tid f).team? k = if tid = k then (s.team? k).map f else s.team? k := by
  simp only [State.modTeam, State.team?, Tab.look_modify]
theorem State.core_modCore (s : State) (c k : Nat) (f : Core → Core) :
    (s.modCore c f).core k = if c = k then f (s.core c) else s.core k := by
  simp only [State.modCore, State.core, Tab.getD_upd]
theorem State.die_modDie (s : State) (c k : Nat) (f : Die → Die) :
    (s.modDie c f).die k = if c = k then f (s.die c) else s.die k := by
  simp only [State.modDie, State.die, Tab.getD_upd]
theorem State.stack_modStack (s : State) (c k : Nat) (f : Stack → Stack) :
    (s.modStack c f).stack k = if c = k then f (s.stack c) else s.stack k := by
  simp only [State.modStack, State.stack, Tab.getD_upd]
theorem State.queue_modQueue (s : State) (c k : Nat) (f : Queue → Queue) :
    (s.modQueue c f).queue k = if c = k then f (s.queue c) else s.queue k := by
  simp only [State.modQueue, State.queue, Tab.getD_upd]
theorem State.board_modBoard (s : State) (c k : Nat) (f : Board → Board) :
    (s.modBoard c f).board k = if c = k then f (s.board c) else s.board k := by
  simp only [State.modBoard, State.board, Tab.getD_set]
theorem State.mark_setMark (s : State) (w k : Nat) (m : Mark) : (s.setMark w m).mark k = if w = k then m else s.mark k := by
  simp only [State.setMark, State.mark, Tab.getD_set]

end Sys2Proof.Machine
end

