-- ==== Sys2Proof/Laws/Ops.lean ====
section
/-!
SUPPORT. Laws/Ops.lean: what the shared operations of Machine/Ops.lean can do: the instruction of a clear issuer is performed; a
write of results changes those registers and nothing else; moving on changes the issuer's place alone.
-/

namespace Sys2Proof.Machine

open Sys2Proof

/-! ### The issuer -/

theorem cxOf_gang {i : Instr} {s : State} {cx : Cx} (h : cxOf i s = some cx) : s.gang? cx.gid = some cx.g := by
  unfold cxOf at h
  repeat' split at h
  all_goals first
    | (simp only [Option.map_eq_some_iff] at h; obtain ⟨p, -, rfl⟩ := h; assumption)
    | cases h

theorem cxOf_block {i : Instr} {s : State} {cx : Cx} (h : cxOf i s = some cx) : s.block? cx.bid = some cx.b := by
  unfold cxOf at h
  repeat' split at h
  all_goals first
    | (simp only [Option.map_eq_some_iff] at h; obtain ⟨p, -, rfl⟩ := h; assumption)
    | cases h

theorem cxOf_cyc {i : Instr} {s : State} {cx : Cx} (h : cxOf i s = some cx) : cx.cyc = s.cycle cx.core := by
  unfold cxOf at h
  repeat' split at h
  all_goals first
    | (simp only [Option.map_eq_some_iff] at h; obtain ⟨p, -, rfl⟩ := h; rfl)
    | cases h

theorem cxOf_lat {i : Instr} {s : State} {cx : Cx} (h : cxOf i s = some cx) : cx.lat = i.latency := by
  unfold cxOf at h
  repeat' split at h
  all_goals first
    | (simp only [Option.map_eq_some_iff] at h; obtain ⟨p, -, rfl⟩ := h; rfl)
    | cases h

theorem cxOf_perform {i : Instr} {s : State} {cx : Cx} (h : cxOf i s = some cx) :
    cx.perform = cx.g.performing s i cx.cyc cx.ctl cx.active := by
  unfold cxOf at h
  repeat' split at h
  all_goals first
    | (simp only [Option.map_eq_some_iff] at h; obtain ⟨p, -, rfl⟩ := h; rfl)
    | cases h

/-- While a loop body runs, the issuer has one lane. -/
theorem cxOf_body {i : Instr} {s : State} {cx : Cx} {l : Nat} (h : cxOf i s = some cx) (hb : cx.body = some l) :
    cx.active = maskOf [l] ∨ lanesOf cx.active = [l] := by
  unfold cxOf at h
  repeat' split at h
  all_goals try cases h
  · simp only [Option.map_eq_some_iff] at h
    obtain ⟨p, -, rfl⟩ := h
    right
    simp only at hb ⊢
    unfold Gang.bodyOf at hb
    repeat' split at hb
    all_goals first
      | (cases hb; assumption)
      | cases hb
  · simp only [Option.map_eq_some_iff] at h
    obtain ⟨p, -, rfl⟩ := h
    left
    cases hb; rfl

/-! ### Performing -/

/-- A valid instruction gets as far as the values it reads. -/
theorem Valid.hindrance {i : Instr} {cx : Cx} {s : State} (h : Valid i cx s) : hindrance i cx s = match cx.illegal s i with
    | some (m, n) => some (.trap 1 m 0 n)
    | none =>
      if i.silent then (if cx.perform = 0 then some .skip else none)
      else if cx.perform ≠ 0 && !i.admits.role cx.g.role then some (.trap 3 cx.perform 0 cx.g.role)
      else match cx.tooEarly s i with
      | some (m, n) => some (.trap 4 m 0 n)
      | none =>
        if cx.perform ≠ 0 && i.system && !cx.g.system then some (.trap 9 cx.perform 0 1)
        else if cx.predicateSplit s i ≠ 0 then
          some (.trap 0x21 (cx.predicateSplit s i) 0 (2 + lowLane (cx.predicateSplit s i) * 4))
        else if cx.perform = 0 && !i.runsEmpty then some .skip
        else none := by
  unfold Machine.hindrance
  have h1 : (i.handlerOnly && !cx.g.inHandler) = false := by
    cases e : i.handlerOnly <;> simp [h.inHandler, e]
  have h2 : (i.returns && (!cx.g.inHandler || decide (cx.g.tree.splits.length ≠ 1))) = false := by
    cases e : i.returns
    · rfl
    · obtain ⟨a, b⟩ := h.returning e; simp [a, b]
  have h3 : (i.always && (decide (ctlPred cx.ctl ≠ 48) || ctlNeg cx.ctl)) = false := by
    cases e : i.always
    · rfl
    · obtain ⟨a, b⟩ := h.unpredicated e; simp [a, b]
  simp only [h.wellFormed, h.inBudget, h.inBody, h1, h2, h3, h.placed, h.inBlock, h.free, h.sound, orElse]
  rfl

/-- Nothing of R217 stops a clear instruction. -/
theorem Clear.hindrance {i : Instr} {cx : Cx} {s : State} (h : Clear i cx s) : hindrance i cx s = none := by
  rw [h.toValid.hindrance, h.legal]
  cases e : i.silent
  · have h4 : (i.system && !cx.g.system) = false := by
      cases e : i.system <;> simp [h.level, e]
    have h5 : (decide (cx.perform = 0) && !i.runsEmpty) = false := by rw [decide_eq_false h.performed]; rfl
    simp only [h.role, h.settled e, h.agreed e, h5, Bool.and_assoc, h4, Bool.not_true, Bool.and_false]
    rfl
  · simp only [h.performed]
    rfl

theorem Clear.takeHeld {i : Instr} {cx : Cx} {s : State} (h : Clear i cx s) : cx.takeHeld i s = none := by
  unfold Cx.takeHeld
  simp only [h.noHeldLoad, h.noHeldMatrix, h.noHeldCopy]

/-- A clear instruction has its own effect. -/
theorem run_clear {i : Instr} {cx : Cx} {s : State} (h : Clear i cx s) (body : Cx → State → State) :
    run i s body = .next (body cx s) := by
  unfold run
  rw [h.issued]
  simp only [h.hindrance, h.takeHeld]
  cases e : i.bounds
  · simp
  · simp [h.noWait e]

/-! ### Results -/

theorem vNumbers_nil : vNumbers [] = [] := rfl

theorem Gang.write_frame' (g : Gang) (cyc : Nat) (lat : Option Nat) (key : Nat) (v : Word) : GangFrame g [key] (g.write cyc lat key v) := by
  refine ⟨?_, ?_, ?_, ?_, ?_⟩
  · unfold Gang.write; dsimp only; split <;> rfl
  · intro k hk
    rw [Gang.write_regs, if_neg]; simp at hk; exact fun e => hk e.symm
  · intro k; unfold Gang.write; dsimp only; split <;> simp
  · unfold Gang.write vNumbers; dsimp only
    split
    · next h => simp [h]
    · next n h => simp [h]
  · unfold Gang.write vNumbers; dsimp only
    split
    · next h => simp [h]
    · next n h => simp [h]

theorem GangFrame.refl (g : Gang) : GangFrame g [] g := by
  refine ⟨rfl, fun _ _ => rfl, by simp, by simp [vNumbers], by simp [vNumbers]⟩

theorem GangFrame.trans {g h k : Gang} {ks ls : List Nat} (x : GangFrame g ks h) (y : GangFrame h ls k) : GangFrame g (ks ++ ls) k := by
  obtain ⟨x1, x2, x3, x4, x5⟩ := x
  obtain ⟨y1, y2, y3, y4, y5⟩ := y
  have hw : h.width = g.width := by rw [x1]; rfl
  refine ⟨?_, ?_, ?_, ?_, ?_⟩
  · rw [y1, x1]
  · intro k hk
    simp only [List.mem_append, not_or] at hk
    rw [y2 k hk.2, x2 k hk.1]
  · intro k; rw [y3, x3]; simp only [List.mem_append, not_or]; tauto
  · rw [y4, x4, List.map_map]
    apply List.map_congr_left
    intro t _
    simp only [Function.comp, hw, vNumbers, List.filterMap_append, List.any_append]
    by_cases h1 : (List.filterMap keyReg ks).any (fun n => inRange n t.base (blockRegs g.width t.geom)) = true
    · simp only [h1, Bool.true_or, if_true]; split <;> rfl
    · simp only [Bool.not_eq_true] at h1; simp only [h1, Bool.false_or, Bool.false_eq_true, if_false]
  · rw [y5, x5, List.filter_filter]
    apply List.filter_congr
    intro a _
    simp only [hw, vNumbers, List.filterMap_append, List.any_append, Bool.not_or, Bool.and_comm]

theorem Gang.writes_gangFrame (ws : List (Nat × Word)) (g : Gang) (cyc : Nat) (lat : Option Nat) :
    GangFrame g (ws.map Prod.fst) (g.writes cyc lat ws) := by
  induction ws generalizing g with
  | nil => exact GangFrame.refl g
  | cons e ws ih =>
    obtain ⟨k, v⟩ := e
    exact (g.write_frame' cyc lat k v).trans (ih (g.write cyc lat k v))

/-- After a write nothing of a key is in flight past the latency. -/
theorem Gang.write_flying (g : Gang) (cyc : Nat) (lat : Option Nat) (key : Nat) (v : Word) :
    (g.write cyc lat key v).fly = (match lat with
      | none => (g.fly.filter (fun f => cyc < f.due)).filter (fun f => f.key ≠ key)
      | some l => ⟨key, Tab.getD g.regs key 0, cyc + l⟩ ::
        (g.fly.filter (fun f => cyc < f.due)).map (fun f => if f.key = key then { f with due := min f.due (cyc + l) } else f)) := by
  unfold Gang.write; dsimp only; split <;> rfl

theorem Gang.write_fly (g : Gang) (cyc : Nat) (lat : Option Nat) (key k : Nat) (v : Word)
    (h : k = key ∨ ∀ f ∈ g.fly, f.key = k → f.due ≤ cyc + lat.getD 0) :
    ∀ f ∈ (g.write cyc lat key v).fly, f.key = k → f.due ≤ cyc + lat.getD 0 := by
  rw [g.write_flying cyc lat key v]
  cases lat with
  | none =>
    intro f hf hk
    simp only [List.mem_filter, decide_eq_true_eq] at hf
    rcases h with h | h
    · exact absurd (hk.trans h) hf.2
    · exact h f hf.1.1 hk
  | some l =>
    intro f hf hk
    simp only [List.mem_cons, List.mem_map, List.mem_filter, decide_eq_true_eq] at hf
    rcases hf with rfl | ⟨x, ⟨hx, -⟩, rfl⟩
    · exact Nat.le_refl _
    · split at hk
      · next hx2 => simp only [hx2, if_true, Option.getD_some]; exact Nat.min_le_right _ _
      · next hx2 =>
        simp only [hx2, if_false]
        rcases h with h | h
        · exact absurd (hk.trans h) hx2
        · exact h x hx hk

theorem Gang.writes_fly_keep (ws : List (Nat × Word)) (g : Gang) (cyc : Nat) (lat : Option Nat) (k : Nat)
    (h : ∀ f ∈ g.fly, f.key = k → f.due ≤ cyc + lat.getD 0) :
    ∀ f ∈ (g.writes cyc lat ws).fly, f.key = k → f.due ≤ cyc + lat.getD 0 := by
  induction ws generalizing g with
  | nil => exact h
  | cons e ws ih => exact ih _ (g.write_fly cyc lat e.1 k e.2 (Or.inr h))

theorem Gang.writes_fly (ws : List (Nat × Word)) (g : Gang) (cyc : Nat) (lat : Option Nat) (k : Nat) (v : Word) (h : (k, v) ∈ ws) :
    ∀ f ∈ (g.writes cyc lat ws).fly, f.key = k → f.due ≤ cyc + lat.getD 0 := by
  induction ws generalizing g with
  | nil => simp at h
  | cons e ws ih =>
    rcases List.mem_cons.mp h with h | h
    · subst h
      exact Gang.writes_fly_keep ws _ cyc lat k (g.write_fly cyc lat k k v (Or.inl rfl))
    · exact ih _ h

theorem Gang.read_settled (g : Gang) (u : State) (cyc k bound : Nat) (h : ∀ f ∈ g.fly, f.key = k → f.due ≤ bound) (hc : bound ≤ cyc) :
    g.read u cyc k = Tab.getD g.regs k 0 := by
  have : g.flying cyc k = [] := by
    simp only [Gang.flying, List.filter_eq_nil_iff, Bool.and_eq_true, decide_eq_true_eq, not_and, Nat.not_lt]
    intro f hf hk
    exact Nat.le_trans (h f hf hk) hc
  unfold Gang.read
  rw [this]

/-! ### Moving on -/

/-- What moving on does to the issuer's gang. -/
def Cx.moveGang (cx : Cx) (pc : Dword) (ready : Nat) (enter : Bool) (g : Gang) : Gang :=
  if cx.index = 0 then
    { g with tree := g.tree.modSplit cx.place (fun x =>
      { x with pc := pc, readyAt := ready, again := false, packet := if enter then none else stay x.pc x.packet pc }) }
  else g.modHelper (cx.body.getD 0) cx.index (fun h =>
      { h with pc := pc, readyAt := ready, again := false, packet := if enter then none else stay h.pc h.packet pc })

theorem Cx.move_eq (cx : Cx) (s : State) (pc : Dword) (ready : Nat) (enter : Bool) :
    cx.move s pc ready enter = s.modGang cx.gid (cx.moveGang pc ready enter) := by
  have e : cx.moveGang pc ready enter = if cx.index = 0 then (fun g : Gang =>
      { g with tree := g.tree.modSplit cx.place (fun x =>
        { x with pc := pc, readyAt := ready, again := false, packet := if enter then none else stay x.pc x.packet pc }) })
    else (fun g : Gang => g.modHelper (cx.body.getD 0) cx.index (fun h =>
      { h with pc := pc, readyAt := ready, again := false, packet := if enter then none else stay h.pc h.packet pc })) := by
    funext g; unfold Cx.moveGang; split <;> rfl
  rw [e]; unfold Cx.move; split <;> rfl

theorem Cx.finish_eq (cx : Cx) (s : State) : cx.finish s = s.modGang cx.gid (cx.moveGang cx.next cx.ready false) := cx.move_eq ..
theorem Cx.goto_eq (cx : Cx) (s : State) (pc : Dword) : cx.goto s pc = s.modGang cx.gid (cx.moveGang pc cx.ready true) := cx.move_eq ..

theorem Cx.moveGang_frame (cx : Cx) (pc : Dword) (ready : Nat) (enter : Bool) (g : Gang) : GangFrame g [] (cx.moveGang pc ready enter g) := by
  unfold Cx.moveGang Gang.modHelper
  split <;> exact ⟨rfl, fun _ _ => rfl, by simp, by simp [vNumbers], by simp [vNumbers]⟩

theorem Cx.moveGang_moved (cx : Cx) (pc : Dword) (ready : Nat) (enter : Bool) (g : Gang) : StandsAt cx g (cx.moveGang pc ready enter g) pc := by
  unfold Cx.moveGang
  split
  · next h =>
    refine ⟨fun _ => ⟨rfl, ?_⟩, fun h' => absurd h h', ?_, rfl, rfl, rfl⟩
    · intro x hx
      simp only [Tree.modSplit, Tab.look_modify, if_true, hx, Option.map_some]
      exact ⟨_, rfl, rfl, rfl, rfl, rfl⟩
    · intro q hq
      rcases hq with hq | hq
      · simp only [Tree.modSplit, Tab.look_modify]; rw [if_neg (fun e => hq e.symm)]
      · exact absurd h hq
  · next h =>
    refine ⟨fun h' => absurd h' h, ?_, fun _ _ => rfl, rfl, rfl, rfl⟩
    intro _ r hr
    simp only [Gang.modHelper, Tab.look_modify, if_true, hr, Option.map_some]
    refine ⟨_, rfl, rfl, ?_⟩
    · simp only [List.map_map]
      apply List.map_congr_left
      intro x _
      simp only [Function.comp]
      split <;> rfl

/-- A frame over registers leaves the tree and the recruitments alone, where it is told so. -/
theorem StandsAt.of_eq {cx : Cx} {g g1 g2 : Gang} {pc : Dword} (h : StandsAt cx g1 g2 pc) (ht : g1.tree = g.tree)
    (hr : g1.recruits = g.recruits) : StandsAt cx g g2 pc := by
  unfold StandsAt at *
  rw [← ht, ← hr]; exact h

/-! ### Writing results and moving on -/

/-- Counting latent errors changes the lane-death counter of one core at most. -/
theorem State.addLatent_gang? (s : State) (core n k : Nat) : (s.addLatent core n).gang? k = s.gang? k := by
  unfold State.addLatent
  split
  · rfl
  · rw [State.gang?_modCore]

theorem State.addLatent_rest (s : State) (core n : Nat) : s.addLatent core n = { s with cores := (s.addLatent core n).cores } := by
  unfold State.addLatent; split <;> rfl

theorem State.addLatent_core (s : State) (core n c : Nat) : ∃ k, (s.addLatent core n).core c = { s.core c with laneDeath := k } := by
  unfold State.addLatent
  split
  · exact ⟨_, rfl⟩
  · rw [State.core_modCore]
    split
    · next h => subst h; exact ⟨_, rfl⟩
    · exact ⟨_, rfl⟩

theorem State.countLatent_gang? (s : State) (gid core : Nat) (keys : List Nat) (k : Nat) :
    (s.countLatent gid core keys).gang? k = s.gang? k := s.addLatent_gang? ..

theorem State.countLatent_rest (s : State) (gid core : Nat) (keys : List Nat) :
    s.countLatent gid core keys = { s with cores := (s.countLatent gid core keys).cores } := s.addLatent_rest ..

theorem State.countLatent_core (s : State) (gid core : Nat) (keys : List Nat) (c : Nat) :
    ∃ n, (s.countLatent gid core keys).core c = { s.core c with laneDeath := n } := s.addLatent_core ..

/-- An operation of the engine or on a tile that writes registers changes its gang, and the lane-death counter of one core at most. -/
theorem State.writeGang_gang? (s : State) (gid core : Nat) (f : Gang → Gang) (k : Nat) :
    (s.writeGang gid core f).gang? k = if gid = k then (s.gang? k).map f else s.gang? k := by
  unfold State.writeGang
  rw [State.gang?_modGang, State.addLatent_gang?]

theorem State.writeGang_rest (s : State) (gid core : Nat) (f : Gang → Gang) :
    s.writeGang gid core f = { s with gangs := (s.writeGang gid core f).gangs, cores := (s.writeGang gid core f).cores } := by
  unfold State.writeGang
  rw [State.addLatent_rest]; rfl

theorem Cx.put_gang? (cx : Cx) (s : State) (ws : List (Nat × Word)) (k : Nat) :
    (cx.put s ws).gang? k = if cx.gid = k then (s.gang? k).map (fun g => g.writes cx.cyc cx.lat ws) else s.gang? k := by
  unfold Cx.put State.writeRegs
  rw [State.gang?_modGang, State.countLatent_gang?]

theorem Cx.put_rest (cx : Cx) (s : State) (ws : List (Nat × Word)) :
    cx.put s ws = { s with gangs := (cx.put s ws).gangs, cores := (cx.put s ws).cores } := by
  unfold Cx.put State.writeRegs
  rw [State.countLatent_rest]; rfl

theorem Cx.put_core (cx : Cx) (s : State) (ws : List (Nat × Word)) (c : Nat) :
    ∃ n, (cx.put s ws).core c = { s.core c with laneDeath := n } := s.countLatent_core ..

/-- Writing registers, and a change F of other parts of the gang, then moving: OnlyRegs. -/
theorem OnlyRegs.put {cx : Cx} {s u : State} (hg : s.gang? cx.gid = some cx.g) (ws : List (Nat × Word)) (F : Gang → Gang)
    (hu : ∀ k, u.gang? k = if cx.gid = k then (s.gang? k).map (fun g => F (g.writes cx.cyc cx.lat ws)) else s.gang? k)
    (hrest : u = { s with gangs := u.gangs, cores := u.cores }) (hcore : ∀ c, ∃ n, u.core c = { s.core c with laneDeath := n })
    (pc : Dword) (ready : Nat) (enter : Bool)
    (hF : ∀ regs fly bad tags accs ldas, F { cx.g with regs := regs, fly := fly, bad := bad, tags := tags, accs := accs, ldas := ldas } =
      { F cx.g with regs := regs, fly := fly, bad := bad, tags := tags, accs := accs, ldas := ldas })
    (hw : (F cx.g).width = cx.g.width) (h1 : (F cx.g).regs = cx.g.regs) (h2 : (F cx.g).bad = cx.g.bad)
    (h3 : (F cx.g).tags = cx.g.tags) (h4 : (F cx.g).accs = cx.g.accs) :
    OnlyRegs cx s (u.modGang cx.gid (cx.moveGang pc ready enter)) (F cx.g) (ws.map Prod.fst) pc := by
  have hput : ∀ k, (u.modGang cx.gid (cx.moveGang pc ready enter)).gang? k =
      if cx.gid = k then (s.gang? k).map (fun g => cx.moveGang pc ready enter (F (g.writes cx.cyc cx.lat ws))) else s.gang? k := by
    intro k
    rw [State.gang?_modGang, hu]
    split
    · simp [Option.map_map, Function.comp_def]
    · rfl
  have hfr := Gang.writes_gangFrame ws cx.g cx.cyc cx.lat
  have key : F (cx.g.writes cx.cyc cx.lat ws) = { F cx.g with
      regs := (cx.g.writes cx.cyc cx.lat ws).regs, fly := (cx.g.writes cx.cyc cx.lat ws).fly,
      bad := (cx.g.writes cx.cyc cx.lat ws).bad, tags := (cx.g.writes cx.cyc cx.lat ws).tags,
      accs := (cx.g.writes cx.cyc cx.lat ws).accs, ldas := (cx.g.writes cx.cyc cx.lat ws).ldas } := by
    rw [← hF]; congr 1
    obtain ⟨r, f, b, t, a, l, h⟩ := Gang.writes_frame ws cx.g cx.cyc cx.lat
    rw [h]
  have fr : GangFrame (F cx.g) (ws.map Prod.fst) (F (cx.g.writes cx.cyc cx.lat ws)) := by
    obtain ⟨x1, x2, x3, x4, x5⟩ := hfr
    rw [key]
    refine ⟨rfl, ?_, ?_, ?_, ?_⟩
    · intro k hk; rw [h1]; exact x2 k hk
    · intro k; rw [h2]; exact x3 k
    · rw [h3, hw]; exact x4
    · rw [h4, hw]; exact x5
  refine ⟨⟨cx.moveGang pc ready enter (F (cx.g.writes cx.cyc cx.lat ws)), ?_, ?_, ?_⟩, ?_, ?_, ?_⟩
  · rw [hput, if_pos rfl, hg]; rfl
  · have := fr.trans (cx.moveGang_frame pc ready enter (F (cx.g.writes cx.cyc cx.lat ws)))
    rwa [List.append_nil] at this
  · exact (cx.moveGang_moved pc ready enter (F (cx.g.writes cx.cyc cx.lat ws))).of_eq (by rw [key]) (by rw [key])
  · intro k hk
    rw [hput, if_neg (fun e => hk e.symm)]
  · exact hcore
  · show { u with gangs := _ } = _
    rw [hrest]; rfl

/-! ### Keys of results -/

theorem Gang.copy_le (g : Gang) (p : Nat) : g.copy p ≤ 1 := by
  unfold Gang.copy; split
  · omega
  · omega

theorem keysFrom_mem {k n x : Nat} : x ∈ keysFrom k n ↔ ∃ j < n, x = k + j := by
  simp [keysFrom]; constructor
  · rintro ⟨j, h, rfl⟩; exact ⟨j, h, rfl⟩
  · rintro ⟨j, h, rfl⟩; exact ⟨j, h, rfl⟩

theorem hKey_def (l x c n : Nat) : hKey l x c n = 16384 + ((l * 32 + x) * 2 + c) * 16 + n := rfl

/-- The keys of one operand in two different physical lanes that perform differ. -/
theorem Cx.key_inj {cx : Cx} {i : Instr} {s : State} (hc : cxOf i s = some cx) {n w p q a b : Nat} (hn : n + w ≤ 256)
    (hp : p ∈ cx.g.expand cx.active) (hq : q ∈ cx.g.expand cx.active) (ha : a < w) (hb : b < w)
    (h : cx.key p n + a = cx.key q n + b) : p = q ∧ a = b := by
  unfold Cx.key Gang.codeKey at h
  split at h
  · split at h
    · simp only [kKey] at h; omega
    · simp only [vKey] at h; omega
  · next hh =>
    split at h
    · next l hl =>
      split at h
      · next h240 =>
        have hv : ∀ x, x ∈ cx.g.expand cx.active → cx.g.vis x = l ∧ x ∈ cx.g.phys (cx.g.vis x) := by
          intro x hx
          have := Gang.mem_expand hx
          refine ⟨?_, this.2⟩
          rcases cxOf_body hc hl with e | e
          · rw [e, mem_lanesOf] at this
            have h2 := this.1.2
            simp only [maskOf, List.foldl_cons, List.foldl_nil, BitVec.zero_or, BitVec.getLsbD_shiftLeft] at h2
            simp only [BitVec.getLsbD_one, Bool.and_eq_true, decide_eq_true_eq, Bool.not_eq_true', decide_eq_false_iff_not] at h2
            have := h2.1; have := h2.2
            omega
          · rw [e] at this; simpa using this.1
        have hcp := Gang.copy_le cx.g p
        have hcq := Gang.copy_le cx.g q
        rw [hKey_def, hKey_def] at h
        have e1 : cx.g.copy p = cx.g.copy q := by omega
        have e2 : a = b := by rw [e1] at h; omega
        refine ⟨?_, e2⟩
        obtain ⟨v1, m1⟩ := hv p hp
        obtain ⟨v2, m2⟩ := hv q hq
        rw [v1] at m1; rw [v2] at m2
        unfold Gang.phys at m1 m2
        unfold Gang.copy at e1
        split at m1
        · next hpr =>
          rw [if_pos hpr] at m2 e1
          rw [if_pos hpr] at e1
          simp only [List.mem_cons, List.not_mem_nil, or_false] at m1 m2
          omega
        · next hpr =>
          rw [if_neg hpr] at m2
          simp only [List.mem_cons, List.not_mem_nil, or_false] at m1 m2
          omega
      · simp only [vKey] at h; omega
    · simp only [vKey] at h; omega

theorem natToWords_get {n x j : Nat} (h : j < n) : (natToWords n x)[j]? = some (BitVec.ofNat 32 (x / 2 ^ (32 * j))) := by
  simp [natToWords, h]

theorem Cx.outs_mem {cx : Cx} {d w p v : Nat} {e : Nat × Word} : e ∈ cx.outs d w p v ↔
    ∃ j < w, e = (cx.key p d + j, BitVec.ofNat 32 (v / 2 ^ (32 * j))) := by
  unfold Cx.outs keysFrom natToWords
  rw [List.zip_map', List.mem_map]
  constructor
  · rintro ⟨j, hj, rfl⟩; exact ⟨j, List.mem_range.mp hj, rfl⟩
  · rintro ⟨j, hj, rfl⟩; exact ⟨j, List.mem_range.mpr hj, rfl⟩

theorem Cx.outs_keys (cx : Cx) (d w p v : Nat) : (cx.outs d w p v).map Prod.fst = keysFrom (cx.key p d) w := by
  unfold Cx.outs keysFrom natToWords
  rw [List.zip_map', List.map_map]; rfl

theorem nodup_keys {cx : Cx} {i : Instr} {s : State} (hc : cxOf i s = some cx) {n w : Nat} (hn : n + w ≤ 256) (lanes : List Nat)
    (hl : lanes.Nodup) (hm : ∀ p ∈ lanes, p ∈ cx.g.expand cx.active) :
    (lanes.flatMap (fun p => keysFrom (cx.key p n) w)).Nodup := by
  rw [List.nodup_flatMap]
  refine ⟨?_, ?_⟩
  · intro p _
    unfold keysFrom
    rw [List.nodup_map_iff_inj_on List.nodup_range]
    intro a _ b _ h; omega
  · refine hl.imp_of_mem ?_
    intro a b ha hb hab x hx hy
    obtain ⟨j, hj, e1⟩ := keysFrom_mem.mp hx
    obtain ⟨k, hk, e2⟩ := keysFrom_mem.mp hy
    exact hab (Cx.key_inj hc hn (hm a ha) (hm b hb) hj hk (e1.symm.trans e2)).1

/-- Results written in a list of lanes are what the registers then hold. -/
theorem Holds.put {cx : Cx} {i : Instr} {s : State} (hc : cxOf i s = some cx) {d : Reg} {w : Nat} (hn : d.toNat + w ≤ 256)
    (lanes : List Nat) (hl : lanes.Nodup) (hm : ∀ p ∈ lanes, p ∈ cx.g.expand cx.active) (f : Nat → Nat) {t : State}
    {g' : Gang} (ht : t.gang? cx.gid = some g')
    (hr : g'.regs = (cx.g.writes cx.cyc cx.lat (lanes.flatMap (fun p => cx.outs d.toNat w p (f p)))).regs)
    (hf : g'.fly = (cx.g.writes cx.cyc cx.lat (lanes.flatMap (fun p => cx.outs d.toNat w p (f p)))).fly) :
    Holds cx t lanes d w f := by
  intro p hp j hj
  have hmem : (cx.key p d.toNat + j, BitVec.ofNat 32 (f p / 2 ^ (32 * j))) ∈ lanes.flatMap (fun p => cx.outs d.toNat w p (f p)) :=
    List.mem_flatMap.mpr ⟨p, hp, Cx.outs_mem.mpr ⟨j, hj, rfl⟩⟩
  have hnd : ((lanes.flatMap (fun p => cx.outs d.toNat w p (f p))).map Prod.fst).Nodup := by
    rw [List.map_flatMap]
    simp only [Cx.outs_keys]
    exact nodup_keys hc hn lanes hl hm
  have hv := Gang.writes_regs_mem _ cx.g cx.cyc cx.lat _ _ hnd hmem
  refine ⟨?_, ?_⟩
  · unfold State.reg; rw [ht]; simp only [hr]; exact hv
  · intro g hg u cyc hcyc
    rw [ht] at hg; cases hg
    rw [Gang.read_settled g' u cyc _ _ (by rw [hf]; exact Gang.writes_fly _ _ _ _ _ _ hmem) hcyc, hr]
    exact hv

/-! ### Computing instructions -/

theorem Clear.aligned {i : Instr} {cx : Cx} {s : State} (h : Clear i cx s) {u : RegUse} (hu : u ∈ i.regs) : u.width = 0 ∨ u.n.toNat % u.width = 0 := by
  have hb := h.inBudget
  rw [List.findSome?_eq_none_iff] at hb
  have := hb u hu
  unfold Cx.badReg at this
  by_contra hc
  rw [not_or] at hc
  simp [hc.1, hc.2] at this

/-- A pair or a quad of a clear instruction ends below register code 256. -/
theorem Clear.fits {i : Instr} {cx : Cx} {s : State} (h : Clear i cx s) {u : RegUse} (hu : u ∈ i.regs)
    (hw : u.width = 1 ∨ u.width = 2 ∨ u.width = 4) : u.n.toNat + u.width ≤ 256 := by
  have h1 := h.aligned hu
  have h2 : u.n.toNat < 256 := u.n.isLt
  rcases hw with e | e | e <;> rw [e] at h1 ⊢ <;> omega

theorem Cx.perform_active {cx : Cx} {i : Instr} {s : State} (hc : cxOf i s = some cx) {p : Nat} (hp : p ∈ cx.lanes) :
    p ∈ cx.g.expand cx.active := by
  have hs : ∀ l, l ∈ lanesOf cx.perform → l ∈ lanesOf cx.active := by
    intro l hl
    rw [cxOf_perform hc] at hl
    unfold Gang.performing at hl
    split at hl
    · rw [mem_lanesOf] at hl
      have hmem : ∀ (xs : List Nat) (m : Mask) (l : Nat), (xs.foldl (fun m l => m ||| (1#32 <<< l)) m).getLsbD l = true →
          m.getLsbD l = true ∨ l ∈ xs := by
        intro xs
        induction xs with
        | nil => intro m l h; exact Or.inl h
        | cons x xs ih =>
          intro m l h
          rcases ih _ l h with h | h
          · simp only [BitVec.getLsbD_or, BitVec.getLsbD_shiftLeft, BitVec.getLsbD_one, Bool.or_eq_true, Bool.and_eq_true,
              decide_eq_true_eq, Bool.not_eq_true', decide_eq_false_iff_not] at h
            rcases h with h | h
            · exact Or.inl h
            · right; have : l = x := by omega
              simp [this]
          · exact Or.inr (List.mem_cons_of_mem _ h)
      rcases hmem _ _ l hl.2 with h | h
      · simp at h
      · exact (List.mem_filter.mp h).1
    · split at hl
      · exact hl
      · simp [lanesOf] at hl
  unfold Cx.lanes Gang.expand at hp
  unfold Gang.expand
  rw [List.mem_flatMap] at hp ⊢
  obtain ⟨l, hl, hp⟩ := hp
  exact ⟨l, hs l hl, hp⟩

/-- Results written in some of the issuer's lanes, and the issuer moved on. -/
theorem finish_put {cx : Cx} {i : Instr} {s : State} (hc : cxOf i s = some cx) {d : Reg} {w : Nat} (hn : d.toNat + w ≤ 256)
    (lanes : List Nat) (hl : lanes.Nodup) (hm : ∀ p ∈ lanes, p ∈ cx.g.expand cx.active) (f : Nat → Nat) :
    Holds cx (cx.finish (cx.put s (lanes.flatMap (fun p => cx.outs d.toNat w p (f p))))) lanes d w f ∧
    OnlyRegs cx s (cx.finish (cx.put s (lanes.flatMap (fun p => cx.outs d.toNat w p (f p))))) cx.g (cx.keysIn lanes d w) cx.next := by
  have hg := cxOf_gang hc
  have ho := OnlyRegs.put hg (lanes.flatMap (fun p => cx.outs d.toNat w p (f p))) id (cx.put_gang? s _) (cx.put_rest s _)
    (cx.put_core s _) cx.next cx.ready false (fun _ _ _ _ _ _ => rfl) rfl rfl rfl rfl rfl
  have hk : (lanes.flatMap (fun p => cx.outs d.toNat w p (f p))).map Prod.fst = cx.keysIn lanes d w := by
    rw [List.map_flatMap]; simp only [Cx.outs_keys]; rfl
  rw [← Cx.finish_eq, hk] at ho
  refine ⟨?_, ho⟩
  have ht : (cx.finish (cx.put s (lanes.flatMap (fun p => cx.outs d.toNat w p (f p))))).gang? cx.gid =
      some (cx.moveGang cx.next cx.ready false (cx.g.writes cx.cyc cx.lat (lanes.flatMap (fun p => cx.outs d.toNat w p (f p))))) := by
    rw [Cx.finish_eq, State.gang?_modGang, if_pos rfl, Cx.put_gang?, if_pos rfl, hg]; rfl
  refine Holds.put hc hn lanes hl hm f ht ?_ ?_
  · unfold Cx.moveGang Gang.modHelper; split <;> rfl
  · unfold Cx.moveGang Gang.modHelper; split <;> rfl

/-- A V instruction: each performing lane's registers hold what f gives for it, and nothing else changes. -/
theorem vectorOp_effect {i : Instr} {cx : Cx} {s : State} (h : Clear i cx s) {d : Reg} {w : Nat} (f : Lanes → Nat → Nat)
    (hn : d.toNat + w ≤ 256) : ∃ t, vectorOp i d w s f = .next t ∧ Holds cx t cx.lanes d w (f ⟨cx, s⟩) ∧
      OnlyRegs cx s t cx.g (cx.keysIn cx.lanes d w) cx.next := by
  unfold vectorOp
  rw [run_clear h]
  refine ⟨_, rfl, ?_⟩
  unfold Cx.lanewise
  simp only [Option.map_some, Option.getD_some]
  exact finish_put h.issued hn cx.lanes (cx.g.expand_nodup _) (fun p hp => Cx.perform_active h.issued hp) (f ⟨cx, s⟩)

/-- A U instruction: every active lane's registers hold what f gives for the lowest one. -/
theorem uniformOp_effect {i : Instr} {cx : Cx} {s : State} (h : Clear i cx s) {d : Reg} {w : Nat} (f : Lanes → Nat → Nat)
    (hn : d.toNat + w ≤ 256) : ∃ t, uniformOp i d w s f = .next t ∧
      Holds cx t (cx.g.expand cx.active) d w (fun p => f ⟨cx, s⟩ ((cx.g.phys cx.low).getD (cx.g.copy p) 0)) ∧
      OnlyRegs cx s t cx.g (cx.keysIn (cx.g.expand cx.active) d w) cx.next := by
  unfold uniformOp
  rw [run_clear h]
  refine ⟨_, rfl, ?_⟩
  unfold Cx.uniform
  exact finish_put h.issued hn (cx.g.expand cx.active) (cx.g.expand_nodup _) (fun p hp => hp) _

/-- A gang whose splits wait for no peer's answer has nothing to call off (R209). -/
theorem Gang.cancelLater_idle (g : Gang) (place : Nat) (h : g.opsBusy = false) : g.cancelLater place = g := by
  have hf : ∀ x ∈ g.tree.splits, x.2.park.unanswered = false := by
    intro x hx
    simp only [Gang.opsBusy, List.any_eq_false] at h
    have h2 := h x hx
    cases hp : x.2.park <;> simp_all [Park.unanswered, Park.code]
  have hm : g.tree.splits.map (fun (x : Nat × Split) =>
      if x.1 ≠ place && ((Tab.look g.tree.splits place).map Split.lastIssue).getD 0 < x.2.lastIssue && x.2.park.unanswered
      then (x.1, { x.2 with park := .ready, again := false }) else x) = g.tree.splits := by
    conv_rhs => rw [← List.map_id g.tree.splits]
    apply List.map_congr_left
    intro x hx
    simp [hf x hx]
  simp only [Gang.cancelLater, hm]

end Sys2Proof.Machine
end

