-- ==== Sys2Proof/Laws/Float.lean ====
section
/-!
SUPPORT. Laws/Float.lean: what a floating-point instruction does around its operation: flags, results and the trap (R110, R111).
-/

namespace Sys2Proof.Machine

open Sys2Proof

/-- What raising flags does to the issuer's gang. -/
def Cx.flagGang (cx : Cx) (fs : List (Nat × Nat)) (g : Gang) : Gang :=
  if cx.index = 0 then
    { g with fflags := fs.foldl (fun t e => if e.2 = 0 then t else Tab.upd t e.1 0 (fun x => x ||| e.2)) g.fflags }
  else
    g.modHelper (cx.body.getD 0) cx.index (fun h => { h with flags := fs.foldl (fun x e => x ||| e.2) h.flags })

theorem Cx.raiseFlags_eq (cx : Cx) (s : State) (fs : List (Nat × Nat)) : cx.raiseFlags s fs = s.modGang cx.gid (cx.flagGang fs) := by
  have e : cx.flagGang fs = if cx.index = 0 then (fun g : Gang =>
      { g with fflags := fs.foldl (fun t e => if e.2 = 0 then t else Tab.upd t e.1 0 (fun x => x ||| e.2)) g.fflags })
    else (fun g : Gang => g.modHelper (cx.body.getD 0) cx.index (fun h =>
      { h with flags := fs.foldl (fun x e => x ||| e.2) h.flags })) := by
    funext g; unfold Cx.flagGang; split <;> rfl
  rw [e]; unfold Cx.raiseFlags; split <;> rfl

theorem getD_flags (lanes : List Nat) (fl : Nat → Flags5) (t : Tab Nat) (q : Nat) (hn : lanes.Nodup) :
    Tab.getD ((lanes.map (fun p => (p, fl p))).foldl (fun t e => if e.2 = 0 then t else Tab.upd t e.1 0 (fun x => x ||| e.2)) t) q 0 =
      if q ∈ lanes then Tab.getD t q 0 ||| fl q else Tab.getD t q 0 := by
  induction lanes generalizing t with
  | nil => simp
  | cons p ps ih =>
    simp only [List.nodup_cons] at hn
    simp only [List.map_cons, List.foldl_cons]
    rw [ih _ hn.2]
    have step : ∀ x, Tab.getD (if fl p = 0 then t else Tab.upd t p 0 (fun x => x ||| fl p)) x 0 =
        if p = x then Tab.getD t x 0 ||| fl x else Tab.getD t x 0 := by
      intro x
      split
      · next h =>
        split
        · next e => subst e; simp [h]
        · rfl
      · rw [Tab.getD_upd]
        split
        · next e => subst e; rfl
        · rfl
    rw [step]
    by_cases h1 : p = q
    · subst h1; simp [hn.1]
    · simp [h1, Ne.symm h1]

theorem flagGang_raised (cx : Cx) (lanes : List Nat) (fl : Nat → Flags5) (hn : lanes.Nodup) :
    FlagsRaised cx lanes fl (cx.flagGang (lanes.map (fun p => (p, fl p))) cx.g) := by
  unfold Cx.flagGang
  refine ⟨fun h => ?_, fun h => ?_⟩
  · rw [if_pos h]
    exact ⟨rfl, fun q => getD_flags lanes fl cx.g.fflags q hn⟩
  · rw [if_neg h]
    unfold Gang.modHelper
    refine ⟨rfl, fun l hl => ?_, ?_⟩
    · simp only [Tab.look_modify]; rw [if_neg (fun e => hl e.symm)]
    · simp only [Tab.look_modify, if_true, List.foldl_map]

theorem FlagsRaised.congr {cx : Cx} {lanes : List Nat} {f g : Nat → Flags5} {g1 : Gang} (h : FlagsRaised cx lanes f g1) (e : f = g) :
    FlagsRaised cx lanes g g1 := e ▸ h

theorem foldl_map_or (lanes : List Nat) (f : Nat → Nat) (x : Nat) :
    lanes.foldl (fun x p => x ||| f p) x = (lanes.map f).foldl (· ||| ·) x := by rw [List.foldl_map]

theorem rest_modGang {s u : State} (h : u = { s with gangs := u.gangs, cores := u.cores }) (gid : Nat) (f : Gang → Gang) :
    u.modGang gid f = { s with gangs := (u.modGang gid f).gangs, cores := (u.modGang gid f).cores } := by
  rw [h]; rfl

/-- The results of some lanes written and their flags raised. -/
theorem put_flags {cx : Cx} {i : Instr} {s : State} (hc : cxOf i s = some cx) {d : Reg} {w : Nat} (hn : d.toNat + w ≤ 256)
    (lanes : List Nat) (hl : lanes.Nodup) (hm : ∀ p ∈ lanes, p ∈ cx.g.expand cx.active) (f : Nat → Nat × Flags5) :
    let u := cx.raiseFlags (cx.put s (lanes.flatMap (fun p => cx.outs d.toNat w p (f p).1))) (lanes.map (fun p => (p, (f p).2)))
    let g1 := cx.flagGang (lanes.map (fun p => (p, (f p).2))) cx.g
    Holds cx u lanes d w (fun p => (f p).1) ∧ Holds cx (cx.finish u) lanes d w (fun p => (f p).1) ∧
    OnlyRegs cx s (cx.finish u) g1 (cx.keysIn lanes d w) cx.next ∧
    ∃ g', u.gang? cx.gid = some g' ∧ GangFrame g1 (cx.keysIn lanes d w) g' := by
  intro u g1
  have hg := cxOf_gang hc
  have hk : (lanes.flatMap (fun p => cx.outs d.toNat w p (f p).1)).map Prod.fst = cx.keysIn lanes d w := by
    rw [List.map_flatMap]; simp only [Cx.outs_keys]; rfl
  have hu : ∀ k, u.gang? k = if cx.gid = k then (s.gang? k).map (fun g =>
      cx.flagGang (lanes.map (fun p => (p, (f p).2))) (g.writes cx.cyc cx.lat (lanes.flatMap (fun p => cx.outs d.toNat w p (f p).1)))) else
      s.gang? k := by
    intro k
    show (cx.raiseFlags _ _).gang? k = _
    rw [Cx.raiseFlags_eq, State.gang?_modGang, Cx.put_gang?]
    split
    · simp [Option.map_map, Function.comp_def]
    · rfl
  have hrest : u = { s with gangs := u.gangs, cores := u.cores } := by
    have h0 := rest_modGang (cx.put_rest s (lanes.flatMap (fun p => cx.outs d.toNat w p (f p).1))) cx.gid
      (cx.flagGang (lanes.map (fun p => (p, (f p).2))))
    rw [← Cx.raiseFlags_eq] at h0
    exact h0
  have hcore : ∀ c, ∃ n, u.core c = { s.core c with laneDeath := n } := by
    intro c
    obtain ⟨n, h⟩ := cx.put_core s (lanes.flatMap (fun p => cx.outs d.toNat w p (f p).1)) c
    refine ⟨n, ?_⟩
    show (cx.raiseFlags _ _).core c = _
    rw [Cx.raiseFlags_eq]
    exact h
  have hw : (cx.flagGang (lanes.map (fun p => (p, (f p).2))) cx.g).width = cx.g.width := by
    unfold Cx.flagGang Gang.modHelper; split <;> rfl
  have ho := OnlyRegs.put hg (lanes.flatMap (fun p => cx.outs d.toNat w p (f p).1)) (cx.flagGang (lanes.map (fun p => (p, (f p).2))))
    hu hrest hcore cx.next cx.ready false (fun _ _ _ _ _ _ => by unfold Cx.flagGang Gang.modHelper; split <;> rfl) hw
    (by unfold Cx.flagGang Gang.modHelper; split <;> rfl) (by unfold Cx.flagGang Gang.modHelper; split <;> rfl) (by unfold Cx.flagGang Gang.modHelper; split <;> rfl)
    (by unfold Cx.flagGang Gang.modHelper; split <;> rfl)
  rw [← Cx.finish_eq, hk] at ho
  have h1 : u.gang? cx.gid = some (cx.flagGang (lanes.map (fun p => (p, (f p).2)))
      (cx.g.writes cx.cyc cx.lat (lanes.flatMap (fun p => cx.outs d.toNat w p (f p).1)))) := by
    rw [hu, if_pos rfl, hg]; rfl
  have h2 : (cx.finish u).gang? cx.gid = some (cx.moveGang cx.next cx.ready false (cx.flagGang (lanes.map (fun p => (p, (f p).2)))
      (cx.g.writes cx.cyc cx.lat (lanes.flatMap (fun p => cx.outs d.toNat w p (f p).1))))) := by
    rw [Cx.finish_eq, State.gang?_modGang, if_pos rfl, h1]; rfl
  refine ⟨?_, ?_, ho, _, h1, ?_⟩
  · refine Holds.put hc hn lanes hl hm (fun p => (f p).1) h1 ?_ ?_
    · unfold Cx.flagGang Gang.modHelper; split <;> rfl
    · unfold Cx.flagGang Gang.modHelper; split <;> rfl
  · refine Holds.put hc hn lanes hl hm (fun p => (f p).1) h2 ?_ ?_
    · unfold Cx.moveGang Cx.flagGang Gang.modHelper; split <;> rfl
    · unfold Cx.moveGang Cx.flagGang Gang.modHelper; split <;> rfl
  · obtain ⟨x1, x2, x3, x4, x5⟩ := Gang.writes_gangFrame (lanes.flatMap (fun p => cx.outs d.toNat w p (f p).1)) cx.g cx.cyc cx.lat
    rw [hk] at x2 x3 x4 x5
    refine ⟨?_, ?_, ?_, ?_, ?_⟩
    · show cx.flagGang _ (Gang.writes _ _ _ _) = _
      unfold Cx.flagGang Gang.modHelper at *
      simp only [g1]
      unfold Cx.flagGang Gang.modHelper
      split <;> rw [x1]
    · intro k hk'; show Tab.getD (cx.flagGang _ _).regs k 0 = Tab.getD (cx.flagGang _ _).regs k 0
      have := x2 k hk'
      unfold Cx.flagGang Gang.modHelper; split <;> exact this
    · intro k; have := x3 k; simp only [g1]; unfold Cx.flagGang Gang.modHelper; split <;> exact this
    · simp only [g1]; rw [hw]; unfold Cx.flagGang Gang.modHelper; split <;> exact x4
    · simp only [g1]; rw [hw]; unfold Cx.flagGang Gang.modHelper; split <;> exact x5

theorem fpu_good (cx : Cx) (f : Nat → Nat × Flags5) (d : Reg) (w : Nat) (m : Mask) :
    (((cx.lanes.map (fun p => (p, f p))).filter (fun r => !m.getLsbD (cx.g.vis r.1))).flatMap (fun r => cx.outs d.toNat w r.1 r.2.1)) =
      (cx.lanes.filter (fun p => !m.getLsbD (cx.g.vis p))).flatMap (fun p => cx.outs d.toNat w p (f p).1) ∧
    (((cx.lanes.map (fun p => (p, f p))).filter (fun r => !m.getLsbD (cx.g.vis r.1))).map (fun r => (r.1, r.2.2))) =
      (cx.lanes.filter (fun p => !m.getLsbD (cx.g.vis p))).map (fun p => (p, (f p).2)) := by
  rw [List.filter_map, List.flatMap_map, List.map_map]
  exact ⟨rfl, rfl⟩

theorem fpu_bad (cx : Cx) (c : FCalc) (s : State) :
    maskOf (((cx.lanes.map (fun p => (p, c.f ⟨cx, s⟩ p))).filter (fun r => r.2.2 &&& cx.ftrap ≠ 0)).map (fun r => cx.g.vis r.1)) =
      c.failing cx s := by
  rw [List.filter_map, List.map_map]; rfl

/-- A floating-point instruction completes in lanes that raise no enabled exception (R110). -/
theorem fpOp_completes {i : Instr} {cx : Cx} {s : State} (h : Clear i cx s) (c : FCalc) (hn : c.d.toNat + c.w ≤ 256)
    (hq : ∀ p ∈ cx.lanes, c.enabled cx s p = 0) :
    ∃ t g1, fpOp i c.d c.w s c.f = .next t ∧ Holds cx t cx.lanes c.d c.w (fun p => (c.f ⟨cx, s⟩ p).1) ∧
      FlagsRaised cx cx.lanes (fun p => (c.f ⟨cx, s⟩ p).2) g1 ∧ OnlyRegs cx s t g1 (cx.keysIn cx.lanes c.d c.w) cx.next := by
  have hb : c.failing cx s = 0 := by
    unfold FCalc.failing
    rw [List.filter_eq_nil_iff.mpr]
    · rfl
    · intro p hp; simp [hq p hp]
  have hp := put_flags h.issued hn cx.lanes (cx.g.expand_nodup _) (fun p hp => Cx.perform_active h.issued hp) (c.f ⟨cx, s⟩)
  dsimp only at hp
  refine ⟨_, _, ?_, hp.2.1, flagGang_raised cx cx.lanes _ (cx.g.expand_nodup _), hp.2.2.1⟩
  unfold fpOp
  rw [run_clear h]
  unfold Cx.fpu
  dsimp only
  rw [fpu_bad, hb, if_pos rfl, (fpu_good cx (c.f ⟨cx, s⟩) c.d c.w 0).1, (fpu_good cx (c.f ⟨cx, s⟩) c.d c.w 0).2]
  simp

theorem testBit_foldl_or (xs : List Nat) (f : Nat → Nat) (x j : Nat) :
    (xs.foldl (fun x p => x ||| f p) x).testBit j = (x.testBit j || xs.any (fun p => (f p).testBit j)) := by
  induction xs generalizing x with
  | nil => simp
  | cons p ps ih => rw [List.foldl_cons, ih, Nat.testBit_or, List.any_cons, Bool.or_assoc]

/-- One that raises an enabled exception traps for its lanes; the others complete (R111). -/
theorem fpOp_traps {i : Instr} {cx : Cx} {s : State} (h : Clear i cx s) (c : FCalc) (hn : c.d.toNat + c.w ≤ 256)
    (hq : ∃ p ∈ cx.lanes, ∃ k < 5, (c.enabled cx s p).testBit k = true) :
    ∃ u g1 k, fpOp i c.d c.w s c.f =
        .next (cx.fault u (0x10 + k) (c.failing cx s) 0 (cx.lanes.foldl (fun x p => x ||| c.enabled cx s p) 0)) ∧
      (∃ p ∈ cx.lanes, (c.enabled cx s p).testBit k) ∧ (∀ p ∈ cx.lanes, ∀ j < k, (c.enabled cx s p).testBit j = false) ∧
      Holds cx u (c.passing cx s) c.d c.w (fun p => (c.f ⟨cx, s⟩ p).1) ∧
      FlagsRaised cx (c.passing cx s) (fun p => (c.f ⟨cx, s⟩ p).2) g1 ∧
      ∃ g', u.gang? cx.gid = some g' ∧ GangFrame g1 (cx.keysIn (c.passing cx s) c.d c.w) g' := by
  obtain ⟨p0, hp0, k0, hk0, hb0⟩ := hq
  have hact := fun p (hp : p ∈ cx.lanes) => Cx.perform_active h.issued hp
  have hvis : ∀ p ∈ cx.lanes, cx.g.vis p < 32 := by
    intro p hp
    exact (mem_lanesOf.mp (Gang.mem_expand hp).1).1
  have hb : c.failing cx s ≠ 0 := by
    intro e
    have h1 : (c.failing cx s).getLsbD (cx.g.vis p0) = true := by
      have hmem : ∀ (xs : List Nat) (m : Mask) (l : Nat), l < 32 → (m.getLsbD l = true ∨ l ∈ xs) →
          (xs.foldl (fun m l => m ||| (1#32 <<< l)) m).getLsbD l = true := by
        intro xs
        induction xs with
        | nil => intro m l _ hx; simpa using hx
        | cons x xs ih =>
          intro m l hl hx
          rw [List.foldl_cons]
          refine ih _ l hl ?_
          rcases hx with hx | hx
          · left; rw [BitVec.getLsbD_or, hx]; rfl
          · rcases List.mem_cons.mp hx with hx | hx
            · left; subst hx; simp [hl]
            · exact Or.inr hx
      refine hmem _ _ _ (hvis p0 hp0) (Or.inr ?_)
      refine List.mem_map.mpr ⟨p0, List.mem_filter.mpr ⟨hp0, ?_⟩, rfl⟩
      rw [decide_eq_true_iff]
      intro e0; rw [e0] at hb0; simp at hb0
    rw [e] at h1; simp at h1
  have hp := put_flags h.issued hn (c.passing cx s) ((cx.g.expand_nodup _).filter _)
    (fun p hp => hact p (List.mem_filter.mp hp).1) (c.f ⟨cx, s⟩)
  dsimp only at hp
  obtain ⟨k, hk, hlow⟩ : ∃ k, (∃ p ∈ cx.lanes, (c.enabled cx s p).testBit k = true) ∧
      lowestFpCause (cx.lanes.foldl (fun x p => x ||| c.enabled cx s p) 0) = 0x10 + k ∧
      ∀ p ∈ cx.lanes, ∀ j < k, (c.enabled cx s p).testBit j = false := by
    have key : ∀ j, (cx.lanes.foldl (fun x p => x ||| c.enabled cx s p) 0).testBit j = true ↔
        ∃ p ∈ cx.lanes, (c.enabled cx s p).testBit j = true := by
      intro j; rw [testBit_foldl_or]; simp
    have no : ∀ j, ¬ (cx.lanes.foldl (fun x p => x ||| c.enabled cx s p) 0).testBit j = true →
        ∀ p ∈ cx.lanes, (c.enabled cx s p).testBit j = false := by
      intro j hj p hp
      by_contra hc
      exact hj ((key j).mpr ⟨p, hp, by simpa using hc⟩)
    unfold lowestFpCause
    by_cases h0 : (cx.lanes.foldl (fun x p => x ||| c.enabled cx s p) 0).testBit 0 = true
    · exact ⟨0, (key 0).mp h0, by rw [if_pos h0], fun p _ j hj => absurd hj (Nat.not_lt_zero j)⟩
    · by_cases h1 : (cx.lanes.foldl (fun x p => x ||| c.enabled cx s p) 0).testBit 1 = true
      · refine ⟨1, (key 1).mp h1, by rw [if_neg h0, if_pos h1], fun p hp j hj => ?_⟩
        have : j = 0 := by omega
        subst this; exact no 0 h0 p hp
      · by_cases h2 : (cx.lanes.foldl (fun x p => x ||| c.enabled cx s p) 0).testBit 2 = true
        · refine ⟨2, (key 2).mp h2, by rw [if_neg h0, if_neg h1, if_pos h2], fun p hp j hj => ?_⟩
          rcases (by omega : j = 0 ∨ j = 1) with rfl | rfl
          · exact no 0 h0 p hp
          · exact no 1 h1 p hp
        · by_cases h3 : (cx.lanes.foldl (fun x p => x ||| c.enabled cx s p) 0).testBit 3 = true
          · refine ⟨3, (key 3).mp h3, by rw [if_neg h0, if_neg h1, if_neg h2, if_pos h3], fun p hp j hj => ?_⟩
            rcases (by omega : j = 0 ∨ j = 1 ∨ j = 2) with rfl | rfl | rfl
            · exact no 0 h0 p hp
            · exact no 1 h1 p hp
            · exact no 2 h2 p hp
          · refine ⟨4, ?_, by rw [if_neg h0, if_neg h1, if_neg h2, if_neg h3], fun p hp j hj => ?_⟩
            · have h4 := (key k0).mpr ⟨p0, hp0, hb0⟩
              rcases (by omega : k0 = 0 ∨ k0 = 1 ∨ k0 = 2 ∨ k0 = 3 ∨ k0 = 4) with rfl | rfl | rfl | rfl | rfl
              · exact absurd h4 h0
              · exact absurd h4 h1
              · exact absurd h4 h2
              · exact absurd h4 h3
              · exact (key 4).mp h4
            · rcases (by omega : j = 0 ∨ j = 1 ∨ j = 2 ∨ j = 3) with rfl | rfl | rfl | rfl
              · exact no 0 h0 p hp
              · exact no 1 h1 p hp
              · exact no 2 h2 p hp
              · exact no 3 h3 p hp
  refine ⟨_, _, k, ?_, hk, hlow.2, hp.1, flagGang_raised cx (c.passing cx s) _ ((cx.g.expand_nodup _).filter _), hp.2.2.2⟩
  unfold fpOp
  rw [run_clear h]
  unfold Cx.fpu
  dsimp only
  rw [fpu_bad, if_neg hb, (fpu_good cx (c.f ⟨cx, s⟩) c.d c.w (c.failing cx s)).1, (fpu_good cx (c.f ⟨cx, s⟩) c.d c.w (c.failing cx s)).2]
  rw [List.foldl_map]
  rw [← hlow.1]
  rfl

end Sys2Proof.Machine
end

