-- ==== Sys2Proof/Laws/Integer.lean ====
section
/-!
SUPPORT. Laws/Integer.lean: the integer operations of Machine/Flags.lean in plain numbers.
-/

namespace Sys2Proof.Machine

open Sys2Proof

/-! ### Narrowing and extending -/

theorem sext32 (a : Word) : sext a.toNat 32 = a.toInt := by
  unfold sext
  have := a.isLt
  rw [Nat.mod_eq_of_lt this, BitVec.toInt_eq_toNat_cond]
  split <;> split <;> omega

theorem sext16 (m : BitVec 16) : sext m.toNat 16 = m.toInt := by
  unfold sext
  have := m.isLt
  rw [Nat.mod_eq_of_lt this, BitVec.toInt_eq_toNat_cond]
  split <;> split <;> omega

theorem wrap32 (x : Int) : wrap x 32 = (BitVec.ofInt 32 x).toNat := by unfold wrap; rw [BitVec.toNat_ofInt]

theorem wrap64 (x : Int) : wrap x 64 = (BitVec.ofInt 64 x).toNat := by unfold wrap; rw [BitVec.toNat_ofInt]

theorem wrap_nat (x n : Nat) : wrap (x : Int) n = x % 2 ^ n := by
  unfold wrap; rw [← Int.natCast_mod, Int.toNat_natCast]

theorem wrap_toInt (a : Word) : wrap a.toInt 32 = a.toNat := by rw [wrap32, BitVec.ofInt_toInt]

/-- The number of a wrapped sum, product or difference of words. -/
theorem toNat_add_wrap (a b : Word) : (a + b).toNat = wrap ((a.toNat : Int) + b.toNat) 32 := by
  rw [BitVec.toNat_add, ← Int.natCast_add, wrap_nat]

theorem toNat_mul_wrap (a b : Word) : (a * b).toNat = wrap ((a.toNat : Int) * b.toNat) 32 := by
  rw [BitVec.toNat_mul, ← Int.natCast_mul, wrap_nat]

theorem toNat_sub_wrap (a b : Word) : (a - b).toNat = wrap ((a.toNat : Int) - b.toNat) 32 := by
  rw [BitVec.toNat_sub]; unfold wrap
  have := a.isLt; have := b.isLt; omega

theorem toNat_mad_wrap (a b d : Word) : (a * b + d).toNat = wrap ((a.toNat : Int) * b.toNat + d.toNat) 32 := by
  rw [BitVec.toNat_add, BitVec.toNat_mul, ← Int.natCast_mul, ← Int.natCast_add, wrap_nat]
  omega

theorem toNat_addi_wrap (d : Word) (m : BitVec 16) : (d + m.signExtend 32).toNat = wrap ((d.toNat : Int) + m.toInt) 32 := by
  rw [wrap32, show ((d.toNat : Int) + m.toInt) = (d.toNat : Int) + m.toInt from rfl, BitVec.ofInt_add]
  have : BitVec.ofInt 32 (d.toNat : Int) = d := by simp
  rw [this]; rfl

/-! ### Products, minima and maxima (R142) -/

theorem toNat_mulhiSigned (a b : Word) : (mulhiSigned a b).toNat = wrap (a.toInt * b.toInt / 2 ^ 32) 32 := by rw [wrap32]; rfl

theorem toNat_mulhiUnsigned (a b : Word) : (mulhiUnsigned a b).toNat = a.toNat * b.toNat / 2 ^ 32 := by
  unfold mulhiUnsigned
  rw [BitVec.toNat_ofNat]
  apply Nat.mod_eq_of_lt
  rw [Nat.div_lt_iff_lt_mul (by decide)]
  exact Nat.mul_lt_mul'' a.isLt b.isLt

theorem toNat_mulwSigned (a b : Word) : (mulwSigned a b).toNat = wrap (a.toInt * b.toInt) 64 := by rw [wrap64]; rfl

theorem toNat_mulwUnsigned (a b : Word) : (mulwUnsigned a b).toNat = a.toNat * b.toNat := by
  unfold mulwUnsigned
  rw [BitVec.toNat_ofNat]
  apply Nat.mod_eq_of_lt
  have h : a.toNat * b.toNat < 2 ^ 32 * 2 ^ 32 := Nat.mul_lt_mul'' a.isLt b.isLt
  exact Nat.lt_of_lt_of_le h (by norm_num)

theorem toNat_minSigned (a b : Word) : (minSigned a b).toNat = wrap (min a.toInt b.toInt) 32 := by
  unfold minSigned; rw [Int.min_def]; split <;> rw [wrap_toInt]

theorem toNat_maxSigned (a b : Word) : (maxSigned a b).toNat = wrap (max a.toInt b.toInt) 32 := by
  unfold maxSigned; rw [Int.max_def]; split <;> rw [wrap_toInt]

theorem toNat_minUnsigned (a b : Word) : (minUnsigned a b).toNat = min a.toNat b.toNat := by
  unfold minUnsigned; rw [Nat.min_def]; split <;> rfl

theorem toNat_maxUnsigned (a b : Word) : (maxUnsigned a b).toNat = max a.toNat b.toNat := by
  unfold maxUnsigned; rw [Nat.max_def]; split <;> rfl

theorem toNat_movhWord (d : Word) (m : BitVec 16) : (movhWord d m).toNat = m.toNat * 2 ^ 16 + d.toNat % 2 ^ 16 := by
  unfold movhWord
  rw [BitVec.toNat_append, BitVec.extractLsb'_toNat, Nat.shiftRight_zero]
  exact (Nat.shiftLeft_add_eq_or_of_lt (Nat.mod_lt _ (by norm_num)) m.toNat).symm.trans (by rw [Nat.shiftLeft_eq])

/-! ### Pairs -/

theorem rd2_lt (a b : Word) : a.toNat + 2 ^ 32 * b.toNat < 2 ^ 64 := by
  have h1 : a.toNat + 2 ^ 32 * b.toNat < 2 ^ 32 + 2 ^ 32 * b.toNat := Nat.add_lt_add_right a.isLt _
  have h2 : 2 ^ 32 * (b.toNat + 1) ≤ 2 ^ 32 * 2 ^ 32 := Nat.mul_le_mul_left _ b.isLt
  have h3 : 2 ^ 32 * (b.toNat + 1) = 2 ^ 32 + 2 ^ 32 * b.toNat := by rw [Nat.mul_add, Nat.mul_one, Nat.add_comm]
  rw [h3] at h2
  exact Nat.lt_of_lt_of_le h1 (Nat.le_trans h2 (by norm_num))

theorem Lanes.r2_lt (x : Lanes) (p : Nat) (n : Reg) : x.r2 p n < 2 ^ 64 := by
  exact rd2_lt _ _

theorem Lanes.src2_lt (x : Lanes) (p : Nat) (b : Src) : x.src2 p b < 2 ^ 64 := by
  cases b with
  | reg n => exact x.r2_lt p n
  | lit32 l => exact BitVec.isLt _
  | lit64 l => exact BitVec.isLt _

theorem add64_wrap (a b : Nat) : (a + b) % 2 ^ 64 = wrap ((a : Int) + b) 64 := by rw [← Int.natCast_add, wrap_nat]

theorem sub64_wrap (a b : Nat) (h : b < 2 ^ 64) : (a + 2 ^ 64 - b) % 2 ^ 64 = wrap ((a : Int) - b) 64 := by
  unfold wrap; omega

/-! ### Shifts and fields (R145 to R148) -/

theorem toNat_shlBy (a : Word) (c : Nat) : (shlBy a c).toNat = shiftedLeft a.toNat c := by
  unfold shlBy shiftedLeft
  split
  · rw [BitVec.toNat_shiftLeft, Nat.shiftLeft_eq]
  · rfl

theorem toNat_shrUnsigned (a : Word) (c : Nat) : (shrUnsigned a c).toNat = shiftedRight a.toNat c := by
  unfold shrUnsigned shiftedRight
  split
  · rw [BitVec.toNat_ushiftRight, Nat.shiftRight_eq_div_pow]
  · rfl

theorem toNat_shrSigned (a : Word) (c : Nat) : (shrSigned a c).toNat = shiftedSigned a.toInt c := by
  unfold shrSigned shiftedSigned
  rw [wrap32, BitVec.sshiftRight_eq, Int.shiftRight_eq_div_pow]; rfl

theorem toNat_andn (a b : Word) : (a &&& ~~~b).toNat = a.toNat &&& (2 ^ 32 - 1 - b.toNat) := by
  rw [BitVec.toNat_and, BitVec.toNat_not]

theorem toNat_bfe (signed : Bool) (a q : Word) :
    (bfe signed a q).toNat = extracted (if signed then a.toInt else (a.toNat : Int)) signed q.toNat := by
  have hl : min (q.toNat / 256 % 256) 32 = fieldLen q.toNat := rfl
  have hp : q.toNat % 256 = fieldPos q.toNat := by unfold fieldPos bits; omega
  unfold bfe extracted
  simp only [hl, hp]
  split
  · rfl
  · next hz =>
    have hf : ∀ x : Int, fieldOf x (fieldPos q.toNat) (fieldLen q.toNat) < 2 ^ 32 := by
      intro x
      have h1 : fieldOf x (fieldPos q.toNat) (fieldLen q.toNat) < 2 ^ fieldLen q.toNat := by
        unfold fieldOf
        have : (0 : Int) < 2 ^ fieldLen q.toNat := by positivity
        have h2 := Int.emod_lt_of_pos (x / 2 ^ fieldPos q.toNat) this
        have h3 := Int.emod_nonneg (x / 2 ^ fieldPos q.toNat) (Int.ne_of_gt this)
        zify
        rw [Int.toNat_of_nonneg h3]; exact h2
      exact Nat.lt_of_lt_of_le h1 (Nat.pow_le_pow_right (by decide) (Nat.min_le_right _ _))
    cases signed with
    | true => simp only [if_true]; rw [wrap32]; rfl
    | false =>
      simp only [Bool.false_eq_true, if_false]
      rw [BitVec.toNat_ofNat, Nat.mod_eq_of_lt]
      · rfl
      · exact hf _

theorem toNat_bfi (d a q : Word) : (bfi d a q).toNat = inserted d.toNat a.toNat q.toNat := by
  have hl : min (q.toNat / 256 % 256) 32 = fieldLen q.toNat := rfl
  have hp : q.toNat % 256 = fieldPos q.toNat := by unfold fieldPos bits; omega
  unfold bfi inserted
  simp only [hl, hp]
  split
  · rfl
  · simp only [BitVec.toNat_or, BitVec.toNat_and, BitVec.toNat_not, BitVec.toNat_ofNat, BitVec.toNat_shiftLeft, Nat.shiftLeft_eq]

/-! ### Counting bits (R149) -/

theorem toNat_popc (a : Word) : (popc a).toNat = ((List.range 32).filter (fun i => a.getLsbD i)).length := by
  unfold popc lanesOf
  rw [BitVec.toNat_ofNat, Nat.mod_eq_of_lt]
  exact Nat.lt_of_le_of_lt (List.length_filter_le _ _) (by simp)

theorem filter_ge_length (n k : Nat) : ((List.range n).filter (fun i => k ≤ i)).length = n - k := by
  induction n with
  | zero => simp
  | succ n ih =>
    rw [List.range_succ, List.filter_append, List.length_append, ih]
    by_cases h : k ≤ n <;> simp [h] <;> omega

theorem toNat_clz (a : Word) : (clz a).toNat = ((List.range 32).filter (fun i => a.toNat < 2 ^ i)).length := by
  unfold clz
  by_cases h : a = 0
  · subst h
    have : (List.range 32).filter (fun i => decide (BitVec.toNat (0 : Word) < 2 ^ i)) = List.range 32 := by
      rw [List.filter_eq_self]; intro i _; simp
    rw [this]; rfl
  · rw [if_neg h]
    have h0 : a.toNat ≠ 0 := fun e => h (BitVec.eq_of_toNat_eq e)
    have hl : Nat.log2 a.toNat < 32 := (Nat.log2_lt h0).mpr a.isLt
    have : (fun i : Nat => decide (a.toNat < 2 ^ i)) = (fun i => decide (Nat.log2 a.toNat + 1 ≤ i)) := by
      funext i
      rw [decide_eq_decide, ← Nat.log2_lt h0]; omega
    rw [this, filter_ge_length, BitVec.toNat_ofNat, Nat.mod_eq_of_lt (by omega)]
    omega

theorem getLsbD_maskOf (ls : List Nat) (i : Nat) : (maskOf ls).getLsbD i = (decide (i < 32) && decide (i ∈ ls)) := by
  have : ∀ (xs : List Nat) (m : Mask), (xs.foldl (fun m l => m ||| (1#32 <<< l)) m).getLsbD i =
      (m.getLsbD i || (decide (i < 32) && decide (i ∈ xs))) := by
    intro xs
    induction xs with
    | nil => simp
    | cons x xs ih =>
      intro m
      rw [List.foldl_cons, ih, BitVec.getLsbD_or, BitVec.getLsbD_shiftLeft, BitVec.getLsbD_one]
      by_cases h : i < 32
      · by_cases hx : i = x
        · subst hx; simp [h]
        · have : ¬ (x ≤ i ∧ i - x = 0) := by omega
          by_cases hm : i ∈ xs
          · simp [h, hm]
          · have h1 : (!decide (i < x) && decide (i - x = 0)) = false := by
              by_cases h2 : i < x
              · simp [h2]
              · simp [h2]; omega
            simp [h, hm, hx, h1]
      · simp [h]
  unfold maskOf
  rw [this]; simp

theorem brev_eq (a : Word) : brev a = a.reverse := by
  apply BitVec.eq_of_getLsbD_eq
  intro i hi
  unfold brev
  rw [getLsbD_maskOf, BitVec.getLsbD_reverse, BitVec.getMsbD]
  simp only [hi, decide_true, Bool.true_and]
  rw [Bool.eq_iff_iff, decide_eq_true_iff, List.mem_map]
  simp only [mem_lanesOf]
  constructor
  · rintro ⟨j, ⟨hj, hb⟩, rfl⟩
    have : 32 - 1 - (31 - j) = j := by omega
    rw [this]; exact hb
  · intro h
    exact ⟨31 - i, ⟨by omega, by simpa using h⟩, by omega⟩

/-! ### Compares -/

theorem toNat_ofBool (b : Bool) : (Word.ofBool b).toNat = truth b := by cases b <;> rfl

end Sys2Proof.Machine
end

