-- ==== Sys2Proof/Laws/Lane.lean ====
section
/-!
SUPPORT. Laws/Lane.lean: masks as sums, reductions, and writes of a result together with a change of the gang.
-/

namespace Sys2Proof.Machine

open Sys2Proof

theorem Holds.congr {cx : Cx} {t : State} {lanes : List Nat} {d : Reg} {w : Nat} {f g : Nat → Nat} (h : Holds cx t lanes d w f)
    (e : ∀ p ∈ lanes, f p = g p) : Holds cx t lanes d w g := by
  intro p hp j hj
  have := h p hp j hj
  rwa [e p hp] at this

/-- Results written, the gang changed in other parts by F, and the issuer moved on. -/
theorem finish_put_mod {cx : Cx} {i : Instr} {s : State} (hc : cxOf i s = some cx) {d : Reg} {w : Nat} (hn : d.toNat + w ≤ 256)
    (lanes : List Nat) (hl : lanes.Nodup) (hm : ∀ p ∈ lanes, p ∈ cx.g.expand cx.active) (f : Nat → Nat) (F : Gang → Gang)
    (hF : ∀ regs fly bad tags accs ldas, F { cx.g with regs := regs, fly := fly, bad := bad, tags := tags, accs := accs, ldas := ldas } =
      { F cx.g with regs := regs, fly := fly, bad := bad, tags := tags, accs := accs, ldas := ldas })
    (hw : (F cx.g).width = cx.g.width) (h1 : (F cx.g).regs = cx.g.regs) (h2 : (F cx.g).bad = cx.g.bad)
    (h3 : (F cx.g).tags = cx.g.tags) (h4 : (F cx.g).accs = cx.g.accs)  :
    Holds cx (cx.finish ((cx.put s (lanes.flatMap (fun p => cx.outs d.toNat w p (f p)))).modGang cx.gid F)) lanes d w f ∧
    OnlyRegs cx s (cx.finish ((cx.put s (lanes.flatMap (fun p => cx.outs d.toNat w p (f p)))).modGang cx.gid F)) (F cx.g)
      (cx.keysIn lanes d w) cx.next := by
  have hg := cxOf_gang hc
  have hk : (lanes.flatMap (fun p => cx.outs d.toNat w p (f p))).map Prod.fst = cx.keysIn lanes d w := by
    rw [List.map_flatMap]; simp only [Cx.outs_keys]; rfl
  have hu : ∀ k, ((cx.put s (lanes.flatMap (fun p => cx.outs d.toNat w p (f p)))).modGang cx.gid F).gang? k =
      if cx.gid = k then (s.gang? k).map (fun g => F (g.writes cx.cyc cx.lat (lanes.flatMap (fun p => cx.outs d.toNat w p (f p)))))
      else s.gang? k := by
    intro k
    rw [State.gang?_modGang, Cx.put_gang?]
    split
    · simp [Option.map_map, Function.comp_def]
    · rfl
  have hrest : (cx.put s (lanes.flatMap (fun p => cx.outs d.toNat w p (f p)))).modGang cx.gid F = { s with
      gangs := ((cx.put s (lanes.flatMap (fun p => cx.outs d.toNat w p (f p)))).modGang cx.gid F).gangs
      cores := ((cx.put s (lanes.flatMap (fun p => cx.outs d.toNat w p (f p)))).modGang cx.gid F).cores } := by
    rw [cx.put_rest s]; rfl
  have ho := OnlyRegs.put hg (lanes.flatMap (fun p => cx.outs d.toNat w p (f p))) F hu hrest (cx.put_core s _)
    cx.next cx.ready false hF hw h1 h2 h3 h4
  rw [← Cx.finish_eq, hk] at ho
  refine ⟨?_, ho⟩
  have ht : (cx.finish ((cx.put s (lanes.flatMap (fun p => cx.outs d.toNat w p (f p)))).modGang cx.gid F)).gang? cx.gid =
      some (cx.moveGang cx.next cx.ready false (F (cx.g.writes cx.cyc cx.lat (lanes.flatMap (fun p => cx.outs d.toNat w p (f p)))))) := by
    rw [Cx.finish_eq, State.gang?_modGang, if_pos rfl, hu, if_pos rfl, hg]; rfl
  have key : F (cx.g.writes cx.cyc cx.lat (lanes.flatMap (fun p => cx.outs d.toNat w p (f p)))) = { F cx.g with
      regs := (cx.g.writes cx.cyc cx.lat (lanes.flatMap (fun p => cx.outs d.toNat w p (f p)))).regs
      fly := (cx.g.writes cx.cyc cx.lat (lanes.flatMap (fun p => cx.outs d.toNat w p (f p)))).fly
      bad := (cx.g.writes cx.cyc cx.lat (lanes.flatMap (fun p => cx.outs d.toNat w p (f p)))).bad
      tags := (cx.g.writes cx.cyc cx.lat (lanes.flatMap (fun p => cx.outs d.toNat w p (f p)))).tags
      accs := (cx.g.writes cx.cyc cx.lat (lanes.flatMap (fun p => cx.outs d.toNat w p (f p)))).accs
      ldas := (cx.g.writes cx.cyc cx.lat (lanes.flatMap (fun p => cx.outs d.toNat w p (f p)))).ldas } := by
    rw [← hF]; congr 1
    obtain ⟨r, f, b, t, a, l, h⟩ := Gang.writes_frame (lanes.flatMap (fun p => cx.outs d.toNat w p (f p))) cx.g cx.cyc cx.lat
    rw [h]
  refine Holds.put hc hn lanes hl hm f ht ?_ ?_
  · rw [key]; unfold Cx.moveGang Gang.modHelper; split <;> rfl
  · rw [key]; unfold Cx.moveGang Gang.modHelper; split <;> rfl

/-! ### Masks -/

theorem toNat_maskOf (ls : List Nat) (hn : ls.Nodup) (hb : ∀ l ∈ ls, l < 32) : (maskOf ls).toNat = laneSum ls := by
  have gen : ∀ (xs : List Nat) (m : Mask), xs.Nodup → (∀ l ∈ xs, l < 32 ∧ m.getLsbD l = false) → m.toNat + laneSum xs < 2 ^ 32 ∧
      (xs.foldl (fun m l => m ||| (1#32 <<< l)) m).toNat = m.toNat + laneSum xs := by
    intro xs
    induction xs with
    | nil => intro m _ _; exact ⟨m.isLt, rfl⟩
    | cons x xs ih =>
      intro m hn hm
      simp only [List.nodup_cons] at hn
      obtain ⟨hx, hmx⟩ := hm x List.mem_cons_self
      have hone : (1#32 <<< x).toNat = 2 ^ x := by
        rw [BitVec.toNat_shiftLeft, Nat.shiftLeft_eq]
        simp only [BitVec.toNat_ofNat, Nat.reducePow, Nat.reduceMod, Nat.one_mod, Nat.one_mul]
        exact Nat.mod_eq_of_lt (Nat.pow_lt_pow_right (by decide) hx)
      have hz : m &&& (1#32 <<< x) = 0#32 := by
        apply BitVec.eq_of_getLsbD_eq
        intro j hj
        rw [BitVec.getLsbD_and, BitVec.getLsbD_shiftLeft, BitVec.getLsbD_one]
        by_cases h : j = x
        · subst h; simp [hmx]
        · by_cases h2 : j < x
          · simp [h2]
          · have : ¬ (j - x = 0) := by omega
            simp [this]
      have hor : m ||| (1#32 <<< x) = m + (1#32 <<< x) := (BitVec.add_eq_or_of_and_eq_zero m _ hz).symm
      have h1 : (m ||| (1#32 <<< x)).toNat = m.toNat + 2 ^ x := by
        rw [hor, BitVec.toNat_add_of_and_eq_zero hz, hone]
      have := ih (m ||| (1#32 <<< x)) hn.2 (by
        intro l hl
        obtain ⟨a, b⟩ := hm l (List.mem_cons_of_mem _ hl)
        refine ⟨a, ?_⟩
        rw [BitVec.getLsbD_or, b, BitVec.getLsbD_shiftLeft, BitVec.getLsbD_one]
        have hne : l ≠ x := fun e => hn.1 (e ▸ hl)
        by_cases h2 : l < x
        · simp [h2]
        · have : ¬ (l - x = 0) := by omega
          simp [this])
      have e : laneSum (x :: xs) = 2 ^ x + laneSum xs := by simp [laneSum]
      rw [h1] at this
      rw [List.foldl_cons, e]
      exact ⟨by omega, by rw [this.2]; omega⟩
  have := gen ls 0#32 hn (fun l hl => ⟨hb l hl, by simp⟩)
  unfold maskOf
  rw [this.2]; simp

/-! ### Reductions -/

theorem foldl_pick (le : Word → Word → Prop) (f : Word → Word → Word) (htr : ∀ a b c, le a b → le b c → le a c) (hrf : ∀ a, le a a)
    (hf : ∀ a b, (f a b = a ∧ le a b) ∨ (f a b = b ∧ le b a)) (xs : List Word) (x : Word) :
    xs.foldl f x ∈ x :: xs ∧ ∀ y ∈ x :: xs, le (xs.foldl f x) y := by
  induction xs generalizing x with
  | nil => simpa using hrf x
  | cons z zs ih =>
    obtain ⟨h1, h2⟩ := ih (f x z)
    rw [List.foldl_cons]
    refine ⟨?_, ?_⟩
    · rcases List.mem_cons.mp h1 with h | h
      · rw [h]; rcases hf x z with e | e <;> rw [e.1] <;> simp
      · simp [h]
    · intro y hy
      have hz := h2 (f x z) List.mem_cons_self
      rcases List.mem_cons.mp hy with rfl | hy
      · rcases hf y z with e | e
        · rw [e.1] at hz ⊢; exact hz
        · rw [e.1] at hz ⊢; exact htr _ _ _ hz e.2
      · rcases List.mem_cons.mp hy with rfl | hy
        · rcases hf x y with e | e
          · rw [e.1] at hz ⊢; exact htr _ _ _ hz e.2
          · rw [e.1] at hz ⊢; exact hz
        · exact h2 y (List.mem_cons_of_mem _ hy)

theorem foldl_add_toNat (xs : List Word) (x : Word) : (xs.foldl (· + ·) x).toNat = (x.toNat + (xs.map BitVec.toNat).sum) % 2 ^ 32 := by
  induction xs generalizing x with
  | nil => simp [Nat.mod_eq_of_lt x.isLt]
  | cons z zs ih =>
    rw [List.foldl_cons, ih, BitVec.toNat_add, List.map_cons, List.sum_cons]
    omega

theorem foldl_xor_toNat (xs : List Word) (x : Word) : (xs.foldl (· ^^^ ·) x).toNat = (xs.map BitVec.toNat).foldl (· ^^^ ·) x.toNat := by
  induction xs generalizing x with
  | nil => rfl
  | cons z zs ih => rw [List.foldl_cons, ih, List.map_cons, List.foldl_cons, BitVec.toNat_xor]

theorem reduceLanes_reduces (op : Nat) (h : op < 8) (xs : List Word) (hx : xs ≠ []) : Reduces op xs (reduceLanes op xs).toNat := by
  match xs, hx with
  | x :: rest, _ =>
  unfold reduceLanes
  dsimp only
  have hs : ∀ a b : Word, (minSigned a b = a ∧ a.toInt ≤ b.toInt) ∨ (minSigned a b = b ∧ b.toInt ≤ a.toInt) := by
    intro a b; unfold minSigned; split
    · left; exact ⟨rfl, ‹_›⟩
    · right; exact ⟨rfl, by omega⟩
  have hS : ∀ a b : Word, (maxSigned a b = a ∧ b.toInt ≤ a.toInt) ∨ (maxSigned a b = b ∧ a.toInt ≤ b.toInt) := by
    intro a b; unfold maxSigned; split
    · right; exact ⟨rfl, ‹_›⟩
    · left; exact ⟨rfl, by omega⟩
  have hu : ∀ a b : Word, (minUnsigned a b = a ∧ a.toNat ≤ b.toNat) ∨ (minUnsigned a b = b ∧ b.toNat ≤ a.toNat) := by
    intro a b; unfold minUnsigned; split
    · left; exact ⟨rfl, ‹_›⟩
    · right; exact ⟨rfl, by omega⟩
  have hU : ∀ a b : Word, (maxUnsigned a b = a ∧ b.toNat ≤ a.toNat) ∨ (maxUnsigned a b = b ∧ a.toNat ≤ b.toNat) := by
    intro a b; unfold maxUnsigned; split
    · right; exact ⟨rfl, ‹_›⟩
    · left; exact ⟨rfl, by omega⟩
  rcases (by omega : op = 0 ∨ op = 1 ∨ op = 2 ∨ op = 3 ∨ op = 4 ∨ op = 5 ∨ op = 6 ∨ op = 7) with rfl | rfl | rfl | rfl | rfl | rfl | rfl | rfl
  · show _ = _; rw [if_pos rfl, foldl_add_toNat]; rfl
  · have := foldl_pick (fun a b => a.toInt ≤ b.toInt) minSigned (fun _ _ _ => Int.le_trans) (fun _ => Int.le_refl _) hs rest x
    exact ⟨_, this.1, rfl, this.2⟩
  · have := foldl_pick (fun a b => b.toInt ≤ a.toInt) maxSigned (fun _ _ _ h1 h2 => Int.le_trans h2 h1) (fun _ => Int.le_refl _) hS rest x
    exact ⟨_, this.1, rfl, this.2⟩
  · have := foldl_pick (fun a b => a.toNat ≤ b.toNat) minUnsigned (fun _ _ _ => Nat.le_trans) (fun _ => Nat.le_refl _) hu rest x
    exact ⟨_, this.1, rfl, this.2⟩
  · have := foldl_pick (fun a b => b.toNat ≤ a.toNat) maxUnsigned (fun _ _ _ h1 h2 => Nat.le_trans h2 h1) (fun _ => Nat.le_refl _) hU rest x
    exact ⟨_, this.1, rfl, this.2⟩
  · refine ⟨BitVec.isLt _, fun j _ => ?_⟩
    show (List.foldl (· &&& ·) x rest).getLsbD j = true ↔ _
    have : ∀ (ys : List Word) (y : Word), (ys.foldl (· &&& ·) y).getLsbD j = true ↔ ∀ z ∈ y :: ys, z.getLsbD j = true := by
      intro ys
      induction ys with
      | nil => simp
      | cons z zs ih => intro y; rw [List.foldl_cons, ih]; simp [and_assoc]
    exact this rest x
  · refine ⟨BitVec.isLt _, fun j _ => ?_⟩
    show (List.foldl (· ||| ·) x rest).getLsbD j = true ↔ _
    have : ∀ (ys : List Word) (y : Word), (ys.foldl (· ||| ·) y).getLsbD j = true ↔ ∃ z ∈ y :: ys, z.getLsbD j = true := by
      intro ys
      induction ys with
      | nil => simp
      | cons z zs ih => intro y; rw [List.foldl_cons, ih]; simp [or_assoc]
    exact this rest x
  · show _ = _
    simp only [List.map_cons, List.foldl_cons, Nat.zero_xor]
    exact foldl_xor_toNat rest x

end Sys2Proof.Machine
end

