-- ==== Sys2Proof/Laws/PerInstr.lean ====
section
/-!
SUPPORT. Laws/PerInstr.lean: the encoder and the decoder agree, one lemma for each constructor of Instr.
-/

set_option Elab.async false
set_option linter.unusedSimpArgs false
set_option linter.all false

namespace Sys2Proof.Laws.RoundTrip

/-- Decoding the encoding of an instruction gives it back, when its literal is one that its form admits (R73). -/
def Statement (i : Instr) : Prop :=
  ∀ w lit, encode i = some (w, lit) → i.literalOk = true → decodeSlot w lit = .ok i

theorem add (d a : Reg) (b : Src) : Statement (.add d a b) := by
  intro w lit h hl
  cases b <;> simp_all [encode, packSrc, Instr.literalOk, Src.narrow] <;> obtain ⟨rfl, rfl⟩ := h <;> simp [decodeBytes, row0, srcOf, zero]
theorem sub (d a : Reg) (b : Src) : Statement (.sub d a b) := by
  intro w lit h hl
  cases b <;> simp_all [encode, packSrc, Instr.literalOk, Src.narrow] <;> obtain ⟨rfl, rfl⟩ := h <;> simp [decodeBytes, row0, srcOf, zero]
theorem mul (d a : Reg) (b : Src) : Statement (.mul d a b) := by
  intro w lit h hl
  cases b <;> simp_all [encode, packSrc, Instr.literalOk, Src.narrow] <;> obtain ⟨rfl, rfl⟩ := h <;> simp [decodeBytes, row0, srcOf, zero]
theorem mulhiI32 (d a : Reg) (b : Src) : Statement (.mulhiI32 d a b) := by
  intro w lit h hl
  cases b <;> simp_all [encode, packSrc, Instr.literalOk, Src.narrow] <;> obtain ⟨rfl, rfl⟩ := h <;> simp [decodeBytes, row0, srcOf, zero]
theorem mulhiN32 (d a : Reg) (b : Src) : Statement (.mulhiN32 d a b) := by
  intro w lit h hl
  cases b <;> simp_all [encode, packSrc, Instr.literalOk, Src.narrow] <;> obtain ⟨rfl, rfl⟩ := h <;> simp [decodeBytes, row0, srcOf, zero]
theorem mad (d a : Reg) (b : Src) : Statement (.mad d a b) := by
  intro w lit h hl
  cases b <;> simp_all [encode, packSrc, Instr.literalOk, Src.narrow] <;> obtain ⟨rfl, rfl⟩ := h <;> simp [decodeBytes, row0, srcOf, zero]
theorem addI64 (d a : Reg) (b : Src) : Statement (.addI64 d a b) := by
  intro w lit h hl
  cases b <;> simp_all [encode, packSrc, Instr.literalOk, Src.narrow] <;> obtain ⟨rfl, rfl⟩ := h <;> simp [decodeBytes, row0, srcOf, zero]
theorem subI64 (d a : Reg) (b : Src) : Statement (.subI64 d a b) := by
  intro w lit h hl
  cases b <;> simp_all [encode, packSrc, Instr.literalOk, Src.narrow] <;> obtain ⟨rfl, rfl⟩ := h <;> simp [decodeBytes, row0, srcOf, zero]
theorem mulwI32 (d a : Reg) (b : Src) : Statement (.mulwI32 d a b) := by
  intro w lit h hl
  cases b <;> simp_all [encode, packSrc, Instr.literalOk, Src.narrow] <;> obtain ⟨rfl, rfl⟩ := h <;> simp [decodeBytes, row0, srcOf, zero]
theorem mulwN32 (d a : Reg) (b : Src) : Statement (.mulwN32 d a b) := by
  intro w lit h hl
  cases b <;> simp_all [encode, packSrc, Instr.literalOk, Src.narrow] <;> obtain ⟨rfl, rfl⟩ := h <;> simp [decodeBytes, row0, srcOf, zero]
theorem minI32 (d a : Reg) (b : Src) : Statement (.minI32 d a b) := by
  intro w lit h hl
  cases b <;> simp_all [encode, packSrc, Instr.literalOk, Src.narrow] <;> obtain ⟨rfl, rfl⟩ := h <;> simp [decodeBytes, row0, srcOf, zero]
theorem maxI32 (d a : Reg) (b : Src) : Statement (.maxI32 d a b) := by
  intro w lit h hl
  cases b <;> simp_all [encode, packSrc, Instr.literalOk, Src.narrow] <;> obtain ⟨rfl, rfl⟩ := h <;> simp [decodeBytes, row0, srcOf, zero]
theorem minN32 (d a : Reg) (b : Src) : Statement (.minN32 d a b) := by
  intro w lit h hl
  cases b <;> simp_all [encode, packSrc, Instr.literalOk, Src.narrow] <;> obtain ⟨rfl, rfl⟩ := h <;> simp [decodeBytes, row0, srcOf, zero]
theorem maxN32 (d a : Reg) (b : Src) : Statement (.maxN32 d a b) := by
  intro w lit h hl
  cases b <;> simp_all [encode, packSrc, Instr.literalOk, Src.narrow] <;> obtain ⟨rfl, rfl⟩ := h <;> simp [decodeBytes, row0, srcOf, zero]
theorem addi (d : Reg) (imm : BitVec 16) : Statement (.addi d imm) := by
  intro w lit h hlit
  clear hlit
  simp only [encode, Option.some.injEq, Prod.mk.injEq] at h
  obtain ⟨rfl, rfl⟩ := h
  simp [decodeBytes, row0, zero, noLit, accessOf, tretOf, tlbinvOf, ofBit0, bit0, bit1, bit7]
theorem ldi (d : Reg) (imm : BitVec 16) : Statement (.ldi d imm) := by
  intro w lit h hlit
  clear hlit
  simp only [encode, Option.some.injEq, Prod.mk.injEq] at h
  obtain ⟨rfl, rfl⟩ := h
  simp [decodeBytes, row0, zero, noLit, accessOf, tretOf, tlbinvOf, ofBit0, bit0, bit1, bit7]
theorem and (d a : Reg) (b : Src) : Statement (.and d a b) := by
  intro w lit h hl
  cases b <;> simp_all [encode, packSrc, Instr.literalOk, Src.narrow] <;> obtain ⟨rfl, rfl⟩ := h <;> simp [decodeBytes, row1, srcOf, zero]
theorem or (d a : Reg) (b : Src) : Statement (.or d a b) := by
  intro w lit h hl
  cases b <;> simp_all [encode, packSrc, Instr.literalOk, Src.narrow] <;> obtain ⟨rfl, rfl⟩ := h <;> simp [decodeBytes, row1, srcOf, zero]
theorem xor (d a : Reg) (b : Src) : Statement (.xor d a b) := by
  intro w lit h hl
  cases b <;> simp_all [encode, packSrc, Instr.literalOk, Src.narrow] <;> obtain ⟨rfl, rfl⟩ := h <;> simp [decodeBytes, row1, srcOf, zero]
theorem andn (d a : Reg) (b : Src) : Statement (.andn d a b) := by
  intro w lit h hl
  cases b <;> simp_all [encode, packSrc, Instr.literalOk, Src.narrow] <;> obtain ⟨rfl, rfl⟩ := h <;> simp [decodeBytes, row1, srcOf, zero]
theorem shl (d a : Reg) (b : Src) : Statement (.shl d a b) := by
  intro w lit h hl
  cases b <;> simp_all [encode, packSrc, Instr.literalOk, Src.narrow] <;> obtain ⟨rfl, rfl⟩ := h <;> simp [decodeBytes, row1, srcOf, zero]
theorem shrN32 (d a : Reg) (b : Src) : Statement (.shrN32 d a b) := by
  intro w lit h hl
  cases b <;> simp_all [encode, packSrc, Instr.literalOk, Src.narrow] <;> obtain ⟨rfl, rfl⟩ := h <;> simp [decodeBytes, row1, srcOf, zero]
theorem shrI32 (d a : Reg) (b : Src) : Statement (.shrI32 d a b) := by
  intro w lit h hl
  cases b <;> simp_all [encode, packSrc, Instr.literalOk, Src.narrow] <;> obtain ⟨rfl, rfl⟩ := h <;> simp [decodeBytes, row1, srcOf, zero]
theorem shli (d a imm : Reg) : Statement (.shli d a imm) := by
  intro w lit h hlit
  clear hlit
  simp only [encode, Option.some.injEq, Prod.mk.injEq] at h
  obtain ⟨rfl, rfl⟩ := h
  simp [decodeBytes, row1, zero, noLit, accessOf, tretOf, tlbinvOf, ofBit0, bit0, bit1, bit7]
theorem shriN32 (d a imm : Reg) : Statement (.shriN32 d a imm) := by
  intro w lit h hlit
  clear hlit
  simp only [encode, Option.some.injEq, Prod.mk.injEq] at h
  obtain ⟨rfl, rfl⟩ := h
  simp [decodeBytes, row1, zero, noLit, accessOf, tretOf, tlbinvOf, ofBit0, bit0, bit1, bit7]
theorem shriI32 (d a imm : Reg) : Statement (.shriI32 d a imm) := by
  intro w lit h hlit
  clear hlit
  simp only [encode, Option.some.injEq, Prod.mk.injEq] at h
  obtain ⟨rfl, rfl⟩ := h
  simp [decodeBytes, row1, zero, noLit, accessOf, tretOf, tlbinvOf, ofBit0, bit0, bit1, bit7]
theorem bfeN32 (d a : Reg) (b : Src) : Statement (.bfeN32 d a b) := by
  intro w lit h hl
  cases b <;> simp_all [encode, packSrc, Instr.literalOk, Src.narrow] <;> obtain ⟨rfl, rfl⟩ := h <;> simp [decodeBytes, row1, srcOf, zero]
theorem bfeI32 (d a : Reg) (b : Src) : Statement (.bfeI32 d a b) := by
  intro w lit h hl
  cases b <;> simp_all [encode, packSrc, Instr.literalOk, Src.narrow] <;> obtain ⟨rfl, rfl⟩ := h <;> simp [decodeBytes, row1, srcOf, zero]
theorem bfi (d a : Reg) (b : Src) : Statement (.bfi d a b) := by
  intro w lit h hl
  cases b <;> simp_all [encode, packSrc, Instr.literalOk, Src.narrow] <;> obtain ⟨rfl, rfl⟩ := h <;> simp [decodeBytes, row1, srcOf, zero]
theorem popc (d a : Reg) : Statement (.popc d a) := by
  intro w lit h hlit
  clear hlit
  simp only [encode, Option.some.injEq, Prod.mk.injEq] at h
  obtain ⟨rfl, rfl⟩ := h
  simp [decodeBytes, row1, zero, noLit, accessOf, tretOf, tlbinvOf, ofBit0, bit0, bit1, bit7]
theorem clz (d a : Reg) : Statement (.clz d a) := by
  intro w lit h hlit
  clear hlit
  simp only [encode, Option.some.injEq, Prod.mk.injEq] at h
  obtain ⟨rfl, rfl⟩ := h
  simp [decodeBytes, row1, zero, noLit, accessOf, tretOf, tlbinvOf, ofBit0, bit0, bit1, bit7]
theorem brev (d a : Reg) : Statement (.brev d a) := by
  intro w lit h hlit
  clear hlit
  simp only [encode, Option.some.injEq, Prod.mk.injEq] at h
  obtain ⟨rfl, rfl⟩ := h
  simp [decodeBytes, row1, zero, noLit, accessOf, tretOf, tlbinvOf, ofBit0, bit0, bit1, bit7]
theorem uAdd (d a : Reg) (b : Src) : Statement (.uAdd d a b) := by
  intro w lit h hl
  cases b <;> simp_all [encode, packSrc, Instr.literalOk, Src.narrow] <;> obtain ⟨rfl, rfl⟩ := h <;> simp [decodeBytes, row8, srcOf, zero]
theorem uSub (d a : Reg) (b : Src) : Statement (.uSub d a b) := by
  intro w lit h hl
  cases b <;> simp_all [encode, packSrc, Instr.literalOk, Src.narrow] <;> obtain ⟨rfl, rfl⟩ := h <;> simp [decodeBytes, row8, srcOf, zero]
theorem uMul (d a : Reg) (b : Src) : Statement (.uMul d a b) := by
  intro w lit h hl
  cases b <;> simp_all [encode, packSrc, Instr.literalOk, Src.narrow] <;> obtain ⟨rfl, rfl⟩ := h <;> simp [decodeBytes, row8, srcOf, zero]
theorem uMulhiI32 (d a : Reg) (b : Src) : Statement (.uMulhiI32 d a b) := by
  intro w lit h hl
  cases b <;> simp_all [encode, packSrc, Instr.literalOk, Src.narrow] <;> obtain ⟨rfl, rfl⟩ := h <;> simp [decodeBytes, row8, srcOf, zero]
theorem uMulhiN32 (d a : Reg) (b : Src) : Statement (.uMulhiN32 d a b) := by
  intro w lit h hl
  cases b <;> simp_all [encode, packSrc, Instr.literalOk, Src.narrow] <;> obtain ⟨rfl, rfl⟩ := h <;> simp [decodeBytes, row8, srcOf, zero]
theorem uMad (d a : Reg) (b : Src) : Statement (.uMad d a b) := by
  intro w lit h hl
  cases b <;> simp_all [encode, packSrc, Instr.literalOk, Src.narrow] <;> obtain ⟨rfl, rfl⟩ := h <;> simp [decodeBytes, row8, srcOf, zero]
theorem uAddI64 (d a : Reg) (b : Src) : Statement (.uAddI64 d a b) := by
  intro w lit h hl
  cases b <;> simp_all [encode, packSrc, Instr.literalOk, Src.narrow] <;> obtain ⟨rfl, rfl⟩ := h <;> simp [decodeBytes, row8, srcOf, zero]
theorem uSubI64 (d a : Reg) (b : Src) : Statement (.uSubI64 d a b) := by
  intro w lit h hl
  cases b <;> simp_all [encode, packSrc, Instr.literalOk, Src.narrow] <;> obtain ⟨rfl, rfl⟩ := h <;> simp [decodeBytes, row8, srcOf, zero]
theorem uMulwI32 (d a : Reg) (b : Src) : Statement (.uMulwI32 d a b) := by
  intro w lit h hl
  cases b <;> simp_all [encode, packSrc, Instr.literalOk, Src.narrow] <;> obtain ⟨rfl, rfl⟩ := h <;> simp [decodeBytes, row8, srcOf, zero]
theorem uMulwN32 (d a : Reg) (b : Src) : Statement (.uMulwN32 d a b) := by
  intro w lit h hl
  cases b <;> simp_all [encode, packSrc, Instr.literalOk, Src.narrow] <;> obtain ⟨rfl, rfl⟩ := h <;> simp [decodeBytes, row8, srcOf, zero]
theorem uMinI32 (d a : Reg) (b : Src) : Statement (.uMinI32 d a b) := by
  intro w lit h hl
  cases b <;> simp_all [encode, packSrc, Instr.literalOk, Src.narrow] <;> obtain ⟨rfl, rfl⟩ := h <;> simp [decodeBytes, row8, srcOf, zero]
theorem uMaxI32 (d a : Reg) (b : Src) : Statement (.uMaxI32 d a b) := by
  intro w lit h hl
  cases b <;> simp_all [encode, packSrc, Instr.literalOk, Src.narrow] <;> obtain ⟨rfl, rfl⟩ := h <;> simp [decodeBytes, row8, srcOf, zero]
theorem uMinN32 (d a : Reg) (b : Src) : Statement (.uMinN32 d a b) := by
  intro w lit h hl
  cases b <;> simp_all [encode, packSrc, Instr.literalOk, Src.narrow] <;> obtain ⟨rfl, rfl⟩ := h <;> simp [decodeBytes, row8, srcOf, zero]
theorem uMaxN32 (d a : Reg) (b : Src) : Statement (.uMaxN32 d a b) := by
  intro w lit h hl
  cases b <;> simp_all [encode, packSrc, Instr.literalOk, Src.narrow] <;> obtain ⟨rfl, rfl⟩ := h <;> simp [decodeBytes, row8, srcOf, zero]
theorem uAddi (d : Reg) (imm : BitVec 16) : Statement (.uAddi d imm) := by
  intro w lit h hlit
  clear hlit
  simp only [encode, Option.some.injEq, Prod.mk.injEq] at h
  obtain ⟨rfl, rfl⟩ := h
  simp [decodeBytes, row8, zero, noLit, accessOf, tretOf, tlbinvOf, ofBit0, bit0, bit1, bit7]
theorem uLdi (d : Reg) (imm : BitVec 16) : Statement (.uLdi d imm) := by
  intro w lit h hlit
  clear hlit
  simp only [encode, Option.some.injEq, Prod.mk.injEq] at h
  obtain ⟨rfl, rfl⟩ := h
  simp [decodeBytes, row8, zero, noLit, accessOf, tretOf, tlbinvOf, ofBit0, bit0, bit1, bit7]
theorem uAnd (d a : Reg) (b : Src) : Statement (.uAnd d a b) := by
  intro w lit h hl
  cases b <;> simp_all [encode, packSrc, Instr.literalOk, Src.narrow] <;> obtain ⟨rfl, rfl⟩ := h <;> simp [decodeBytes, row9, srcOf, zero]
theorem uOr (d a : Reg) (b : Src) : Statement (.uOr d a b) := by
  intro w lit h hl
  cases b <;> simp_all [encode, packSrc, Instr.literalOk, Src.narrow] <;> obtain ⟨rfl, rfl⟩ := h <;> simp [decodeBytes, row9, srcOf, zero]
theorem uXor (d a : Reg) (b : Src) : Statement (.uXor d a b) := by
  intro w lit h hl
  cases b <;> simp_all [encode, packSrc, Instr.literalOk, Src.narrow] <;> obtain ⟨rfl, rfl⟩ := h <;> simp [decodeBytes, row9, srcOf, zero]
theorem uAndn (d a : Reg) (b : Src) : Statement (.uAndn d a b) := by
  intro w lit h hl
  cases b <;> simp_all [encode, packSrc, Instr.literalOk, Src.narrow] <;> obtain ⟨rfl, rfl⟩ := h <;> simp [decodeBytes, row9, srcOf, zero]
theorem uShl (d a : Reg) (b : Src) : Statement (.uShl d a b) := by
  intro w lit h hl
  cases b <;> simp_all [encode, packSrc, Instr.literalOk, Src.narrow] <;> obtain ⟨rfl, rfl⟩ := h <;> simp [decodeBytes, row9, srcOf, zero]
theorem uShrN32 (d a : Reg) (b : Src) : Statement (.uShrN32 d a b) := by
  intro w lit h hl
  cases b <;> simp_all [encode, packSrc, Instr.literalOk, Src.narrow] <;> obtain ⟨rfl, rfl⟩ := h <;> simp [decodeBytes, row9, srcOf, zero]
theorem uShrI32 (d a : Reg) (b : Src) : Statement (.uShrI32 d a b) := by
  intro w lit h hl
  cases b <;> simp_all [encode, packSrc, Instr.literalOk, Src.narrow] <;> obtain ⟨rfl, rfl⟩ := h <;> simp [decodeBytes, row9, srcOf, zero]
theorem uShli (d a imm : Reg) : Statement (.uShli d a imm) := by
  intro w lit h hlit
  clear hlit
  simp only [encode, Option.some.injEq, Prod.mk.injEq] at h
  obtain ⟨rfl, rfl⟩ := h
  simp [decodeBytes, row9, zero, noLit, accessOf, tretOf, tlbinvOf, ofBit0, bit0, bit1, bit7]
theorem uShriN32 (d a imm : Reg) : Statement (.uShriN32 d a imm) := by
  intro w lit h hlit
  clear hlit
  simp only [encode, Option.some.injEq, Prod.mk.injEq] at h
  obtain ⟨rfl, rfl⟩ := h
  simp [decodeBytes, row9, zero, noLit, accessOf, tretOf, tlbinvOf, ofBit0, bit0, bit1, bit7]
theorem uShriI32 (d a imm : Reg) : Statement (.uShriI32 d a imm) := by
  intro w lit h hlit
  clear hlit
  simp only [encode, Option.some.injEq, Prod.mk.injEq] at h
  obtain ⟨rfl, rfl⟩ := h
  simp [decodeBytes, row9, zero, noLit, accessOf, tretOf, tlbinvOf, ofBit0, bit0, bit1, bit7]
theorem uBfeN32 (d a : Reg) (b : Src) : Statement (.uBfeN32 d a b) := by
  intro w lit h hl
  cases b <;> simp_all [encode, packSrc, Instr.literalOk, Src.narrow] <;> obtain ⟨rfl, rfl⟩ := h <;> simp [decodeBytes, row9, srcOf, zero]
theorem uBfeI32 (d a : Reg) (b : Src) : Statement (.uBfeI32 d a b) := by
  intro w lit h hl
  cases b <;> simp_all [encode, packSrc, Instr.literalOk, Src.narrow] <;> obtain ⟨rfl, rfl⟩ := h <;> simp [decodeBytes, row9, srcOf, zero]
theorem uBfi (d a : Reg) (b : Src) : Statement (.uBfi d a b) := by
  intro w lit h hl
  cases b <;> simp_all [encode, packSrc, Instr.literalOk, Src.narrow] <;> obtain ⟨rfl, rfl⟩ := h <;> simp [decodeBytes, row9, srcOf, zero]
theorem uPopc (d a : Reg) : Statement (.uPopc d a) := by
  intro w lit h hlit
  clear hlit
  simp only [encode, Option.some.injEq, Prod.mk.injEq] at h
  obtain ⟨rfl, rfl⟩ := h
  simp [decodeBytes, row9, zero, noLit, accessOf, tretOf, tlbinvOf, ofBit0, bit0, bit1, bit7]
theorem uClz (d a : Reg) : Statement (.uClz d a) := by
  intro w lit h hlit
  clear hlit
  simp only [encode, Option.some.injEq, Prod.mk.injEq] at h
  obtain ⟨rfl, rfl⟩ := h
  simp [decodeBytes, row9, zero, noLit, accessOf, tretOf, tlbinvOf, ofBit0, bit0, bit1, bit7]
theorem uBrev (d a : Reg) : Statement (.uBrev d a) := by
  intro w lit h hlit
  clear hlit
  simp only [encode, Option.some.injEq, Prod.mk.injEq] at h
  obtain ⟨rfl, rfl⟩ := h
  simp [decodeBytes, row9, zero, noLit, accessOf, tretOf, tlbinvOf, ofBit0, bit0, bit1, bit7]
theorem seteq (d a : Reg) (b : Src) : Statement (.seteq d a b) := by
  intro w lit h hl
  cases b <;> simp_all [encode, packSrc, Instr.literalOk, Src.narrow] <;> obtain ⟨rfl, rfl⟩ := h <;> simp [decodeBytes, row2, srcOf, zero]
theorem setne (d a : Reg) (b : Src) : Statement (.setne d a b) := by
  intro w lit h hl
  cases b <;> simp_all [encode, packSrc, Instr.literalOk, Src.narrow] <;> obtain ⟨rfl, rfl⟩ := h <;> simp [decodeBytes, row2, srcOf, zero]
theorem setltI32 (d a : Reg) (b : Src) : Statement (.setltI32 d a b) := by
  intro w lit h hl
  cases b <;> simp_all [encode, packSrc, Instr.literalOk, Src.narrow] <;> obtain ⟨rfl, rfl⟩ := h <;> simp [decodeBytes, row2, srcOf, zero]
theorem setleI32 (d a : Reg) (b : Src) : Statement (.setleI32 d a b) := by
  intro w lit h hl
  cases b <;> simp_all [encode, packSrc, Instr.literalOk, Src.narrow] <;> obtain ⟨rfl, rfl⟩ := h <;> simp [decodeBytes, row2, srcOf, zero]
theorem setltN32 (d a : Reg) (b : Src) : Statement (.setltN32 d a b) := by
  intro w lit h hl
  cases b <;> simp_all [encode, packSrc, Instr.literalOk, Src.narrow] <;> obtain ⟨rfl, rfl⟩ := h <;> simp [decodeBytes, row2, srcOf, zero]
theorem setleN32 (d a : Reg) (b : Src) : Statement (.setleN32 d a b) := by
  intro w lit h hl
  cases b <;> simp_all [encode, packSrc, Instr.literalOk, Src.narrow] <;> obtain ⟨rfl, rfl⟩ := h <;> simp [decodeBytes, row2, srcOf, zero]
theorem setltI64 (d a : Reg) (b : Src) : Statement (.setltI64 d a b) := by
  intro w lit h hl
  cases b <;> simp_all [encode, packSrc, Instr.literalOk, Src.narrow] <;> obtain ⟨rfl, rfl⟩ := h <;> simp [decodeBytes, row2, srcOf, zero]
theorem seteqI64 (d a : Reg) (b : Src) : Statement (.seteqI64 d a b) := by
  intro w lit h hl
  cases b <;> simp_all [encode, packSrc, Instr.literalOk, Src.narrow] <;> obtain ⟨rfl, rfl⟩ := h <;> simp [decodeBytes, row2, srcOf, zero]
theorem xchAt (d a : Reg) (b : Src) : Statement (.xchAt d a b) := by
  intro w lit h hl
  cases b <;> simp_all [encode, packSrc, Instr.literalOk, Src.narrow] <;> obtain ⟨rfl, rfl⟩ := h <;> simp [decodeBytes, row2, srcOf, zero]
theorem xchBelow (d a : Reg) (b : Src) : Statement (.xchBelow d a b) := by
  intro w lit h hl
  cases b <;> simp_all [encode, packSrc, Instr.literalOk, Src.narrow] <;> obtain ⟨rfl, rfl⟩ := h <;> simp [decodeBytes, row2, srcOf, zero]
theorem xchAbove (d a : Reg) (b : Src) : Statement (.xchAbove d a b) := by
  intro w lit h hl
  cases b <;> simp_all [encode, packSrc, Instr.literalOk, Src.narrow] <;> obtain ⟨rfl, rfl⟩ := h <;> simp [decodeBytes, row2, srcOf, zero]
theorem xchMirror (d a : Reg) (b : Src) : Statement (.xchMirror d a b) := by
  intro w lit h hl
  cases b <;> simp_all [encode, packSrc, Instr.literalOk, Src.narrow] <;> obtain ⟨rfl, rfl⟩ := h <;> simp [decodeBytes, row2, srcOf, zero]
theorem vmask (d a : Reg) : Statement (.vmask d a) := by
  intro w lit h hlit
  clear hlit
  simp only [encode, Option.some.injEq, Prod.mk.injEq] at h
  obtain ⟨rfl, rfl⟩ := h
  simp [decodeBytes, row2, zero, noLit, accessOf, tretOf, tlbinvOf, ofBit0, bit0, bit1, bit7]
theorem vgroup (d a : Reg) : Statement (.vgroup d a) := by
  intro w lit h hlit
  clear hlit
  simp only [encode, Option.some.injEq, Prod.mk.injEq] at h
  obtain ⟨rfl, rfl⟩ := h
  simp [decodeBytes, row2, zero, noLit, accessOf, tretOf, tlbinvOf, ofBit0, bit0, bit1, bit7]
theorem lred (d a imm : Reg) : Statement (.lred d a imm) := by
  intro w lit h hlit
  clear hlit
  simp only [encode, Option.some.injEq, Prod.mk.injEq] at h
  obtain ⟨rfl, rfl⟩ := h
  simp [decodeBytes, row2, zero, noLit, accessOf, tretOf, tlbinvOf, ofBit0, bit0, bit1, bit7]
theorem faddF32 (d a : Reg) (b : Src) : Statement (.faddF32 d a b) := by
  intro w lit h hl
  cases b <;> simp_all [encode, packSrc, Instr.literalOk, Src.narrow] <;> obtain ⟨rfl, rfl⟩ := h <;> simp [decodeBytes, row3, srcOf, zero]
theorem fsubF32 (d a : Reg) (b : Src) : Statement (.fsubF32 d a b) := by
  intro w lit h hl
  cases b <;> simp_all [encode, packSrc, Instr.literalOk, Src.narrow] <;> obtain ⟨rfl, rfl⟩ := h <;> simp [decodeBytes, row3, srcOf, zero]
theorem fmulF32 (d a : Reg) (b : Src) : Statement (.fmulF32 d a b) := by
  intro w lit h hl
  cases b <;> simp_all [encode, packSrc, Instr.literalOk, Src.narrow] <;> obtain ⟨rfl, rfl⟩ := h <;> simp [decodeBytes, row3, srcOf, zero]
theorem ffmaF32 (d a : Reg) (b : Src) : Statement (.ffmaF32 d a b) := by
  intro w lit h hl
  cases b <;> simp_all [encode, packSrc, Instr.literalOk, Src.narrow] <;> obtain ⟨rfl, rfl⟩ := h <;> simp [decodeBytes, row3, srcOf, zero]
theorem fminF32 (d a : Reg) (b : Src) : Statement (.fminF32 d a b) := by
  intro w lit h hl
  cases b <;> simp_all [encode, packSrc, Instr.literalOk, Src.narrow] <;> obtain ⟨rfl, rfl⟩ := h <;> simp [decodeBytes, row3, srcOf, zero]
theorem fmaxF32 (d a : Reg) (b : Src) : Statement (.fmaxF32 d a b) := by
  intro w lit h hl
  cases b <;> simp_all [encode, packSrc, Instr.literalOk, Src.narrow] <;> obtain ⟨rfl, rfl⟩ := h <;> simp [decodeBytes, row3, srcOf, zero]
theorem fdivF32 (d a : Reg) (b : Src) : Statement (.fdivF32 d a b) := by
  intro w lit h hl
  cases b <;> simp_all [encode, packSrc, Instr.literalOk, Src.narrow] <;> obtain ⟨rfl, rfl⟩ := h <;> simp [decodeBytes, row3, srcOf, zero]
theorem fsqrtF32 (d a : Reg) : Statement (.fsqrtF32 d a) := by
  intro w lit h hlit
  clear hlit
  simp only [encode, Option.some.injEq, Prod.mk.injEq] at h
  obtain ⟨rfl, rfl⟩ := h
  simp [decodeBytes, row3, zero, noLit, accessOf, tretOf, tlbinvOf, ofBit0, bit0, bit1, bit7]
theorem fseteqF32 (d a : Reg) (b : Src) : Statement (.fseteqF32 d a b) := by
  intro w lit h hl
  cases b <;> simp_all [encode, packSrc, Instr.literalOk, Src.narrow] <;> obtain ⟨rfl, rfl⟩ := h <;> simp [decodeBytes, row3, srcOf, zero]
theorem fsetltF32 (d a : Reg) (b : Src) : Statement (.fsetltF32 d a b) := by
  intro w lit h hl
  cases b <;> simp_all [encode, packSrc, Instr.literalOk, Src.narrow] <;> obtain ⟨rfl, rfl⟩ := h <;> simp [decodeBytes, row3, srcOf, zero]
theorem fsetleF32 (d a : Reg) (b : Src) : Statement (.fsetleF32 d a b) := by
  intro w lit h hl
  cases b <;> simp_all [encode, packSrc, Instr.literalOk, Src.narrow] <;> obtain ⟨rfl, rfl⟩ := h <;> simp [decodeBytes, row3, srcOf, zero]
theorem fsetunF32 (d a : Reg) (b : Src) : Statement (.fsetunF32 d a b) := by
  intro w lit h hl
  cases b <;> simp_all [encode, packSrc, Instr.literalOk, Src.narrow] <;> obtain ⟨rfl, rfl⟩ := h <;> simp [decodeBytes, row3, srcOf, zero]
theorem faddiF32 (d : Reg) (imm : BitVec 16) : Statement (.faddiF32 d imm) := by
  intro w lit h hlit
  clear hlit
  simp only [encode, Option.some.injEq, Prod.mk.injEq] at h
  obtain ⟨rfl, rfl⟩ := h
  simp [decodeBytes, row3, zero, noLit, accessOf, tretOf, tlbinvOf, ofBit0, bit0, bit1, bit7]
theorem fmuliF32 (d : Reg) (imm : BitVec 16) : Statement (.fmuliF32 d imm) := by
  intro w lit h hlit
  clear hlit
  simp only [encode, Option.some.injEq, Prod.mk.injEq] at h
  obtain ⟨rfl, rfl⟩ := h
  simp [decodeBytes, row3, zero, noLit, accessOf, tretOf, tlbinvOf, ofBit0, bit0, bit1, bit7]
theorem fclassF32 (d a : Reg) : Statement (.fclassF32 d a) := by
  intro w lit h hlit
  clear hlit
  simp only [encode, Option.some.injEq, Prod.mk.injEq] at h
  obtain ⟨rfl, rfl⟩ := h
  simp [decodeBytes, row3, zero, noLit, accessOf, tretOf, tlbinvOf, ofBit0, bit0, bit1, bit7]
theorem fnmaF32 (d a : Reg) (b : Src) : Statement (.fnmaF32 d a b) := by
  intro w lit h hl
  cases b <;> simp_all [encode, packSrc, Instr.literalOk, Src.narrow] <;> obtain ⟨rfl, rfl⟩ := h <;> simp [decodeBytes, row3, srcOf, zero]
theorem faddF64 (d a : Reg) (b : Src) : Statement (.faddF64 d a b) := by
  intro w lit h hl
  cases b <;> simp_all [encode, packSrc, Instr.literalOk, Src.narrow] <;> obtain ⟨rfl, rfl⟩ := h <;> simp [decodeBytes, row4, srcOf, zero]
theorem fsubF64 (d a : Reg) (b : Src) : Statement (.fsubF64 d a b) := by
  intro w lit h hl
  cases b <;> simp_all [encode, packSrc, Instr.literalOk, Src.narrow] <;> obtain ⟨rfl, rfl⟩ := h <;> simp [decodeBytes, row4, srcOf, zero]
theorem fmulF64 (d a : Reg) (b : Src) : Statement (.fmulF64 d a b) := by
  intro w lit h hl
  cases b <;> simp_all [encode, packSrc, Instr.literalOk, Src.narrow] <;> obtain ⟨rfl, rfl⟩ := h <;> simp [decodeBytes, row4, srcOf, zero]
theorem ffmaF64 (d a : Reg) (b : Src) : Statement (.ffmaF64 d a b) := by
  intro w lit h hl
  cases b <;> simp_all [encode, packSrc, Instr.literalOk, Src.narrow] <;> obtain ⟨rfl, rfl⟩ := h <;> simp [decodeBytes, row4, srcOf, zero]
theorem fminF64 (d a : Reg) (b : Src) : Statement (.fminF64 d a b) := by
  intro w lit h hl
  cases b <;> simp_all [encode, packSrc, Instr.literalOk, Src.narrow] <;> obtain ⟨rfl, rfl⟩ := h <;> simp [decodeBytes, row4, srcOf, zero]
theorem fmaxF64 (d a : Reg) (b : Src) : Statement (.fmaxF64 d a b) := by
  intro w lit h hl
  cases b <;> simp_all [encode, packSrc, Instr.literalOk, Src.narrow] <;> obtain ⟨rfl, rfl⟩ := h <;> simp [decodeBytes, row4, srcOf, zero]
theorem fdivF64 (d a : Reg) (b : Src) : Statement (.fdivF64 d a b) := by
  intro w lit h hl
  cases b <;> simp_all [encode, packSrc, Instr.literalOk, Src.narrow] <;> obtain ⟨rfl, rfl⟩ := h <;> simp [decodeBytes, row4, srcOf, zero]
theorem fsqrtF64 (d a : Reg) : Statement (.fsqrtF64 d a) := by
  intro w lit h hlit
  clear hlit
  simp only [encode, Option.some.injEq, Prod.mk.injEq] at h
  obtain ⟨rfl, rfl⟩ := h
  simp [decodeBytes, row4, zero, noLit, accessOf, tretOf, tlbinvOf, ofBit0, bit0, bit1, bit7]
theorem fseteqF64 (d a : Reg) (b : Src) : Statement (.fseteqF64 d a b) := by
  intro w lit h hl
  cases b <;> simp_all [encode, packSrc, Instr.literalOk, Src.narrow] <;> obtain ⟨rfl, rfl⟩ := h <;> simp [decodeBytes, row4, srcOf, zero]
theorem fsetltF64 (d a : Reg) (b : Src) : Statement (.fsetltF64 d a b) := by
  intro w lit h hl
  cases b <;> simp_all [encode, packSrc, Instr.literalOk, Src.narrow] <;> obtain ⟨rfl, rfl⟩ := h <;> simp [decodeBytes, row4, srcOf, zero]
theorem fsetleF64 (d a : Reg) (b : Src) : Statement (.fsetleF64 d a b) := by
  intro w lit h hl
  cases b <;> simp_all [encode, packSrc, Instr.literalOk, Src.narrow] <;> obtain ⟨rfl, rfl⟩ := h <;> simp [decodeBytes, row4, srcOf, zero]
theorem fsetunF64 (d a : Reg) (b : Src) : Statement (.fsetunF64 d a b) := by
  intro w lit h hl
  cases b <;> simp_all [encode, packSrc, Instr.literalOk, Src.narrow] <;> obtain ⟨rfl, rfl⟩ := h <;> simp [decodeBytes, row4, srcOf, zero]
theorem faddiF64 (d : Reg) (imm : BitVec 16) : Statement (.faddiF64 d imm) := by
  intro w lit h hlit
  clear hlit
  simp only [encode, Option.some.injEq, Prod.mk.injEq] at h
  obtain ⟨rfl, rfl⟩ := h
  simp [decodeBytes, row4, zero, noLit, accessOf, tretOf, tlbinvOf, ofBit0, bit0, bit1, bit7]
theorem fmuliF64 (d : Reg) (imm : BitVec 16) : Statement (.fmuliF64 d imm) := by
  intro w lit h hlit
  clear hlit
  simp only [encode, Option.some.injEq, Prod.mk.injEq] at h
  obtain ⟨rfl, rfl⟩ := h
  simp [decodeBytes, row4, zero, noLit, accessOf, tretOf, tlbinvOf, ofBit0, bit0, bit1, bit7]
theorem fclassF64 (d a : Reg) : Statement (.fclassF64 d a) := by
  intro w lit h hlit
  clear hlit
  simp only [encode, Option.some.injEq, Prod.mk.injEq] at h
  obtain ⟨rfl, rfl⟩ := h
  simp [decodeBytes, row4, zero, noLit, accessOf, tretOf, tlbinvOf, ofBit0, bit0, bit1, bit7]
theorem fnmaF64 (d a : Reg) (b : Src) : Statement (.fnmaF64 d a b) := by
  intro w lit h hl
  cases b <;> simp_all [encode, packSrc, Instr.literalOk, Src.narrow] <;> obtain ⟨rfl, rfl⟩ := h <;> simp [decodeBytes, row4, srcOf, zero]
theorem haddF16x2 (d a : Reg) (b : Src) : Statement (.haddF16x2 d a b) := by
  intro w lit h hl
  cases b <;> simp_all [encode, packSrc, Instr.literalOk, Src.narrow] <;> obtain ⟨rfl, rfl⟩ := h <;> simp [decodeBytes, row5, srcOf, zero]
theorem hmulF16x2 (d a : Reg) (b : Src) : Statement (.hmulF16x2 d a b) := by
  intro w lit h hl
  cases b <;> simp_all [encode, packSrc, Instr.literalOk, Src.narrow] <;> obtain ⟨rfl, rfl⟩ := h <;> simp [decodeBytes, row5, srcOf, zero]
theorem hfmaF16x2 (d a : Reg) (b : Src) : Statement (.hfmaF16x2 d a b) := by
  intro w lit h hl
  cases b <;> simp_all [encode, packSrc, Instr.literalOk, Src.narrow] <;> obtain ⟨rfl, rfl⟩ := h <;> simp [decodeBytes, row5, srcOf, zero]
theorem haddBf16x2 (d a : Reg) (b : Src) : Statement (.haddBf16x2 d a b) := by
  intro w lit h hl
  cases b <;> simp_all [encode, packSrc, Instr.literalOk, Src.narrow] <;> obtain ⟨rfl, rfl⟩ := h <;> simp [decodeBytes, row5, srcOf, zero]
theorem hmulBf16x2 (d a : Reg) (b : Src) : Statement (.hmulBf16x2 d a b) := by
  intro w lit h hl
  cases b <;> simp_all [encode, packSrc, Instr.literalOk, Src.narrow] <;> obtain ⟨rfl, rfl⟩ := h <;> simp [decodeBytes, row5, srcOf, zero]
theorem hfmaBf16x2 (d a : Reg) (b : Src) : Statement (.hfmaBf16x2 d a b) := by
  intro w lit h hl
  cases b <;> simp_all [encode, packSrc, Instr.literalOk, Src.narrow] <;> obtain ⟨rfl, rfl⟩ := h <;> simp [decodeBytes, row5, srcOf, zero]
theorem cvt (d a : Reg) (ovr : Bool) (rm : BitVec 2) (conv : BitVec 5) : Statement (.cvt d a ovr rm conv) := by
  intro w lit h hlit
  clear hlit
  simp only [encode, Option.some.injEq, Prod.mk.injEq] at h
  obtain ⟨rfl, rfl⟩ := h
  cases ovr <;> simp [decodeBytes, row5, zero, noLit, accessOf, tretOf, tlbinvOf, ofBit0, bit0, bit1, bit7] <;> revert rm conv <;> decide
theorem qbx (d a : Reg) (ovr : Bool) (rm : BitVec 2) (len16 bx4 : Bool) : Statement (.qbx d a ovr rm len16 bx4) := by
  intro w lit h hlit
  clear hlit
  simp only [encode, Option.some.injEq, Prod.mk.injEq] at h
  obtain ⟨rfl, rfl⟩ := h
  have h4 : rm = 0 ∨ rm = 1 ∨ rm = 2 ∨ rm = 3 := by revert rm; decide
  rcases h4 with rfl | rfl | rfl | rfl <;> cases ovr <;> cases len16 <;> cases bx4 <;> simp [decodeBytes, row5, zero, noLit, accessOf, tretOf, tlbinvOf, ofBit0, bit0, bit1, bit7]
theorem frcpF32 (d a : Reg) : Statement (.frcpF32 d a) := by
  intro w lit h hlit
  clear hlit
  simp only [encode, Option.some.injEq, Prod.mk.injEq] at h
  obtain ⟨rfl, rfl⟩ := h
  simp [decodeBytes, row5, zero, noLit, accessOf, tretOf, tlbinvOf, ofBit0, bit0, bit1, bit7]
theorem frsqF32 (d a : Reg) : Statement (.frsqF32 d a) := by
  intro w lit h hlit
  clear hlit
  simp only [encode, Option.some.injEq, Prod.mk.injEq] at h
  obtain ⟨rfl, rfl⟩ := h
  simp [decodeBytes, row5, zero, noLit, accessOf, tretOf, tlbinvOf, ofBit0, bit0, bit1, bit7]
theorem fexp2F32 (d a : Reg) : Statement (.fexp2F32 d a) := by
  intro w lit h hlit
  clear hlit
  simp only [encode, Option.some.injEq, Prod.mk.injEq] at h
  obtain ⟨rfl, rfl⟩ := h
  simp [decodeBytes, row5, zero, noLit, accessOf, tretOf, tlbinvOf, ofBit0, bit0, bit1, bit7]
theorem flog2F32 (d a : Reg) : Statement (.flog2F32 d a) := by
  intro w lit h hlit
  clear hlit
  simp only [encode, Option.some.injEq, Prod.mk.injEq] at h
  obtain ⟨rfl, rfl⟩ := h
  simp [decodeBytes, row5, zero, noLit, accessOf, tretOf, tlbinvOf, ofBit0, bit0, bit1, bit7]
theorem fsinF32 (d a : Reg) : Statement (.fsinF32 d a) := by
  intro w lit h hlit
  clear hlit
  simp only [encode, Option.some.injEq, Prod.mk.injEq] at h
  obtain ⟨rfl, rfl⟩ := h
  simp [decodeBytes, row5, zero, noLit, accessOf, tretOf, tlbinvOf, ofBit0, bit0, bit1, bit7]
theorem fcosF32 (d a : Reg) : Statement (.fcosF32 d a) := by
  intro w lit h hlit
  clear hlit
  simp only [encode, Option.some.injEq, Prod.mk.injEq] at h
  obtain ⟨rfl, rfl⟩ := h
  simp [decodeBytes, row5, zero, noLit, accessOf, tretOf, tlbinvOf, ofBit0, bit0, bit1, bit7]
theorem frcpF64 (d a : Reg) : Statement (.frcpF64 d a) := by
  intro w lit h hlit
  clear hlit
  simp only [encode, Option.some.injEq, Prod.mk.injEq] at h
  obtain ⟨rfl, rfl⟩ := h
  simp [decodeBytes, row5, zero, noLit, accessOf, tretOf, tlbinvOf, ofBit0, bit0, bit1, bit7]
theorem frsqF64 (d a : Reg) : Statement (.frsqF64 d a) := by
  intro w lit h hlit
  clear hlit
  simp only [encode, Option.some.injEq, Prod.mk.injEq] at h
  obtain ⟨rfl, rfl⟩ := h
  simp [decodeBytes, row5, zero, noLit, accessOf, tretOf, tlbinvOf, ofBit0, bit0, bit1, bit7]
theorem ld (d a : Reg) (acc : Access) : Statement (.ld d a acc) := by
  intro w lit h hlit
  clear hlit
  simp only [encode, Option.some.injEq, Prod.mk.injEq] at h
  obtain ⟨rfl, rfl⟩ := h
  simp [decodeBytes, row6, zero, noLit, accessOf, tretOf, tlbinvOf, ofBit0, bit0, bit1, bit7]
theorem st (d a : Reg) (acc : Access) : Statement (.st d a acc) := by
  intro w lit h hlit
  clear hlit
  simp only [encode, Option.some.injEq, Prod.mk.injEq] at h
  obtain ⟨rfl, rfl⟩ := h
  simp [decodeBytes, row6, zero, noLit, accessOf, tretOf, tlbinvOf, ofBit0, bit0, bit1, bit7]
theorem lda (d a b : Reg) (acc : Access) : Statement (.lda d a b acc) := by
  intro w lit h hlit
  clear hlit
  simp only [encode, Option.some.injEq, Prod.mk.injEq] at h
  obtain ⟨rfl, rfl⟩ := h
  simp [decodeBytes, row6, zero, noLit, accessOf, tretOf, tlbinvOf, ofBit0, bit0, bit1, bit7]
theorem atom (d a b : Reg) (acc : Access) : Statement (.atom d a b acc) := by
  intro w lit h hlit
  clear hlit
  simp only [encode, Option.some.injEq, Prod.mk.injEq] at h
  obtain ⟨rfl, rfl⟩ := h
  simp [decodeBytes, row6, zero, noLit, accessOf, tretOf, tlbinvOf, ofBit0, bit0, bit1, bit7]
theorem cas (d a b : Reg) (acc : Access) : Statement (.cas d a b acc) := by
  intro w lit h hlit
  clear hlit
  simp only [encode, Option.some.injEq, Prod.mk.injEq] at h
  obtain ⟨rfl, rfl⟩ := h
  simp [decodeBytes, row6, zero, noLit, accessOf, tretOf, tlbinvOf, ofBit0, bit0, bit1, bit7]
theorem cas2 (d a b : Reg) (acc : Access) : Statement (.cas2 d a b acc) := by
  intro w lit h hlit
  clear hlit
  simp only [encode, Option.some.injEq, Prod.mk.injEq] at h
  obtain ⟨rfl, rfl⟩ := h
  simp [decodeBytes, row6, zero, noLit, accessOf, tretOf, tlbinvOf, ofBit0, bit0, bit1, bit7]
theorem pf (a : Reg) (acc : Access) : Statement (.pf a acc) := by
  intro w lit h hlit
  clear hlit
  simp only [encode, Option.some.injEq, Prod.mk.injEq] at h
  obtain ⟨rfl, rfl⟩ := h
  simp [decodeBytes, row6, zero, noLit, accessOf, tretOf, tlbinvOf, ofBit0, bit0, bit1, bit7]
theorem evict (a : Reg) (acc : Access) : Statement (.evict a acc) := by
  intro w lit h hlit
  clear hlit
  simp only [encode, Option.some.injEq, Prod.mk.injEq] at h
  obtain ⟨rfl, rfl⟩ := h
  simp [decodeBytes, row6, zero, noLit, accessOf, tretOf, tlbinvOf, ofBit0, bit0, bit1, bit7]
theorem mov (d : Reg) (b : Src) : Statement (.mov d b) := by
  intro w lit h hl
  cases b <;> simp_all [encode, packSrc, Instr.literalOk, Src.narrow] <;> obtain ⟨rfl, rfl⟩ := h <;> simp [decodeBytes, row7, srcOf, zero]
theorem movI64 (d : Reg) (b : Src) : Statement (.movI64 d b) := by
  intro w lit h hl
  cases b <;> simp_all [encode, packSrc, Instr.literalOk, Src.narrow] <;> obtain ⟨rfl, rfl⟩ := h <;> simp [decodeBytes, row7, srcOf, zero]
theorem movx (d a : Reg) (b : Src) : Statement (.movx d a b) := by
  intro w lit h hl
  cases b <;> simp_all [encode, packSrc, Instr.literalOk, Src.narrow] <;> obtain ⟨rfl, rfl⟩ := h <;> simp [decodeBytes, row7, srcOf, zero]
theorem movxr (d a b : Reg) : Statement (.movxr d a b) := by
  intro w lit h hlit
  clear hlit
  simp only [encode, Option.some.injEq, Prod.mk.injEq] at h
  obtain ⟨rfl, rfl⟩ := h
  simp [decodeBytes, row7, zero, noLit, accessOf, tretOf, tlbinvOf, ofBit0, bit0, bit1, bit7]
theorem sel (d a : Reg) (b : Src) : Statement (.sel d a b) := by
  intro w lit h hl
  cases b <;> simp_all [encode, packSrc, Instr.literalOk, Src.narrow] <;> obtain ⟨rfl, rfl⟩ := h <;> simp [decodeBytes, row7, srcOf, zero]
theorem sread (d : Reg) (imm : BitVec 16) : Statement (.sread d imm) := by
  intro w lit h hlit
  clear hlit
  simp only [encode, Option.some.injEq, Prod.mk.injEq] at h
  obtain ⟨rfl, rfl⟩ := h
  simp [decodeBytes, row7, zero, noLit, accessOf, tretOf, tlbinvOf, ofBit0, bit0, bit1, bit7]
theorem swrite (d : Reg) (imm : BitVec 16) : Statement (.swrite d imm) := by
  intro w lit h hlit
  clear hlit
  simp only [encode, Option.some.injEq, Prod.mk.injEq] at h
  obtain ⟨rfl, rfl⟩ := h
  simp [decodeBytes, row7, zero, noLit, accessOf, tretOf, tlbinvOf, ofBit0, bit0, bit1, bit7]
theorem movh (d : Reg) (imm : BitVec 16) : Statement (.movh d imm) := by
  intro w lit h hlit
  clear hlit
  simp only [encode, Option.some.injEq, Prod.mk.injEq] at h
  obtain ⟨rfl, rfl⟩ := h
  simp [decodeBytes, row7, zero, noLit, accessOf, tretOf, tlbinvOf, ofBit0, bit0, bit1, bit7]
theorem bra (t j : BitVec 12) : Statement (.bra t j) := by
  intro w lit h hlit
  clear hlit
  simp only [encode, Option.some.injEq, Prod.mk.injEq] at h
  obtain ⟨rfl, rfl⟩ := h
  simp [decodeBytes, rowA, zero, noLit, accessOf, tretOf, tlbinvOf, ofBit0, bit0, bit1, bit7]
theorem brx (x : Bool) (a : Reg) (b : Src) : Statement (.brx x a b) := by
  intro w lit h hl
  cases x
  · simp [Instr.literalOk] at hl
    subst hl
    simp [encode, packSrc] at h
    obtain ⟨rfl, rfl⟩ := h
    simp [decodeBytes, rowA, srcOf, zero, noLit, ofBit0, bit0]
  · cases b
    · simp [encode, packSrc] at h
      obtain ⟨rfl, rfl⟩ := h
      simp [decodeBytes, rowA, srcOf, zero, noLit, ofBit0, bit0]
    · simp [encode, packSrc] at h
      obtain ⟨rfl, rfl⟩ := h
      simp [decodeBytes, rowA, srcOf, zero, noLit, ofBit0, bit0]
    · simp [Instr.literalOk, Src.narrow] at hl
theorem call (t : BitVec 12) (l : Reg) : Statement (.call t l) := by
  intro w lit h hlit
  clear hlit
  simp only [encode, Option.some.injEq, Prod.mk.injEq] at h
  obtain ⟨rfl, rfl⟩ := h
  simp [decodeBytes, rowA, zero, noLit, accessOf, tretOf, tlbinvOf, ofBit0, bit0, bit1, bit7]
theorem ret (a : Reg) : Statement (.ret a) := by
  intro w lit h hlit
  clear hlit
  simp only [encode, Option.some.injEq, Prod.mk.injEq] at h
  obtain ⟨rfl, rfl⟩ := h
  simp [decodeBytes, rowA, zero, noLit, accessOf, tretOf, tlbinvOf, ofBit0, bit0, bit1, bit7]
theorem join  : Statement (.join ) := by
  intro w lit h hlit
  clear hlit
  simp only [encode, Option.some.injEq, Prod.mk.injEq] at h
  obtain ⟨rfl, rfl⟩ := h
  simp [decodeBytes, rowA, zero, noLit, accessOf, tretOf, tlbinvOf, ofBit0, bit0, bit1, bit7]
theorem joinw (d : Reg) (imm : BitVec 16) : Statement (.joinw d imm) := by
  intro w lit h hlit
  clear hlit
  simp only [encode, Option.some.injEq, Prod.mk.injEq] at h
  obtain ⟨rfl, rfl⟩ := h
  simp [decodeBytes, rowA, zero, noLit, accessOf, tretOf, tlbinvOf, ofBit0, bit0, bit1, bit7]
theorem yield  : Statement (.yield ) := by
  intro w lit h hlit
  clear hlit
  simp only [encode, Option.some.injEq, Prod.mk.injEq] at h
  obtain ⟨rfl, rfl⟩ := h
  simp [decodeBytes, rowA, zero, noLit, accessOf, tretOf, tlbinvOf, ofBit0, bit0, bit1, bit7]
theorem exit  : Statement (.exit ) := by
  intro w lit h hlit
  clear hlit
  simp only [encode, Option.some.injEq, Prod.mk.injEq] at h
  obtain ⟨rfl, rfl⟩ := h
  simp [decodeBytes, rowA, zero, noLit, accessOf, tretOf, tlbinvOf, ofBit0, bit0, bit1, bit7]
theorem trap (imm : BitVec 16) : Statement (.trap imm) := by
  intro w lit h hlit
  clear hlit
  simp only [encode, Option.some.injEq, Prod.mk.injEq] at h
  obtain ⟨rfl, rfl⟩ := h
  simp [decodeBytes, rowA, zero, noLit, accessOf, tretOf, tlbinvOf, ofBit0, bit0, bit1, bit7]
theorem brk (imm : BitVec 16) : Statement (.brk imm) := by
  intro w lit h hlit
  clear hlit
  simp only [encode, Option.some.injEq, Prod.mk.injEq] at h
  obtain ⟨rfl, rfl⟩ := h
  simp [decodeBytes, rowA, zero, noLit, accessOf, tretOf, tlbinvOf, ofBit0, bit0, bit1, bit7]
theorem emsave (d : Reg) : Statement (.emsave d) := by
  intro w lit h hlit
  clear hlit
  simp only [encode, Option.some.injEq, Prod.mk.injEq] at h
  obtain ⟨rfl, rfl⟩ := h
  simp [decodeBytes, rowA, zero, noLit, accessOf, tretOf, tlbinvOf, ofBit0, bit0, bit1, bit7]
theorem emset (a : Reg) : Statement (.emset a) := by
  intro w lit h hlit
  clear hlit
  simp only [encode, Option.some.injEq, Prod.mk.injEq] at h
  obtain ⟨rfl, rfl⟩ := h
  simp [decodeBytes, rowA, zero, noLit, accessOf, tretOf, tlbinvOf, ofBit0, bit0, bit1, bit7]
theorem barInit (d a : Reg) (b : Src) : Statement (.barInit d a b) := by
  intro w lit h hl
  cases b <;> simp_all [encode, packSrc, Instr.literalOk, Src.narrow] <;> obtain ⟨rfl, rfl⟩ := h <;> simp [decodeBytes, rowB, srcOf, zero]
theorem barArrive (d a : Reg) (b : Src) : Statement (.barArrive d a b) := by
  intro w lit h hl
  cases b <;> simp_all [encode, packSrc, Instr.literalOk, Src.narrow] <;> obtain ⟨rfl, rfl⟩ := h <;> simp [decodeBytes, rowB, srcOf, zero]
theorem barWait (d a : Reg) (b : Src) : Statement (.barWait d a b) := by
  intro w lit h hl
  cases b <;> simp_all [encode, packSrc, Instr.literalOk, Src.narrow] <;> obtain ⟨rfl, rfl⟩ := h <;> simp [decodeBytes, rowB, srcOf, zero]
theorem fence (scope : BitVec 3) : Statement (.fence scope) := by
  intro w lit h hlit
  clear hlit
  simp only [encode, Option.some.injEq, Prod.mk.injEq] at h
  obtain ⟨rfl, rfl⟩ := h
  have h8 : scope = 0 ∨ scope = 1 ∨ scope = 2 ∨ scope = 3 ∨ scope = 4 ∨ scope = 5 ∨ scope = 6 ∨ scope = 7 := by revert scope; decide
  rcases h8 with rfl | rfl | rfl | rfl | rfl | rfl | rfl | rfl <;> simp [decodeBytes, rowB, zero, noLit, accessOf, tretOf, tlbinvOf, ofBit0, bit0, bit1, bit7]
theorem uIsplit  : Statement (.uIsplit ) := by
  intro w lit h hlit
  clear hlit
  simp only [encode, Option.some.injEq, Prod.mk.injEq] at h
  obtain ⟨rfl, rfl⟩ := h
  simp [decodeBytes, rowB, zero, noLit, accessOf, tretOf, tlbinvOf, ofBit0, bit0, bit1, bit7]
theorem waitc (d : Reg) (imm : BitVec 16) : Statement (.waitc d imm) := by
  intro w lit h hlit
  clear hlit
  simp only [encode, Option.some.injEq, Prod.mk.injEq] at h
  obtain ⟨rfl, rfl⟩ := h
  simp [decodeBytes, rowB, zero, noLit, accessOf, tretOf, tlbinvOf, ofBit0, bit0, bit1, bit7]
theorem uWaitring (d a : Reg) (b : Src) : Statement (.uWaitring d a b) := by
  intro w lit h hl
  cases b <;> simp_all [encode, packSrc, Instr.literalOk, Src.narrow] <;> obtain ⟨rfl, rfl⟩ := h <;> simp [decodeBytes, rowB, srcOf, zero]
theorem barSync (d a : Reg) (b : Src) : Statement (.barSync d a b) := by
  intro w lit h hl
  cases b <;> simp_all [encode, packSrc, Instr.literalOk, Src.narrow] <;> obtain ⟨rfl, rfl⟩ := h <;> simp [decodeBytes, rowB, srcOf, zero]
theorem uRecruit (d a : Reg) : Statement (.uRecruit d a) := by
  intro w lit h hlit
  clear hlit
  simp only [encode, Option.some.injEq, Prod.mk.injEq] at h
  obtain ⟨rfl, rfl⟩ := h
  simp [decodeBytes, rowB, zero, noLit, accessOf, tretOf, tlbinvOf, ofBit0, bit0, bit1, bit7]
theorem uHloop (d a : Reg) (b : Src) : Statement (.uHloop d a b) := by
  intro w lit h hl
  cases b <;> simp_all [encode, packSrc, Instr.literalOk, Src.narrow] <;> obtain ⟨rfl, rfl⟩ := h <;> simp [decodeBytes, rowB, srcOf, zero]
theorem uHjoin (d a b : Reg) : Statement (.uHjoin d a b) := by
  intro w lit h hlit
  clear hlit
  simp only [encode, Option.some.injEq, Prod.mk.injEq] at h
  obtain ⟨rfl, rfl⟩ := h
  simp [decodeBytes, rowB, zero, noLit, accessOf, tretOf, tlbinvOf, ofBit0, bit0, bit1, bit7]
theorem uHrel  : Statement (.uHrel ) := by
  intro w lit h hlit
  clear hlit
  simp only [encode, Option.some.injEq, Prod.mk.injEq] at h
  obtain ⟨rfl, rfl⟩ := h
  simp [decodeBytes, rowB, zero, noLit, accessOf, tretOf, tlbinvOf, ofBit0, bit0, bit1, bit7]
theorem setshape (d a : Reg) : Statement (.setshape d a) := by
  intro w lit h hlit
  clear hlit
  simp only [encode, Option.some.injEq, Prod.mk.injEq] at h
  obtain ⟨rfl, rfl⟩ := h
  simp [decodeBytes, rowC, zero, noLit, accessOf, tretOf, tlbinvOf, ofBit0, bit0, bit1, bit7]
theorem mma (d a b : Reg) : Statement (.mma d a b) := by
  intro w lit h hlit
  clear hlit
  simp only [encode, Option.some.injEq, Prod.mk.injEq] at h
  obtain ⟨rfl, rfl⟩ := h
  simp [decodeBytes, rowC, zero, noLit, accessOf, tretOf, tlbinvOf, ofBit0, bit0, bit1, bit7]
theorem mgath (d a : Reg) : Statement (.mgath d a) := by
  intro w lit h hlit
  clear hlit
  simp only [encode, Option.some.injEq, Prod.mk.injEq] at h
  obtain ⟨rfl, rfl⟩ := h
  simp [decodeBytes, rowC, zero, noLit, accessOf, tretOf, tlbinvOf, ofBit0, bit0, bit1, bit7]
theorem mdrain (d a : Reg) (clear recomp : Bool) : Statement (.mdrain d a clear recomp) := by
  intro w lit h hlit
  clear hlit
  simp only [encode, Option.some.injEq, Prod.mk.injEq] at h
  obtain ⟨rfl, rfl⟩ := h
  cases clear <;> cases recomp <;> simp [decodeBytes, rowC, zero, noLit, accessOf, tretOf, tlbinvOf, ofBit0, bit0, bit1, bit7]
theorem mzero (d a b : Reg) : Statement (.mzero d a b) := by
  intro w lit h hlit
  clear hlit
  simp only [encode, Option.some.injEq, Prod.mk.injEq] at h
  obtain ⟨rfl, rfl⟩ := h
  simp [decodeBytes, rowC, zero, noLit, accessOf, tretOf, tlbinvOf, ofBit0, bit0, bit1, bit7]
theorem tld (d a : Reg) (acc : Access) : Statement (.tld d a acc) := by
  intro w lit h hlit
  clear hlit
  simp only [encode, Option.some.injEq, Prod.mk.injEq] at h
  obtain ⟨rfl, rfl⟩ := h
  simp [decodeBytes, rowC, zero, noLit, accessOf, tretOf, tlbinvOf, ofBit0, bit0, bit1, bit7]
theorem tst (d a b : Reg) (acc : Access) : Statement (.tst d a b acc) := by
  intro w lit h hlit
  clear hlit
  simp only [encode, Option.some.injEq, Prod.mk.injEq] at h
  obtain ⟨rfl, rfl⟩ := h
  simp [decodeBytes, rowC, zero, noLit, accessOf, tretOf, tlbinvOf, ofBit0, bit0, bit1, bit7]
theorem cksum (d : Reg) (b : Src) : Statement (.cksum d b) := by
  intro w lit h hl
  cases b <;> simp_all [encode, packSrc, Instr.literalOk, Src.narrow] <;> obtain ⟨rfl, rfl⟩ := h <;> simp [decodeBytes, rowC, srcOf, zero]
theorem ckchk (d : Reg) : Statement (.ckchk d) := by
  intro w lit h hlit
  clear hlit
  simp only [encode, Option.some.injEq, Prod.mk.injEq] at h
  obtain ⟨rfl, rfl⟩ := h
  simp [decodeBytes, rowC, zero, noLit, accessOf, tretOf, tlbinvOf, ofBit0, bit0, bit1, bit7]
theorem ckinj (d a : Reg) (b : Src) : Statement (.ckinj d a b) := by
  intro w lit h hl
  cases b <;> simp_all [encode, packSrc, Instr.literalOk, Src.narrow] <;> obtain ⟨rfl, rfl⟩ := h <;> simp [decodeBytes, rowC, srcOf, zero]
theorem copy (d a b : Reg) : Statement (.copy d a b) := by
  intro w lit h hlit
  clear hlit
  simp only [encode, Option.some.injEq, Prod.mk.injEq] at h
  obtain ⟨rfl, rfl⟩ := h
  simp [decodeBytes, rowD, zero, noLit, accessOf, tretOf, tlbinvOf, ofBit0, bit0, bit1, bit7]
theorem copyTile (d a b : Reg) : Statement (.copyTile d a b) := by
  intro w lit h hlit
  clear hlit
  simp only [encode, Option.some.injEq, Prod.mk.injEq] at h
  obtain ⟨rfl, rfl⟩ := h
  simp [decodeBytes, rowD, zero, noLit, accessOf, tretOf, tlbinvOf, ofBit0, bit0, bit1, bit7]
theorem copyGath (d a b : Reg) : Statement (.copyGath d a b) := by
  intro w lit h hlit
  clear hlit
  simp only [encode, Option.some.injEq, Prod.mk.injEq] at h
  obtain ⟨rfl, rfl⟩ := h
  simp [decodeBytes, rowD, zero, noLit, accessOf, tretOf, tlbinvOf, ofBit0, bit0, bit1, bit7]
theorem copyScat (d a b : Reg) : Statement (.copyScat d a b) := by
  intro w lit h hlit
  clear hlit
  simp only [encode, Option.some.injEq, Prod.mk.injEq] at h
  obtain ⟨rfl, rfl⟩ := h
  simp [decodeBytes, rowD, zero, noLit, accessOf, tretOf, tlbinvOf, ofBit0, bit0, bit1, bit7]
theorem copyRed (d a b : Reg) : Statement (.copyRed d a b) := by
  intro w lit h hlit
  clear hlit
  simp only [encode, Option.some.injEq, Prod.mk.injEq] at h
  obtain ⟨rfl, rfl⟩ := h
  simp [decodeBytes, rowD, zero, noLit, accessOf, tretOf, tlbinvOf, ofBit0, bit0, bit1, bit7]
theorem copyConv (d a b : Reg) : Statement (.copyConv d a b) := by
  intro w lit h hlit
  clear hlit
  simp only [encode, Option.some.injEq, Prod.mk.injEq] at h
  obtain ⟨rfl, rfl⟩ := h
  simp [decodeBytes, rowD, zero, noLit, accessOf, tretOf, tlbinvOf, ofBit0, bit0, bit1, bit7]
theorem launch (d a : Reg) (b : Src) : Statement (.launch d a b) := by
  intro w lit h hl
  cases b <;> simp_all [encode, packSrc, Instr.literalOk, Src.narrow] <;> obtain ⟨rfl, rfl⟩ := h <;> simp [decodeBytes, rowE, srcOf, zero]
theorem amsend (d a : Reg) (b : Src) : Statement (.amsend d a b) := by
  intro w lit h hl
  cases b <;> simp_all [encode, packSrc, Instr.literalOk, Src.narrow] <;> obtain ⟨rfl, rfl⟩ := h <;> simp [decodeBytes, rowE, srcOf, zero]
theorem trctl (on : Bool) : Statement (.trctl on) := by
  intro w lit h hlit
  clear hlit
  simp only [encode, Option.some.injEq, Prod.mk.injEq] at h
  obtain ⟨rfl, rfl⟩ := h
  cases on <;> simp [decodeBytes, rowE, zero, noLit, accessOf, tretOf, tlbinvOf, ofBit0, bit0, bit1, bit7]
theorem trmark (imm : BitVec 16) : Statement (.trmark imm) := by
  intro w lit h hlit
  clear hlit
  simp only [encode, Option.some.injEq, Prod.mk.injEq] at h
  obtain ⟨rfl, rfl⟩ := h
  simp [decodeBytes, rowE, zero, noLit, accessOf, tretOf, tlbinvOf, ofBit0, bit0, bit1, bit7]
theorem uLd (d a : Reg) (acc : Access) : Statement (.uLd d a acc) := by
  intro w lit h hlit
  clear hlit
  simp only [encode, Option.some.injEq, Prod.mk.injEq] at h
  obtain ⟨rfl, rfl⟩ := h
  simp [decodeBytes, rowE, zero, noLit, accessOf, tretOf, tlbinvOf, ofBit0, bit0, bit1, bit7]
theorem uSt (d a : Reg) (acc : Access) : Statement (.uSt d a acc) := by
  intro w lit h hlit
  clear hlit
  simp only [encode, Option.some.injEq, Prod.mk.injEq] at h
  obtain ⟨rfl, rfl⟩ := h
  simp [decodeBytes, rowE, zero, noLit, accessOf, tretOf, tlbinvOf, ofBit0, bit0, bit1, bit7]
theorem uAtom (d a b : Reg) (acc : Access) : Statement (.uAtom d a b acc) := by
  intro w lit h hlit
  clear hlit
  simp only [encode, Option.some.injEq, Prod.mk.injEq] at h
  obtain ⟨rfl, rfl⟩ := h
  simp [decodeBytes, rowE, zero, noLit, accessOf, tretOf, tlbinvOf, ofBit0, bit0, bit1, bit7]
theorem smap (a b : Reg) (acc : Access) : Statement (.smap a b acc) := by
  intro w lit h hlit
  clear hlit
  simp only [encode, Option.some.injEq, Prod.mk.injEq] at h
  obtain ⟨rfl, rfl⟩ := h
  simp [decodeBytes, rowE, zero, noLit, accessOf, tretOf, tlbinvOf, ofBit0, bit0, bit1, bit7]
theorem sunmap (acc : Access) : Statement (.sunmap acc) := by
  intro w lit h hlit
  clear hlit
  simp only [encode, Option.some.injEq, Prod.mk.injEq] at h
  obtain ⟨rfl, rfl⟩ := h
  simp [decodeBytes, rowE, zero, noLit, accessOf, tretOf, tlbinvOf, ofBit0, bit0, bit1, bit7]
theorem sflush (acc : Access) : Statement (.sflush acc) := by
  intro w lit h hlit
  clear hlit
  simp only [encode, Option.some.injEq, Prod.mk.injEq] at h
  obtain ⟨rfl, rfl⟩ := h
  simp [decodeBytes, rowE, zero, noLit, accessOf, tretOf, tlbinvOf, ofBit0, bit0, bit1, bit7]
theorem uCas (d a b : Reg) (acc : Access) : Statement (.uCas d a b acc) := by
  intro w lit h hlit
  clear hlit
  simp only [encode, Option.some.injEq, Prod.mk.injEq] at h
  obtain ⟨rfl, rfl⟩ := h
  simp [decodeBytes, rowE, zero, noLit, accessOf, tretOf, tlbinvOf, ofBit0, bit0, bit1, bit7]
theorem tretRetry  : Statement (.tretRetry ) := by
  intro w lit h hlit
  clear hlit
  simp only [encode, Option.some.injEq, Prod.mk.injEq] at h
  obtain ⟨rfl, rfl⟩ := h
  simp [decodeBytes, rowF, zero, noLit, accessOf, tretOf, tlbinvOf, ofBit0, bit0, bit1, bit7]
theorem tretSkip  : Statement (.tretSkip ) := by
  intro w lit h hlit
  clear hlit
  simp only [encode, Option.some.injEq, Prod.mk.injEq] at h
  obtain ⟨rfl, rfl⟩ := h
  simp [decodeBytes, rowF, zero, noLit, accessOf, tretOf, tlbinvOf, ofBit0, bit0, bit1, bit7]
theorem tretEnd  : Statement (.tretEnd ) := by
  intro w lit h hlit
  clear hlit
  simp only [encode, Option.some.injEq, Prod.mk.injEq] at h
  obtain ⟨rfl, rfl⟩ := h
  simp [decodeBytes, rowF, zero, noLit, accessOf, tretOf, tlbinvOf, ofBit0, bit0, bit1, bit7]
theorem locq (d a : Reg) : Statement (.locq d a) := by
  intro w lit h hlit
  clear hlit
  simp only [encode, Option.some.injEq, Prod.mk.injEq] at h
  obtain ⟨rfl, rfl⟩ := h
  simp [decodeBytes, rowF, zero, noLit, accessOf, tretOf, tlbinvOf, ofBit0, bit0, bit1, bit7]
theorem tlbinvPage (a b : Reg) : Statement (.tlbinvPage a b) := by
  intro w lit h hlit
  clear hlit
  simp only [encode, Option.some.injEq, Prod.mk.injEq] at h
  obtain ⟨rfl, rfl⟩ := h
  simp [decodeBytes, rowF, zero, noLit, accessOf, tretOf, tlbinvOf, ofBit0, bit0, bit1, bit7]
theorem tlbinvAsid (b : Reg) : Statement (.tlbinvAsid b) := by
  intro w lit h hlit
  clear hlit
  simp only [encode, Option.some.injEq, Prod.mk.injEq] at h
  obtain ⟨rfl, rfl⟩ := h
  simp [decodeBytes, rowF, zero, noLit, accessOf, tretOf, tlbinvOf, ofBit0, bit0, bit1, bit7]
theorem tlbinvAll  : Statement (.tlbinvAll ) := by
  intro w lit h hlit
  clear hlit
  simp only [encode, Option.some.injEq, Prod.mk.injEq] at h
  obtain ⟨rfl, rfl⟩ := h
  simp [decodeBytes, rowF, zero, noLit, accessOf, tretOf, tlbinvOf, ofBit0, bit0, bit1, bit7]
theorem asidset (d a b : Reg) : Statement (.asidset d a b) := by
  intro w lit h hlit
  clear hlit
  simp only [encode, Option.some.injEq, Prod.mk.injEq] at h
  obtain ⟨rfl, rfl⟩ := h
  simp [decodeBytes, rowF, zero, noLit, accessOf, tretOf, tlbinvOf, ofBit0, bit0, bit1, bit7]
theorem mgate (d a : Reg) : Statement (.mgate d a) := by
  intro w lit h hlit
  clear hlit
  simp only [encode, Option.some.injEq, Prod.mk.injEq] at h
  obtain ⟨rfl, rfl⟩ := h
  simp [decodeBytes, rowF, zero, noLit, accessOf, tretOf, tlbinvOf, ofBit0, bit0, bit1, bit7]
theorem cntrd (d : Reg) (imm : BitVec 16) : Statement (.cntrd d imm) := by
  intro w lit h hlit
  clear hlit
  simp only [encode, Option.some.injEq, Prod.mk.injEq] at h
  obtain ⟨rfl, rfl⟩ := h
  simp [decodeBytes, rowF, zero, noLit, accessOf, tretOf, tlbinvOf, ofBit0, bit0, bit1, bit7]
theorem cntset (d : Reg) (imm : BitVec 16) : Statement (.cntset d imm) := by
  intro w lit h hlit
  clear hlit
  simp only [encode, Option.some.injEq, Prod.mk.injEq] at h
  obtain ⟨rfl, rfl⟩ := h
  simp [decodeBytes, rowF, zero, noLit, accessOf, tretOf, tlbinvOf, ofBit0, bit0, bit1, bit7]
theorem nop  : Statement (.nop ) := by
  intro w lit h hlit
  clear hlit
  simp only [encode, Option.some.injEq, Prod.mk.injEq] at h
  obtain ⟨rfl, rfl⟩ := h
  simp [decodeBytes, rowF, zero, noLit, accessOf, tretOf, tlbinvOf, ofBit0, bit0, bit1, bit7]
theorem sleep (imm : BitVec 16) : Statement (.sleep imm) := by
  intro w lit h hlit
  clear hlit
  simp only [encode, Option.some.injEq, Prod.mk.injEq] at h
  obtain ⟨rfl, rfl⟩ := h
  simp [decodeBytes, rowF, zero, noLit, accessOf, tretOf, tlbinvOf, ofBit0, bit0, bit1, bit7]
theorem gangStateError (bid : Nat) (g : Nat) : Statement (.gangStateError bid g) := by
  intro w lit h _
  exact absurd h (by simp [encode])
theorem scoreboardSquash (bid : Nat) (g : Nat) (place : Nat) : Statement (.scoreboardSquash bid g place) := by
  intro w lit h _
  exact absurd h (by simp [encode])
theorem trapEntry (bid : Nat) (g : Nat) : Statement (.trapEntry bid g) := by
  intro w lit h _
  exact absurd h (by simp [encode])
theorem joinwTimeout (bid : Nat) (g : Nat) (place : Nat) : Statement (.joinwTimeout bid g place) := by
  intro w lit h _
  exact absurd h (by simp [encode])
theorem starvationLimit (core : Nat) (quad : Nat) : Statement (.starvationLimit core quad) := by
  intro w lit h _
  exact absurd h (by simp [encode])
theorem issueSelect (core : Nat) (quad : Nat) : Statement (.issueSelect core quad) := by
  intro w lit h _
  exact absurd h (by simp [encode])
theorem sleepExpiry (bid : Nat) (g : Nat) (place : Nat) : Statement (.sleepExpiry bid g place) := by
  intro w lit h _
  exact absurd h (by simp [encode])
theorem barrierWaitWake (bid : Nat) (g : Nat) (place : Nat) : Statement (.barrierWaitWake bid g place) := by
  intro w lit h _
  exact absurd h (by simp [encode])
theorem waitcWake (bid : Nat) (g : Nat) (place : Nat) : Statement (.waitcWake bid g place) := by
  intro w lit h _
  exact absurd h (by simp [encode])
theorem waitringWake (bid : Nat) (g : Nat) (place : Nat) : Statement (.waitringWake bid g place) := by
  intro w lit h _
  exact absurd h (by simp [encode])
theorem resourceWake (bid : Nat) (g : Nat) (place : Nat) : Statement (.resourceWake bid g place) := by
  intro w lit h _
  exact absurd h (by simp [encode])
theorem firstTouchFill (bid : Nat) (line : Nat) : Statement (.firstTouchFill bid line) := by
  intro w lit h _
  exact absurd h (by simp [encode])
theorem ldaReply (bid : Nat) (g : Nat) (id : Nat) (lane : Nat) (word : Nat) : Statement (.ldaReply bid g id lane word) := by
  intro w lit h _
  exact absurd h (by simp [encode])
theorem helperForcedRelease (bid : Nat) (g : Nat) : Statement (.helperForcedRelease bid g) := by
  intro w lit h _
  exact absurd h (by simp [encode])
theorem matrixOpStart (core : Nat) : Statement (.matrixOpStart core) := by
  intro w lit h _
  exact absurd h (by simp [encode])
theorem matrixSourceRelease (core : Nat) (range : Nat) : Statement (.matrixSourceRelease core range) := by
  intro w lit h _
  exact absurd h (by simp [encode])
theorem matrixOpComplete (core : Nat) : Statement (.matrixOpComplete core) := by
  intro w lit h _
  exact absurd h (by simp [encode])
theorem copyStart (bid : Nat) (opid : Nat) : Statement (.copyStart bid opid) := by
  intro w lit h _
  exact absurd h (by simp [encode])
theorem copySourceRelease (bid : Nat) (opid : Nat) : Statement (.copySourceRelease bid opid) := by
  intro w lit h _
  exact absurd h (by simp [encode])
theorem copyLineArrival (bid : Nat) (opid : Nat) : Statement (.copyLineArrival bid opid) := by
  intro w lit h _
  exact absurd h (by simp [encode])
theorem copyComplete (bid : Nat) (opid : Nat) : Statement (.copyComplete bid opid) := by
  intro w lit h _
  exact absurd h (by simp [encode])
theorem copyFault (bid : Nat) (opid : Nat) : Statement (.copyFault bid opid) := by
  intro w lit h _
  exact absurd h (by simp [encode])
theorem blockPlace (team : Nat) : Statement (.blockPlace team) := by
  intro w lit h _
  exact absurd h (by simp [encode])
theorem boundaryDrain (core : Nat) : Statement (.boundaryDrain core) := by
  intro w lit h _
  exact absurd h (by simp [encode])
theorem contextStage (core : Nat) (bid : Nat) : Statement (.contextStage core bid) := by
  intro w lit h _
  exact absurd h (by simp [encode])
theorem blockStart (bid : Nat) : Statement (.blockStart bid) := by
  intro w lit h _
  exact absurd h (by simp [encode])
theorem blockEnd (bid : Nat) : Statement (.blockEnd bid) := by
  intro w lit h _
  exact absurd h (by simp [encode])
theorem teamAbort (team : Nat) : Statement (.teamAbort team) := by
  intro w lit h _
  exact absurd h (by simp [encode])
theorem schedulerTake  : Statement (.schedulerTake ) := by
  intro w lit h _
  exact absurd h (by simp [encode])
theorem tokenEvict (asid : Nat) (token : Nat) : Statement (.tokenEvict asid token) := by
  intro w lit h _
  exact absurd h (by simp [encode])
theorem handlerSpawn (core : Nat) : Statement (.handlerSpawn core) := by
  intro w lit h _
  exact absurd h (by simp [encode])
theorem messageArrival (id : Nat) : Statement (.messageArrival id) := by
  intro w lit h _
  exact absurd h (by simp [encode])
theorem launchPortWrite (queue : Nat) (offset : Nat) (data : List Byte) : Statement (.launchPortWrite queue offset data) := by
  intro w lit h _
  exact absurd h (by simp [encode])
theorem qcmdNop (queue : Nat) (value : Nat) : Statement (.qcmdNop queue value) := by
  intro w lit h _
  exact absurd h (by simp [encode])
theorem qcmdBind (queue : Nat) (value : Nat) : Statement (.qcmdBind queue value) := by
  intro w lit h _
  exact absurd h (by simp [encode])
theorem qcmdUnbind (queue : Nat) (value : Nat) : Statement (.qcmdUnbind queue value) := by
  intro w lit h _
  exact absurd h (by simp [encode])
theorem qcmdEnable (queue : Nat) (value : Nat) : Statement (.qcmdEnable queue value) := by
  intro w lit h _
  exact absurd h (by simp [encode])
theorem qcmdDisable (queue : Nat) (value : Nat) : Statement (.qcmdDisable queue value) := by
  intro w lit h _
  exact absurd h (by simp [encode])
theorem qstatWrite (queue : Nat) (value : Nat) : Statement (.qstatWrite queue value) := by
  intro w lit h _
  exact absurd h (by simp [encode])
theorem qspillWrite (queue : Nat) (value : Nat) : Statement (.qspillWrite queue value) := by
  intro w lit h _
  exact absurd h (by simp [encode])
theorem preemptRequest (team : Nat) (deadline : Nat) (area : Nat) (nodrain : Bool) (nodiscard : Bool) : Statement (.preemptRequest team deadline area nodrain nodiscard) := by
  intro w lit h _
  exact absurd h (by simp [encode])
theorem restoreRequest (team : Nat) (area : Nat) : Statement (.restoreRequest team area) := by
  intro w lit h _
  exact absurd h (by simp [encode])
theorem endRequest (team : Nat) : Statement (.endRequest team) := by
  intro w lit h _
  exact absurd h (by simp [encode])
theorem preemptDiscardedOp (team : Nat) : Statement (.preemptDiscardedOp team) := by
  intro w lit h _
  exact absurd h (by simp [encode])
theorem teamDiscard (team : Nat) : Statement (.teamDiscard team) := by
  intro w lit h _
  exact absurd h (by simp [encode])
theorem teamSave (team : Nat) : Statement (.teamSave team) := by
  intro w lit h _
  exact absurd h (by simp [encode])
theorem teamRestore (team : Nat) : Statement (.teamRestore team) := by
  intro w lit h _
  exact absurd h (by simp [encode])
theorem resumeRetry (asid : Nat) (ticket : Nat) : Statement (.resumeRetry asid ticket) := by
  intro w lit h _
  exact absurd h (by simp [encode])
theorem resumeRefuse (asid : Nat) (ticket : Nat) : Statement (.resumeRefuse asid ticket) := by
  intro w lit h _
  exact absurd h (by simp [encode])
theorem resumeEnd (asid : Nat) (ticket : Nat) : Statement (.resumeEnd asid ticket) := by
  intro w lit h _
  exact absurd h (by simp [encode])
theorem resumeDiscarded (asid : Nat) (ticket : Nat) : Statement (.resumeDiscarded asid ticket) := by
  intro w lit h _
  exact absurd h (by simp [encode])
theorem closeRequest (span : Nat) (slice : Nat) : Statement (.closeRequest span slice) := by
  intro w lit h _
  exact absurd h (by simp [encode])
theorem implicitSplit (bid : Nat) : Statement (.implicitSplit bid) := by
  intro w lit h _
  exact absurd h (by simp [encode])
theorem lineEvict (line : Nat) : Statement (.lineEvict line) := by
  intro w lit h _
  exact absurd h (by simp [encode])
theorem slotRenewal (bid : Nat) : Statement (.slotRenewal bid) := by
  intro w lit h _
  exact absurd h (by simp [encode])
theorem slotPurge (bid : Nat) : Statement (.slotPurge bid) := by
  intro w lit h _
  exact absurd h (by simp [encode])
theorem atticSweep (line : Nat) : Statement (.atticSweep line) := by
  intro w lit h _
  exact absurd h (by simp [encode])
theorem migrationFiller (entry : Nat) : Statement (.migrationFiller entry) := by
  intro w lit h _
  exact absurd h (by simp [encode])
theorem inboundWrite (offset : Nat) (relaxed : Bool) (data : List Byte) : Statement (.inboundWrite offset relaxed data) := by
  intro w lit h _
  exact absurd h (by simp [encode])
theorem inboundRouteAck (id : Nat) (span : Nat) : Statement (.inboundRouteAck id span) := by
  intro w lit h _
  exact absurd h (by simp [encode])
theorem hostBar2Read (offset : Nat) (n : Nat) : Statement (.hostBar2Read offset n) := by
  intro w lit h _
  exact absurd h (by simp [encode])
theorem hostSnoop (pa : Nat) (n : Nat) (data : Option (List Byte)) : Statement (.hostSnoop pa n data) := by
  intro w lit h _
  exact absurd h (by simp [encode])
theorem linkUp (coherent : Bool) : Statement (.linkUp coherent) := by
  intro w lit h _
  exact absurd h (by simp [encode])
theorem linkDown  : Statement (.linkDown ) := by
  intro w lit h _
  exact absurd h (by simp [encode])
theorem errstatWrite (value : Nat) : Statement (.errstatWrite value) := by
  intro w lit h _
  exact absurd h (by simp [encode])
theorem trrpWrite (core : Nat) (value : Nat) : Statement (.trrpWrite core value) := by
  intro w lit h _
  exact absurd h (by simp [encode])
theorem registerWrite (offset : Nat) (value : Nat) : Statement (.registerWrite offset value) := by
  intro w lit h _
  exact absurd h (by simp [encode])
theorem tracePeriodicSync (core : Nat) : Statement (.tracePeriodicSync core) := by
  intro w lit h _
  exact absurd h (by simp [encode])
theorem traceLossWrite (core : Nat) : Statement (.traceLossWrite core) := by
  intro w lit h _
  exact absurd h (by simp [encode])
theorem remoteWriteArrival (peer : Nat) (pa : Nat) (data : List Byte) : Statement (.remoteWriteArrival peer pa data) := by
  intro w lit h _
  exact absurd h (by simp [encode])
theorem remoteAtomicArrival (peer : Nat) (seq : Nat) (replay : Bool) (pa : Nat) (n : Nat) (op : Nat) (x : Nat) (y : Nat) : Statement (.remoteAtomicArrival peer seq replay pa n op x y) := by
  intro w lit h _
  exact absurd h (by simp [encode])
theorem remoteAtomicRetry (bid : Nat) (g : Nat) (place : Nat) (expired : Bool) : Statement (.remoteAtomicRetry bid g place expired) := by
  intro w lit h _
  exact absurd h (by simp [encode])
theorem frameResend (id : Nat) (port : Nat) : Statement (.frameResend id port) := by
  intro w lit h _
  exact absurd h (by simp [encode])
theorem routeTableWrite (iodie : Nat) (peer : Nat) (route : Option Route) (acked : Nat) : Statement (.routeTableWrite iodie peer route acked) := by
  intro w lit h _
  exact absurd h (by simp [encode])
theorem mgmtQueueDisable (queue : Nat) : Statement (.mgmtQueueDisable queue) := by
  intro w lit h _
  exact absurd h (by simp [encode])
theorem mgmtQueueEnable (queue : Nat) : Statement (.mgmtQueueEnable queue) := by
  intro w lit h _
  exact absurd h (by simp [encode])
theorem mgmtDieReset (die : Nat) (disable : Bool) : Statement (.mgmtDieReset die disable) := by
  intro w lit h _
  exact absurd h (by simp [encode])
theorem mgmtDieEnable (die : Nat) : Statement (.mgmtDieEnable die) := by
  intro w lit h _
  exact absurd h (by simp [encode])
theorem mgmtFaultQueueRead (asid : Nat) : Statement (.mgmtFaultQueueRead asid) := by
  intro w lit h _
  exact absurd h (by simp [encode])
theorem mgmtControllerReset  : Statement (.mgmtControllerReset ) := by
  intro w lit h _
  exact absurd h (by simp [encode])
theorem ballastWrite (value : Nat) : Statement (.ballastWrite value) := by
  intro w lit h _
  exact absurd h (by simp [encode])
theorem hbmRateChange (stack : Nat) (rate : Nat) : Statement (.hbmRateChange stack rate) := by
  intro w lit h _
  exact absurd h (by simp [encode])
theorem hbmRetrainDone (stack : Nat) (outcome : Nat) : Statement (.hbmRetrainDone stack outcome) := by
  intro w lit h _
  exact absurd h (by simp [encode])
theorem hbmStackReset (stack : Nat) : Statement (.hbmStackReset stack) := by
  intro w lit h _
  exact absurd h (by simp [encode])
theorem sensorSample (sensor : Nat) (temp : Int) (valid : Bool) : Statement (.sensorSample sensor temp valid) := by
  intro w lit h _
  exact absurd h (by simp [encode])
theorem thermalDecision (die : Nat) : Statement (.thermalDecision die) := by
  intro w lit h _
  exact absurd h (by simp [encode])
theorem clockChange (die : Nat) : Statement (.clockChange die) := by
  intro w lit h _
  exact absurd h (by simp [encode])
theorem governorTest (power : Nat) : Statement (.governorTest power) := by
  intro w lit h _
  exact absurd h (by simp [encode])
theorem powerUp  : Statement (.powerUp ) := by
  intro w lit h _
  exact absurd h (by simp [encode])
theorem firmwareImageLoad (target : Nat) (version : Nat) (ecdsa : Bool) (lms : Bool) : Statement (.firmwareImageLoad target version ecdsa lms) := by
  intro w lit h _
  exact absurd h (by simp [encode])
theorem spdmRequest (request : Nat) : Statement (.spdmRequest request) := by
  intro w lit h _
  exact absurd h (by simp [encode])
theorem memoryPoison (pa : Nat) : Statement (.memoryPoison pa) := by
  intro w lit h _
  exact absurd h (by simp [encode])
theorem ioParityError (id : Nat) (offset : Nat) : Statement (.ioParityError id offset) := by
  intro w lit h _
  exact absurd h (by simp [encode])
theorem mgmtControllerResetRelease  : Statement (.mgmtControllerResetRelease ) := by
  intro w lit h _
  exact absurd h (by simp [encode])
theorem retrainingDeferralExpiry (stack : Nat) : Statement (.retrainingDeferralExpiry stack) := by
  intro w lit h _
  exact absurd h (by simp [encode])
theorem recordingControl (queues : List Nat) (windows : List (Nat × Nat)) (on : Bool) : Statement (.recordingControl queues windows on) := by
  intro w lit h _
  exact absurd h (by simp [encode])

end Sys2Proof.Laws.RoundTrip
end

