-- ==== Sys2Proof/Tests/Slice0.lean ====
section
/-!
SUPPORT. Tests/Slice0.lean: decode tests on words from the encoding tables, states that meet the hypotheses of each obligation, ill-formed
terms, and small steps.
-/

namespace Sys2Proof.Tests

open Sys2Proof Sys2Proof.Machine

set_option maxRecDepth 100000
set_option Elab.async false

/-- A packet at 0x1_0000 with a word in slot 1, its literal after it, every predicate "always", and nops in what is left (R64 to R66). -/
def packetOf (w : Word) (lit : Lit) : Packet :=
  let nop : Word := 0xF7000000
  match lit with
  | .none => ⟨0x10000, 0x0300C030, w, nop, nop⟩
  | .l32 l => ⟨0x10000, 0x43000030, w, l, nop⟩
  | .l64 l => ⟨0x10000, 0xC3000000, w, l.setWidth 32, (l >>> 32).setWidth 32⟩

/-- A team with one block of one gang on core 0, whose split has entered the packet of an instruction and issues it; the gang and the
rest of the state are then changed as given. -/
def world (i : Instr) (num role : Nat) (f : Gang → Gang) (h : State → State) : State :=
  let e := (encode i).getD (0, .none)
  let g := Gang.fresh 0 num role 256 false false false 0x10004 0 0 0
  let g1 := f { g with tree := g.tree.modSplit 0 (fun x => { x with packet := some (packetOf e.1 e.2) }) }
  h { State.reset with
    identifiers := [(0, ⟨0x100000, 0x10004, 0x400000, 64, 0⟩)]
    boards := [(0, ⟨0, 1, 0⟩)]
    teams := [(0, Team.fresh 0 0 0 [] 0)]
    blocks := [(0, Block.fresh 0 0 0 0 0 0 false [num] 32768 0 4096 false)]
    gangs := [(gangId 0 num, g1)]
    link := .coherent
    issue := some ⟨0, num, .split 0⟩ }

/-- The context in which exec runs an instruction; any context where there is none. -/
def cxAt (i : Instr) (s : State) : Cx :=
  (cxOf i s).getD ⟨0, 0, 0, 0, Gang.fresh 0 0 0 0 false false false 0 0 0 0, Block.fresh 0 0 0 0 0 0 false [] 0 0 0 false, 0, none, 0, 0, 0, 0, 0,
    0, 0, 0, none⟩

/-- The premises of Formed, of Valid and of Clear, tested. -/
def formedB (i : Instr) (cx : Cx) (s : State) : Bool :=
  cxOf i s = some cx && i.wellFormed && decide (i.regs.findSome? cx.badReg = none) && !cx.bodyBreach i &&
    (!i.handlerOnly || cx.g.inHandler) && (!i.returns || (cx.g.inHandler && cx.g.tree.splits.length = 1)) &&
    (!i.always || (ctlPred cx.ctl = 48 && !ctlNeg cx.ctl))

theorem formed_of {i : Instr} {cx : Cx} {s : State} (h : formedB i cx s = true) : Formed i cx s := by
  unfold formedB at h
  simp only [Bool.and_eq_true, decide_eq_true_eq, Bool.or_eq_true, Bool.not_eq_true'] at h
  obtain ⟨⟨⟨⟨⟨⟨a1, a2⟩, a3⟩, a4⟩, a5⟩, a6⟩, a7⟩ := h
  refine ⟨a1, a2, a3, a4, ?_, ?_, ?_⟩ <;> intro hh <;> simp_all

def validB (i : Instr) (cx : Cx) (s : State) : Bool :=
  formedB i cx s && decide (cx.misplaced i = none) && decide (cx.fieldIllegal i = none) && !cx.interlocked s i && decide (cx.deadReads s i = [])

theorem valid_of {i : Instr} {cx : Cx} {s : State} (h : validB i cx s = true) : Valid i cx s := by
  unfold validB at h
  simp only [Bool.and_eq_true, decide_eq_true_eq, Bool.not_eq_true'] at h
  exact ⟨formed_of h.1.1.1.1, h.1.1.1.2, h.1.1.2, h.1.2, h.2⟩

def clearB (i : Instr) (cx : Cx) (s : State) : Bool :=
  validB i cx s && decide (cx.perform ≠ 0) && decide (cx.illegal s i = none) && i.admits.role cx.g.role &&
    decide (cx.tooEarly s i = none) && (!i.system || cx.g.system) && decide (cx.predicateSplit s i = 0) && decide (cx.heldLda i = none) &&
    decide (cx.heldMatrix s i = none) && decide (cx.heldCopy i = none) && (!i.bounds || !s.boundaryWaits cx.b)

theorem clear_of {i : Instr} {cx : Cx} {s : State} (h : clearB i cx s = true) : Clear i cx s := by
  unfold clearB at h
  simp only [Bool.and_eq_true, decide_eq_true_eq, Bool.or_eq_true, Bool.not_eq_true', ne_eq] at h
  obtain ⟨⟨⟨⟨⟨⟨⟨⟨⟨⟨a1, a2⟩, a3⟩, a4⟩, a5⟩, a6⟩, a7⟩, a8⟩, a9⟩, a10⟩, a11⟩ := h
  refine ⟨valid_of a1, a2, a3, a4, fun _ => a5, ?_, fun _ => a7, a8, a9, a10, ?_⟩ <;> intro hh <;> simp_all

/-- The state after exec, or none. -/
def after (i : Instr) (s : State) : State := match exec i s with
  | .next t => t
  | _ => State.reset

def vectorForms1 : List (Word × Lit × Instr) :=
  [(0x00040608, .none, .add 4 6 (.reg 8)), (0x01040608, .none, .sub 4 6 (.reg 8)), (0x02040608, .none, .mul 4 6 (.reg 8)),
    (0x03040608, .none, .mulhiI32 4 6 (.reg 8)), (0x04040608, .none, .mulhiN32 4 6 (.reg 8)), (0x05040608, .none, .mad 4 6 (.reg 8)),
    (0x06040608, .none, .addI64 4 6 (.reg 8)), (0x07040608, .none, .subI64 4 6 (.reg 8)), (0x08040608, .none, .mulwI32 4 6 (.reg 8)),
    (0x09040608, .none, .mulwN32 4 6 (.reg 8)), (0x0A040608, .none, .minI32 4 6 (.reg 8)), (0x0B040608, .none, .maxI32 4 6 (.reg 8)),
    (0x0C040608, .none, .minN32 4 6 (.reg 8)), (0x0D040608, .none, .maxN32 4 6 (.reg 8)), (0x0E040007, .none, .addi 4 7),
    (0x0F040007, .none, .ldi 4 7), (0x10040608, .none, .and 4 6 (.reg 8)), (0x11040608, .none, .or 4 6 (.reg 8)),
    (0x12040608, .none, .xor 4 6 (.reg 8)), (0x13040608, .none, .andn 4 6 (.reg 8)), (0x14040608, .none, .shl 4 6 (.reg 8)),
    (0x15040608, .none, .shrN32 4 6 (.reg 8)), (0x16040608, .none, .shrI32 4 6 (.reg 8)), (0x17040603, .none, .shli 4 6 3)]

def vectorForms2 : List (Word × Lit × Instr) :=
  [(0x18040603, .none, .shriN32 4 6 3), (0x19040603, .none, .shriI32 4 6 3), (0x1A040608, .none, .bfeN32 4 6 (.reg 8)),
    (0x1B040608, .none, .bfeI32 4 6 (.reg 8)), (0x1C040608, .none, .bfi 4 6 (.reg 8)), (0x1D040600, .none, .popc 4 6),
    (0x1E040600, .none, .clz 4 6), (0x1F040600, .none, .brev 4 6), (0x20040608, .none, .seteq 4 6 (.reg 8)),
    (0x21040608, .none, .setne 4 6 (.reg 8)), (0x22040608, .none, .setltI32 4 6 (.reg 8)),
    (0x23040608, .none, .setleI32 4 6 (.reg 8)), (0x24040608, .none, .setltN32 4 6 (.reg 8)),
    (0x25040608, .none, .setleN32 4 6 (.reg 8)), (0x26040608, .none, .setltI64 4 6 (.reg 8)),
    (0x27040608, .none, .seteqI64 4 6 (.reg 8)), (0x70040008, .none, .mov 4 (.reg 8)), (0x71040008, .none, .movI64 4 (.reg 8)),
    (0x74040608, .none, .sel 4 6 (.reg 8)), (0x77040007, .none, .movh 4 7), (0x00040600, (.l32 9), .add 4 6 (.lit32 9)),
    (0x06040600, (.l64 9), .addI64 4 6 (.lit64 9))]

/-- Words of the integer, logic and move V instructions, from the encoding tables (R72 to R77), and what they are. -/
def vectorForms : List (Word × Lit × Instr) := vectorForms1 ++ vectorForms2

def uniformForms1 : List (Word × Lit × Instr) :=
  [(0x80040608, .none, .uAdd 4 6 (.reg 8)), (0x81040608, .none, .uSub 4 6 (.reg 8)), (0x82040608, .none, .uMul 4 6 (.reg 8)),
    (0x83040608, .none, .uMulhiI32 4 6 (.reg 8)), (0x84040608, .none, .uMulhiN32 4 6 (.reg 8)),
    (0x85040608, .none, .uMad 4 6 (.reg 8)), (0x86040608, .none, .uAddI64 4 6 (.reg 8)), (0x87040608, .none, .uSubI64 4 6 (.reg 8)),
    (0x88040608, .none, .uMulwI32 4 6 (.reg 8)), (0x89040608, .none, .uMulwN32 4 6 (.reg 8)),
    (0x8A040608, .none, .uMinI32 4 6 (.reg 8)), (0x8B040608, .none, .uMaxI32 4 6 (.reg 8)),
    (0x8C040608, .none, .uMinN32 4 6 (.reg 8)), (0x8D040608, .none, .uMaxN32 4 6 (.reg 8)), (0x8E040007, .none, .uAddi 4 7),
    (0x8F040007, .none, .uLdi 4 7), (0x90040608, .none, .uAnd 4 6 (.reg 8)), (0x91040608, .none, .uOr 4 6 (.reg 8)),
    (0x92040608, .none, .uXor 4 6 (.reg 8)), (0x93040608, .none, .uAndn 4 6 (.reg 8)), (0x94040608, .none, .uShl 4 6 (.reg 8)),
    (0x95040608, .none, .uShrN32 4 6 (.reg 8)), (0x96040608, .none, .uShrI32 4 6 (.reg 8)), (0x97040603, .none, .uShli 4 6 3)]

def uniformForms2 : List (Word × Lit × Instr) :=
  [(0x98040603, .none, .uShriN32 4 6 3), (0x99040603, .none, .uShriI32 4 6 3), (0x9A040608, .none, .uBfeN32 4 6 (.reg 8)),
    (0x9B040608, .none, .uBfeI32 4 6 (.reg 8)), (0x9C040608, .none, .uBfi 4 6 (.reg 8)), (0x9D040600, .none, .uPopc 4 6),
    (0x9E040600, .none, .uClz 4 6), (0x9F040600, .none, .uBrev 4 6)]

/-- Words of the U instructions, from the encoding tables (R72 to R77), and what they are. -/
def uniformForms : List (Word × Lit × Instr) := uniformForms1 ++ uniformForms2

/-- Words of the lane exchanges, votes and indexed moves, from the encoding tables (R72 to R77), and what they are. -/
def laneForms : List (Word × Lit × Instr) :=
  [(0x28040608, .none, .xchAt 4 6 (.reg 8)), (0x29040608, .none, .xchBelow 4 6 (.reg 8)), (0x2A040608, .none, .xchAbove 4 6 (.reg 8)),
    (0x2B040608, .none, .xchMirror 4 6 (.reg 8)), (0x2C040600, .none, .vmask 4 6), (0x2D040600, .none, .vgroup 4 6),
    (0x2E040602, .none, .lred 4 6 2), (0x72040608, .none, .movx 4 6 (.reg 8)), (0x73040608, .none, .movxr 4 6 8)]

def floatForms1 : List (Word × Lit × Instr) :=
  [(0x30040608, .none, .faddF32 4 6 (.reg 8)), (0x31040608, .none, .fsubF32 4 6 (.reg 8)), (0x32040608, .none, .fmulF32 4 6 (.reg 8)),
    (0x33040608, .none, .ffmaF32 4 6 (.reg 8)), (0x34040608, .none, .fminF32 4 6 (.reg 8)),
    (0x35040608, .none, .fmaxF32 4 6 (.reg 8)), (0x36040608, .none, .fdivF32 4 6 (.reg 8)), (0x37040600, .none, .fsqrtF32 4 6),
    (0x38040608, .none, .fseteqF32 4 6 (.reg 8)), (0x39040608, .none, .fsetltF32 4 6 (.reg 8)),
    (0x3A040608, .none, .fsetleF32 4 6 (.reg 8)), (0x3B040608, .none, .fsetunF32 4 6 (.reg 8)), (0x3C040007, .none, .faddiF32 4 7),
    (0x3D040007, .none, .fmuliF32 4 7), (0x3E040600, .none, .fclassF32 4 6), (0x3F040608, .none, .fnmaF32 4 6 (.reg 8)),
    (0x40040608, .none, .faddF64 4 6 (.reg 8)), (0x41040608, .none, .fsubF64 4 6 (.reg 8)),
    (0x42040608, .none, .fmulF64 4 6 (.reg 8)), (0x43040608, .none, .ffmaF64 4 6 (.reg 8)),
    (0x44040608, .none, .fminF64 4 6 (.reg 8)), (0x45040608, .none, .fmaxF64 4 6 (.reg 8)),
    (0x46040608, .none, .fdivF64 4 6 (.reg 8)), (0x47040600, .none, .fsqrtF64 4 6)]

def floatForms2 : List (Word × Lit × Instr) :=
  [(0x48040608, .none, .fseteqF64 4 6 (.reg 8)), (0x49040608, .none, .fsetltF64 4 6 (.reg 8)),
    (0x4A040608, .none, .fsetleF64 4 6 (.reg 8)), (0x4B040608, .none, .fsetunF64 4 6 (.reg 8)), (0x4C040007, .none, .faddiF64 4 7),
    (0x4D040007, .none, .fmuliF64 4 7), (0x4E040600, .none, .fclassF64 4 6), (0x4F040608, .none, .fnmaF64 4 6 (.reg 8)),
    (0x50040608, .none, .haddF16x2 4 6 (.reg 8)), (0x51040608, .none, .hmulF16x2 4 6 (.reg 8)),
    (0x52040608, .none, .hfmaF16x2 4 6 (.reg 8)), (0x53040608, .none, .haddBf16x2 4 6 (.reg 8)),
    (0x54040608, .none, .hmulBf16x2 4 6 (.reg 8)), (0x55040608, .none, .hfmaBf16x2 4 6 (.reg 8)),
    (0x560406A3, .none, .cvt 4 6 true 1 3), (0x570406A3, .none, .qbx 4 6 true 1 true true), (0x58040600, .none, .frcpF32 4 6),
    (0x59040600, .none, .frsqF32 4 6), (0x5A040600, .none, .fexp2F32 4 6), (0x5B040600, .none, .flog2F32 4 6),
    (0x5C040600, .none, .fsinF32 4 6), (0x5D040600, .none, .fcosF32 4 6), (0x5E040600, .none, .frcpF64 4 6),
    (0x5F040600, .none, .frsqF64 4 6)]

def floatForms3 : List (Word × Lit × Instr) :=
  [(0x40040600, (.l32 9), .faddF64 4 6 (.lit32 9))]

/-- Words of the floating-point instructions, from the encoding tables (R72 to R77), and what they are. -/
def floatForms : List (Word × Lit × Instr) := floatForms1 ++ floatForms2 ++ floatForms3

/-- Words of special registers and counters, from the encoding tables (R72 to R77), and what they are. -/
def specialForms : List (Word × Lit × Instr) :=
  [(0x75040010, .none, .sread 4 16), (0x76040022, .none, .swrite 4 34), (0xAA040000, .none, .emsave 4), (0xAB000600, .none, .emset 6),
    (0xF1040600, .none, .locq 4 6), (0xF5040010, .none, .cntrd 4 16), (0xF6040003, .none, .cntset 4 3)]

/-- Words of control flow, from the encoding tables (R72 to R77), and what they are. -/
def controlForms : List (Word × Lit × Instr) :=
  [(0xA0005002, .none, .bra 5 2), (0xA1010608, .none, .brx true 6 (.reg 8)), (0xA2005002, .none, .call 5 2),
    (0xA3000600, .none, .ret 6), (0xA4000000, .none, .join), (0xA5040007, .none, .joinw 4 7), (0xA6000000, .none, .yield),
    (0xA7000000, .none, .exit), (0xA8000007, .none, .trap 7), (0xA9000007, .none, .brk 7)]

/-- Words of barriers, waits and helper loops, from the encoding tables (R72 to R77), and what they are. -/
def waitForms : List (Word × Lit × Instr) :=
  [(0xB0040608, .none, .barInit 4 6 (.reg 8)), (0xB1040608, .none, .barArrive 4 6 (.reg 8)),
    (0xB2040608, .none, .barWait 4 6 (.reg 8)), (0xB3000003, .none, .fence 3), (0xB4000000, .none, .uIsplit),
    (0xB5020005, .none, .waitc 2 5), (0xB6040608, .none, .uWaitring 4 6 (.reg 8)), (0xB7040608, .none, .barSync 4 6 (.reg 8)),
    (0xB8040600, .none, .uRecruit 4 6), (0xB9030608, .none, .uHloop 3 6 (.reg 8)), (0xBA050603, .none, .uHjoin 5 6 3),
    (0xBB000000, .none, .uHrel)]

/-- Words of memory, from the encoding tables (R72 to R77), and what they are. -/
def memoryForms : List (Word × Lit × Instr) :=
  [(0x60040600, (.l32 0x00102C81), .ld 4 6 ⟨16, 1, 3, 1, 0, 1⟩), (0x61040600, (.l32 0x00084D20), .st 4 6 ⟨8, 2, 3, 2, 1, 0⟩),
    (0x62040602, (.l32 0x00008900), .lda 4 6 2 ⟨0, 4, 2, 2, 0, 0⟩), (0x63040608, (.l32 0x00006D00), .atom 4 6 8 ⟨0, 3, 3, 2, 0, 0⟩),
    (0x64040608, (.l32 0x0000ED80), .cas 4 6 8 ⟨0, 7, 3, 3, 0, 0⟩), (0x6504080C, (.l32 0x00002600), .cas2 4 8 12 ⟨0, 1, 1, 4, 0, 0⟩),
    (0x66000600, (.l32 0x00800040), .pf 6 ⟨128, 0, 0, 0, 2, 0⟩), (0x67000600, (.l32 0x00800001), .evict 6 ⟨128, 0, 0, 0, 0, 1⟩),
    (0xE8040600, (.l32 0x00100180), .uLd 4 6 ⟨16, 0, 0, 3, 0, 0⟩), (0xE9040600, (.l32 0x00080500), .uSt 4 6 ⟨8, 0, 1, 2, 0, 0⟩),
    (0xEA040608, (.l32 0x00008D00), .uAtom 4 6 8 ⟨0, 4, 3, 2, 0, 0⟩), (0xEB000608, (.l32 0x00000025), .smap 6 8 ⟨0, 0, 0, 0, 1, 5⟩),
    (0xEC000000, (.l32 0x00000005), .sunmap ⟨0, 0, 0, 0, 0, 5⟩), (0xED000000, (.l32 0x00000005), .sflush ⟨0, 0, 0, 0, 0, 5⟩),
    (0xEE04080C, (.l32 0x00004E00), .uCas 4 8 12 ⟨0, 2, 3, 4, 0, 0⟩)]

/-- Words of tiles and checksums, from the encoding tables (R72 to R77), and what they are. -/
def tileForms : List (Word × Lit × Instr) :=
  [(0xC7040008, .none, .cksum 4 (.reg 8)), (0xC7040000, (.l32 0x000E0202), .cksum 4 (.lit32 0x000E0202)),
    (0xC8040000, .none, .ckchk 4), (0xC9040608, .none, .ckinj 4 6 (.reg 8)),
    (0xC5100600, (.l32 0x00400001), .tld 16 6 ⟨64, 0, 0, 0, 0, 1⟩), (0xC6100608, (.l32 0x00400002), .tst 16 6 8 ⟨64, 0, 0, 0, 0, 2⟩)]

/-- Words of the matrix engine, from the encoding tables (R72 to R77), and what they are. -/
def matrixForms : List (Word × Lit × Instr) :=
  [(0xC0040600, .none, .setshape 4 6), (0xC1100420, .none, .mma 16 4 32), (0xC2100600, .none, .mgath 16 6),
    (0xC3040603, .none, .mdrain 4 6 true true), (0xC4040601, .none, .mzero 4 6 1)]

/-- Words of the copy engine, from the encoding tables (R72 to R77), and what they are. -/
def copyForms : List (Word × Lit × Instr) :=
  [(0xD0040608, .none, .copy 4 6 8), (0xD1040608, .none, .copyTile 4 6 8), (0xD2040608, .none, .copyGath 4 6 8),
    (0xD3040608, .none, .copyScat 4 6 8), (0xD4040608, .none, .copyRed 4 6 8), (0xD5040608, .none, .copyConv 4 6 8)]

/-- Words of the rest, from the encoding tables (R72 to R77), and what they are. -/
def systemForms : List (Word × Lit × Instr) :=
  [(0xE0040608, .none, .launch 4 6 (.reg 8)), (0xE1040608, .none, .amsend 4 6 (.reg 8)), (0xE2000001, .none, .trctl true),
    (0xE3000007, .none, .trmark 7), (0xF2000608, .none, .tlbinvPage 6 8), (0xF2010008, .none, .tlbinvAsid 8),
    (0xF2020000, .none, .tlbinvAll), (0xF3040608, .none, .asidset 4 6 8), (0xF4040600, .none, .mgate 4 6), (0xF7000000, .none, .nop),
    (0xF8000007, .none, .sleep 7)]

/-- Words of the returns from a handler, from the encoding tables (R72 to R77), and what they are. -/
def returnForms : List (Word × Lit × Instr) :=
  [(0xF0000000, .none, .tretRetry), (0xF0000001, .none, .tretSkip), (0xF0000002, .none, .tretEnd)]

/-- Whether the premises of Clear hold of an instruction in a world. -/
def ready (num role : Nat) (f : Gang → Gang) (h : State → State) (i : Instr) : Bool := clearB i (cxAt i (world i num role f h)) (world i num role f h)

theorem clear_ready {num role : Nat} {f : Gang → Gang} {h : State → State} {i : Instr} (e : ready num role f h i = true) :
    Clear i (cxAt i (world i num role f h)) (world i num role f h) := clear_of e

/-- At system level, and in a handler of system level. -/
def atSystem (g : Gang) : Gang := { g with system := true }
def inHandler (g : Gang) : Gang :=
  { g with
    layers := [⟨Tree.start (BitVec.allOnes 32) 0x10004 0, 0, false⟩]
    system := true
    tpc := 0x10004 }

/-! ### Helpers -/

/-- Only lane 0 is live; registers by key. -/
def lane0 (xs : List (Nat × Word)) (g : Gang) : Gang :=
  { g with
    exited := 0xFFFFFFFE
    tree := { g.tree.modSplit 0 (fun x => { x with mask := 1 }) with rootExpect := 1 }
    regs := xs.foldl (fun m e => Tab.put m e.1 e.2) [] }

/-- A packet of nops at 0x4000; table entries that map addresses below 2^30 to themselves, those below 2^31 to peer 0, and those from
2^31 to the cellar. -/
def paged (s : State) : State :=
  { s with
    mem := (bytesOf 16 0xF7000000F7000000F70000000300C030).zipIdx.map (fun e => (0x4000 + e.2, e.1)) ++
      (bytesOf 8 0x110001).zipIdx.map (fun e => (0x100000 + e.2, e.1)) ++ (bytesOf 8 0x3F).zipIdx.map (fun e => (0x110000 + e.2, e.1)) ++
      (bytesOf 8 (0x3F + 2 ^ 51)).zipIdx.map (fun e => (0x110008 + e.2, e.1)) ++
      (bytesOf 8 (0x3F + 2 ^ 40)).zipIdx.map (fun e => (0x110010 + e.2, e.1))
    routes := [(0, ⟨[1], 0⟩)] }

/-- Base addresses in v6: in the stash, in memory, in the window of peer 0, in the cellar. -/
def stashRegs : List (Nat × Word) := [(4, 0xAABBCCDD), (6, 0xFFFC0100), (7, 0x01FFFFFF), (8, 1), (9, 0x22)]
def memRegs : List (Nat × Word) := [(4, 0xAABBCCDD), (6, 0x4000), (8, 0x11), (9, 0x22)]
def cellarRegs : List (Nat × Word) := [(4, 0xAABBCCDD), (6, 0x80004000), (8, 0x11), (9, 0x22)]
def peerRegs : List (Nat × Word) := [(4, 0xAABBCCDD), (6, 0x40004000), (8, 0x11), (9, 0x22)]

theorem orderly_of {s : State} {c : Nat} (h : (s.core c).l1 = []) (hm : s.migrations = []) (hl : s.link ≠ .down) : Orderly s c :=
  ⟨by simp [h], by simp [h], by simp [h], by simp [h], by simp [hm], hl⟩

/-- The premises of Passes, tested, with a test of what the checks answer. -/
def passB (cx : Cx) (s : State) (h : How) (own : State → Req → List Piece → Option (Nat × Nat × Nat)) (rs : List Req) (b : Bound)
    (q : State → List (Req × List Piece) → Bool) : Bool :=
  match s.check cx.viewer h (cx.toucher h.label h.reads h.writes) true own rs with
  | .go u ps => !cx.mustWait u h b ps && !u.tears h ps && decide (cx.peerLost u b = none) && (!b.rel || ((s.block? cx.b.bid).map Block.dirty).getD [] = []) &&
      decide ((s.core cx.core).l1 = []) && decide (s.migrations = []) && decide (s.link ≠ .down) && q u ps
  | _ => false

theorem passes_of {cx : Cx} {s : State} {h : How} {own : State → Req → List Piece → Option (Nat × Nat × Nat)} {rs : List Req} {b : Bound}
    {q : State → List (Req × List Piece) → Bool} (e : passB cx s h own rs b q = true) : ∃ u ps, Passes cx s u h own rs ps b ∧ q u ps = true := by
  unfold passB at e
  split at e
  · rename_i u ps hp
    simp only [Bool.and_eq_true, decide_eq_true_eq, Bool.or_eq_true, Bool.not_eq_true'] at e
    obtain ⟨⟨⟨⟨⟨⟨⟨a0, aw⟩, a1⟩, a2⟩, a3⟩, a4⟩, a5⟩, a6⟩ := e
    refine ⟨u, ps, ⟨hp, a0, aw, orderly_of a3 a4 a5, ?_, a1⟩, a6⟩
    intro hb blk hk
    rcases a2 with a2 | a2
    · simp [a2] at hb
    · simpa [hk] using a2
  · cases e

theorem clear_with {num role : Nat} {f : Gang → Gang} {h : State → State} {i : Instr} {P : Cx → State → Prop} (e : ready num role f h i = true)
    (p : P (cxAt i (world i num role f h)) (world i num role f h)) : ∃ cx s, Clear i cx s ∧ P cx s := ⟨_, _, clear_ready e, p⟩

theorem formed_with {i : Instr} {s : State} {P : Cx → State → Prop} (e : formedB i (cxAt i s) s = true) (p : P (cxAt i s) s) :
    ∃ cx s, Formed i cx s ∧ P cx s := ⟨_, _, formed_of e, p⟩

theorem valid_with {i : Instr} {s : State} {P : Cx → State → Prop} (e : validB i (cxAt i s) s = true) (p : P (cxAt i s) s) :
    ∃ cx s, Valid i cx s ∧ P cx s := ⟨_, _, valid_of e, p⟩

/-- The premises of Idle, tested. -/
def idleB (i : Instr) (cx : Cx) (s : State) : Bool :=
  validB i cx s && decide (cx.illegal s i = none) && decide (cx.tooEarly s i = none) && decide (cx.predicateSplit s i = 0) && decide (cx.perform = 0)

theorem idle_of {i : Instr} {cx : Cx} {s : State} (h : idleB i cx s = true) : Idle i cx s := by
  unfold idleB at h
  simp only [Bool.and_eq_true, decide_eq_true_eq] at h
  exact ⟨valid_of h.1.1.1.1, h.1.1.1.2, fun _ => h.1.1.2, fun _ => h.1.2, h.2⟩

/-- The instruction is predicated by v0. -/
def predicated (g : Gang) : Gang :=
  { g with tree := g.tree.modSplit 0 (fun x => { x with packet := x.packet.map (fun p => { p with w0 := p.w0 &&& 0xC00FFFFF }) }) }

/-- Registers by key. -/
def withRegs (xs : List (Nat × Word)) (g : Gang) : Gang := { g with regs := xs.foldl (fun m e => Tab.put m e.1 e.2) [] }
/-- A register of every lane. -/
def inAll (n : Nat) (w : Word) (g : Gang) : Gang := { g with regs := (List.range 32).foldl (fun m l => Tab.put m (vKey l n) w) g.regs }

/-! ### Decoding (R72 to R77): the word of each form, written out from the encoding tables, decodes to the form -/

theorem test_decode_vector : ∀ e ∈ vectorForms, decodeSlot e.1 e.2.1 = .ok e.2.2 := by decide
theorem test_decode_uniform : ∀ e ∈ uniformForms, decodeSlot e.1 e.2.1 = .ok e.2.2 := by decide
theorem test_decode_lane : ∀ e ∈ laneForms ++ specialForms ++ controlForms, decodeSlot e.1 e.2.1 = .ok e.2.2 := by decide
theorem test_decode_float : ∀ e ∈ floatForms, decodeSlot e.1 e.2.1 = .ok e.2.2 := by decide
theorem test_decode_memory : ∀ e ∈ waitForms ++ memoryForms ++ tileForms, decodeSlot e.1 e.2.1 = .ok e.2.2 := by decide
theorem test_decode_rest : ∀ e ∈ matrixForms ++ copyForms ++ systemForms ++ returnForms, decodeSlot e.1 e.2.1 = .ok e.2.2 := by decide

/-! ### States that meet the hypotheses: lanes, registers, memory -/

theorem witness_integer : ∀ e ∈ vectorForms, (calculated e.2.2).isSome = true ∧ ready 0 0 id id e.2.2 = true := by decide +kernel
theorem witness_uniform : ∀ e ∈ uniformForms, ((vectorForm e.2.2).bind calculated).isSome = true ∧ ready 0 0 id id e.2.2 = true := by
  decide +kernel
theorem witness_IntegerResults : (∃ i c cx s, calculated i = some c ∧ Clear i cx s) ∧
    ∃ i j c cx s, vectorForm i = some j ∧ calculated j = some c ∧ Clear i cx s :=
  ⟨⟨_, _, _, _, rfl, clear_ready (witness_integer (0x00040608, .none, .add 4 6 (.reg 8)) (by decide)).2⟩,
    ⟨_, _, _, _, _, rfl, rfl, clear_ready (witness_uniform (0x80040608, .none, .uAdd 4 6 (.reg 8)) (by decide)).2⟩⟩

/-- The floating-point computation of an instruction. -/
def floats (i : Instr) : Option FCalc := (single i).or ((double i).or ((packed i).or ((special i).or (converted i))))

theorem witness_float : ∀ e ∈ floatForms, (floats e.2.2).isSome = true ∧ ready 0 0 id id e.2.2 = true := by decide +kernel

theorem witness_FloatResults : ∃ i c cx s,
    (single i = some c ∨ double i = some c ∨ packed i = some c ∨ special i = some c ∨ converted i = some c) ∧ Clear i cx s ∧
      ∀ p ∈ cx.lanes, c.enabled cx s p = 0 :=
  ⟨.faddF32 4 6 (.reg 8), _, _, _, .inl rfl, clear_ready (witness_float (0x30040608, .none, .faddF32 4 6 (.reg 8)) (by decide)).2,
    by decide +kernel⟩

/-- 0 / 0 in lane 0, with every exception enabled. -/
theorem witness_FloatTraps : ∃ i c cx s,
    (single i = some c ∨ double i = some c ∨ packed i = some c ∨ special i = some c ∨ converted i = some c) ∧ Clear i cx s ∧
      ∃ p ∈ cx.lanes, ∃ k < 5, (c.enabled cx s p).testBit k = true :=
  ⟨.fdivF32 4 6 (.reg 8), _, _, _, .inl rfl, clear_ready (num := 0) (role := 0) (f := fun g => { lane0 [] g with ftrap := 31 }) (h := id)
    (by decide +kernel), by decide +kernel⟩

theorem witness_lane : ∀ e ∈ laneForms, ready 0 0 id id e.2.2 = true := by decide +kernel

theorem witness_Shuffles : ∃ i x cx s, exchange i = some x ∧ Clear i cx s :=
  ⟨.xchAt 4 6 (.reg 8), _, _, _, rfl, clear_ready (witness_lane (0x28040608, .none, .xchAt 4 6 (.reg 8)) (by decide))⟩

theorem witness_LaneGatherings : (∃ cx s, Clear (.vmask 4 6) cx s) ∧ (∃ cx s, Clear (.vgroup 4 6) cx s) ∧
    (∃ cx s, Clear (.lred 4 6 2) cx s) ∧ ∃ cx s, Clear (.lred 4 0 8) cx s := by
  have h := witness_lane
  refine ⟨⟨_, _, clear_ready (h (0x2C040600, .none, .vmask 4 6) (by decide))⟩, ⟨_, _, clear_ready (h (0x2D040600, .none, .vgroup 4 6) (by decide))⟩,
    ⟨_, _, clear_ready (h (0x2E040602, .none, .lred 4 6 2) (by decide))⟩,
    ⟨_, _, clear_ready (num := 0) (role := 0) (f := id) (h := id) (by decide +kernel)⟩⟩

/-- In the budget, with the last register, and one past it. -/
theorem witness_IndexedMoves : (∃ cx s, Clear (.movx 4 6 (.reg 8)) cx s ∧ ∀ p ∈ cx.lanes, cx.target s 4 6 p < min 256 cx.g.budget) ∧
    (∃ cx s, Valid (.movx 4 6 (.reg 8)) cx s ∧ cx.perform ≠ 0 ∧ (∀ p ∈ cx.lanes, cx.early (cx.key p 6) = false) ∧
      ∃ p ps, cx.lanes.filter (fun q => cx.g.budget ≤ cx.target s 4 6 q) = p :: ps) ∧
    (∃ cx s, Clear (.movxr 4 6 8) cx s) ∧
    ∃ cx s, Valid (.movxr 4 6 8) cx s ∧ cx.perform ≠ 0 ∧ (∀ p ∈ cx.lanes, cx.early (cx.key p 6) = false) ∧
      ∃ p ps, cx.lanes.filter (fun q => cx.g.budget ≤ cx.target s 8 6 q) = p :: ps :=
  ⟨clear_with (num := 0) (role := 0) (f := withRegs [(vKey 3 6, 251)]) (h := id) (by decide +kernel) (by decide +kernel),
    valid_with (s := world (.movx 4 6 (.reg 8)) 0 0 (withRegs [(vKey 3 6, 252)]) id) (by decide +kernel)
      ⟨by decide +kernel, by decide +kernel, 3, [], by decide +kernel⟩,
    ⟨_, _, clear_ready (num := 0) (role := 0) (f := withRegs [(vKey 3 6, 247)]) (h := id) (by decide +kernel)⟩,
    valid_with (s := world (.movxr 4 6 8) 0 0 (withRegs [(vKey 3 6, 248)]) id) (by decide +kernel)
      ⟨by decide +kernel, by decide +kernel, 3, [], by decide +kernel⟩⟩

theorem witness_special : ∀ e ∈ specialForms, ready 0 0 (withRegs [(6, 1)]) id e.2.2 = true := by decide +kernel

theorem witness_SpecialReads : (∃ cx s, Clear (.sread 4 16) cx s) ∧ (∃ cx s, Clear (.sread 4 0x40) cx s) ∧
    (∃ cx s, Clear (.locq 4 6) cx s) ∧ ∃ cx s, Clear (.emsave 4) cx s :=
  ⟨⟨_, _, clear_ready (witness_special (0x75040010, .none, .sread 4 16) (by decide))⟩,
    ⟨_, _, clear_ready (num := 0) (role := 0) (f := id) (h := id) (by decide +kernel)⟩,
    ⟨_, _, clear_ready (witness_special (0xF1040600, .none, .locq 4 6) (by decide))⟩,
    ⟨_, _, clear_ready (witness_special (0xAA040000, .none, .emsave 4) (by decide))⟩⟩

/-- emset, and swrite of emask, of lane 1 and of no lane. -/
theorem witness_SpecialWrites : (∃ cx s, Clear (.swrite 4 34) cx s) ∧
    (∃ cx s, Clear (.emset 6) cx s ∧ (∃ x, Tab.look cx.g.tree.splits cx.place = some x ∧ cx.kept x (cx.rd s cx.lowPhys 6) ≠ 0) ∧
      cx.index = 0 ∧ cx.g.live ≠ 0 ∧ cx.g.layers = []) ∧
    (∃ cx s, Valid (.emset 6) cx s ∧ cx.perform ≠ 0 ∧ cx.early (cx.key cx.lowPhys 6) = false ∧
      ∃ x, Tab.look cx.g.tree.splits cx.place = some x ∧ cx.kept x (cx.rd s cx.lowPhys 6) = 0) ∧
    (∃ cx s, Clear (.swrite 6 0) cx s ∧ (∃ x, Tab.look cx.g.tree.splits cx.place = some x ∧
      cx.kept x (cx.rd s (cx.g.prime (lowLane cx.perform)) 6) ≠ 0) ∧ cx.index = 0 ∧ cx.g.live ≠ 0 ∧ cx.g.layers = []) ∧
    ∃ cx s, Valid (.swrite 6 0) cx s ∧ cx.perform ≠ 0 ∧ cx.early (cx.key (cx.g.prime (lowLane cx.perform)) 6) = false ∧
      ∃ x, Tab.look cx.g.tree.splits cx.place = some x ∧ cx.kept x (cx.rd s (cx.g.prime (lowLane cx.perform)) 6) = 0 :=
  ⟨⟨_, _, clear_ready (witness_special (0x76040022, .none, .swrite 4 34) (by decide))⟩,
    clear_with (num := 0) (role := 0) (f := withRegs [(6, 2)]) (h := id) (by decide +kernel) ⟨⟨_, rfl, by decide +kernel⟩, by decide +kernel⟩,
    valid_with (s := world (.emset 6) 0 0 id id) (by decide +kernel) ⟨by decide +kernel, by decide +kernel, _, rfl, by decide +kernel⟩,
    clear_with (num := 0) (role := 0) (f := withRegs [(6, 2)]) (h := id) (by decide +kernel) ⟨⟨_, rfl, by decide +kernel⟩, by decide +kernel⟩,
    valid_with (s := world (.swrite 6 0) 0 0 id id) (by decide +kernel) ⟨by decide +kernel, by decide +kernel, _, rfl, by decide +kernel⟩⟩

/-- An arrival counter; the last interval number, and one past it; in user code; a set of each kind. -/
theorem witness_Counters :
    (∃ cx s, Clear (.cntrd 4 0) cx s ∧ ∃ t, s.team? cx.b.team = some t) ∧
    (∃ cx s, Clear (.cntrd 4 0x50) cx s ∧ (cx.rd s cx.lowPhys 4).toNat < indexes 0x50 ∧ ∃ t, s.team? cx.b.team = some t) ∧
    (∃ cx s, Valid (.cntrd 4 0x50) cx s ∧ cx.perform ≠ 0 ∧ cx.tooEarly s (.cntrd 4 0x50) = none ∧
      indexes 0x50 ≤ (cx.rd s cx.lowPhys 4).toNat) ∧
    (∃ cx s, Valid (.cntrd 4 0x50) cx s ∧ cx.perform ≠ 0 ∧ cx.tooEarly s (.cntrd 4 0x50) = none ∧
      (cx.rd s cx.lowPhys 4).toNat < indexes 0x50 ∧ cx.g.system = false) ∧
    (∃ cx s, Clear (.cntset 4 15) cx s) ∧ (∃ cx s, Clear (.cntset 4 0x51) cx s) ∧
    (∃ cx s, Valid (.cntset 4 0x51) cx s ∧ cx.perform ≠ 0 ∧ cx.tooEarly s (.cntset 4 0x51) = none ∧ cx.g.system = true ∧
      indexes 0x51 ≤ cx.rd2 s cx.lowPhys 4 / 2 ^ 32) ∧
    ∃ cx s, Valid (.cntset 4 16) cx s ∧ cx.perform ≠ 0 ∧ cx.tooEarly s (.cntset 4 16) = none ∧ cx.g.system = false :=
  ⟨clear_with (num := 0) (role := 0) (f := id) (h := id) (by decide +kernel) ⟨_, rfl⟩,
    clear_with (num := 0) (role := 0) (f := fun g => atSystem (withRegs [(4, 16383)] g)) (h := id) (by decide +kernel)
      ⟨by decide +kernel, _, rfl⟩,
    valid_with (s := world (.cntrd 4 0x50) 0 0 (withRegs [(4, 16384)]) id) (by decide +kernel) (by decide +kernel),
    valid_with (s := world (.cntrd 4 0x50) 0 0 id id) (by decide +kernel) (by decide +kernel),
    ⟨_, _, clear_ready (num := 0) (role := 0) (f := id) (h := id) (by decide +kernel)⟩,
    ⟨_, _, clear_ready (num := 0) (role := 0) (f := fun g => atSystem (withRegs [(5, 3)] g)) (h := id) (by decide +kernel)⟩,
    valid_with (s := world (.cntset 4 0x51) 0 0 (fun g => atSystem (withRegs [(5, 4)] g)) id) (by decide +kernel) (by decide +kernel),
    valid_with (s := world (.cntset 4 16) 0 0 id id) (by decide +kernel) (by decide +kernel)⟩

/-! ### Control flow and traps -/

theorem witness_PredicatedOff : ∃ i cx s, Instr.isEvent i = false ∧ i.runsEmpty = false ∧ Idle i cx s :=
  ⟨.add 4 6 (.reg 8), cxAt (.add 4 6 (.reg 8)) (world (.add 4 6 (.reg 8)) 0 0 predicated id), world (.add 4 6 (.reg 8)) 0 0 predicated id, rfl, rfl, idle_of (by decide +kernel)⟩

/-- Register v6 of lane 0 is still in flight under the checking scoreboard; a protected gang of 16 lanes. -/
def inFlight (g : Gang) : Gang := { g with check := true, fly := [⟨vKey 0 6, 0, 100⟩] }
def doubled (g : Gang) : Gang :=
  { g with prot := true, tree := { g.tree.modSplit 0 (fun x => { x with mask := 0xFFFF }) with rootExpect := 0xFFFF } }

/-- A shift count out of range; a register past the budget; a copy in a compute gang; an early read; a system instruction in user code;
a predicate that is true in one copy of lane 0. -/
theorem witness_DecodeFaults :
    (∃ s cx, cxOf (.shli 4 6 32) s = some cx ∧ (Instr.shli 4 6 32).wellFormed = false) ∧
    (∃ s cx, cxOf (.add 4 6 (.reg 8)) s = some cx ∧ (Instr.add 4 6 (.reg 8)).regs.findSome? cx.badReg = some 8) ∧
    (∃ cx s, Valid (.copy 4 6 8) cx s ∧ cx.perform ≠ 0 ∧ cx.illegal s (.copy 4 6 8) = none ∧
      (Instr.copy 4 6 8).admits.role cx.g.role = false) ∧
    (∃ cx s, Valid (.add 4 6 (.reg 8)) cx s ∧ cx.perform ≠ 0 ∧ cx.illegal s (.add 4 6 (.reg 8)) = none ∧
      (Instr.add 4 6 (.reg 8)).admits.role cx.g.role = true ∧ (cx.tooEarly s (.add 4 6 (.reg 8))).isSome = true) ∧
    (∃ cx s, Valid .tlbinvAll cx s ∧ cx.perform ≠ 0 ∧ cx.illegal s .tlbinvAll = none ∧ Instr.tlbinvAll.admits.role cx.g.role = true ∧
      cx.tooEarly s .tlbinvAll = none ∧ cx.g.system = false) ∧
    ∃ cx s, Valid (.add 4 6 (.reg 8)) cx s ∧ cx.perform ≠ 0 ∧ cx.illegal s (.add 4 6 (.reg 8)) = none ∧
      (Instr.add 4 6 (.reg 8)).admits.role cx.g.role = true ∧ cx.tooEarly s (.add 4 6 (.reg 8)) = none ∧
      cx.predicateSplit s (.add 4 6 (.reg 8)) = 1 ∧ lanesOf (1 : Mask) = [0] :=
  ⟨⟨world (.add 4 6 (.reg 8)) 0 0 id id, _, rfl, rfl⟩,
    ⟨world (.add 4 6 (.reg 8)) 0 0 (fun g => { g with budget := 8 }) id, _, rfl, by decide +kernel⟩,
    valid_with (s := world (.copy 4 6 8) 0 0 id id) (by decide +kernel) (by decide +kernel),
    valid_with (s := world (.add 4 6 (.reg 8)) 0 0 inFlight id) (by decide +kernel) (by decide +kernel),
    valid_with (s := world .tlbinvAll 0 0 id id) (by decide +kernel) (by decide +kernel),
    valid_with (s := world (.add 4 6 (.reg 8)) 0 0 (fun g => doubled (withRegs [(vKey 0 0, 1)] (predicated g))) id) (by decide +kernel)
      (by decide +kernel)⟩

theorem witness_control : ∀ e ∈ controlForms, ready 0 0 id id e.2.2 = true := by decide +kernel

/-- Half of the lanes take a branch; lanes with two targets; one target for all. -/
def half (g : Gang) : Gang := withRegs ((List.range 16).map (fun l => (vKey l 0, 1))) (predicated g)
def twoTargets (g : Gang) : Gang := withRegs ((List.range 32).map (fun l => (vKey l 6, if l < 4 then 0x4004 else 0x4008))) g
/-- Two splits of eight lanes under a record whose join PC is that of the packet, with the given lanes arrived; and with one split. -/
def joining (arrived : Mask) (n : Nat) (g : Gang) : Gang :=
  { g with
    exited := 0xFFFF0000
    tree := { g.tree with
      splits := (g.tree.splits.map (fun (e : Nat × Split) => (e.1, { e.2 with mask := 0xFF, rec_ := 1 })) ++
        g.tree.splits.map (fun (e : Nat × Split) => (1, { e.2 with mask := 0xFF00, rec_ := 1, packet := none }))).take n
      recs := [(2, ⟨1, 0, 0x10004, 0xFFFF, arrived, 0, 0, [], false, 0, 0, false⟩)]
      rootExpect := 0xFFFF } }

/-- What the branch clauses ask of a tree. -/
def branchable (cx : Cx) : Prop :=
  cx.index = 0 ∧ (∃ x, Tab.look cx.g.tree.splits cx.place = some x ∧ x.park = .ready) ∧ cx.place < 8 ∧ cx.g.tree.roomy

theorem roomy_of {t : Tree} (h : t.splits.length + t.recs.length ≤ 64) (hs : Tab.wf t.splits) (hr : t.recs = []) : t.roomy :=
  ⟨fun _ => .inr (by simp [hr]), h, hs, by simp [hr, Tab.wf]⟩

theorem roomy_apart {t : Tree} {p q : Nat} (hs : t.splits.map Prod.fst = [p]) (hr : t.recs.map Prod.fst = [q]) (h : p ≠ q) : t.roomy := by
  obtain ⟨ss, rs, e, a⟩ := t
  obtain ⟨⟨p', x⟩, rfl, rfl⟩ := List.map_eq_singleton_iff.mp hs
  obtain ⟨⟨q', r⟩, rfl, rfl⟩ := List.map_eq_singleton_iff.mp hr
  refine ⟨fun k => ?_, by simp, by simp [Tab.wf], by simp [Tab.wf]⟩
  by_cases hk : k = p'
  · exact .inr (by subst hk; simp [Tab.look, Ne.symm h])
  · exact .inl (by simp [Tab.look, Ne.symm hk])

theorem branchable_world (i : Instr) (f : Gang → Gang) (h : State → State) (hx : ((cxAt i (world i 0 0 f h)).index = 0 ∧
    ((Tab.look (cxAt i (world i 0 0 f h)).g.tree.splits (cxAt i (world i 0 0 f h)).place).map Split.park) = some .ready ∧
    (cxAt i (world i 0 0 f h)).place < 8 ∧ (cxAt i (world i 0 0 f h)).g.tree.splits.length = 1 ∧
    (cxAt i (world i 0 0 f h)).g.tree.recs = [])) : branchable (cxAt i (world i 0 0 f h)) := by
  obtain ⟨h1, h2, h3, h4, h5⟩ := hx
  obtain ⟨x, hx, hp⟩ := Option.map_eq_some_iff.mp h2
  refine ⟨h1, ⟨x, hx, hp⟩, h3, roomy_of (by simp [h4, h5]) ?_ h5⟩
  obtain ⟨e, he⟩ := List.length_eq_one_iff.mp h4
  simp [he, Tab.wf]

theorem witness_Branches :
    (∃ cx s, Idle (.bra 5 2) cx s) ∧
    (∃ cx s, Clear (.bra 5 2) cx s ∧ cx.rest = 0) ∧ (∃ cx s, Clear (.bra 5 2) cx s ∧ cx.rest ≠ 0 ∧ branchable cx) ∧
    (∃ cx s, Clear (.bra 5 0) cx s ∧ cx.rest ≠ 0 ∧ branchable cx) ∧
    (∃ cx s, Clear (.brx true 6 (.reg 8)) cx s ∧ cx.targetSplit s 6 cx.perform = 0 ∧
      ∃ p ps, (lanesOf cx.perform).filter (fun l => s.pcInvalid cx.viewer (BitVec.ofNat 64 (cx.rd2 s (cx.g.prime l) 6))) = p :: ps) ∧
    (∃ cx s, Clear (.brx false 6 (.reg 0)) cx s ∧ cx.targetSplit s 6 cx.perform = 0 ∧ cx.rest = 0 ∧
      ∀ l ∈ lanesOf cx.perform, s.pcInvalid cx.viewer (BitVec.ofNat 64 (cx.rd2 s (cx.g.prime l) 6)) = false ∧
        cx.rd2 s (cx.g.prime l) 6 = 0x4004) ∧
    ∃ cx s, Clear (.brx true 6 (.lit32 3)) cx s ∧ (cx.targetSplit s 6 cx.perform = 0 ∧
      (∀ l ∈ lanesOf cx.perform, s.pcInvalid cx.viewer (BitVec.ofNat 64 (cx.rd2 s (cx.g.prime l) 6)) = false) ∧
      ∃ l ∈ lanesOf cx.perform, cx.rd2 s (cx.g.prime l) 6 ≠ cx.rd2 s (cx.g.prime (lowLane cx.perform)) 6) ∧ branchable cx :=
  ⟨⟨cxAt (.bra 5 2) (world (.bra 5 2) 0 0 predicated id), world (.bra 5 2) 0 0 predicated id, idle_of (by decide +kernel)⟩,
    clear_with (num := 0) (role := 0) (f := id) (h := id) (by decide +kernel) (by decide +kernel),
    clear_with (num := 0) (role := 0) (f := half) (h := id) (by decide +kernel)
      ⟨by decide +kernel, branchable_world _ _ _ (by decide +kernel)⟩,
    clear_with (num := 0) (role := 0) (f := half) (h := id) (by decide +kernel)
      ⟨by decide +kernel, branchable_world _ _ _ (by decide +kernel)⟩,
    clear_with (num := 0) (role := 0) (f := withRegs [(vKey 3 6, 1)]) (h := id) (by decide +kernel) ⟨by decide +kernel, 0, _, rfl⟩,
    clear_with (num := 0) (role := 0) (f := inAll 6 0x4004) (h := paged) (by decide +kernel) (by decide +kernel),
    clear_with (num := 0) (role := 0) (f := twoTargets) (h := paged) (by decide +kernel)
      ⟨by decide +kernel, branchable_world _ _ _ (by decide +kernel)⟩⟩

theorem witness_Calls : (∃ cx s, Clear (.call 5 2) cx s) ∧
    (∃ cx s, Clear (.ret 6) cx s ∧ cx.targetSplit s 6 (maskOf [cx.low]) = 0 ∧
      s.pcInvalid cx.viewer (BitVec.ofNat 64 (cx.rd2 s cx.lowPhys 6)) = true) ∧
    ∃ cx s, Clear (.ret 6) cx s ∧ cx.targetSplit s 6 (maskOf [cx.low]) = 0 ∧
      s.pcInvalid cx.viewer (BitVec.ofNat 64 (cx.rd2 s cx.lowPhys 6)) = false :=
  ⟨⟨_, _, clear_ready (witness_control (0xA2005002, .none, .call 5 2) (by decide))⟩,
    clear_with (num := 0) (role := 0) (f := id) (h := id) (by decide +kernel) (by decide +kernel),
    clear_with (num := 0) (role := 0) (f := withRegs [(6, 0x4004)]) (h := paged) (by decide +kernel) (by decide +kernel)⟩

/-- A tree at the join PC of its only record, as a join or joinw in place 0 finds it. -/
def atRecord (arrived : Mask) (n : Nat) (i : Instr) (cx : Cx) (s : State) : Prop :=
  Clear i cx s ∧ cx.body = none ∧ Tab.wf cx.g.tree.splits ∧ cx.place = 0 ∧
    cx.g.tree.recs = [(2, ⟨1, 0, 0x10004, 0xFFFF, arrived, 0, 0, [], false, 0, 0, false⟩)] ∧ cx.pc = 0x10004 ∧
    (Tab.look cx.g.tree.splits 0).map (fun x => (x.rec_, x.mask)) = some (1, 0xFF) ∧ cx.g.tree.splits.length = n

theorem witness_atRecord : ∀ i ∈ [Instr.join, .joinw 4 7], (∃ cx s, atRecord 0 2 i cx s) ∧ ∃ cx s, atRecord 0xFF00 1 i cx s := by
  have h : ∀ i ∈ [Instr.join, .joinw 4 7], ∀ e ∈ [((0 : Mask), 2), (0xFF00, 1)],
      let s := world i 0 0 (joining e.1 e.2) id
      let cx := cxAt i s
      ready 0 0 (joining e.1 e.2) id i = true ∧ cx.body = none ∧ (cx.g.tree.splits.map Prod.fst).Pairwise (· < ·) ∧ cx.place = 0 ∧
        cx.g.tree.recs = [(2, ⟨1, 0, 0x10004, 0xFFFF, e.1, 0, 0, [], false, 0, 0, false⟩)] ∧ cx.pc = 0x10004 ∧
        (Tab.look cx.g.tree.splits 0).map (fun x => (x.rec_, x.mask)) = some (1, 0xFF) ∧ cx.g.tree.splits.length = e.2 := by decide +kernel
  intro i hi
  have a := h i hi (0, 2) (by decide)
  have b := h i hi (0xFF00, 1) (by decide)
  exact ⟨⟨_, _, clear_ready a.1, a.2⟩, _, _, clear_ready b.1, b.2⟩

/-- Away from a join PC; at it, with the others still to come, and as the last (witness_atRecord); and a record that fuses alone. -/
theorem witness_Joins :
    (∃ cx s, Clear .join cx s ∧ cx.g.tree.recs = []) ∧ (∃ cx s, Clear (.joinw 4 7) cx s ∧ cx.g.tree.recs = []) ∧
    ∃ (t : Tree) (p : Nat) (r : JoinRec), Tab.wf t.splits ∧ t.splits.length + t.recs.length ≤ 64 ∧ t.recs = [(p, r)] ∧ t.fate r = .fuse :=
  ⟨clear_with (num := 0) (role := 0) (f := id) (h := id) (by decide +kernel) (by decide +kernel),
    clear_with (num := 0) (role := 0) (f := id) (h := id) (by decide +kernel) (by decide +kernel),
    ⟨[], [(2, ⟨1, 0, 0x10004, 0xFFFF, 0xFFFF, 0, 0, [], false, 0, 0, false⟩)], 0xFFFF, 0⟩, 2, _, by simp [Tab.wf], by decide, rfl,
    by decide +kernel⟩

/-- No lane exits; some; all. -/
theorem witness_Exits :
    (∃ cx s, Idle .exit cx s) ∧
    (∃ cx s, Clear .exit cx s ∧ cx.index = 0 ∧ cx.g.live &&& ~~~cx.perform = 0) ∧
    ∃ cx s, Clear .exit cx s ∧ cx.index = 0 ∧ cx.g.ended = false ∧ cx.g.live &&& ~~~cx.perform ≠ 0 ∧ cx.rest ≠ 0 ∧ cx.g.role ≠ 1 ∧ cx.g.layers = [] :=
  ⟨⟨cxAt .exit (world .exit 0 0 predicated id), world .exit 0 0 predicated id, idle_of (by decide +kernel)⟩,
    clear_with (num := 0) (role := 0) (f := id) (h := id) (by decide +kernel) (by decide +kernel),
    clear_with (num := 0) (role := 0) (f := half) (h := id) (by decide +kernel) (by decide +kernel)⟩

theorem witness_Pauses : ∀ i ∈ [Instr.nop, .yield, .sleep 0, .sleep 65535], ready 0 0 id id i = true ∧
    (cxAt i (world i 0 0 id id)).index = 0 ∧ (Tab.look (cxAt i (world i 0 0 id id)).g.tree.splits 0).isSome = true := by decide +kernel

/-- Lane 0 runs a loop with one helper, in a given iteration, and further helpers in theirs; the helper stands where the split does. -/
def looping (l : Loop) (iter : Option Nat) (more : List Nat) (g : Gang) : Gang :=
  let p := (Tab.look g.tree.splits 0).bind Split.packet
  { lane0 [] g with
    recruits := [(0, ⟨⟨1, 0, 5, iter, 0x10004, p, 0, false, false, 0, 0⟩ ::
      more.map (fun k => ⟨k, 0, 5 + k, some k, 0x10004, p, 0, false, false, 0, 0⟩), some l⟩)] }
def loopOf (count taken : Nat) : Loop := ⟨100, 3, count, taken, 0, [], 0, 0, 0x10004, 0x10004, some 0, 0, 0, 0, false, [], [], 0⟩
/-- Lane 0 has recruited lanes that run no loop yet. -/
def recruited (n : Nat) (xs : List (Nat × Word)) (g : Gang) : Gang :=
  { lane0 xs g with recruits := [(0, ⟨(List.range n).map (fun k => ⟨k + 1, 0, 5 + k, none, 0, none, 0, false, false, 0, 0⟩), none⟩)] }
/-- The helper of lane 0 issues. -/
def asHelper (s : State) : State := { s with issue := some ⟨0, 0, .helper 0 1⟩ }

/-- The issuing split's trap; one of a gang with a helper in an iteration; a helper's. -/
theorem witness_TrapEntry :
    (∃ (cx : Cx) (b : Block) (s : State), s.gang? cx.gid = some cx.g ∧ s.block? cx.g.bid = some b ∧ cx.index = 0 ∧
      cx.g.helpersBusy = false ∧ cx.g.opsBusy = false) ∧
    (∃ (cx : Cx) (s : State), s.gang? cx.gid = some cx.g ∧ cx.index = 0 ∧ cx.g.helpersBusy = true ∧ cx.g.pending = none) ∧
    ∃ (cx : Cx) (s : State), s.gang? cx.gid = some cx.g ∧ cx.index ≠ 0 ∧ cx.body = some 0 ∧
      ∃ r, Tab.look cx.g.recruits 0 = some r ∧ (∃ h, r.helpers.find? (fun h => h.index = cx.index) = some h) ∧ ∃ l, r.loop = some l := by
  refine ⟨⟨cxAt .nop (world .nop 0 0 id id), _, world .nop 0 0 id id, by decide +kernel, rfl, by decide +kernel⟩,
    ⟨cxAt .nop (world .nop 0 0 (looping (loopOf 4 2) (some 1) []) id), world .nop 0 0 (looping (loopOf 4 2) (some 1) []) id, by decide +kernel⟩,
    cxAt .nop (world .nop 0 0 (looping (loopOf 4 2) (some 1) []) asHelper), world .nop 0 0 (looping (loopOf 4 2) (some 1) []) asHelper,
    by decide +kernel, by decide +kernel, by decide +kernel, _, rfl, ⟨_, rfl⟩, _, rfl⟩

/-- A delegated cause, with a good and a bad tvec; one that is not delegated; one in a handler of either level. -/
theorem witness_Handled :
    (∃ (cx : Cx) (s : State), cx.g.inHandler = false ∧ cx.g.tdeleg.getLsbD 5 = true ∧ cx.g.tvec ≠ 0 ∧
      s.pcInvalid ⟨cx.asid, cx.core, cx.bid, cx.g.system⟩ cx.g.tvec = false) ∧
    (∃ (cx : Cx) (s : State), cx.g.inHandler = false ∧ cx.g.tdeleg.getLsbD 5 = true ∧ cx.g.tvec ≠ 0 ∧
      s.pcInvalid ⟨cx.asid, cx.core, cx.bid, cx.g.system⟩ cx.g.tvec = true) ∧
    (∃ cx : Cx, cx.g.inHandler = false ∧ cx.g.tdeleg = 0) ∧ (∃ cx : Cx, cx.g.inHandler = true ∧ cx.g.system = false) ∧
    ∃ cx : Cx, cx.g.inHandler = true ∧ cx.g.system = true :=
  ⟨⟨cxAt .nop (world .nop 0 0 (fun g => { g with tdeleg := 32, tvec := 0x4004 }) paged), world .nop 0 0 id paged, by decide +kernel⟩,
    ⟨cxAt .nop (world .nop 0 0 (fun g => { g with tdeleg := 32, tvec := 0x4005 }) id), world .nop 0 0 id id, by decide +kernel⟩,
    ⟨cxAt .nop (world .nop 0 0 id id), by decide +kernel⟩,
    ⟨cxAt .nop (world .nop 0 0 (fun g => { inHandler g with system := false }) id), by decide +kernel⟩,
    ⟨cxAt .nop (world .nop 0 0 inHandler id), by decide +kernel⟩⟩

theorem witness_TrapsAndReturns :
    (∀ i ∈ [Instr.trap 5, .brk 65535], ready 0 0 id id i = true ∧ (cxAt i (world i 0 0 id id)).index = 0 ∧
      (cxAt i (world i 0 0 id id)).g.helpersBusy = false ∧ (cxAt i (world i 0 0 id id)).g.opsBusy = false ∧ ((world i 0 0 id id).block? 0).isSome = true) ∧
    (∀ i ∈ [Instr.tretRetry, .tretSkip, .tretEnd], let s := world i 0 0 (fun g => { inHandler g with tpc := 0x4004 }) paged
      let cx := cxAt i s
      ready 0 0 (fun g => { inHandler g with tpc := 0x4004 }) paged i = true ∧ (cx.g.layers = [⟨Tree.start (BitVec.allOnes 32) 0x10004 0, 0, false⟩]) ∧
        s.block? cx.g.bid = some cx.b ∧ cx.g.ldas = [] ∧
        s.pcInvalid cx.viewer (if i = .tretRetry then cx.g.tpc else cx.skipPc s) = false) ∧
    ∃ cx s, Clear .tretRetry cx s ∧ s.pcInvalid cx.viewer cx.g.tpc = true :=
  ⟨by decide +kernel, by decide +kernel,
    clear_with (num := 0) (role := 0) (f := fun g => { inHandler g with tpc := 0x4002 }) (h := id) (by decide +kernel) (by decide +kernel)⟩

/-! ### Helper loops -/

/-- A request for two lanes, and one from a split of 32 lanes; a release; a loop of one lane without and with iterations, and outside of
the body of one lane. -/
theorem witness_HelperLoops :
    (∃ cx s, Clear (.uRecruit 4 6) cx s ∧ (lanesOf cx.active).length = 1) ∧
    (∃ cx s, Clear (.uRecruit 4 6) cx s ∧ (lanesOf cx.active).length ≠ 1) ∧ (∃ cx s, Clear .uHrel cx s) ∧
    (∃ cx s, Formed (.uHloop 3 6 (.reg 8)) cx s ∧ (lanesOf cx.active).length ≠ 1) ∧
    (∃ cx s, Clear (.uHloop 3 6 (.reg 8)) cx s ∧ (lanesOf cx.active).length = 1 ∧ cx.body = none ∧
      ((⟨cx, s⟩ : Lanes).src cx.lowPhys (.reg 8)).toNat = 0 ∧ (Tab.look cx.g.tree.splits cx.place).map Split.park = some .ready) ∧
    ∃ cx s, Clear (.uHloop 3 6 (.reg 8)) cx s ∧ (lanesOf cx.active).length = 1 ∧ cx.body = none ∧
      ((⟨cx, s⟩ : Lanes).src cx.lowPhys (.reg 8)).toNat = 2 ∧
      (((Tab.look cx.g.recruits cx.low).map Recruit.helpers).getD []).map (fun h => (h.index, h.iter, h.released)) =
        [(1, none, false), (2, none, false)] :=
  ⟨clear_with (num := 0) (role := 0) (f := lane0 [(6, 2)]) (h := id) (by decide +kernel) (by decide +kernel),
    clear_with (num := 0) (role := 0) (f := id) (h := id) (by decide +kernel) (by decide +kernel),
    ⟨_, _, clear_ready (num := 0) (role := 0) (f := recruited 2 []) (h := id) (by decide +kernel)⟩,
    formed_with (s := world (.uHloop 3 6 (.reg 8)) 0 0 id id) (by decide +kernel) (by decide +kernel),
    clear_with (num := 0) (role := 0) (f := recruited 2 []) (h := id) (by decide +kernel) (by decide +kernel),
    clear_with (num := 0) (role := 0) (f := recruited 2 [(6, 10), (7, 3), (8, 2)]) (h := id) (by decide +kernel) (by decide +kernel)⟩

/-- What every clause of a join at its PC asks. -/
def atJoin (cx : Cx) : Prop :=
  ∃ hs l, cx.body = some 0 ∧ Tab.look cx.g.recruits 0 = some ⟨hs, some l⟩ ∧ cx.pc = l.jpc ∧ cx.g.phys 0 = [0] ∧ cx.active = maskOf [0] ∧
    cx.g.dead = 0 ∧ l.acc.length ≤ 1

/-- An add is given, with no enabled exception; a sum of signalling NaNs raises one. -/
theorem witness_contributions : Contributes 1 0 2 3 5 0 ∧ ∃ v e, Contributes 2 0 0x7F800001 0 v e ∧ e &&& 31 ≠ 0 :=
  ⟨⟨by decide, rfl⟩, _, _, ⟨rfl, rfl⟩, by decide +kernel⟩

theorem witness_LoopJoins :
    (∃ cx s, Formed (.uHjoin 4 6 1) cx s ∧ cx.loop = none) ∧
    (∃ cx s, Clear (.uHjoin 4 6 1) cx s ∧ atJoin cx ∧ cx.index = 0 ∧ cx.loop.map (fun l => (l.heldIters, l.taken, l.count)) = some ([], 2, 4)) ∧
    (∃ cx s, Clear (.uHjoin 4 6 1) cx s ∧ atJoin cx ∧ cx.index = 0 ∧ cx.loop.map (fun l => (l.heldIters, l.taken, l.count)) = some ([], 2, 2) ∧
      (cx.g.recruits.map (fun r => r.2.helpers.map Helper.iter)) = [[some 1]]) ∧
    (∃ cx s, Clear (.uHjoin 4 6 1) cx s ∧ atJoin cx ∧ cx.index = 0 ∧ cx.loop.map (fun l => (l.heldIters, l.taken, l.count)) = some ([], 2, 2) ∧
      (cx.g.recruits.map (fun r => r.2.helpers.map Helper.iter)) = [[none]] ∧ cx.g.tree.splits.map Prod.fst = [cx.place]) ∧
    ∃ cx s, Clear (.uHjoin 4 6 1) cx s ∧ atJoin cx ∧ cx.index = 1 ∧ cx.loop.map (fun l => (l.stopped, l.taken, l.count)) = some (false, 3, 4) ∧
      (cx.g.recruits.map (fun r => r.2.helpers.map (fun h => (h.index, h.iter.isSome, h.released)))) = [[(1, true, false), (2, true, false)]] :=
  ⟨formed_with (s := world (.uHjoin 4 6 1) 0 0 id id) (by decide +kernel) (by decide +kernel),
    clear_with (num := 0) (role := 0) (f := looping (loopOf 4 2) (some 1) []) (h := id) (by decide +kernel)
      ⟨⟨_, _, by decide +kernel, rfl, by decide +kernel⟩, by decide +kernel⟩,
    clear_with (num := 0) (role := 0) (f := looping (loopOf 2 2) (some 1) []) (h := id) (by decide +kernel)
      ⟨⟨_, _, by decide +kernel, rfl, by decide +kernel⟩, by decide +kernel⟩,
    clear_with (num := 0) (role := 0) (f := looping (loopOf 2 2) none []) (h := id) (by decide +kernel)
      ⟨⟨_, _, by decide +kernel, rfl, by decide +kernel⟩, by decide +kernel⟩,
    clear_with (num := 0) (role := 0) (f := looping (loopOf 4 3) (some 1) [2]) (h := asHelper) (by decide +kernel)
      ⟨⟨_, _, by decide +kernel, rfl, by decide +kernel⟩, by decide +kernel⟩⟩

/-! ### Memory, barriers and waits -/

/-- The test of a load: its checks pass. -/
def loadB (i : Instr) (cx : Cx) (s : State) : Bool :=
  (loadForm i).any (fun m => passB cx s (loadHow m.x) noOwn (cx.reqs s m.uniform m.a m.x.offset (2 ^ m.x.size.toNat))
    (labelBound m.x.label.toNat m.x.scope.toNat) (fun _ _ => true))

/-- Loads of every size, plain, sign-extended and acquiring, from the stash and from memory. -/
theorem witness_load_tests : (∀ i ∈ [Instr.ld 4 6 ⟨16, 1, 3, 1, 0, 1⟩, .uLd 4 6 ⟨16, 0, 0, 3, 0, 0⟩, .ld 4 6 ⟨0, 0, 0, 4, 0, 0⟩],
      ready 0 0 (lane0 stashRegs) id i = true ∧ loadB i (cxAt i (world i 0 0 (lane0 stashRegs) id)) (world i 0 0 (lane0 stashRegs) id) = true) ∧
    ∀ i ∈ [Instr.ld 4 6 ⟨0, 0, 3, 2, 0, 0⟩, .ld 4 6 ⟨3, 0, 0, 0, 0, 1⟩], ready 0 0 (lane0 memRegs) paged i = true ∧
      loadB i (cxAt i (world i 0 0 (lane0 memRegs) paged)) (world i 0 0 (lane0 memRegs) paged) = true := by decide +kernel

theorem witness_Loads : ∃ i m cx s u ps, loadForm i = some m ∧ Clear i cx s ∧
    Passes cx s u (loadHow m.x) noOwn (cx.reqs s m.uniform m.a m.x.offset (2 ^ m.x.size.toNat)) ps
      (labelBound m.x.label.toNat m.x.scope.toNat) := by
  have h := witness_load_tests.2 (.ld 4 6 ⟨0, 0, 3, 2, 0, 0⟩) (by decide)
  obtain ⟨u, ps, hp, -⟩ := passes_of (by simpa only [loadB, loadForm, Option.any_some] using h.2)
  exact ⟨_, _, _, _, u, ps, rfl, clear_ready h.1, hp⟩

/-- The test of a store: its checks pass, its data agree in all copies, and no access lies in two places. -/
def storeB (i : Instr) (far : Bool) (cx : Cx) (s : State) : Bool :=
  (storeForm i).any (fun m => passB cx s (storeHow m.x) noOwn (cx.reqs s m.uniform m.a m.x.offset (2 ^ m.x.size.toNat))
    (labelBound m.x.label.toNat m.x.scope.toNat) (fun _ ps =>
      decide (cx.shadowSplit s m.a m.x.offset [(m.d, m.x.regs)] (cx.reqs s m.uniform m.a m.x.offset (2 ^ m.x.size.toNat)) = none) &&
        ps.all (fun e => e.2.all (fun p => decide ((p.data.isNone) = far)))))

theorem witness_store_tests : (∀ i ∈ [Instr.st 4 6 ⟨8, 2, 3, 2, 0, 0⟩, .uSt 4 6 ⟨8, 0, 1, 0, 0, 0⟩],
      ready 0 0 (lane0 stashRegs) id i = true ∧
        storeB i false (cxAt i (world i 0 0 (lane0 stashRegs) id)) (world i 0 0 (lane0 stashRegs) id) = true) ∧
    (∀ i ∈ [Instr.st 4 6 ⟨0, 0, 3, 2, 0, 0⟩], ready 0 0 (lane0 memRegs) paged i = true ∧
      storeB i false (cxAt i (world i 0 0 (lane0 memRegs) paged)) (world i 0 0 (lane0 memRegs) paged) = true) ∧
    ∀ i ∈ [Instr.st 4 6 ⟨0, 0, 4, 2, 0, 0⟩], ready 0 0 (lane0 peerRegs) paged i = true ∧
      storeB i true (cxAt i (world i 0 0 (lane0 peerRegs) paged)) (world i 0 0 (lane0 peerRegs) paged) = true := by decide +kernel

theorem witness_Stores : ∃ i m cx s u ps, storeForm i = some m ∧ Clear i cx s ∧
    Passes cx s u (storeHow m.x) noOwn (cx.reqs s m.uniform m.a m.x.offset (2 ^ m.x.size.toNat)) ps
      (labelBound m.x.label.toNat m.x.scope.toNat) ∧
    cx.shadowSplit s m.a m.x.offset [(m.d, m.x.regs)] (cx.reqs s m.uniform m.a m.x.offset (2 ^ m.x.size.toNat)) = none ∧ Unmixed ps := by
  have h := witness_store_tests.2.1 (.st 4 6 ⟨0, 0, 3, 2, 0, 0⟩) (by decide)
  obtain ⟨u, ps, hp, hq⟩ := passes_of (by simpa only [storeB, storeForm, Option.any_some] using h.2)
  simp only [Bool.and_eq_true, decide_eq_true_eq, List.all_eq_true] at hq
  refine ⟨_, _, _, _, u, ps, rfl, clear_ready h.1, hp, hq.1, fun e he => .inl ?_⟩
  intro p hp hf
  have := hq.2 e he p hp
  simp [Piece.far] at hf
  simp [hf] at this

/-- The test of an atomic; far asks for one access of one piece in a peer's window. -/
def atomB (i : Instr) (far : Bool) (cx : Cx) (s : State) : Bool :=
  (atomForm i).any (fun m =>
    let x := m.form.x
    let rs := cx.reqs s m.form.uniform m.form.a x.offset (2 ^ x.size.toNat)
    passB cx s (atomicHow x) (atomicOwn (2 ^ x.size.toNat) x.size.toNat m.isOp) rs (labelBound x.label.toNat x.scope.toNat) (fun _ ps =>
      decide (cx.shadowSplit s m.form.a x.offset m.data rs = none) && (cx.index = 0) && (match ps with
        | [(r, [p])] => if far then p = ⟨r.va, r.n, .peer (2 ^ 51 + 0x4000)⟩ else p.data.isSome
        | _ => false)))

theorem witness_atom_tests : (∀ i ∈ [Instr.atom 4 6 8 ⟨0, 3, 3, 2, 0, 0⟩, .cas 4 6 8 ⟨0, 7, 3, 3, 0, 0⟩, .uAtom 4 6 8 ⟨0, 4, 3, 3, 0, 1⟩,
        .uCas 4 6 8 ⟨0, 7, 3, 2, 0, 0⟩], ready 0 0 (lane0 stashRegs) id i = true ∧
      atomB i false (cxAt i (world i 0 0 (lane0 stashRegs) id)) (world i 0 0 (lane0 stashRegs) id) = true) ∧
    (∀ i ∈ [Instr.cas2 4 8 12 ⟨0, 1, 1, 4, 0, 0⟩], ready 0 0 (lane0 [(8, 0xFFFC0100), (9, 0x01FFFFFF)]) id i = true ∧
      atomB i false (cxAt i (world i 0 0 (lane0 [(8, 0xFFFC0100), (9, 0x01FFFFFF)]) id)) (world i 0 0 (lane0 [(8, 0xFFFC0100), (9, 0x01FFFFFF)]) id) =
        true) ∧
    ∀ i ∈ [Instr.atom 4 6 8 ⟨0, 4, 4, 2, 0, 0⟩, .cas 4 6 8 ⟨0, 7, 4, 2, 0, 0⟩], ready 0 0 (lane0 peerRegs) paged i = true ∧
      atomB i true (cxAt i (world i 0 0 (lane0 peerRegs) paged)) (world i 0 0 (lane0 peerRegs) paged) = true := by decide +kernel

theorem witness_Atomics : (∃ i m cx s u ps, atomForm i = some m ∧ Clear i cx s ∧
      Passes cx s u (atomicHow m.form.x) (atomicOwn (2 ^ m.form.x.size.toNat) m.form.x.size.toNat m.isOp)
        (cx.reqs s m.form.uniform m.form.a m.form.x.offset (2 ^ m.form.x.size.toNat)) ps
        (labelBound m.form.x.label.toNat m.form.x.scope.toNat) ∧ ∀ e ∈ ps, ∀ p ∈ e.2, ¬ p.far) ∧
    ∃ i m cx s u r, atomForm i = some m ∧ Clear i cx s ∧
      Passes cx s u (atomicHow m.form.x) (atomicOwn (2 ^ m.form.x.size.toNat) m.form.x.size.toNat m.isOp)
        (cx.reqs s m.form.uniform m.form.a m.form.x.offset (2 ^ m.form.x.size.toNat)) [(r, [⟨r.va, r.n, .peer (2 ^ 51 + 0x4000)⟩])]
        (labelBound m.form.x.label.toNat m.form.x.scope.toNat) ∧ cx.index = 0 := by
  constructor
  · have h := witness_atom_tests.1 (.atom 4 6 8 ⟨0, 3, 3, 2, 0, 0⟩) (by decide)
    obtain ⟨u, ps, hp, hq⟩ := passes_of (by simpa only [atomB, atomForm, Option.any_some] using h.2)
    simp only [Bool.and_eq_true] at hq
    refine ⟨_, _, _, _, u, ps, rfl, clear_ready h.1, hp, ?_⟩
    have h2 := hq.2
    split at h2
    · rename_i r p
      intro e he q hq' hf
      simp only [List.mem_singleton] at he
      subst he
      simp only [List.mem_singleton] at hq'
      subst hq'
      simp [Piece.far] at hf
      simp [hf] at h2
    · cases h2
  · have h := witness_atom_tests.2.2 (.atom 4 6 8 ⟨0, 4, 4, 2, 0, 0⟩) (by decide)
    obtain ⟨u, ps, hp, hq⟩ := passes_of (by simpa only [atomB, atomForm, Option.any_some] using h.2)
    simp only [Bool.and_eq_true] at hq
    have h2 := hq.2
    split at h2
    · rename_i r p
      simp only [if_true, decide_eq_true_eq] at h2
      subst h2
      exact ⟨_, _, _, _, u, r, rfl, clear_ready h.1, hp, by simpa using hq.1.2⟩
    · cases h2

theorem any_some {α : Type} {o : Option α} {p : α → Bool} (h : o.any p = true) : ∃ m, o = some m ∧ p m = true := by
  cases o with
  | none => cases h
  | some m => exact ⟨m, rfl, h⟩

/-- The premises of OwnWords, in a state without marks, locks or split-phase loads, tested; and the copies of a gang that has one. -/
def ownB (cx : Cx) (s : State) (rs : List Req) : Bool :=
  rs.all (fun r => decide (localBase ≤ r.va ∧ r.va + r.n ≤ localBase + localSize) && cx.b.direct (r.va - localBase) r.n) &&
    decide (cx.b.absent = []) && decide ((s.core cx.core).locks = []) && decide (s.marks = []) && decide (cx.g.ldas = []) &&
    !s.remoteOut cx.core && decide ((s.core cx.core).peerDropped = none)

theorem own_of {cx : Cx} {s : State} {rs : List Req} (h : ownB cx s rs = true) : OwnWords cx s rs := by
  simp only [ownB, Bool.and_eq_true, decide_eq_true_eq, List.all_eq_true, Bool.not_eq_true'] at h
  obtain ⟨⟨⟨⟨⟨⟨h1, h2⟩, h3⟩, h4⟩, h5⟩, hr⟩, h6⟩ := h
  have hm : ∀ w, s.mark w = Mark.empty := fun w => by simp [State.mark, Tab.getD, h4]
  exact ⟨fun r hr => (h1 r hr).1, fun r hr => (h1 r hr).2, by simp [h2], by simp [h3], fun r _ w _ => by simp [hm, Mark.empty],
    fun r _ w _ y hy => by simp [hm, Mark.empty] at hy, h5, hr, h6⟩

/-- Completion of ld, u.ld, atom, cas, cas2, u.atom and u.cas on the block's own stash. -/
theorem witness_own_words :
    (∀ i ∈ [Instr.ld 4 6 ⟨0, 0, 3, 2, 0, 0⟩, .ld 4 6 ⟨1, 0, 0, 2, 0, 0⟩, .uLd 4 6 ⟨16, 0, 0, 3, 0, 0⟩], ∃ m cx s, loadForm i = some m ∧
      Clear i cx s ∧ OwnWords cx s (cx.reqs s m.uniform m.a m.x.offset (2 ^ m.x.size.toNat)) ∧
      (m.x.label ≠ 0 → ∀ r ∈ cx.reqs s m.uniform m.a m.x.offset (2 ^ m.x.size.toNat), r.va % 2 ^ m.x.size.toNat = 0)) ∧
    ∀ i ∈ [Instr.atom 4 6 8 ⟨0, 3, 3, 2, 0, 0⟩, .cas 4 6 8 ⟨0, 7, 0, 3, 0, 0⟩, .uAtom 4 6 8 ⟨0, 4, 3, 3, 0, 1⟩, .uCas 4 6 8 ⟨0, 7, 3, 2, 0, 0⟩,
        .cas2 4 6 12 ⟨0, 1, 1, 4, 0, 0⟩], ∃ m cx s, atomForm i = some m ∧ Clear i cx s ∧
      let rs := cx.reqs s m.form.uniform m.form.a m.form.x.offset (2 ^ m.form.x.size.toNat)
      OwnWords cx s rs ∧ (∀ r ∈ rs, r.va % 2 ^ m.form.x.size.toNat = 0) ∧ cx.copiesAgree s m.form.a m.form.x.offset m.data rs ∧
        rs.length = 1 := by
  have hl : ∀ i ∈ [Instr.ld 4 6 ⟨0, 0, 3, 2, 0, 0⟩, .ld 4 6 ⟨1, 0, 0, 2, 0, 0⟩, .uLd 4 6 ⟨16, 0, 0, 3, 0, 0⟩],
      ready 0 0 (lane0 stashRegs) id i = true ∧ (loadForm i).any (fun m =>
        let s := world i 0 0 (lane0 stashRegs) id
        let cx := cxAt i s
        let rs := cx.reqs s m.uniform m.a m.x.offset (2 ^ m.x.size.toNat)
        ownB cx s rs && decide (m.x.label ≠ 0 → ∀ r ∈ rs, r.va % 2 ^ m.x.size.toNat = 0)) = true := by decide +kernel
  have ha : ∀ i ∈ [Instr.atom 4 6 8 ⟨0, 3, 3, 2, 0, 0⟩, .cas 4 6 8 ⟨0, 7, 0, 3, 0, 0⟩, .uAtom 4 6 8 ⟨0, 4, 3, 3, 0, 1⟩,
        .uCas 4 6 8 ⟨0, 7, 3, 2, 0, 0⟩, .cas2 4 6 12 ⟨0, 1, 1, 4, 0, 0⟩],
      ready 0 0 (lane0 stashRegs) id i = true ∧ (atomForm i).any (fun m =>
        let s := world i 0 0 (lane0 stashRegs) id
        let cx := cxAt i s
        let rs := cx.reqs s m.form.uniform m.form.a m.form.x.offset (2 ^ m.form.x.size.toNat)
        ownB cx s rs && decide (∀ r ∈ rs, r.va % 2 ^ m.form.x.size.toNat = 0) && decide (rs.length = 1) &&
          decide (∀ r ∈ rs, cx.g.phys r.vis = [r.phys])) = true := by decide +kernel
  constructor
  · intro i hi
    obtain ⟨h1, h2⟩ := hl i hi
    obtain ⟨m, hm, h⟩ := any_some h2
    simp only [Bool.and_eq_true, decide_eq_true_eq] at h
    exact ⟨m, _, _, hm, clear_ready h1, own_of h.1, h.2⟩
  · intro i hi
    obtain ⟨h1, h2⟩ := ha i hi
    obtain ⟨m, hm, h⟩ := any_some h2
    simp only [Bool.and_eq_true, decide_eq_true_eq] at h
    refine ⟨m, _, _, hm, clear_ready h1, own_of h.1.1.1, h.1.1.2, ?_, h.1.2⟩
    intro r hr p hp
    rw [h.2 r hr] at hp
    rw [List.mem_singleton.mp hp]
    exact ⟨rfl, fun _ _ => rfl⟩

/-- An atomic of system scope on the cellar, which the host performs (R293). -/
theorem witness_host_atomic : ∃ cx s u r ps, Clear (.atom 4 6 8 ⟨0, 4, 4, 2, 0, 0⟩) cx s ∧
    Passes cx s u (atomicHow ⟨0, 4, 4, 2, 0, 0⟩) (atomicOwn 4 2 true) (cx.reqs s false 6 0 4) [(r, ps)] (labelBound 4 4) ∧
      (∀ p ∈ ps, ¬ p.far) ∧ s.hostAtomic (atomicHow ⟨0, 4, 4, 2, 0, 0⟩) ps = true := by
  have h : ready 0 0 (lane0 cellarRegs) paged (.atom 4 6 8 ⟨0, 4, 4, 2, 0, 0⟩) = true ∧
      passB (cxAt (.atom 4 6 8 ⟨0, 4, 4, 2, 0, 0⟩) (world (.atom 4 6 8 ⟨0, 4, 4, 2, 0, 0⟩) 0 0 (lane0 cellarRegs) paged))
        (world (.atom 4 6 8 ⟨0, 4, 4, 2, 0, 0⟩) 0 0 (lane0 cellarRegs) paged) (atomicHow ⟨0, 4, 4, 2, 0, 0⟩) (atomicOwn 4 2 true)
        ((cxAt (.atom 4 6 8 ⟨0, 4, 4, 2, 0, 0⟩) (world (.atom 4 6 8 ⟨0, 4, 4, 2, 0, 0⟩) 0 0 (lane0 cellarRegs) paged)).reqs
          (world (.atom 4 6 8 ⟨0, 4, 4, 2, 0, 0⟩) 0 0 (lane0 cellarRegs) paged) false 6 0 4) (labelBound 4 4)
        (fun _ ps => match ps with
          | [(_, [p])] => decide (p.place = .cellar (2 ^ 40 + 0x4000) 0)
          | _ => false) = true := by decide +kernel
  obtain ⟨u, ps, hp, hq⟩ := passes_of h.2
  split at hq
  · rename_i r p
    rw [decide_eq_true_eq] at hq
    refine ⟨_, _, u, r, [p], clear_ready h.1, hp, ?_, ?_⟩
    · intro q hq' hf
      rw [List.mem_singleton.mp hq'] at hf
      simp [Piece.far, Piece.data, hq] at hf
    · simp [State.hostAtomic, isCellarPiece, hq, atomicHow]
  · cases hq

/-- The answer of a load's or a store's checks. -/
def checked (i : Instr) (cx : Cx) (s : State) : Option Checked :=
  ((loadForm i).or (storeForm i)).map (fun m =>
    let h := if (loadForm i).isSome then loadHow m.x else storeHow m.x
    s.check cx.viewer h (cx.toucher h.label h.reads h.writes) true noOwn (cx.reqs s m.uniform m.a m.x.offset (2 ^ m.x.size.toNat)))

/-- A load from a peer's window; one without a translation; a store that no lane's copies disagree on, misaligned. -/
theorem witness_AccessFaults :
    (∃ cx s, Clear (.ld 4 6 ⟨0, 0, 0, 2, 0, 0⟩) cx s ∧ ∃ u f, checked (.ld 4 6 ⟨0, 0, 0, 2, 0, 0⟩) cx s = some (.fault u f) ∧ f.cause = 9) ∧
    (∃ cx s, Clear (.ld 4 6 ⟨0, 0, 0, 2, 0, 0⟩) cx s ∧
      ∃ u va l r a lanes, checked (.ld 4 6 ⟨0, 0, 0, 2, 0, 0⟩) cx s = some (.untranslated u va l r a lanes)) ∧
    (∃ cx s, Clear (.ld 4 6 ⟨0, 0, 0, 2, 0, 0⟩) cx s ∧ ∃ u, checked (.ld 4 6 ⟨0, 0, 0, 2, 0, 0⟩) cx s = some (.wait u)) ∧
    ∃ cx s, Clear (.st 4 6 ⟨1, 2, 0, 2, 0, 0⟩) cx s ∧
      (cx.reqs s false 6 1 4).filter (fun r => r.va % (storeHow ⟨1, 2, 0, 2, 0, 0⟩).align ≠ 0) ≠ [] ∧
      cx.shadowSplit s 6 1 [(4, 1)] (cx.reqs s false 6 1 4) = none :=
  ⟨clear_with (num := 0) (role := 0) (f := lane0 peerRegs) (h := paged) (by decide +kernel) ⟨_, ⟨9, 1, 0x40004000, 0⟩, by rfl, rfl⟩,
    clear_with (num := 0) (role := 0) (f := lane0 memRegs) (h := fun s => { s with identifiers := [] }) (by decide +kernel)
      ⟨_, 0x4000, 0, 0, 0, 1, by rfl⟩,
    clear_with (num := 0) (role := 0) (f := lane0 memRegs) (h := fun s => (paged s).modStack 0 (fun k => { k with retraining := true }))
      (by decide +kernel) ⟨_, by rfl⟩,
    clear_with (num := 0) (role := 0) (f := lane0 memRegs) (h := paged) (by decide +kernel) (by decide +kernel)⟩

/-- A load in flight with one word still to come, of two. -/
def flightOf (pending : List (Nat × Nat)) : Lda := ⟨3, 2, ⟨0, 0, 0, 3, 0, 0⟩, [(0, 4)], [], pending, [(0, [7, 8])], [], [], 0, false, none⟩

theorem witness_SplitPhaseLoads :
    (∃ cx s, Idle (.lda 4 6 2 ⟨0, 0, 0, 2, 0, 0⟩) cx s) ∧
    (∃ cx s, Clear (.lda 4 6 2 ⟨0, 0, 0, 2, 0, 0⟩) cx s ∧ (cx.index = 0 ∧ Orderly s cx.core) ∧
      ∃ u ps, s.check cx.viewer (loadHow ⟨0, 0, 0, 2, 0, 0⟩) (cx.toucher 0 true false) false noOwn (cx.reqs s false 6 0 4) = .go u ps) ∧
    ∀ l ∈ [flightOf [(0, 1)], flightOf [(0, 0), (0, 1)]], ∃ (s : State) (g : Gang) (b : Block), s.gang? (gangId 0 0) = some g ∧ s.block? 0 = some b ∧
      g.ldas = [l] ∧ l.pending.contains (0, 1) = true ∧ Tab.look l.captured (g.prime (g.vis 0)) = some [7, 8] ∧ l.counted = false ∧
      l.held = [] ∧ l.dropped.contains (0, 1) = false := by
  refine ⟨⟨cxAt (.lda 4 6 2 ⟨0, 0, 0, 2, 0, 0⟩) (world (.lda 4 6 2 ⟨0, 0, 0, 2, 0, 0⟩) 0 0 predicated id),
      world (.lda 4 6 2 ⟨0, 0, 0, 2, 0, 0⟩) 0 0 predicated id, idle_of (by decide +kernel)⟩,
    clear_with (num := 0) (role := 0) (f := lane0 memRegs) (h := paged) (by decide +kernel)
      ⟨⟨by decide +kernel, orderly_of (by decide +kernel) (by decide +kernel) (by decide +kernel)⟩, _, _, by rfl⟩, ?_⟩
  intro l hl
  refine ⟨world .nop 0 0 (fun g => { g with ldas := [l] }) id, _, _, rfl, rfl, rfl, ?_⟩
  simp only [List.mem_cons, List.not_mem_nil, or_false] at hl
  rcases hl with rfl | rfl <;> decide +kernel

theorem witness_LineControl :
    (∃ cx s, Clear (.pf 6 ⟨0, 0, 0, 0, 2, 0⟩) cx s ∧ Orderly s cx.core) ∧
    ∀ x ∈ [(⟨0, 0, 0, 0, 0, 0⟩ : Access), ⟨0, 0, 0, 0, 0, 1⟩], ∃ cx s, Clear (.evict 6 x) cx s ∧ Orderly s cx.core ∧
      ∃ r ∈ cx.reqs s false 6 x.offset 1, ∃ va n pa attr, s.address cx.viewer ⟨false, false, false⟩ r.va 1 = .pieces [⟨va, n, .hbm pa attr⟩] ∧
        attr ≠ 2 := by
  refine ⟨clear_with (num := 0) (role := 0) (f := lane0 memRegs) (h := paged) (by decide +kernel)
      (orderly_of (by decide +kernel) (by decide +kernel) (by decide +kernel)), ?_⟩
  intro x hx
  simp only [List.mem_cons, List.not_mem_nil, or_false] at hx
  rcases hx with rfl | rfl <;>
    exact clear_with (num := 0) (role := 0) (f := lane0 memRegs) (h := paged) (by decide +kernel)
      ⟨orderly_of (by decide +kernel) (by decide +kernel) (by decide +kernel), ⟨0, 0, 0x4000, 1⟩, by decide +kernel, 0x4000, 1, 0x4000, 0,
        by rfl, by decide⟩

/-- The stash-map operands; a block with entry 5 over its first 256 bytes; a phase barrier of n arrivals with k to come at offset 256. -/
def mapRegs (g off len : Word) : List (Nat × Word) := [(6, g), (8, off), (9, len)]
def mapped (dirty absent : List Nat) (s : State) : State :=
  { paged s with
    blocks := s.blocks.map (fun (e : Nat × Block) => (e.1, { e.2 with smap := [(5, ⟨0, 0x4000, 0, 256⟩)], dirty := dirty, absent := absent })) }
def barrier (n k : Byte) (s : State) : State := { s with mem := [(stashKey 0 256, n), (stashKey 0 258, k)] }

/-- The premises of Backed, tested. -/
def backedB (cx : Cx) (s : State) (e : Option MapEntry) (ps : List Piece) : Bool :=
  decide (e.bind (s.unbacked cx.b) = none) && !cx.loadsBefore true [(⟨cx.low, cx.lowPhys, 0, 0⟩, [])] && (match cx.checkRange s ps with
    | .ok _ => true
    | _ => false)

theorem backed_of {cx : Cx} {s : State} {e : Option MapEntry} {ps : List Piece} (h : backedB cx s e ps = true) : ∃ u, Backed cx s u e ps := by
  unfold backedB at h
  split at h
  · rename_i u hu
    simp only [Bool.and_eq_true, decide_eq_true_eq, Bool.not_eq_true', Bool.and_true] at h
    exact ⟨u, h.1, h.2, hu⟩
  · simp at h

/-- What a smap of entry 5 rests on: the words of the old entry and of the new region. -/
def smapWords (cx : Cx) (s : State) : List Piece :=
  (((Tab.look cx.b.smap 5).map (fun e => mapPieces cx.b e.s e.l)).getD []) ++
    mapPieces cx.b (cx.rd s cx.lowPhys 8).toNat (cx.rd s cx.lowPhys 9).toNat

/-- A smap: misaligned, out of the block's stash, under a range lock, and at its end; an old entry whose page does not translate; without
and with an entry, sunmap and sflush. -/
theorem witness_StashMapping :
    (∃ cx s, Clear (.smap 6 8 ⟨0, 0, 0, 0, 1, 5⟩) cx s ∧ cx.b.bid = cx.bid ∧ backedB cx s none (smapWords cx s) = true ∧
      cx.address s 6 0 cx.lowPhys % 128 ≠ 0) ∧
    (∃ cx s, Clear (.smap 6 8 ⟨0, 0, 0, 0, 1, 5⟩) cx s ∧ cx.b.bid = cx.bid ∧ backedB cx s none (smapWords cx s) = true ∧
      cx.address s 6 0 cx.lowPhys % 128 = 0 ∧ cx.b.stashNeed < (cx.rd s cx.lowPhys 8).toNat + (cx.rd s cx.lowPhys 9).toNat) ∧
    (∃ cx s, Clear (.smap 6 8 ⟨0, 0, 0, 0, 1, 5⟩) cx s ∧ cx.b.bid = cx.bid ∧ backedB cx s none (smapWords cx s) = true ∧
      cx.address s 6 0 cx.lowPhys % 128 = 0 ∧
      (cx.rd s cx.lowPhys 8).toNat + (cx.rd s cx.lowPhys 9).toNat = cx.b.stashNeed ∧ (cx.rd s cx.lowPhys 8).toNat % 128 = 0 ∧
      (cx.rd s cx.lowPhys 9).toNat = 128 ∧ cx.b.smap = [] ∧ s.rangeLocked cx.b 3968 128 = none) ∧
    (∃ cx s, Clear (.smap 6 8 ⟨0, 0, 0, 0, 1, 5⟩) cx s ∧ cx.b.bid = cx.bid ∧ Tab.look cx.b.smap 5 = some ⟨0, 0x4000, 0, 256⟩ ∧
      (s.unbacked cx.b ⟨0, 0x4000, 0, 256⟩).isSome = true) ∧
    ∀ i ∈ [Instr.sunmap ⟨0, 0, 0, 0, 0, 5⟩, .sflush ⟨0, 0, 0, 0, 0, 5⟩], ready 0 0 (lane0 []) id i = true ∧
      (cxAt i (world i 0 0 (lane0 []) id)).b.smap = [] ∧ ready 0 0 (lane0 []) (mapped [1] []) i = true ∧
      (Tab.look (cxAt i (world i 0 0 (lane0 []) (mapped [1] []))).b.smap 5 = some ⟨0, 0x4000, 0, 256⟩) ∧
      backedB (cxAt i (world i 0 0 (lane0 []) (mapped [1] []))) (world i 0 0 (lane0 []) (mapped [1] [])) (some ⟨0, 0x4000, 0, 256⟩)
        (mapPieces (cxAt i (world i 0 0 (lane0 []) (mapped [1] []))).b 0 256) = true ∧
      ((cxAt i (world i 0 0 (lane0 []) (mapped [1] []))).b.backing 1).bind
        (fun g => (world i 0 0 (lane0 []) (mapped [1] [])).backPa ((cxAt i (world i 0 0 (lane0 []) (mapped [1] []))).b.viewer true) g) =
          some 0x4004 :=
  ⟨clear_with (num := 0) (role := 0) (f := lane0 (mapRegs 0x4001 0 128)) (h := paged) (by decide +kernel) (by decide +kernel),
    clear_with (num := 0) (role := 0) (f := lane0 (mapRegs 0x4000 3968 256)) (h := paged) (by decide +kernel) (by decide +kernel),
    clear_with (num := 0) (role := 0) (f := lane0 (mapRegs 0x4000 3968 128)) (h := paged) (by decide +kernel) (by decide +kernel),
    clear_with (num := 0) (role := 0) (f := lane0 (mapRegs 0x4000 0 128)) (h := fun s => { mapped [1] [] s with identifiers := [] })
      (by decide +kernel) (by decide +kernel),
    by decide +kernel⟩

/-- ObjectAt, tested. -/
def objB (s : State) (core : Nat) (ps : List Piece) (n x : Nat) : Bool :=
  decide ((bytesAt ps).length = n) && (List.range n).all (fun i => match (bytesAt ps)[i]? with
    | some a => decide (s.seen core a = some (BitVec.ofNat 8 (x / 2 ^ (8 * i))))
    | none => true)

theorem objectAt_of {s : State} {core n x : Nat} {ps : List Piece} (h : objB s core ps n x = true) : ObjectAt s core ps n x := by
  simp only [objB, Bool.and_eq_true, decide_eq_true_eq, List.all_eq_true, List.mem_range] at h
  refine ⟨h.1, fun i a hi => ?_⟩
  have hn : i < n := by
    have := (List.getElem?_eq_some_iff.mp hi).1
    omega
  simpa [hi] using h.2 i hn

/-- The premises of a barrier instruction on the object x: its checks pass, with one request. -/
def barB (x : Nat) (n : Nat) (h : How) (own : State → Req → List Piece → Option (Nat × Nat × Nat)) (b : Bound) (cx : Cx) (s : State) : Bool :=
  passB cx s h own (cx.barReq s 6 n) b (fun _ ps => match ps with
    | [(_, p)] => objB s cx.core p n x
    | _ => false)

theorem bar_of {x n : Nat} {h : How} {own : State → Req → List Piece → Option (Nat × Nat × Nat)} {b : Bound} {cx : Cx} {s : State}
    (e : barB x n h own b cx s = true) : ∃ u r ps, Passes cx s u h own (cx.barReq s 6 n) [(r, ps)] b ∧ ObjectAt s cx.core ps n x := by
  obtain ⟨u, ps, hp, hq⟩ := passes_of e
  split at hq
  · rename_i r p
    exact ⟨u, r, p, hp, objectAt_of hq⟩
  · cases hq

/-- An init; an arrival that is not the last and one that is, with a release to the device; a wait for a phase that has and has not
passed; a sync that does and does not complete the phase. -/
theorem witness_PhaseBarriers :
    (∃ cx s, Clear (.barInit 3 6 (.reg 8)) cx s ∧ barB 0 8 (barHow 2 false true 3) (barOwn cx.viewer (fun x => barInitialised x 1))
      ⟨false, false, 3⟩ cx s = true) ∧
    (∃ cx s, Clear (.barArrive 3 6 (.reg 8)) cx s ∧ barB 0x20003 8 (barHow 2 true true 3) (barOwn cx.viewer (fun x => barArrived x 1))
      ⟨true, false, 3⟩ cx s = true) ∧
    (∃ cx s, Clear (.barArrive 3 6 (.reg 8)) cx s ∧ barB 0x10003 8 (barHow 2 true true 3) (barOwn cx.viewer (fun x => barArrived x 1))
      ⟨true, false, 3⟩ cx s = true) ∧
    (∃ cx s, Clear (.barWait 3 6 (.reg 8)) cx s ∧ cx.index = 0 ∧ barB 0x10003 8 (barHow 1 true false 3) noOwn ⟨false, false, 3⟩ cx s = true ∧
      0x10003 / 2 ^ 32 ≠ ((⟨cx, s⟩ : Lanes).src cx.lowPhys (.reg 8)).toNat) ∧
    (∃ cx s, Clear (.barWait 3 6 (.reg 10)) cx s ∧ cx.index = 0 ∧ barB 0x10003 8 (barHow 1 true false 3) noOwn ⟨false, false, 3⟩ cx s = true ∧
      0x10003 / 2 ^ 32 = ((⟨cx, s⟩ : Lanes).src cx.lowPhys (.reg 10)).toNat) ∧
    (∃ cx s, Clear (.barSync 3 6 (.reg 8)) cx s ∧ cx.index = 0 ∧ barB 0x10003 8 (barHow 3 true true 3)
      (barOwn cx.viewer (fun x => barArrived x 1)) ⟨true, false, 3⟩ cx s = true) ∧
    ∃ cx s, Clear (.barSync 3 6 (.reg 8)) cx s ∧ cx.index = 0 ∧ barB 0x20003 8 (barHow 3 true true 3)
      (barOwn cx.viewer (fun x => barArrived x 1)) ⟨true, false, 3⟩ cx s = true :=
  ⟨clear_with (num := 0) (role := 0) (f := lane0 stashRegs) (h := id) (by decide +kernel) (by decide +kernel),
    clear_with (num := 0) (role := 0) (f := lane0 stashRegs) (h := barrier 3 2) (by decide +kernel) (by decide +kernel),
    clear_with (num := 0) (role := 0) (f := lane0 stashRegs) (h := barrier 3 1) (by decide +kernel) (by decide +kernel),
    clear_with (num := 0) (role := 0) (f := lane0 stashRegs) (h := barrier 3 1) (by decide +kernel) (by decide +kernel),
    clear_with (num := 0) (role := 0) (f := lane0 stashRegs) (h := barrier 3 1) (by decide +kernel) (by decide +kernel),
    clear_with (num := 0) (role := 0) (f := lane0 stashRegs) (h := barrier 3 1) (by decide +kernel) (by decide +kernel),
    clear_with (num := 0) (role := 0) (f := lane0 stashRegs) (h := barrier 3 2) (by decide +kernel) (by decide +kernel)⟩

/-- A count of 0, an arrival of more than is pending; and an object in the stash. -/
theorem witness_BarrierFaults :
    (∃ cx s, Clear (.barInit 0 6 (.reg 10)) cx s ∧ ∃ u f, s.check cx.viewer (barHow 2 false true 0) (cx.toucher 2 false true) true
      (barOwn cx.viewer (fun x => barInitialised x 0)) (cx.barReq s 6 8) = .fault u f ∧ f.cause = 0x28 ∧ f.info = 1) ∧
    (∃ cx s, Clear (.barArrive 0 6 (.reg 9)) cx s ∧ ∃ u f, s.check cx.viewer (barHow 2 true true 0) (cx.toucher 2 true true) true
      (barOwn cx.viewer (fun x => barArrived x 0x22)) (cx.barReq s 6 8) = .fault u f ∧ f.cause = 0x28 ∧ f.info = 0x13) ∧
    ∃ (v : Viewer) (t : State) (ps : List Piece), ObjectAt t v.core ps 8 0x20003 ∧ Orderly t v.core ∧ (∀ p ∈ ps, isPeerPiece p = false) ∧
      (ps.map Piece.n).sum = 8 :=
  ⟨clear_with (num := 0) (role := 0) (f := lane0 stashRegs) (h := id) (by decide +kernel) ⟨_, ⟨0x28, 1, 0x01FFFFFFFFFC0100, 1⟩, by rfl, rfl, rfl⟩,
    clear_with (num := 0) (role := 0) (f := lane0 stashRegs) (h := barrier 3 2) (by decide +kernel)
      ⟨_, ⟨0x28, 1, 0x01FFFFFFFFFC0100, 0x13⟩, by rfl, rfl, rfl⟩,
    ⟨0, 0, 0, false⟩, world .nop 0 0 id (barrier 3 2), [⟨localBase + 256, 8, .stash 0 256 0 true⟩], objectAt_of (by decide +kernel),
    orderly_of (by decide +kernel) (by decide +kernel) (by decide +kernel), by decide, by decide⟩

theorem witness_Boundaries : (∃ cx s, Clear (.fence 0) cx s) ∧
    ∀ i ∈ [Instr.uIsplit, .fence 1, .fence 4], let s := world i 0 0 id id
      let cx := cxAt i s
      ready 0 0 id id i = true ∧ cx.peerLost s ⟨true, true, 4⟩ = none ∧ (s.core cx.core).l1 = [] ∧ s.migrations = [] ∧ s.link ≠ .down ∧
        s.block? cx.b.bid = some cx.b ∧ cx.b.dirty = [] ∧ cx.b.opened = false :=
  ⟨⟨_, _, clear_ready (num := 0) (role := 0) (f := id) (h := id) (by decide +kernel)⟩, by decide +kernel⟩

/-- A word that has moved past v9 and one that has not; a counter that has and has not. -/
theorem witness_RingAndCounterWaits :
    (∃ cx s, Clear (.uWaitring 3 6 (.reg 9)) cx s ∧ cx.index = 0 ∧ barB 0x20003 4 (ringHow 3) noOwn ⟨false, true, 3⟩ cx s = true ∧
      (0x20003 + 2 ^ 32 - ((⟨cx, s⟩ : Lanes).src cx.lowPhys (.reg 9)).toNat) % 2 ^ 32 < 2 ^ 31) ∧
    (∃ cx s, Clear (.uWaitring 3 6 (.lit32 0x20004)) cx s ∧ cx.index = 0 ∧ barB 0x20003 4 (ringHow 3) noOwn ⟨false, true, 3⟩ cx s = true ∧
      ¬ (0x20003 + 2 ^ 32 - ((⟨cx, s⟩ : Lanes).src cx.lowPhys (.lit32 0x20004)).toNat) % 2 ^ 32 < 2 ^ 31) ∧
    (∃ cx s, Clear (.waitc 15 0) cx s ∧ cx.index = 0 ∧ (Tab.getD cx.g.acs 15 0).toNat = 0) ∧
    ∃ cx s, Clear (.waitc 15 1) cx s ∧ cx.index = 0 ∧ (Tab.getD cx.g.acs 15 0).toNat = 0 :=
  ⟨clear_with (num := 0) (role := 0) (f := lane0 stashRegs) (h := barrier 3 2) (by decide +kernel) (by decide +kernel),
    clear_with (num := 0) (role := 0) (f := lane0 stashRegs) (h := barrier 3 2) (by decide +kernel) (by decide +kernel),
    clear_with (num := 0) (role := 0) (f := id) (h := id) (by decide +kernel) (by decide +kernel),
    clear_with (num := 0) (role := 0) (f := id) (h := id) (by decide +kernel) (by decide +kernel)⟩

/-- The split of lane 0 is parked. -/
def parked (p : Park) (g : Gang) : Gang := { lane0 [] g with tree := (lane0 [] g).tree.modSplit 0 (fun x => { x with park := p }) }

/-- Gang 0 of block 0 has a split at place 0 that is parked so. -/
def ParkedAt (s : State) (g : Gang) (b : Block) (p : Park) : Prop :=
  s.gang? (gangId 0 0) = some g ∧ s.block? 0 = some b ∧ ∃ x, Tab.look g.tree.splits 0 = some x ∧ x.park = p

/-- A time that has come; a counter at its threshold; a held fault at a counter; a barrier whose phase has passed, and a word that has moved; a resource; a refusal. -/
theorem witness_Wakes :
    (∃ s g b, ParkedAt s g b (.sleep 0) ∧ 0 ≤ s.clock) ∧
    (∃ s g b, ParkedAt s g b (.counter 2 0) ∧ g.ldas = [] ∧ ((Tab.getD g.acs 2 0).toNat % 2 ^ 16 + 2 ^ 16 - 0) % 2 ^ 16 < 2 ^ 15) ∧
    (∃ s g b, ParkedAt s g b (.counter 2 0) ∧ ∃ l ∈ g.ldas, l.counter = 2 ∧ l.held ≠ [] ∧ l.counted = true ∧ l.taken = none) ∧
    (∃ s g b ps, ParkedAt s g b (.barrier (localBase + 256) 1 0) ∧ s.watched b (localBase + 256) 8 = some ps ∧ ObjectAt s b.core ps 8 0x20003 ∧
      Orderly s b.core ∧ (∀ p ∈ ps, isPeerPiece p = false) ∧ 0x20003 / 2 ^ 32 ≠ 1 ∧ s.boundaryWaits b = false) ∧
    (∃ s g b ps, ParkedAt s g b (.ring (localBase + 256) 0x20003 0) ∧ s.watched b (localBase + 256) 4 = some ps ∧
      ObjectAt s b.core ps 4 0x20003 ∧ Orderly s b.core ∧ (∀ p ∈ ps, isPeerPiece p = false) ∧
      (0x20003 + 2 ^ 32 - 0x20003) % 2 ^ 32 < 2 ^ 31) ∧
    (∃ s g b, ParkedAt s g b .resource) ∧ ∃ s g b, ParkedAt s g b (.refused 0x4000 1) ∧ g.pending = none := by
  refine ⟨⟨world .nop 0 0 (parked (.sleep 0)) id, _, _, ⟨rfl, rfl, _, rfl, rfl⟩, Nat.zero_le _⟩,
    ⟨world .nop 0 0 (parked (.counter 2 0)) id, _, _, ⟨rfl, rfl, _, rfl, rfl⟩, rfl, by decide +kernel⟩,
    ⟨world .nop 0 0 (fun g => { parked (.counter 2 0) g with ldas := [{ flightOf [] with held := [(0, ⟨8, 1, 0, 0, []⟩)], counted := true }] }) id, _, _,
      ⟨rfl, rfl, _, rfl, rfl⟩, _, List.mem_singleton.mpr rfl, by decide⟩,
    ⟨world .nop 0 0 (parked (.barrier (localBase + 256) 1 0)) (barrier 3 2), _, _, [⟨localBase + 256, 8, .stash 0 256 0 true⟩],
      ⟨rfl, rfl, _, rfl, rfl⟩, by rfl, objectAt_of (by decide +kernel),
      orderly_of (by decide +kernel) (by decide +kernel) (by decide +kernel), by decide, by decide, by decide +kernel⟩,
    ⟨world .nop 0 0 (parked (.ring (localBase + 256) 0x20003 0)) (barrier 3 2), _, _, [⟨localBase + 256, 4, .stash 0 256 0 true⟩],
      ⟨rfl, rfl, _, rfl, rfl⟩, by rfl, objectAt_of (by decide +kernel),
      orderly_of (by decide +kernel) (by decide +kernel) (by decide +kernel), by decide, by decide⟩,
    ⟨world .nop 0 0 (parked .resource) id, _, _, rfl, rfl, _, rfl, rfl⟩,
    ⟨world .nop 0 0 (parked (.refused 0x4000 1)) id, _, _, ⟨rfl, rfl, _, rfl, rfl⟩, rfl⟩⟩

/-- A protected gang of which visible lane 0 is live, its two copies with registers of their own. -/
def copied (xs : List (Nat × Word)) (g : Gang) : Gang := { lane0 xs g with prot := true }

/-- The copies of lane 0 name addresses that differ; and name one, and bring data that differ; of a store and of an atomic. -/
theorem witness_shadow : ∀ i ∈ [Instr.st 4 6 ⟨0, 0, 0, 2, 0, 0⟩, .atom 4 6 8 ⟨0, 3, 0, 2, 0, 0⟩],
    ∃ (m : MemForm) (data : List (Reg × Nat)), (storeForm i = some m ∧ data = [(m.d, m.x.regs)] ∨ ∃ f, atomForm i = some f ∧ m = f.form ∧ data = f.data) ∧
      (∃ cx s, Clear i cx s ∧ cx.g.prot = true ∧ cx.g.role ≠ 2 ∧
        (cx.reqs s m.uniform m.a m.x.offset (2 ^ m.x.size.toNat)).filter
          (fun r => (cx.g.phys r.vis).any (fun p => cx.address s m.a m.x.offset p ≠ cx.address s m.a m.x.offset r.phys)) ≠ []) ∧
      ∃ cx s, Clear i cx s ∧ cx.g.prot = true ∧ cx.g.role ≠ 2 ∧
        (∀ r ∈ cx.reqs s m.uniform m.a m.x.offset (2 ^ m.x.size.toNat), ∀ p ∈ cx.g.phys r.vis,
          cx.address s m.a m.x.offset p = cx.address s m.a m.x.offset r.phys) ∧
        (cx.reqs s m.uniform m.a m.x.offset (2 ^ m.x.size.toNat)).filter
          (fun r => (cx.g.phys r.vis).any (fun p => data.map (fun e => cx.rdn s p e.1.toNat e.2) ≠ data.map (fun e => cx.rdn s r.phys e.1.toNat e.2))) ≠ [] := by
  intro i hi
  simp only [List.mem_cons, List.not_mem_nil, or_false] at hi
  rcases hi with rfl | rfl
  · refine ⟨_, _, .inl ⟨rfl, rfl⟩, ?_, ?_⟩
    · exact clear_with (num := 0) (role := 0) (f := copied [(6, 0x4000), (vKey 1 6, 0x4004)]) (h := paged) (by decide +kernel) (by decide +kernel)
    · exact clear_with (num := 0) (role := 0) (f := copied [(6, 0x4000), (vKey 1 6, 0x4000), (4, 1)]) (h := paged) (by decide +kernel) (by decide +kernel)
  · refine ⟨_, _, .inr ⟨_, rfl, rfl, rfl⟩, ?_, ?_⟩
    · exact clear_with (num := 0) (role := 0) (f := copied [(6, 0x4000), (vKey 1 6, 0x4004)]) (h := paged) (by decide +kernel) (by decide +kernel)
    · exact clear_with (num := 0) (role := 0) (f := copied [(6, 0x4000), (vKey 1 6, 0x4000), (8, 1)]) (h := paged) (by decide +kernel) (by decide +kernel)

/-- A mapped word behind which the cellar lies, with the link down. -/
theorem witness_lost_word : ∃ cx s, Clear (.sunmap ⟨0, 0, 0, 0, 0, 5⟩) cx s ∧ Tab.look cx.b.smap 5 = some ⟨0, 0x80004000, 0, 256⟩ ∧
    backedB cx s (some ⟨0, 0x80004000, 0, 256⟩) (mapPieces cx.b 0 256) = true ∧
    cx.b.dirty.filter (fun w => 0 ≤ 4 * w && 4 * w < 256) = [1] ∧
    (cx.b.backing 1).bind (fun g => s.backPa (cx.b.viewer true) g) = some (2 ^ 40 + 0x4004) ∧ s.link = .down :=
  clear_with (num := 0) (role := 0) (f := lane0 []) (h := fun s => { paged s with
      link := .down
      blocks := s.blocks.map (fun (e : Nat × Block) => (e.1, { e.2 with smap := [(5, ⟨0, 0x80004000, 0, 256⟩)], dirty := [1] })) })
    (by decide +kernel) (by decide +kernel)

/-- The checks of a barrier instruction on the object x, but for its own, pass with one request. -/
def barrierB (label x : Nat) (reads : Bool) (cx : Cx) (s : State) : Bool :=
  match s.check cx.viewer (barHow label reads true 0) (cx.toucher label reads true) true noOwn (cx.barReq s 6 8) with
  | .go _ [(_, ps)] => objB s cx.core ps 8 x && ps.all (fun p => p.data.isSome)
  | _ => false

/-- Every reason of 0x28: a count of 0 or above 65,535, an object in a phase that has begun, one that is not initialised, an arrival of 0
or of more than is pending. -/
theorem witness_barrier_reasons :
    (∃ cx s, Clear (.barInit 0 6 (.reg 10)) cx s ∧ barrierB 2 0 false cx s = true ∧ ((⟨cx, s⟩ : Lanes).src cx.lowPhys (.reg 10)).toNat = 0) ∧
    (∃ cx s, Clear (.barInit 0 6 (.lit32 0x10000)) cx s ∧ barrierB 2 0 false cx s = true) ∧
    (∃ cx s, Clear (.barInit 0 6 (.reg 8)) cx s ∧ barrierB 2 0x20003 false cx s = true) ∧
    (∃ cx s, Clear (.barArrive 0 6 (.reg 8)) cx s ∧ barrierB 2 0 true cx s = true) ∧
    (∃ cx s, Clear (.barArrive 0 6 (.reg 10)) cx s ∧ barrierB 2 0x20003 true cx s = true ∧ ((⟨cx, s⟩ : Lanes).src cx.lowPhys (.reg 10)).toNat = 0) ∧
    (∃ cx s, Clear (.barSync 0 6 (.reg 8)) cx s ∧ barrierB 3 0 true cx s = true) ∧
    ∃ cx s, Clear (.barSync 0 6 (.reg 9)) cx s ∧ barrierB 3 0x20003 true cx s = true ∧ ((⟨cx, s⟩ : Lanes).src cx.lowPhys (.reg 9)).toNat = 0x22 :=
  ⟨clear_with (num := 0) (role := 0) (f := lane0 stashRegs) (h := id) (by decide +kernel) (by decide +kernel),
    clear_with (num := 0) (role := 0) (f := lane0 stashRegs) (h := id) (by decide +kernel) (by decide +kernel),
    clear_with (num := 0) (role := 0) (f := lane0 stashRegs) (h := barrier 3 2) (by decide +kernel) (by decide +kernel),
    clear_with (num := 0) (role := 0) (f := lane0 stashRegs) (h := id) (by decide +kernel) (by decide +kernel),
    clear_with (num := 0) (role := 0) (f := lane0 stashRegs) (h := barrier 3 2) (by decide +kernel) (by decide +kernel),
    clear_with (num := 0) (role := 0) (f := lane0 stashRegs) (h := id) (by decide +kernel) (by decide +kernel),
    clear_with (num := 0) (role := 0) (f := lane0 stashRegs) (h := barrier 3 2) (by decide +kernel) (by decide +kernel)⟩

/-- A word of a loop's frame that has been fetched, to which the reply comes. -/
theorem witness_frame_reply : ∃ (s : State) (g : Gang) (b : Block) (l : Lda), s.gang? (gangId 0 0) = some g ∧ s.block? 0 = some b ∧
    g.ldas = [l] ∧ l.pending.contains (0, 1) = true ∧ Tab.look l.captured (g.prime (g.vis 0)) = some [7, 8] ∧ l.counted = false ∧
    l.held = [] ∧ l.dropped.contains (0, 1) = false ∧ frameLane (l.key (0, 1)) = some 0 :=
  ⟨world .nop 0 0 (fun g => { g with ldas := [{ flightOf [(0, 1)] with keys := [(0, hKey 0 0 0 4)] }] }) id, _, _, _, rfl, rfl, rfl, by decide +kernel⟩

/-! ### Events of gangs -/

/-- A loop whose helper has left a faulted iteration; a split that a quad can select, starved or not; a record whose timer has run out; a
mapped line that waits for its first touch. -/
def faulted : Loop :=
  { loopOf 4 4 with
    iter0 := none
    heldIters := [⟨2, 1, ⟨0x05, 1, 0x10004, 3, 4, 200⟩, [(0, 11), (1, 22)], 0⟩] }
def waiting (g : Gang) : Gang := { looping faulted none [] g with tree := (looping faulted none [] g).tree.modSplit 0 (fun y => { y with park := .loop }) }
def selecting (starve : Nat) : State :=
  world .nop 0 0 (fun g => { g with tree := g.tree.modSplit 0 (fun x => { x with starve := starve }) })
    (fun s => { s with
      issue := none
      turns := [0] })
def timedOut (g : Gang) : Gang :=
  let t := (joining 0xFF 2 g).tree
  { joining 0xFF 2 g with
    tree := { t with
      splits := t.splits.drop 1
      recs := t.recs.map (fun (e : Nat × JoinRec) => (e.1, { e.2 with armed := true, wmask := 0xFF, wregs := [(0, 4), (1, 5)] })) } }
def touched (s : State) : State :=
  { mapped [] [0, 1] s with blocks := (mapped [] [0, 1] s).blocks.map (fun (e : Nat × Block) => (e.1, { e.2 with fills := [0] })) }

theorem witness_HelperEvents :
    (∃ (s : State) (g : Gang) (b : Block), s.gang? (gangId 0 0) = some g ∧ g.pending = some ⟨5, 1, 0x10004, 3, 4, 0⟩ ∧ g.helpersBusy = false ∧ g.opsBusy = false ∧
      s.block? g.bid = some b ∧ g.inHandler = false ∧ g.tdeleg.getLsbD 5 = false) ∧
    (∃ (s : State) (g : Gang) (b : Block) (r : Recruit) (l : Loop) (h : HeldIter) (x : Split), s.gang? (gangId 0 0) = some g ∧ g.pending = none ∧
      g.inHandler = false ∧ s.block? g.bid = some b ∧ g.tdeleg.getLsbD 0x20 = false ∧ g.recruits = [(0, r)] ∧ r.loop = some l ∧ l.heldIters = [h] ∧
      l.iter0 = none ∧ (∀ y ∈ r.helpers, y.iter = none) ∧ g.tree.splits = [(0, x)] ∧ x.park = .loop ∧ x.mask = maskOf [0] ∧
      (h.frame.map Prod.fst).Nodup) ∧
    ∃ (s : State) (g : Gang) (b : Block) (x : Split), s.gang? (gangId 0 0) = some g ∧ s.block? 0 = some b ∧ g.ended = false ∧
      Tab.look g.tree.splits 0 = some x ∧ x.park = .ready := by
  refine ⟨⟨world .nop 0 0 (fun g => { g with pending := some ⟨5, 1, 0x10004, 3, 4, 0⟩ }) id, _, _, rfl, rfl, by rfl, by rfl, rfl, by rfl, by decide +kernel⟩,
    ⟨world .nop 0 0 waiting id, _, _, _, _, _, _, rfl, by rfl, by rfl, rfl, by decide +kernel, rfl, rfl, rfl, by rfl, by decide +kernel, rfl, rfl,
      by decide +kernel, by decide +kernel⟩,
    ⟨world .nop 0 0 id id, _, _, _, rfl, rfl, rfl, rfl, rfl⟩⟩

theorem witness_SplitEvents :
    (∀ n ∈ [0, 1024], ∃ c : Cand, (selecting n).turns.contains 0 = true ∧ (selecting n).selectable 0 0 = [c] ∧ c.who = ⟨0, 0, .split 0⟩ ∧
      c.starve = n ∧ ((selecting n).gang? (gangId 0 0)).isSome = true) ∧
    (∃ (s : State) (g : Gang) (b : Block) (r : JoinRec), s.gang? (gangId 0 0) = some g ∧ s.block? 0 = some b ∧ g.tree.recs = [(2, r)] ∧
      r.armed = true ∧ r.timer ≤ s.cycle b.core - r.armedAt ∧ r.arrived ≠ 0 ∧ r.expect_ &&& ~~~r.arrived ≠ 0 ∧
      r.arrived ||| r.aside ≠ r.expect_ ∧ g.tree.roomy ∧ ((s.team? b.team).map Team.frozen).getD false = false) ∧
    ∃ (s : State) (b : Block) (e : MapEntry) (s1 : State), s.block? 0 = some b ∧ 0 ∈ b.fills ∧ b.mapEntry (128 * 0) = some e ∧
      s.backPa (b.viewer true) (e.g + (128 * 0 - e.s)) = some 0x4000 ∧ s.atHome b.asid e.hint (0x4000 / 128) = some s1 ∧ Orderly s b.core := by
  refine ⟨?_, ⟨world .nop 0 0 timedOut id, _, _, _, rfl, rfl, rfl, by rfl, by decide +kernel, by decide +kernel, by decide +kernel,
      by decide +kernel, roomy_apart (p := 1) (q := 2) (by rfl) (by rfl) (by decide), by rfl⟩,
    ⟨world .nop 0 0 id touched, _, _, _, rfl, by decide +kernel, rfl, by rfl, by rfl,
      orderly_of (by decide +kernel) (by decide +kernel) (by decide +kernel)⟩⟩
  intro n hn
  simp only [List.mem_cons, List.not_mem_nil, or_false] at hn
  rcases hn with rfl | rfl
  · exact ⟨⟨⟨0, 0, .split 0⟩, 2, 0, 0, 0, 0, false⟩, by decide +kernel⟩
  · exact ⟨⟨⟨0, 0, .split 0⟩, 2, 0, 0, 0, 1024, false⟩, by decide +kernel⟩

/-- A frame with a load on its way: the join waits. -/
theorem witness_join_waits : ∃ cx s, Clear (.uHjoin 4 6 1) cx s ∧ atJoin cx ∧ cx.index = 0 ∧
    cx.loop.map (fun l => (l.heldIters, l.taken, l.count)) = some ([], 2, 2) ∧
    cx.g.recruits.map (fun r => r.2.helpers.map Helper.iter) = [[none]] ∧ cx.g.frameLoads 0 = true ∧ s.block? cx.g.bid = some cx.b :=
  clear_with (num := 0) (role := 0) (f := fun g => { looping (loopOf 2 2) none [] g with
      ldas := [{ flightOf [(0, 1)] with keys := [(0, hKey 0 0 0 4)], captured := [] }] }) (h := id) (by decide +kernel)
    ⟨⟨_, _, by decide +kernel, rfl, by decide +kernel⟩, by decide +kernel⟩

/-- A request of a gang that has one live lane: its other 31 lanes are free. One that four active recruitments refuse. -/
theorem witness_recruit : (∃ cx s, Clear (.uRecruit 4 6) cx s ∧ (lanesOf cx.active).length = 1 ∧ cx.g.prot = false ∧ cx.g.role ≠ 2 ∧
      cx.g.inHandler = false ∧ cx.body = none ∧ cx.gid = gangId cx.b.bid cx.g.num ∧ cx.b.gangs.Nodup ∧
      let freed := s.modGang cx.gid (fun g => g.dropReserved (maskOf [cx.low]))
      freed.recruitments cx.core (cx.g.num % 4) < 4 ∧
        ∃ free : List (Nat × Nat), free.Nodup ∧ free.length = 31 ∧ ∀ e, e ∈ free ↔ cx.grantable freed e) ∧
    ∃ cx s, Clear (.uRecruit 4 6) cx s ∧ (lanesOf cx.active).length = 1 ∧
      4 ≤ (s.modGang cx.gid (fun g => g.dropReserved (maskOf [cx.low]))).recruitments cx.core (cx.g.num % 4) := by
  constructor
  · refine clear_with (num := 0) (role := 0) (f := lane0 [(6, 2)]) (h := id) (by decide +kernel) ⟨by decide +kernel, by decide +kernel,
      by decide +kernel, by decide +kernel, by decide +kernel, by decide +kernel, by decide +kernel, by decide +kernel,
      (List.range 31).map (fun i => (0, i + 1)), by decide, by decide, ?_⟩
    generalize hcx : cxAt (.uRecruit 4 6) (world (.uRecruit 4 6) 0 0 (lane0 [(6, 2)]) id) = cx
    generalize hs : (world (.uRecruit 4 6) 0 0 (lane0 [(6, 2)]) id).modGang cx.gid (fun g => g.dropReserved (maskOf [cx.low])) = s
    have h1 : cx.b.gangs = [0] ∧ cx.g.num = 0 ∧ cx.b.bid = 0 ∧ s.lentLanes cx.b 0 = [] ∧
        (s.gang? (gangId 0 0)).map (fun x => (x.dmask, x.exited)) = some (0, 0xFFFFFFFE) := by
      subst hs; subst hcx; decide +kernel
    obtain ⟨hb, hn, hi, hl, hx⟩ := h1
    obtain ⟨x, hg, hd⟩ := Option.map_eq_some_iff.mp hx
    simp only [Prod.mk.injEq] at hd
    have hm : ∀ l, 1 ≤ l → l < 32 → (0xFFFFFFFE#32).getLsbD l = true := by decide +kernel
    rintro ⟨n, l⟩
    constructor
    · intro h
      obtain ⟨i, hi', he⟩ := List.mem_map.mp h
      simp only [Prod.mk.injEq, List.mem_range] at he hi'
      obtain ⟨rfl, rfl⟩ := he
      exact ⟨x, by rw [hi]; exact hg, by simp; omega, by simp [hd.1], by simp [hl], .inl ⟨hn.symm, by rw [hd.2]; exact hm _ (by omega) (by omega)⟩⟩
    · rintro ⟨y, hy, h32, -, -, h | h⟩
      · simp only [hn] at h
        obtain ⟨rfl, he⟩ := h
        simp only [hi, hg, Option.some.injEq] at hy
        subst hy
        rw [hd.2] at he
        have h0 : l ≠ 0 := by rintro rfl; revert he; decide
        exact List.mem_map.mpr ⟨l - 1, by simp at h32 ⊢; omega, by simp; omega⟩
      · rw [hb, hn] at h
        exact absurd (List.mem_singleton.mp h.2.1) h.1
  · exact clear_with (num := 0) (role := 0) (f := fun g => { lane0 [(6, 2)] g with
      recruits := [1, 2, 3, 4].map (fun l => (l, ⟨[helperFresh 1 0 (l + 8)], none⟩)) }) (h := id) (by decide +kernel) (by decide +kernel)

/-! ### Tiles -/

/-- Words in the stash of the block; the 2 × 2 tile of integers [[e, 2], [x, 4]], with the strip of [[1, 2], [3, 4]] but for the column
magnitude m, as a frame of a STATE at offset 256; and the same, with a tag or without, as a register block at v16. -/
def stashWords (xs : List (Nat × Nat)) (s : State) : State :=
  { s with
    mem := s.mem ++ xs.flatMap (fun e => ((bytesOf 4 e.2).zipIdx.map (fun b => (stashKey 0 (e.1 + b.2), b.1))).filter (fun c => c.2 ≠ 0)) }
def frame (state e x m : Nat) : State → State :=
  stashWords [(256, 0x000E0202), (260, 16 + state * 65536), (272, e), (276, 2), (288, x), (292, 4), (304, 4), (308, 6), (312, m), (316, 6),
    (320, 3), (324, 7), (328, 3), (332, 7)]
def tileRegs : List (Nat × Word) := [(6, 0xFFFC0100), (7, 0x01FFFFFF), (8, 0x000E0202)]
def block (e x m : Word) (tag : Option Bool) (g : Gang) : Gang :=
  { withRegs (tileRegs ++ [(vKey 0 16, e), (vKey 1 16, 2), (vKey 0 17, x), (vKey 1 17, 4), (vKey 0 18, 4), (vKey 1 18, 6), (vKey 0 19, m),
      (vKey 1 19, 6), (vKey 0 20, 3), (vKey 1 20, 7), (vKey 0 21, 3), (vKey 1 21, 7)]) g with
    tags := tag.toList.map (fun b => ⟨16, 0x000E0202, 0, b⟩) }

/-- Whether the accesses of a tile instruction to its stash pass. -/
def opens (cx : Cx) (s : State) (parts : List (Bool × List (Nat × Nat))) : Bool :=
  match cx.stashCheck s 0 parts with
  | .go _ _ => true
  | .stop _ => false

theorem stashOpen_of {cx : Cx} {s : State} {parts : List (Bool × List (Nat × Nat))} (h : opens cx s parts = true) :
    ∃ v u, cx.stashOpen s v u parts := by
  unfold opens at h
  split at h
  · exact ⟨_, _, by assumption⟩
  · cases h

/-- The premises of headerOpen, tested. -/
def headerB (cx : Cx) (s : State) (off : Nat) : Bool :=
  match s.check cx.viewer (tileHow false) (cx.toucher 0 true false) false noOwn (cx.stashReqs [(off, 16)]) with
  | .go _ ps => ps.all (fun p => !s.lostData cx.viewer (tileHow false) p.2)
  | _ => false

theorem headerOpen_of {cx : Cx} {s : State} {off : Nat} (h : headerB cx s off = true) : cx.headerOpen s off := by
  unfold headerB at h
  split at h
  · exact ⟨_, _, by assumption, by simpa using h⟩
  · cases h

/-- The premises of tld on the frame at offset 256, apart from Clear, tested. -/
def tldB (op : BitVec 5) (cx : Cx) (s : State) (q : Header → Tile → Strip → Bool) : Bool :=
  match s.frameHeaderAt cx.b 256 with
  | some h => decide (cx.address s 6 0 cx.lowPhys = localBase + 256) && inLocal (localBase + 256) && cx.b.direct 256 16 &&
      decide (cx.badBlock 16 (blockRegs cx.g.width h.geom) = none) && !cx.blockBusy s 16 (blockRegs cx.g.width h.geom) &&
      decide (cx.deadTile h.geom = 0) && cx.b.direct 256 h.size && headerB cx s 256 &&
      opens cx s [(false, (256, 16) :: (h.parts (op.getLsbD 0 = false ∧ h.state ≠ 0)).map (fun e => (256 + e.1, e.2)))] &&
      q h (s.frameTile cx.b 256 h) (s.frameStrip cx.b 256 h)
  | none => false

theorem tld_of {op : BitVec 5} {cx : Cx} {s : State} {q : Header → Tile → Strip → Bool} (e : tldB op cx s q = true) : ∃ v u h,
    cx.address s 6 0 cx.lowPhys = localBase + 256 ∧ inLocal (localBase + 256) = true ∧ cx.b.direct 256 16 = true ∧
      s.frameHeaderAt cx.b 256 = some h ∧ cx.badBlock 16 (blockRegs cx.g.width h.geom) = none ∧
      cx.blockBusy s 16 (blockRegs cx.g.width h.geom) = false ∧ cx.deadTile h.geom = 0 ∧ cx.b.direct 256 h.size = true ∧ cx.headerOpen s 256 ∧
      cx.stashOpen s v u [(false, (256, 16) :: (h.parts (op.getLsbD 0 = false ∧ h.state ≠ 0)).map (fun e => (256 + e.1, e.2)))] ∧
      q h (s.frameTile cx.b 256 h) (s.frameStrip cx.b 256 h) = true := by
  unfold tldB at e
  split at e
  · rename_i h hh
    simp only [Bool.and_eq_true, decide_eq_true_eq, Bool.not_eq_true'] at e
    obtain ⟨⟨⟨⟨⟨⟨⟨⟨⟨a1, a2⟩, a3⟩, a4⟩, a5⟩, a6⟩, a7⟩, a8⟩, a9⟩, a10⟩ := e
    obtain ⟨v, u, hu⟩ := stashOpen_of a9
    exact ⟨v, u, h, a1, a2, a3, hh, a4, a5, a6, a7, headerOpen_of a8, hu, a10⟩
  · cases e

/-- What a load of a frame finds: its STATE and the verdict on its strip. -/
def finds (state : Nat) (v : Verdict) (h : Header) (t : Tile) (z : Strip) : Bool := h.state = state && decide (t.compare z = v)

/-- A frame in each STATE, with a strip that fits, one element off, one entry off, and two elements off; with NOSTRIP and with RECOMP. -/
theorem witness_tld : ∀ c ∈ [((0 : BitVec 5), 1, 1, 3, 4, Verdict.pass), (0, 1, 9, 3, 4, .element 0 0 1),
      (0, 1, 1, 3, 5, .entry ⟨[4, 6], [4, 6], [3, 7], [3, 7]⟩), (0, 1, 9, 5, 4, .mismatch ⟨[0, 1], [0], true, true⟩), (1, 1, 1, 3, 4, .pass),
      (2, 0, 1, 3, 4, .pass), (0, 2, 1, 3, 4, .pass), (0, 0, 1, 3, 4, .pass)],
    ready 0 1 (withRegs tileRegs) (frame c.2.1 c.2.2.1 c.2.2.2.1 c.2.2.2.2.1) (.tld 16 6 ⟨0, 0, 0, 0, 0, c.1⟩) = true ∧
      let s := world (.tld 16 6 ⟨0, 0, 0, 0, 0, c.1⟩) 0 1 (withRegs tileRegs) (frame c.2.1 c.2.2.1 c.2.2.2.1 c.2.2.2.2.1)
      tldB c.1 (cxAt (.tld 16 6 ⟨0, 0, 0, 0, 0, c.1⟩) s) s (finds c.2.1 c.2.2.2.2.2) = true := by decide +kernel

theorem witness_TileLoads : ∃ cx s v u h, Clear (.tld 16 6 ⟨0, 0, 0, 0, 0, 0⟩) cx s ∧ cx.address s 6 0 cx.lowPhys = localBase + 256 ∧
    inLocal (localBase + 256) = true ∧ cx.b.direct 256 16 = true ∧ s.frameHeaderAt cx.b 256 = some h ∧
    cx.badBlock 16 (blockRegs cx.g.width h.geom) = none ∧ cx.blockBusy s 16 (blockRegs cx.g.width h.geom) = false ∧ cx.deadTile h.geom = 0 ∧
    cx.b.direct 256 h.size = true ∧ cx.headerOpen s 256 ∧
    cx.stashOpen s v u [(false, (256, 16) :: (h.parts ((0 : BitVec 5).getLsbD 0 = false ∧ h.state ≠ 0)).map (fun e => (256 + e.1, e.2)))] := by
  have w := witness_tld (0, 1, 1, 3, 4, .pass) (by decide)
  obtain ⟨v, u, h, h1, h2, h3, h4, h5, h6, h7, h8, h9, h10, -⟩ := tld_of w.2
  exact ⟨_, _, v, u, h, clear_ready w.1, h1, h2, h3, h4, h5, h6, h7, h8, h9, h10⟩

/-- The premises of tst to offset 256 of the block at v16, apart from Clear, tested. -/
def tstB (op : BitVec 5) (cx : Cx) (s : State) (q : Option Tag → Verdict → Bool) : Bool :=
  let h : Header := ⟨0x000E0202, leastStride 0x000E0202, 0⟩
  let tag := cx.g.tagAt 16
  decide (geomResolve cx.g.shape (cx.rd s cx.lowPhys 8) = some 0x000E0202) && decide (cx.address s 6 0 cx.lowPhys = localBase + 256) &&
    cx.b.direct 256 h.size && decide (cx.deadTile 0x000E0202 = 0) && tag.all (fun y => y.geom = 0x000E0202) &&
    opens cx s [(false, if tag = none then [] else scaleParts 0x000E0202 ((tag.map Tag.scoff).getD 0)),
      (true, (256, 16) :: (h.parts (op.getLsbD 0 = false)).map (fun e => (256 + e.1, e.2)))] &&
    q tag ((blockTile cx.g.width 16 0x000E0202 (cx.g.blockRead s cx.cyc) (s.scalesOf cx.b 0x000E0202 ((tag.map Tag.scoff).getD 0))).compare
      (blockStrip cx.g.width 16 0x000E0202 (cx.g.blockRead s cx.cyc)))

/-- A block without a tag, with a stale one, and with a valid one whose strip fits, is one element off, one entry off, and two elements
off; with NOSTRIP and with RECOMP. -/
theorem witness_tst : ∀ c ∈ [((0 : BitVec 5), none, (1 : Word), (3 : Word), (4 : Word), Verdict.pass), (0, some true, 9, 3, 4, .element 0 0 1),
      (0, some false, 1, 3, 4, .pass), (0, some false, 9, 3, 4, .element 0 0 1), (0, some false, 1, 3, 5, .entry ⟨[4, 6], [4, 6], [3, 7], [3, 7]⟩),
      (0, some false, 9, 5, 4, .mismatch ⟨[0, 1], [0], true, true⟩), (1, some false, 1, 3, 4, .pass), (2, none, 1, 3, 4, .pass)],
    ready 0 1 (block c.2.2.1 c.2.2.2.1 c.2.2.2.2.1 c.2.1) id (.tst 16 6 8 ⟨0, 0, 0, 0, 0, c.1⟩) = true ∧
      let s := world (.tst 16 6 8 ⟨0, 0, 0, 0, 0, c.1⟩) 0 1 (block c.2.2.1 c.2.2.2.1 c.2.2.2.2.1 c.2.1) id
      tstB c.1 (cxAt (.tst 16 6 8 ⟨0, 0, 0, 0, 0, c.1⟩) s) s (fun t v => decide (t.map Tag.stale = c.2.1) && decide (v = c.2.2.2.2.2)) = true := by
  decide +kernel

theorem witness_TileStores : ∃ cx s v u, Clear (.tst 16 6 8 ⟨0, 0, 0, 0, 0, 0⟩) cx s ∧
    geomResolve cx.g.shape (cx.rd s cx.lowPhys 8) = some 0x000E0202 ∧ cx.address s 6 0 cx.lowPhys = localBase + 256 ∧
    inLocal (localBase + 256) = true ∧ cx.b.direct 256 (⟨0x000E0202, leastStride 0x000E0202, 0⟩ : Header).size = true ∧
    cx.deadTile 0x000E0202 = 0 ∧ (∀ y, cx.g.tagAt 16 = some y → y.geom = 0x000E0202) ∧ fmtBx (geomFmt 0x000E0202) = false ∧
    cx.stashOpen s v u [(false, if cx.g.tagAt 16 = none then [] else scaleParts 0x000E0202 (((cx.g.tagAt 16).map Tag.scoff).getD 0)),
      (true, (256, 16) :: ((⟨0x000E0202, leastStride 0x000E0202, 0⟩ : Header).parts ((0 : BitVec 5).getLsbD 0 = false)).map
        (fun e => (256 + e.1, e.2)))] := by
  have w := witness_tst (0, some false, 1, 3, 4, .pass) (by decide)
  have e := w.2
  simp only [tstB, Bool.and_eq_true, decide_eq_true_eq, Option.all_eq_true] at e
  obtain ⟨⟨⟨⟨⟨⟨a1, a2⟩, a3⟩, a4⟩, a5⟩, a6⟩, -⟩ := e
  obtain ⟨v, u, hu⟩ := stashOpen_of a6
  exact ⟨_, _, v, u, clear_ready w.1, a1, a2, by decide, a3, a4, fun y hy => by simpa using a5 y hy, by decide, hu⟩

/-- The premises of a checksum instruction on the block at v16, tested. -/
def cksumB (cx : Cx) (s : State) (q : Option Tag → Verdict → Bool) : Bool :=
  decide (cx.deadTile 0x000E0202 = 0) && opens cx s [(false, [])] &&
    decide (cx.g.fly = []) && decide (16 + blockRegs cx.g.width 0x000E0202 ≤ 256) && decide ((cx.g.phys 0).length = 1) &&
    q (cx.g.tagAt 16) ((blockTile cx.g.width 16 0x000E0202 (cx.g.blockRead s cx.cyc) (s.scalesOf cx.b 0x000E0202 0)).compare
      (blockStrip cx.g.width 16 0x000E0202 (cx.g.blockRead s cx.cyc)))

/-- cksum; ckchk without a tag, with a stale one, and with each verdict; ckinj without a tag, at the last element, column and row. -/
theorem witness_Checksums : (∀ c ∈ [(Instr.cksum 16 (.reg 8), (none : Option Bool), (1 : Word), (3 : Word), ([] : List (Nat × Word)), Verdict.pass),
      (.ckchk 16, none, 1, 3, [], .pass), (.ckchk 16, some true, 1, 3, [], .pass), (.ckchk 16, some false, 1, 3, [], .pass),
      (.ckchk 16, some false, 9, 3, [], .element 0 0 1), (.ckchk 16, some false, 9, 5, [], .mismatch ⟨[0, 1], [0], true, true⟩),
      (.ckinj 16 4 (.reg 5), none, 1, 3, [], .pass), (.ckinj 16 4 (.reg 5), some false, 1, 3, [(4, 0x00000101), (5, 255)], .pass),
      (.ckinj 16 4 (.lit32 1), some false, 1, 3, [(4, 0x00010100)], .pass),
      (.ckinj 16 4 (.reg 5), some true, 1, 3, [(4, 0x00020001)], .pass)],
    let f := fun g => let h := block c.2.2.1 c.2.2.2.1 4 c.2.1 g
      { h with regs := c.2.2.2.2.1.foldl (fun m e => Tab.put m e.1 e.2) h.regs }
    ready 0 1 f id c.1 = true ∧ cksumB (cxAt c.1 (world c.1 0 1 f id)) (world c.1 0 1 f id)
      (fun t v => decide (t.map Tag.stale = c.2.1) && decide (v = c.2.2.2.2.2)) = true) ∧
    geomResolve 0 0x000E0202 = some 0x000E0202 ∧ geomValid 0x000E0202 = true := by decide +kernel

/-! ### The matrix engine -/

/-- Gangs 0 to 2 wait at a rendezvous with what they bring, or, where it brings nothing, gang 0 is still to come; all with the same record. -/
def quartet (op d b : Nat) (vals : List Nat) (acc : Option AccRec) (late : Bool) (s : State) : State :=
  let me := { (s.gang? 3).getD (Gang.fresh 0 3 1 0 false false false 0 0 0 0) with accs := acc.toList }
  let at_ := fun (q : Nat) => if late && q = 0 then Park.ready else .rendezvous op d b vals
  { s with
    gangs := (List.range 3).map (fun q => (q, { me with
        num := q
        tree := me.tree.modSplit 0 (fun x => { x with park := at_ q }) })) ++ [(3, me)]
    blocks := s.blocks.map (fun (e : Nat × Block) => (e.1, { e.2 with gangs := [0, 1, 2, 3] })) }
/-- Registers, and a grant of 8 × 8 with k = 128 in format 8; or of nothing. -/
def granted (shape : Word) (xs : List (Nat × Word)) (g : Gang) : Gang := { withRegs xs g with shape := shape }
def grant : Word := 0x40800808
/-- A format block of INT4 at offset 256 with A at offset 1024, and a descriptor of mgath. -/
def objects (s : State) : State :=
  stashWords [(256, 0x400), (260, 128 + 8 * 2 ^ 16 + 8 * 2 ^ 21), (268, 0x4E), (512, 0x600), (516, 0x900), (520, 0xA00), (524, 4), (528, 8),
    (0x400, 0x01010101)] s
def mzeroI : Instr := .mzero 16 6 0xE
def mmaI : Instr := .mma 16 6 32
def mgathI : Instr := .mgath 16 6
def mdrainI : Instr := .mdrain 16 6 true true
def accRec : AccRec := ⟨16, geomWord 2 8 0xE false, 4, [], []⟩
/-- Gang 3 of each quartet posts. -/
def posts (i : Instr) (shape : Word) (a : Word) (op b : Nat) (vals : List Nat) (acc : Option AccRec) (late : Bool) : State :=
  world i 3 1 (granted shape [(6, a), (7, 0xFFFFFFFF)]) (fun s => quartet op 16 b vals acc late (objects s))
def mzeroS (v : Nat) (late : Bool) : State := posts mzeroI grant 0xFFFFFFFF 0x44 0xE [v] none late
def mdrainS (shape : Word) : State := posts mdrainI shape 0x400 0x43 3 [0x400, 0xFFFFFFFF] (some accRec) false
def mmaS : State := posts mmaI grant 256 0x41 32 [256, 0xFFFFFFFF] none false
def mgathS : State := posts mgathI grant 512 0x42 0 [512, 0xFFFFFFFF] none false

/-- What the gangs of a rendezvous bring. -/
def members (cx : Cx) (s : State) (me : Member) : List Member := match cx.meeting s me with
  | .all ms => ms
  | _ => []

theorem meeting_of {cx : Cx} {s : State} {me : Member} (h : members cx s me ≠ []) : cx.meeting s me = .all (members cx s me) := by
  unfold members at h ⊢
  split <;> simp_all

/-- The issuing gang as a member. -/
def memberOf (cx : Cx) (op b : Nat) (vals : List Nat) : Member := ⟨cx.gid, cx.g, op, 16, b, vals, cx.place, cx.pc⟩

theorem blockWords_of {cx : Cx} {s : State} {ms : List Member} {addr : Nat}
    (h : (match s.check cx.viewer (tileHow false) (fun _ => ⟨cx.core, cx.b.slot, ((ms.head?.map Member.g).getD cx.g).num,
      ((ms.head?.map Member.g).getD cx.g).lowest, 0, 0, true, false, none⟩) true noOwn (cx.stashReqs [(addr, 32)]) with
      | .go _ _ => true
      | _ => false) = true) : cx.blockWords s ms addr ((List.range 8).map (fun k => s.stashNat cx.b (addr + 4 * k) 4)) := by
  split at h
  · exact ⟨_, _, ‹_›, rfl⟩
  · cases h

theorem in_state (i : Instr) (s : State) {P : Cx → State → Prop} (p : P (cxAt i s) s) : ∃ cx s, P cx s := ⟨_, _, p⟩

/-- The quartets can post: gang 3 is alone, gang 0 is late, gang 3 brings another operand, and all is agreed. -/
theorem witness_MatrixPosts : (∃ cx s, Clear (.setshape 4 5) cx s) ∧
    (∃ (cx : Cx) (s : State), Clear mzeroI cx s ∧ posting mzeroI cx s = some (0x44, 16, 0xE, [0xFFFFFFFF]) ∧
      s.gang? (gangId cx.bid (cx.g.num / 4 * 4)) = none) ∧
    (∃ (cx : Cx) (s : State) (g : Gang), Clear mzeroI cx s ∧ posting mzeroI cx s = some (0x44, 16, 0xE, [0xFFFFFFFF]) ∧
      (∀ q < 4, ∃ g, s.gang? (gangId cx.bid (cx.g.num / 4 * 4 + q)) = some g ∧ g.ended = false) ∧ cx.g.num = 3 ∧
      cx.gid = gangId cx.bid cx.g.num ∧ s.gang? (gangId cx.bid (cx.g.num / 4 * 4)) = some g ∧ ∀ e ∈ g.tree.splits, e.2.park.code ≠ 3) ∧
    (∃ cx s ms, Clear mzeroI cx s ∧ cx.meeting s (memberOf cx 0x44 0xE [0xFFFFFFFF]) = .all ms ∧
      ¬ Agreed cx (memberOf cx 0x44 0xE [0xFFFFFFFF]) ms) ∧
    (∃ cx s ms, Clear mzeroI cx s ∧ cx.meeting s (memberOf cx 0x44 0xE [0xFFFFFFFF]) = .all ms ∧
      Agreed cx (memberOf cx 0x44 0xE [0xFFFFFFFF]) ms ∧ PostOpen cx s (memberOf cx 0x44 0xE [0xFFFFFFFF]) 0 1) ∧
    (∃ cx s ms, Clear mdrainI cx s ∧ shapeM cx.g.shape = 0 ∧ cx.meeting s (memberOf cx 0x43 3 [0x400, 0xFFFFFFFF]) = .all ms ∧
      Agreed cx (memberOf cx 0x43 3 [0x400, 0xFFFFFFFF]) ms ∧ PostOpen cx s (memberOf cx 0x43 3 [0x400, 0xFFFFFFFF]) 16 16) ∧
    (∃ cx s ms, Clear mdrainI cx s ∧ shapeM cx.g.shape ≠ 0 ∧ shapeN cx.g.shape ≠ 0 ∧
      cx.meeting s (memberOf cx 0x43 3 [0x400, 0xFFFFFFFF]) = .all ms ∧ Agreed cx (memberOf cx 0x43 3 [0x400, 0xFFFFFFFF]) ms ∧
      (∀ x ∈ ms, x.g.accAt x.d = some accRec) ∧ geomRows accRec.geom = 2 ∧ geomFmt accRec.geom = 0xE ∧
      PostOpen cx s (memberOf cx 0x43 3 [0x400, 0xFFFFFFFF]) (drainHeader 8 8 0xE 1).size 16 ∧ (s.core cx.core).locks = []) ∧
    (∃ cx s ms w, Clear mmaI cx s ∧ cx.meeting s (memberOf cx 0x41 32 [256, 0xFFFFFFFF]) = .all ms ∧
      Agreed cx (memberOf cx 0x41 32 [256, 0xFFFFFFFF]) ms ∧ PostOpen cx s (memberOf cx 0x41 32 [256, 0xFFFFFFFF]) 32 32 ∧
      cx.blockWords s ms 256 w ∧ FormatBlock.valid w cx.g.shape cx.b.stashNeed = true ∧ shapeM cx.g.shape = 8 ∧ shapeN cx.g.shape = 8 ∧
      shapeK cx.g.shape = 128 ∧ (FormatBlock.ofWords w).zinit = true ∧ (s.core cx.core).locks = [] ∧
      ∀ x ∈ ms, x.bad x.d (blockRegs cx.g.width (geomWord 2 8 0xE false)) = none ∧
        x.bad x.b (blockRegs cx.g.width (geomWord 8 32 8 false)) = none ∧ mmaB x (FormatBlock.ofWords w) (geomWord 8 32 8 false) = none) ∧
    (∃ cx s ms w, Clear mgathI cx s ∧ cx.meeting s (memberOf cx 0x42 0 [512, 0xFFFFFFFF]) = .all ms ∧
      Agreed cx (memberOf cx 0x42 0 [512, 0xFFFFFFFF]) ms ∧ PostOpen cx s (memberOf cx 0x42 0 [512, 0xFFFFFFFF]) 32 32 ∧
      cx.blockWords s ms 512 w ∧ Gather.valid w = true ∧ shapeN cx.g.shape = 8 ∧ shapeK cx.g.shape = 128 ∧ (s.core cx.core).locks = [] ∧
      ∀ x ∈ ms, x.bad x.d (blockRegs cx.g.width (geomWord 8 32 (Gather.ofWords w).vfmt false)) = none) := by
  refine ⟨in_state (.setshape 4 5) (world (.setshape 4 5) 3 1 id id) (clear_of (by decide +kernel)),
    in_state mzeroI (world mzeroI 3 1 (granted grant [(6, 0xFFFFFFFF)]) id) ⟨clear_of (by decide +kernel), by decide +kernel, by decide +kernel⟩,
    in_state mzeroI (mzeroS 0xFFFFFFFF true) ⟨_, clear_of (by decide +kernel), by decide +kernel, ?_, by decide +kernel, by decide +kernel, rfl,
      by decide +kernel⟩,
    in_state mzeroI (mzeroS 0xFFFFFFFE false) ⟨_, clear_of (by decide +kernel), meeting_of (by decide +kernel), by unfold Agreed; decide +kernel⟩,
    in_state mzeroI (mzeroS 0xFFFFFFFF false) ⟨_, clear_of (by decide +kernel), meeting_of (by decide +kernel), by unfold Agreed; decide +kernel,
      by unfold PostOpen; decide +kernel⟩,
    in_state mdrainI (mdrainS 0) ⟨_, clear_of (by decide +kernel), by decide +kernel, meeting_of (by decide +kernel),
      by unfold Agreed; decide +kernel, by unfold PostOpen; decide +kernel⟩,
    in_state mdrainI (mdrainS grant) ⟨_, clear_of (by decide +kernel), by decide +kernel, by decide +kernel, meeting_of (by decide +kernel),
      by unfold Agreed; decide +kernel, by decide +kernel, by decide +kernel, by decide +kernel, by unfold PostOpen; decide +kernel,
      by decide +kernel⟩,
    in_state mmaI (mmaS) ⟨_, _, clear_of (by decide +kernel), meeting_of (by decide +kernel), by unfold Agreed; decide +kernel,
      by unfold PostOpen; decide +kernel, blockWords_of (by decide +kernel), by decide +kernel, by decide +kernel, by decide +kernel,
      by decide +kernel, by decide +kernel, by decide +kernel, by decide +kernel⟩,
    in_state mgathI (mgathS) ⟨_, _, clear_of (by decide +kernel), meeting_of (by decide +kernel), by unfold Agreed; decide +kernel,
      by unfold PostOpen; decide +kernel, blockWords_of (by decide +kernel), by decide +kernel, by decide +kernel, by decide +kernel,
      by decide +kernel, by decide +kernel⟩⟩
  intro q hq
  have : (List.range 4).all (fun q => ((mzeroS 0xFFFFFFFF true).gang? (gangId (cxAt mzeroI (mzeroS 0xFFFFFFFF true)).bid
      ((cxAt mzeroI (mzeroS 0xFFFFFFFF true)).g.num / 4 * 4 + q))).any (fun g => !g.ended)) = true := by decide +kernel
  have := List.all_eq_true.mp this q (List.mem_range.mpr hq)
  obtain ⟨g, h1, h2⟩ := (Option.any_eq_true ..).mp this
  exact ⟨g, h1, by simpa using h2⟩

/-- The state after an event; the reset state where there is none. -/
def onward (i : Instr) (s : State) : State := after i { s with issue := none }
/-- The operations at the head of the FIFO in each of their states: posted, started, with the range free, failed and cancelled. -/
def postedS (i : Instr) (s : State) : State := { after i s with issue := none }
def bRegs (s : State) : State := { s with gangs := s.gangs.map (fun (e : Nat × Gang) => (e.1, inAll 32 0x01010101 e.2)) }
def mzeroP : State := postedS mzeroI (mzeroS 0xFFFFFFFF false)
def mmaP : State := bRegs (postedS mmaI mmaS)
def eachOp (f : MatOp → MatOp) (s : State) : State :=
  { s with cores := s.cores.map (fun (e : Nat × Core) => (e.1, { e.2 with fifo := e.2.fifo.map f })) }
def mmaStarted : State := onward (.matrixOpStart 0) mmaP
def mmaFree : State := onward (.matrixSourceRelease 0 0) mmaStarted
def mzeroStarted : State := onward (.matrixOpStart 0) mzeroP

/-- The premises that the parts of MatrixEngine share, with those of one part. -/
def engineB (s : State) (q : MatOp → Block → (Nat → Gang) → Bool) : Bool := match (s.core 0).fifo with
  | o :: _ => match s.block? o.bid with
    | some b => (List.range 4).all (fun k => (s.gang? (o.gid k)).isSome) &&
        q o b (fun k => (s.gang? (o.gid k)).getD (Gang.fresh 0 0 0 0 false false false 0 0 0 0))
    | none => false
  | [] => false

theorem engine_of {s : State} {q : MatOp → Block → (Nat → Gang) → Bool} (h : engineB s q = true) : ∃ o rest b gq,
    (s.core 0).fifo = o :: rest ∧ s.block? o.bid = some b ∧ (∀ k < 4, s.gang? (o.gid k) = some (gq k)) ∧ q o b gq = true := by
  unfold engineB at h
  split at h
  · rename_i o rest e
    split at h
    · rename_i b hb
      simp only [Bool.and_eq_true, List.all_eq_true] at h
      refine ⟨o, rest, b, _, e, hb, fun k hk => ?_, h.2⟩
      obtain ⟨g, hg⟩ := Option.isSome_iff_exists.mp (h.1 k (List.mem_range.mpr hk))
      simp [hg]
    · cases h
  · cases h

/-- A block at base 16 that the engine may write: no disabled lane, and inside the register file. -/
def whole (o : MatOp) (gq : Nat → Gang) : Bool := (List.range 4).all (fun q => (gq q).dmask = 0 && (gq q).bad.isEmpty &&
  o.cbase.getD q 0 = 16 && decide (o.cbase.getD q 0 + blockRegs (gq q).width o.cgeom ≤ 256))

theorem witness_MatrixEngine :
    engineB (eachOp (fun o => { o with cancelled := true }) mmaP) (fun o _ _ => !o.started && o.ticket = none && o.cancelled) = true ∧
    engineB mzeroP (fun o _ _ => !o.started && o.ticket = none && !o.cancelled && o.fail = none && o.kind = 0x44 &&
      !mzeroP.loadsUnder 0 (o.srcLocks ++ o.dstLocks)) = true ∧
    engineB mmaP (fun o b _ => !o.started && o.ticket = none && !o.cancelled && o.fail = none && o.kind = 0x41 && o.k = 128 &&
      !mmaP.loadsUnder 0 (o.srcLocks ++ o.dstLocks) && match State.readQuads o b (List.range 4) mmaP with
      | .ok _ _ => true
      | _ => false) = true ∧
    engineB mmaStarted (fun o _ _ => o.started && o.srcLocks.contains 0) = true ∧
    engineB (eachOp (fun o => { o with cancelled := true }) mmaStarted) (fun o _ _ => o.started && o.bar = 0xFFFFFFFF && o.cancelled &&
      o.fail = none) = true ∧
    engineB (eachOp (fun o => { o with fail := some (heldOf 0x1C 5 6) }) mmaStarted) (fun o _ _ => o.started && o.bar = 0xFFFFFFFF &&
      o.fail = some (heldOf 0x1C 5 6) && o.cregs ≠ 0) = true ∧
    engineB mzeroStarted (fun o _ gq => o.started && o.bar = 0xFFFFFFFF && o.fail = none && !o.cancelled && o.kind = 0x44 &&
      o.before = [4, 4, 4, 4] && whole o gq) = true ∧
    engineB mmaFree (fun o _ gq => o.started && o.bar = 0xFFFFFFFF && o.fail = none && !o.cancelled && o.kind = 0x41 &&
      o.before = [0, 0, 0, 0] && o.k = 128 && !(FormatBlock.ofWords (o.block.map BitVec.toNat)).chkb && o.cfmt = 0xE && decide (o.m < 256) &&
      decide (o.n < 256) && whole o gq) = true := by decide +kernel

/-- An mgath that has read a matrix of one entry, in row 0, at a column (R372); and an mdrain of four blocks of zeros, or with some
registers changed, that found one of the codes of R371 at its post. -/
def mgathStarted (column : Nat) : State :=
  onward (.matrixOpStart 0) (stashWords (((0x900, column) :: (0xA00, 0x3C) :: (List.range 128).map (fun k => (0x604 + 4 * k, 1)))) (postedS mgathI mgathS))
def mdrainStarted (code : Nat) (xs : List (Nat × Word)) : State :=
  eachOp (fun o => { o with before := List.replicate 4 code })
    (onward (.matrixOpStart 0) { postedS mdrainI (mdrainS grant) with
      gangs := (postedS mdrainI (mdrainS grant)).gangs.map (fun (e : Nat × Gang) => (e.1, { e.2 with regs := xs.foldl (fun t x => Tab.put t x.1 x.2) e.2.regs })) })
def isRunning (o : MatOp) : Bool := o.started && o.bar = 0xFFFFFFFF && o.fail = none && !o.cancelled && (List.range 4).any (fun q => o.before.getD q 5 ≠ 5)
def alive (n : Nat) (gq : Nat → Gang) : Bool := (List.range 4).all (fun q => (List.range (min n (gq q).width)).all (fun l => !(gq q).dmask.getLsbD l))
def soundB (o : MatOp) (need q : Nat) : Bool :=
  let d := Gather.ofWords (o.block.map BitVec.toNat)
  let g := rowsOf o d q
  (List.range (o.k / 4)).all (fun i => d.rowptr + 4 * (q * (o.k / 4) + i + 2) ≤ need && g.ptr.getD i 0 ≤ g.ptr.getD (i + 1) 0 &&
    (List.range (g.ptr.getD (i + 1) 0)).all (fun e => e < g.ptr.getD i 0 || (d.colidx + 2 * (e + 1) ≤ need && d.values + d.size * (e + 1) ≤ need &&
      g.col.getD (e - g.ptr.getD 0 0) 0 < o.n && (List.range e).all (fun y => y < g.ptr.getD i 0 || g.col.getD (y - g.ptr.getD 0 0) 0 ≠ g.col.getD (e - g.ptr.getD 0 0) 0))))

theorem sound_of {o : MatOp} {need q : Nat} (h : soundB o need q = true) :
    let d := Gather.ofWords (o.block.map BitVec.toNat)
    d.sound o.n (q * (o.k / 4)) (o.k / 4) need (rowsOf o d q) := by
  intro d i hi
  simp only [soundB, List.all_eq_true, List.mem_range, Bool.and_eq_true, Bool.or_eq_true, decide_eq_true_eq] at h
  obtain ⟨⟨h1, h2⟩, h3⟩ := h i hi
  refine ⟨h1, h2, fun e he1 he2 => ?_⟩
  rcases h3 e he2 with h | h
  · exact absurd he1 (Nat.not_le.mpr h)
  · refine ⟨h.1.1.1, h.1.1.2, h.1.2, fun y hy1 hy2 => ?_⟩
    rcases h.2 y hy2 with h | h
    · exact absurd hy1 (Nat.not_le.mpr h)
    · simpa using h

/-- mgath with a sound matrix, and with a column that is too large. -/
theorem witness_gather :
    (∃ o ∈ ((mgathStarted 3).core 0).fifo, (∀ q < 4, soundB o 4096 q = true)) ∧
    (∀ c ∈ [3, 9], engineB (mgathStarted c) (fun o b gq =>
      let d := Gather.ofWords (o.block.map BitVec.toNat)
      isRunning o && o.kind = 0x42 && alive (o.k / 4) gq && b.stashNeed = 4096 && decide (o.n < 256 ∧ o.k / 4 < 256 ∧ d.vfmt ≤ 5) &&
        decide ((rowsOf o d 3).ptr.getD (o.k / 4) 0 ≤ d.limit) &&
        (List.range 4).all (fun q => o.bbase.getD q 0 + blockRegs (gq q).width (geomWord o.n (o.k / 4) d.vfmt false) ≤ 256) &&
        (d.fail o.n 0 (o.k / 4) b.stashNeed (rowsOf o d 0)).isSome = decide (c = 9)) = true) := by decide +kernel

def framed {α : Type} (r : Moved α) : Bool := match r with
  | .ok _ _ => true
  | _ => false
/-- What an mdrain of one code finds against its blocks. -/
def drains (s : State) (ok : Nat → AccRec → Tile → Strip → Bool) : Bool := engineB s (fun o b gq =>
  isRunning o && o.kind = 0x43 && decide (b.bid = o.bid ∧ o.m % 4 = 0 ∧ o.m < 256 ∧ o.n < 256) && geomValid (geomWord o.m o.n o.cfmt false) &&
    o.cfmt = 0xE && whole o gq && alive o.n gq && b.direct o.blockAddr (drainHeader o.m o.n o.cfmt 1).size && o.blockAddr % 16 = 0 &&
    (List.range 4).all (fun q => ok (o.before.getD q 5) (o.records.getD q ⟨o.cbase.getD q 0, o.cgeom, 0, [], []⟩)
      (blockTile (gq q).width (o.cbase.getD q 0) o.cgeom ((gq q).blockRead s (s.cycle 0)) [])
      (blockStrip (gq q).width (o.cbase.getD q 0) o.cgeom ((gq q).blockRead s (s.cycle 0)))) &&
    framed (s.drainFrame o b ⟨(drainHeader o.m o.n o.cfmt 1).geom, (List.range 4).flatMap (fun q =>
      (blockTile (gq q).width (o.cbase.getD q 0) o.cgeom ((gq q).blockRead s (s.cycle 0)) []).elems), []⟩))

/-- Four blocks of zeros pass under each code; one sum that is wrong is rebuilt; two rows and columns are not (R322, R323). -/
theorem witness_drain :
    drains (mdrainStarted 1 []) (fun c r x old => c = 1 && exceeding x r old = ([], [])) = true ∧
    drains (mdrainStarted 2 []) (fun c _ x old => c = 2 && x.compare old = .pass) = true ∧
    drains (mdrainStarted 3 []) (fun c _ _ _ => c = 3) = true ∧
    drains (mdrainStarted 1 [(vKey 0 16, 5)]) (fun c r x old => c = 1 && exceeding x r old = ([0], [0])) = true ∧
    drains (mdrainStarted 1 [(vKey 0 16, 5), (vKey 1 17, 5)]) (fun c r x old => c = 1 && exceeding x r old = ([0, 1], [0, 1])) = true ∧
    drains (mdrainStarted 2 [(vKey 0 16, 5)]) (fun c _ x old => c = 2 && x.compare old = .element 0 0 0) = true := by decide +kernel

/-- Four products of 1 and 1 (R368), by hand: the row has a 1 in every second of its first eight elements. -/
theorem test_mma_sum : ((onward (.matrixOpComplete 0) mmaFree).gang? 0).map (fun g => Tab.getD g.regs (vKey 0 16) 0) = some 4 := by decide +kernel
theorem test_mzero_clears : ((onward (.matrixOpComplete 0) mzeroStarted).gang? 0).map (fun g => (g.tagAt 16).map Tag.stale) = some (some false) := by
  decide +kernel

/-! ### The copy engine -/

/-- What data reads of the issuing thread leave and bring, where they pass. -/
def dataOf (cx : Cx) (s : State) (rs : List Req) : Option (State × List Byte) :=
  match s.check cx.viewer (tileHow false) (cx.toucher 0 true false) true noOwn rs with
  | .go t ps =>
    if cx.loadsBefore false ps then none
    else
      let r := cx.readAll (tileHow false) t ps
      some (r.1, r.2.flatMap Prod.snd)
  | _ => none

theorem data_of {cx : Cx} {s u : State} {rs : List Req} {bs : List Byte} (h : dataOf cx s rs = some (u, bs)) :
    ∀ f k, cx.dataRead s rs f k = k u bs := by
  intro f k
  unfold dataOf at h
  unfold Cx.dataRead
  split at h
  · rename_i e
    rw [e]
    split at h
    · cases h
    · rename_i hw
      simp only [Option.some.injEq, Prod.mk.injEq] at h
      rw [← h.1, ← h.2]
      exact if_neg hw
  · cases h

/-- The premises of CopyPosts on the block of 16 words at offset 256, apart from Clear, tested. -/
def copyB (cx : Cx) (s : State) (q : State → List Nat → Bool) : Bool := match dataOf cx s (cx.wordReqs (localBase + 256) 16) with
  | some (u, bs) => cx.rd2 s cx.lowPhys 6 = localBase + 256 && s.paramsPlaced cx (localBase + 256) && u.block? cx.bid = some cx.b &&
      decide (cx.b.bid = cx.bid) && decide ((u.core cx.core).pbcache = []) && decide (bs.length = 64) &&
      q u ((List.range 16).map (fun n => ofBytes ((bs.drop (4 * n)).take 4)))
  | none => false

theorem copy_of {cx : Cx} {s : State} {q : State → List Nat → Bool} (h : copyB cx s q = true) : ∃ u bs,
    cx.rd2 s cx.lowPhys 6 = localBase + 256 ∧ s.paramsPlaced cx (localBase + 256) = true ∧
      (∀ f k, cx.dataRead s (cx.wordReqs (localBase + 256) 16) f k = k u bs) ∧ u.block? cx.bid = some cx.b ∧ cx.b.bid = cx.bid ∧
      (u.core cx.core).pbcache = [] ∧ bs.length = 64 ∧ q u ((List.range 16).map (fun n => ofBytes ((bs.drop (4 * n)).take 4))) = true := by
  unfold copyB at h
  split at h
  · rename_i u bs e
    simp only [Bool.and_eq_true, decide_eq_true_eq] at h
    obtain ⟨⟨⟨⟨⟨⟨a1, a2⟩, a3⟩, a4⟩, a5⟩, a6⟩, a7⟩ := h
    exact ⟨u, bs, a1, a2, data_of e, a3, a4, a5, a6, a7⟩
  · cases h

/-- Operands of a copy: parameters at an address, no slot, and a barrier. -/
def copyRegs (a bar : Word) : List (Nat × Word) := [(6, a), (7, 0x01FFFFFF), (8, 0), (9, bar)]
def pbWords (xs : List (Nat × Nat)) : State → State := stashWords (xs.map (fun e => (256 + 4 * e.1, e.2)))
/-- Two rows of 64 bytes from offset 1024 to offset 2048; with a word that makes it wrong. -/
def twoRows : List (Nat × Nat) := [(2, 0xFFFC0400), (3, 0x01FFFFFF), (4, 0xFFFC0800), (5, 0x01FFFFFF), (8, 64), (9, 2), (10, 64), (11, 128)]
def copyS (i : Instr) (bar : Word) (xs : List (Nat × Nat)) : State := world i 31 2 (withRegs (copyRegs 0xFFFC0100 bar)) (pbWords xs)
/-- A frame of 2 × 2 integers at offset 1024 and where a tile copy takes it. -/
def tilePb (flags state : Nat) : List (Nat × Nat) :=
  [(0, 1 + flags), (2, 0xFFFC0400), (3, 0x01FFFFFF), (4, 0xFFFC0800), (5, 0x01FFFFFF), (192, 0x000E0202), (193, 16 + state * 65536)]

/-- A list of words with one changed. -/
def but (n v : Nat) : List (Nat × Nat) := (n, v) :: twoRows.filter (fun e => e.1 ≠ n)
def redWord : Nat × Nat := (0, 4 + 8 * 0xE)
/-- CREASON of the first check that fails, with the barrier operand. -/
def reasonOf (cx : Cx) (s : State) (kind : Nat) (w h : List Nat) : Option Nat :=
  if pbKind w ≠ kind then some 0 else if fieldsBad w then some 1 else if formatBad w then some 2 else if limitsBad w h then some 3
  else if addressesBad w then some 4 else if barrierBad cx.b (cx.rd s cx.lowPhys 9).toNat then some 6
  else if cx.b.rangesBad w h then some 7 else none
/-- The engine's queue, the lock table and the block's map have room for a copy. -/
def queueRoom (cx : Cx) (u : State) : Bool :=
  decide ((u.core cx.core).copies.length < 32) && cx.b.smap.isEmpty && decide ((u.core cx.core).locks.length ≤ 61)

/-- Parameters at a bad address, or in the window of a peer; each CREASON; a copy, a reduction and a gather that enter the queue; and tile
copies of a frame in each STATE, with and without CHECK and RECOMP. -/
theorem witness_CopyPosts :
    (∃ cx s, Clear (.copy 4 6 8) cx s ∧ cx.rd2 s cx.lowPhys 6 % 64 ≠ 0) ∧
    (∃ cx s, Clear (.copy 4 6 8) cx s ∧ cx.rd2 s cx.lowPhys 6 % 64 = 0 ∧ s.paramsPlaced cx (cx.rd2 s cx.lowPhys 6) = false) ∧
    (∀ c ∈ [(Instr.copy 4 6 8, 0, (0xFFFFFFFF : Word), but 0 2, some 0), (.copy 4 6 8, 0, 0xFFFFFFFF, but 12 1, some 1),
        (.copyRed 4 6 8, 4, 0xFFFFFFFF, but 0 20, some 2), (.copyRed 4 6 8, 4, 0xFFFFFFFF, redWord :: but 8 63, some 3),
        (.copyRed 4 6 8, 4, 0xFFFFFFFF, redWord :: but 2 0xFFFC0401, some 4), (.copy 4 6 8, 0, 4, twoRows, some 6),
        (.copy 4 6 8, 0, 0xFFFFFFFF, but 2 0xFFFC0801, some 7), (.copy 4 6 8, 0, 0xFFFFFFFF, twoRows, none),
        (.copyRed 4 6 8, 4, 0xFFFFFFFF, redWord :: twoRows, none),
        (.copyGath 4 6 8, 2, 0xFFFFFFFF, [(0, 2), (2, 0xFFFC0400), (3, 0x01FFFFFF), (4, 0xFFFC0800), (5, 0x01FFFFFF), (8, 0xFFFC0C00), (9, 0x01FFFFFF),
          (10, 2), (11, 64), (12, 64), (13, 4), (14, 64)], none),
        (.copyScat 4 6 8, 3, 0xFFFFFFFF, [(0, 3), (2, 0xFFFC0400), (3, 0x01FFFFFF), (4, 0xFFFC0800), (5, 0x01FFFFFF), (8, 0xFFFC0C00), (9, 0x01FFFFFF),
          (10, 2), (11, 64), (12, 64), (13, 4), (14, 64)], none),
        (.copyConv 4 6 8, 5, 0xFFFFFFFF, [(0, 0x25), (2, 0xFFFC0400), (3, 0x01FFFFFF), (4, 0xFFFC0800), (5, 0x01FFFFFF), (8, 0x10001), (9, 0x10001),
          (10, 0x01010101), (11, 0x01010000), (12, 0x10001), (14, 1), (15, 1)], none)],
      let s := copyS c.1 c.2.2.1 c.2.2.2.1
      clearB c.1 (cxAt c.1 s) s = true ∧ copyB (cxAt c.1 s) s (fun u w =>
        pbRing w = 0 && reasonOf (cxAt c.1 s) s c.2.1 w [] = c.2.2.2.2 && queueRoom (cxAt c.1 s) u) = true) ∧
    ∀ c ∈ [(0, 0), (0, 1), (0x800, 0), (0x800, 1), (0x800, 2), (0x1800, 2)],
      let i : Instr := .copyTile 4 6 8
      let s := copyS i 0xFFFFFFFF (tilePb c.1 c.2)
      clearB i (cxAt i s) s = true ∧ copyB (cxAt i s) s (fun u w =>
        let u1 := u.modCore (cxAt i s).core (fun x => { x with pbcache := [((cxAt i s).bid, u.paramTag (cxAt i s).viewer (localBase + 256), w.map (BitVec.ofNat 32))] })
        match dataOf (cxAt i s) u1 ((cxAt i s).wordReqs (pbSrc w) 4) with
        | some (v, hs) => v.block? (cxAt i s).bid = some (cxAt i s).b && decide ((headerOf (valuesOf 4 4 hs)).map Header.state = some c.2) &&
            pbRing w = 0 && reasonOf (cxAt i s) s 1 w (valuesOf 4 4 hs) = none && queueRoom (cxAt i s) v
        | none => false) = true := by
  refine ⟨in_state (.copy 4 6 8) (world (.copy 4 6 8) 31 2 (withRegs (copyRegs 0xFFFC0104 0xFFFFFFFF)) id) ⟨clear_of (by decide +kernel), by decide +kernel⟩,
    in_state (.copy 4 6 8) (world (.copy 4 6 8) 31 2 (withRegs [(6, 0x40004000), (9, 0xFFFFFFFF)]) paged)
      ⟨clear_of (by decide +kernel), by decide +kernel, by decide +kernel⟩, by decide +kernel, by decide +kernel⟩

/-- Copies in each of their states: queued, started, half moved, moved, with the source free; a gather, with good indices and with a bad
one, that a later copy follows; and the bad one after its fault. -/
def queuedS (i : Instr) (xs : List (Nat × Nat)) : State := { after i (copyS i 0xFFFFFFFF xs) with issue := none }
def gather : List (Nat × Nat) := [(0, 2), (2, 0xFFFC0400), (3, 0x01FFFFFF), (4, 0xFFFC0800), (5, 0x01FFFFFF), (8, 0xFFFC0C00), (9, 0x01FFFFFF), (10, 2),
  (11, 64), (12, 64), (13, 4), (14, 64)]
def copyQueued : State := queuedS (.copy 4 6 8) ((192, 0x11223344) :: twoRows)
def copyStarted : State := onward (.copyStart 0 1) copyQueued
def copyHalf : State := onward (.copyLineArrival 0 1) copyStarted
def copyMoved : State := onward (.copyLineArrival 0 1) copyHalf
def copyFree : State := onward (.copySourceRelease 0 1) copyMoved
def another (s : State) : State :=
  { s with cores := s.cores.map (fun (e : Nat × Core) => (e.1, { e.2 with copies := e.2.copies ++ e.2.copies.map (fun c => { c with opid := 2 }) })) }
def gathQueued (bad : Nat) : State := another (queuedS (.copyGath 4 6 8) ((705, bad) :: gather))
def gathFailed : State := onward (.copyStart 0 1) (gathQueued 7)

/-- The premises that the parts of CopyEngine share, with those of one part. -/
def moverB (s : State) (q : Block → Copy → Bool) : Bool := match s.copyOf 0 1 with
  | some (b, c) => decide (c.ticket = none) && q b c
  | none => false

theorem mover_of {s : State} {q : Block → Copy → Bool} (h : moverB s q = true) : ∃ b c, s.block? 0 = some b ∧
    (s.core b.core).copies.find? (fun x => x.bid = 0 && x.opid = 1) = some c ∧ c.ticket = none ∧ q b c = true := by
  unfold moverB State.copyOf at h
  split at h
  · rename_i b c e
    simp only [Bool.and_eq_true, decide_eq_true_eq] at h
    split at e
    · cases e
    · rename_i b' hb
      simp only [Option.map_eq_some_iff, Prod.mk.injEq] at e
      obtain ⟨c', e1, e2, e3⟩ := e
      subst e2 e3
      exact ⟨b', c', hb, e1, h.1, h.2⟩
  · cases h

/-- The indices that the engine reads. -/
def readsIndices (s : State) (n : Nat) (b : Block) (c : Copy) : Bool := match State.engineRead (c.mover b) (chunksOf (pbIdx c.words) (4 * pbRows c.words)) s with
  | .ok u bs => valuesOf 4 (pbRows c.words) bs = [0, n] && decide (((u.core b.core).copies.map Copy.opid) = [1, 2])
  | _ => false

/-- The line that the engine moves next. -/
def movesLine (s : State) (b : Block) (c : Copy) : Bool :=
  let w := c.words
  let va := addrPlus (addrPlus (pbDst w) (pbDStride w * (c.row : Nat))) c.col
  let src := addrPlus (addrPlus (pbSrc w) (pbSStride w * (c.row : Nat))) c.col
  let n := min (pbRowBytes w - c.col) (128 - va % 128)
  match State.engineRead (c.mover b) (chunksOf src n) s with
  | .ok u bs => match u.engineWrite (c.mover b) va bs with
    | .ok v () => decide ((v.core b.core).copies.map Copy.opid = [1])
    | _ => false
  | _ => false

/-- Tile copies of frames in each STATE, with some words changed; a scatter, a reduction and a convolution that have started (R387 to R391). -/
def tileQueued (flags state : Nat) (xs : List (Nat × Nat)) : State := queuedS (.copyTile 4 6 8) (xs ++ tilePb flags state)
def scatStarted : State :=
  onward (.copyStart 0 1) (queuedS (.copyScat 4 6 8) ([(704, 3), (705, 1), (192, 0x55667788), (0, 3)] ++ gather.filter (fun e => e.1 ≠ 0)))
def redStarted : State := onward (.copyStart 0 1) (queuedS (.copyRed 4 6 8) ((192, 7) :: redWord :: twoRows))
def convPb : List (Nat × Nat) := [(0, 0x25), (2, 0xFFFC0400), (3, 0x01FFFFFF), (4, 0xFFFC0800), (5, 0x01FFFFFF), (8, 0x10001), (9, 0x10001),
  (10, 0x01010101), (11, 0x01010000), (12, 0x10001), (14, 1), (15, 1), (192, 0x11)]
def convStarted : State := onward (.copyStart 0 1) (queuedS (.copyConv 4 6 8) convPb)

/-- The frame that the engine reads. -/
def readsFrame (s : State) (q : Header → Tile → Strip → Bool) : Bool := moverB s (fun b c => c.phase = 0 && c.kind = 1 &&
  (earlierCopies 0 1 (s.core b.core).copies).isEmpty && !s.loadsUnder b.core (c.srcLocks ++ c.dstLocks) && match headerOf c.header with
  | none => false
  | some h =>
    let parts := (0, 16) :: h.parts (h.state ≠ 0)
    match State.engineRead (c.mover b) (parts.flatMap (fun r => chunksOf (pbSrc c.words + r.1) r.2)) s with
    | .ok u bs => decide ((u.core b.core).copies.map Copy.opid = [1]) &&
        q h (h.tile (partBytes parts bs)) (stripOf h.geom (partBytes parts bs h.y (stripBytes h.geom)))
    | _ => false)

/-- The verdict of R320 on the frame: it passes, one element, one entry, or a mismatch. -/
def verdict (s : State) (v : Nat) : Bool := readsFrame s (fun h t o => h.state = 1 && (match t.compare o with
  | .pass => v = 0
  | .element .. => v = 1
  | .entry _ => v = 2
  | .mismatch _ => v = 3))

theorem witness_tile_copies : verdict (tileQueued 0 1 []) 0 = true ∧ verdict (tileQueued 0 1 [(196, 5)]) 1 = true ∧
    verdict (tileQueued 0 1 [(204, 5)]) 2 = true ∧ verdict (tileQueued 0 1 [(196, 5), (201, 7)]) 3 = true ∧
    (∀ e ∈ [(0, 0), (0, 2), (0x1800, 0), (0x1800, 2)], readsFrame (tileQueued e.1 e.2 []) (fun h _ _ => h.state = e.2) = true) ∧
    moverB (onward (.copyStart 0 1) (tileQueued 0 1 [])) (fun b c => c.phase = 1 && c.kind = 1 && match c.work with
      | e :: _ => match (onward (.copyStart 0 1) (tileQueued 0 1 [])).engineWrite (c.mover b) e.1 e.2 with
        | .ok v () => decide ((v.core b.core).copies.map Copy.opid = [1])
        | _ => false
      | [] => false) = true := by decide +kernel

/-- The piece of an indexed row, and the element of a reduction, that the engine moves next. -/
def movesPiece (s : State) (kind n : Nat) : Bool := moverB s (fun b c =>
  let w := c.words
  let dstRow := if c.kind = 3 then c.indices.getD c.row 0 else c.row
  let srcRow := if c.kind = 2 then c.indices.getD c.row 0 else c.row
  let va := addrPlus (addrPlus (pbDst w) (pbDStride w * (dstRow : Nat))) c.col
  let src := addrPlus (addrPlus (pbSrc w) (pbSStride w * (srcRow : Nat))) c.col
  c.phase = 1 && c.kind = kind && (kind ≠ 4 || pbSize w = n) && (kind = 4 || min (pbRowBytes w - c.col) (128 - va % 128) = n) &&
    match State.engineRead (c.mover b) (chunksOf src n) s with
    | .ok u bs => if kind = 4 then (match u.engineUpdate (c.mover b) 4 (1 < pbFmt w) (some c.interval) va (pbSize w)
          (fun old => atomLeaves (if pbFmt w ≤ 1 then 1 else 0) (pbSize w) old (ofBytes bs)) with
        | .ok v () => decide ((v.core b.core).copies.map Copy.opid = [1])
        | _ => false)
      else (match u.engineWrite (c.mover b) va bs with
        | .ok v () => decide ((v.core b.core).copies.map Copy.opid = [1])
        | _ => false)
    | _ => false)

theorem witness_indexed_copies : movesPiece scatStarted 3 64 = true ∧ movesPiece redStarted 4 4 = true ∧
    (Tab.look scatStarted.cores 0).map (fun c => c.copies.map Copy.indices) = some [[3, 1]] := by decide +kernel

/-- The parameters of the convolution, and whether it can move its only element. -/
def convWords : List Nat := (List.range 16).map (fun n => (convPb.lookup n).getD 0)
def movesElement (b : Block) (c : Copy) : Bool := c.phase = 1 && c.kind = 5 && c.row = 0 && c.col = 0 && c.words = convWords &&
  match State.engineRead (c.mover b) (chunksOf (addrPlus (pbSrc convWords) 0) 1) convStarted with
  | .ok u bs => match u.engineWrite (c.mover b) (pbDst convWords) bs with
    | .ok v () => decide ((v.core b.core).copies.map Copy.opid = [1])
    | _ => false
  | _ => false

/-- The only element of a convolution comes from the source, and goes to the destination. -/
theorem witness_convolution : ∃ b c u v bs, convStarted.block? 0 = some b ∧
    (convStarted.core b.core).copies.find? (fun x => x.bid = 0 && x.opid = 1) = some c ∧ c.ticket = none ∧ c.phase = 1 ∧ c.kind = 5 ∧
    c.row = 0 ∧ c.col = 0 ∧ pbSize c.words = 1 ∧ ConvRow (c.mover b) c.words 0 [0] convStarted u bs ∧
    u.engineWrite (c.mover b) (pbDst c.words) bs = .ok v () ∧ (v.core b.core).copies.map Copy.opid = [1] := by
  obtain ⟨b, c, hb, hc, ht, h⟩ := mover_of (s := convStarted) (q := movesElement) (by decide +kernel)
  have gives : ConvGives convWords 0 0 (.at_ (addrPlus (pbSrc convWords) 0)) := by unfold ConvGives; decide +kernel
  simp only [movesElement, Bool.and_eq_true, decide_eq_true_eq] at h
  obtain ⟨⟨⟨⟨⟨h1, h2⟩, h3⟩, h4⟩, h5⟩, h⟩ := h
  split at h
  · rename_i u bs hr
    split at h
    · rename_i v hw
      refine ⟨b, c, u, v, bs ++ [], hb, hc, ht, h1, h2, h3, h4, by rw [h5]; decide +kernel, ?_, by rw [h5, List.append_nil]; exact hw, by simpa using h⟩
      rw [h5]
      exact .read 0 _ [] _ _ _ _ _ gives hr (.nil u)
    · cases h
  · cases h

theorem witness_CopyEngine :
    moverB copyQueued (fun b c => c.phase = 0 && c.kind = 0 && (earlierCopies 0 1 (copyQueued.core b.core).copies).isEmpty &&
      !copyQueued.loadsUnder b.core (c.srcLocks ++ c.dstLocks)) = true ∧
    moverB (gathQueued 3) (fun b c => c.phase = 0 && c.kind = 2 && pbLimit c.words = 4 && readsIndices (gathQueued 3) 3 b c &&
      !(gathQueued 3).loadsUnder b.core (c.srcLocks ++ c.dstLocks)) = true ∧
    moverB (gathQueued 7) (fun b c => c.phase = 0 && c.kind = 2 && pbLimit c.words = 4 && readsIndices (gathQueued 7) 7 b c) = true ∧
    moverB copyMoved (fun _ c => c.phase = 2 && c.status = 1 && c.kind = 0 && !c.srcLocks.isEmpty) = true ∧
    moverB copyStarted (fun b c => c.phase = 1 && c.kind = 0 && movesLine copyStarted b c) = true ∧
    moverB copyHalf (fun b c => c.phase = 1 && c.kind = 0 && c.row = 1 && movesLine copyHalf b c) = true ∧
    moverB gathFailed (fun _ c => c.fault.isSome && ((gathFailed.gang? (gangId 0 31)).any (fun g => !g.ended))) = true ∧
    moverB copyFree (fun b c => c.phase = 2 && c.fault = none && c.done = 0 && (earlierCopies 0 1 (copyFree.core b.core).copies).isEmpty &&
      pbRing c.words = 0 && pbScope c.words = 0 && c.bar = 0xFFFFFFFF && !copyFree.boundaryWaits b) = true := by decide +kernel

/-- The last row of a copy stands at the destination (R386), and the copy that follows a failed one is cancelled (R397). -/
theorem test_copy_moves : Memory.byte? copyMoved.mem (stashKey 0 2048) = some 0x44 := by decide +kernel
theorem test_copy_cancels : ((onward (.copyFault 0 1) gathFailed).core 0).copies.map (fun c => (c.opid, c.status, c.phase)) = [(1, 2, 2), (2, 3, 2)] := by
  decide +kernel

/-! ### System instructions -/

/-- Words in memory, at rising addresses. -/
def memWords (xs : List (Nat × Nat)) (s : State) : State :=
  { s with mem := xs.flatMap (fun e => (bytesOf 4 e.2).zipIdx.map (fun b => (e.1 + b.2, b.1))) }
/-- The 16 words at an address. -/
def wordsAt (a : Nat) (xs : List (Nat × Nat)) : List (Nat × Nat) := (List.range 16).map (fun n => (a + 4 * n, (xs.lookup n).getD 0))
def system (xs : List (Nat × Word)) (g : Gang) : Gang := atSystem (withRegs xs g)
/-- A descriptor of an identifier: bind or unbind, with its fault queue. -/
def descWords (binds fqbase fqsize : Nat) : List (Nat × Nat) := wordsAt 0x8000 [(0, binds), (2, 0x20000), (6, fqbase), (8, fqsize)]
def setS (pa id : Word) (xs : List (Nat × Nat)) : State :=
  world (.asidset 4 6 8) 0 0 (system [(6, pa), (8, id)]) (fun s => { memWords xs s with
    transRecs := [⟨1, 3, false, false, 0, 0, []⟩]
    fqdrop := [(0, 0)] })
/-- A leaf of a page with, or without, PULL. -/
def leafWords (n old : Nat) : List (Nat × Nat) := [(0x20000 + 8 * n, old % 2 ^ 32), (0x20004 + 8 * n, old / 2 ^ 32)]
def gateS (w0 old : Nat) (taken : Bool) : State :=
  world (.mgate 4 6) 0 0 (system [(6, 0x8000)]) (fun s => { memWords (wordsAt 0x8000 [(0, w0), (2, 0x40000), (4, 0x20000), (6, 0x3003F), (7, 0x10000000),
      (8, 0x50000), (10, 0x9000), (12, 0xA000)] ++ leafWords 0 old) s with
    migrations := if taken then [(0, ⟨0, 0, 0, 0, 0, 0, 0, false⟩)] else [] })

theorem witness_TranslationInvalidation : ∀ i ∈ [Instr.tlbinvPage 6 8, .tlbinvAsid 8, .tlbinvAll],
    ready 0 0 (system [(6, 0x8000), (8, 3)]) id i = true ∧ (world i 0 0 (system [(6, 0x8000), (8, 3)]) id).loadsPending (fun _ => true) = false ∧
      Orderly (world i 0 0 (system [(6, 0x8000), (8, 3)]) id) 0 := by
  have h : ∀ i ∈ [Instr.tlbinvPage 6 8, .tlbinvAsid 8, .tlbinvAll], ready 0 0 (system [(6, 0x8000), (8, 3)]) id i = true ∧
    (world i 0 0 (system [(6, 0x8000), (8, 3)]) id).loadsPending (fun _ => true) = false := by decide +kernel
  exact fun i hi => ⟨(h i hi).1, (h i hi).2, orderly_of rfl rfl (by show LinkMode.coherent ≠ .down; decide)⟩

/-- asidset with each status, and as a first binding, a binding anew and an unbinding; mgate with each status. -/
theorem witness_IdentifiersAndMigrations :
    (∀ c ∈ [((2048 : Word), descWords 0 0 0, 1), (1, descWords 2 0 0, 2), (0, descWords 0 0 0, 3),
        (0, descWords 1 0x30000 64 ++ [(0x400000, 1), (0x400004, 0)], 4), (3, descWords 0 0 0, 0), (2, descWords 1 0x30000 64, 0),
        (0, descWords 1 0x400000 64, 0), (0, descWords 1 0x30000 64 ++ [(0x400000, 1), (0x400004, 1)], 0)],
      let s := setS 0x8000 c.1 c.2.1
      let cx := cxAt (.asidset 4 6 8) s
      let id := (cx.rd s cx.lowPhys 8).toNat
      let used := s.teams.any (fun e => e.2.asid = id) || s.queues.any (fun e => e.2.bound = some id)
      clearB (.asidset 4 6 8) cx s = true ∧ s.loadsPending (fun _ => true) = false ∧ s.migrations = [] ∧ s.hbm = [] ∧ c.2.2 =
        (if 2047 < id then 1 else match s.descriptor (cx.rd2 s cx.lowPhys 6), Tab.look s.identifiers id with
          | none, _ => 2
          | some (false, _), _ => if used then 3 else 0
          | some (true, _), none => 0
          | some (true, x), some o => if (o.fqbase = x.fqbase ∧ o.fqsize = x.fqsize) ∨
              s.deviceNat 60 o.fqbase 4 = s.deviceNat 60 (o.fqbase + 4) 4 then 0 else 4)) ∧
    ∀ c ∈ [(0x2000, 0x5003F, false, 2), (0, 0x5003F, true, 1), (0, 0, false, 3), (0, 0x5003F, false, 0)],
      let s := gateS c.1 c.2.1 c.2.2.1
      let cx := cxAt (.mgate 4 6) s
      clearB (.mgate 4 6) cx s = true ∧ s.loadsPending (fun _ => true) = false ∧ s.migrations.all (fun m => !m.2.pulling) = true ∧
        s.hbm = [] ∧ c.2.2.2 = (match s.migration (cx.rd2 s cx.lowPhys 6) with
        | none => 2
        | some (m, pte, leaf) => let old := s.deviceNat 59 pte 8
          if (Tab.look s.migrations (pteMig leaf)).isSome then 1
          else if pteValid old && pteLeaf old && !malformed (3 - m.size) old && pteAddr old = m.oldPa && !ptePull old then 0 else 3) := by
  decide +kernel

def launchI : Instr := .launch 4 6 (.reg 8)
def launchS (q : Word) (bound : Option Nat) (token : Nat) : State :=
  world launchI 0 0 (withRegs [(6, 0xFFFC0100), (7, 0x01FFFFFF), (8, q)]) (fun s => { pbWords [(3, 0x77), (13, token)] s with
    queues := [(5, { State.reset.queue 5 with bound := bound })] })
def sendI : Instr := .amsend 4 6 (.reg 8)
def sendS (dst ctl : Word) (die : Nat) : State :=
  world sendI 0 0 (withRegs [(4, dst), (6, 0x77), (7, 0x88), (8, ctl)]) (fun s => { s with
    dies := [(0, { State.reset.die 0 with state := die })] })

/-- A launch to no queue, to one that another identifier has, and to one that takes the packet, without a completion token and with one;
a message with a reserved bit, to no core, to a die that is down, and one that goes; tracing switched and a mark. -/
theorem witness_LaunchesMessagesTraces :
    (∀ c ∈ [((128 : Word), some 0, 0), (5, none, 0), (5, some 0, 0), (5, some 0, 7)],
      let s := launchS c.1 c.2.1 c.2.2
      let cx := cxAt launchI s
      clearB launchI cx s = true ∧ passB cx s packetHow noOwn [⟨cx.low, cx.lowPhys, cx.rd2 s cx.lowPhys 6, 64⟩] ⟨true, false, 3⟩
        (fun _ ps => ps.length = 1) = true ∧ ((⟨cx, s⟩ : Lanes).src cx.lowPhys (.reg 8)) = c.1 ∧ (s.queue 5).bound = c.2.1 ∧ cx.asid = 0 ∧
        (s.queue 5).full = false ∧ s.ports.isEmpty = true) ∧
    (∀ c ∈ [((0 : Word), (0x11000 : Word), 0), (1600, 0x205, 0), (0, 0x205, 1), (3, 0x205, 0)],
      let s := sendS c.1 c.2.1 c.2.2
      let cx := cxAt sendI s
      clearB sendI cx s = true ∧ cx.rd s cx.lowPhys 4 = c.1 ∧ ((⟨cx, s⟩ : Lanes).src cx.lowPhys (.reg 8)) = c.2.1 ∧
        cx.badPayload 6 2 = none ∧ (s.die 0).state = c.2.2 ∧ s.hasEntry 3 cx.b.handler = true ∧ s.block? cx.b.bid = some cx.b ∧
        (s.core cx.core).l1 = [] ∧ cx.b.dirty = []) ∧
    (∀ i ∈ [Instr.trctl true, .trctl false, .trmark 7], ready 0 0 (fun g => { g with trace := true }) id i = true) := by decide +kernel

/-- A message that finds a handler at 0x4004; one whose core has no free entry; one to a peer without a route, and with one. -/
theorem witness_messages :
    (let s := world sendI 0 0 (withRegs [(4, 3), (6, 0x77), (7, 0x88), (8, 0x205)]) (fun s =>
        { paged s with mem := (bytesOf 9 0x10000000000004004).zipIdx.map (fun e => (0x50 + e.2, e.1)) ++ (paged s).mem })
      let cx := cxAt sendI s
      clearB sendI cx s = true ∧ s.hasEntry 3 cx.b.handler = true ∧ cx.b.dirty = [] ∧ cx.b.handler = false ∧
        (cx.boundBefore s ⟨true, false, 3⟩).handlerPc 3 ⟨s.nextId, 3, false, [0x77, 0x88], 5, 0, none, cx.b.slot, cx.asid, false⟩ = some 0x4004 ∧ (s.core cx.core).l1 = [] ∧
        s.block? cx.b.bid = some cx.b ∧ s.handlerWaits 3 ⟨s.nextId, 3, false, [0x77, 0x88], 5, 0, none, cx.b.slot, cx.asid, false⟩ = false) ∧
    (let s := world sendI 0 0 (withRegs [(4, 3), (6, 0x77), (7, 0x88), (8, 0x205)]) (fun s =>
        { s with cores := [(3, { s.core 3 with msgs := List.replicate 48 ⟨9, 3, false, [], 5, 0, none, 0, 0, false⟩ })] })
      let cx := cxAt sendI s
      clearB sendI cx s = true ∧ s.hasEntry 3 cx.b.handler = false ∧ cx.badPayload 6 2 = none) ∧
    ∀ e ∈ [((3 : Nat), false), (0, true)],
      let s := world sendI 0 0 (withRegs [(4, BitVec.ofNat 32 (e.1 * 2 ^ 12 + 2 ^ 11 + 3)), (6, 0x77), (7, 0x88), (8, 0x205)])
        (fun s => { s with routes := [(0, ⟨[1], 0⟩)] })
      let cx := cxAt sendI s
      clearB sendI cx s = true ∧ cx.badPayload 6 2 = none ∧ s.routed e.1 = e.2 ∧ cx.remoteOut s ⟨true, false, 4⟩ = false ∧ cx.peerLost s ⟨true, false, 4⟩ = none ∧
        s.block? cx.b.bid = some cx.b ∧ cx.b.dirty = [] := by decide +kernel

/-! ### Blocks and teams -/

/-- A launch packet of two blocks of one gang, 512 bytes of stash, that enters at 0x4004. -/
def packetWords : List Word := [1, 0x600, 2, 0x04060801, 0x4004, 0, 0, 0, 0, 0, 0, 0, 0, 0, 0, 0]
/-- A device with a packet in queue 5, bound to identifier 0; after the scheduler has taken it; with a block placed; with both; with the
first, and then both, started; and with the gang of the first ended. -/
def queueS : State :=
  { paged State.reset with
    identifiers := [(0, ⟨0x100000, 0x10004, 0x400000, 64, 0⟩)]
    queues := [(5, { State.reset.queue 5 with
      en := true
      bound := some 0
      packets := [(9, packetWords)] })]
    link := .coherent }
def takenS : State := onward .schedulerTake queueS
def placedS : State := onward (.blockPlace 9) takenS
def bothS : State := onward (.blockPlace 9) placedS
def startedS : State := onward (.blockStart 0) bothS
def begunS : State := onward (.blockStart 1) startedS
def endedS : State :=
  { begunS with gangs := begunS.gangs.map (fun (e : Nat × Gang) => (e.1, if e.2.bid = 0 then { e.2 with ended := true } else e.2)) }
def inTeam (f : Team → Team) (s : State) : State := { s with teams := s.teams.map (fun (e : Nat × Team) => (e.1, f e.2)) }
/-- The state after a step that gives one. -/
def reached (x : Host.Outcome State Fault Refusal) : State := match x with
  | .next t => t
  | _ => State.reset
/-- One block, not started yet, of a team in a state; one that has started. -/
def oneS (st : TeamState) (s : State) : State := { inTeam (fun x => { x with state := st }) s with blocks := s.blocks.take 1 }
/-- The second block is not started, and stands on the core of the first, whose team is being saved. -/
def stagedS : State :=
  { inTeam (fun x => { x with state := .saving }) startedS with
    blocks := startedS.blocks.map (fun (e : Nat × Block) => (e.1, { e.2 with core := 0 })) }
/-- A block as a save left it, with an image of no section; its area in memory. -/
def emptyImage : List Byte := bytesOf 4 1 ++ bytesOf 4 16 ++ bytesOf 8 0
def savedOf (s : State) : List SavedBlock := (s.blocks.take 1).map (fun e => ⟨e.2, (s.gangs.take 1).map Prod.snd, [], emptyImage, 0x200000⟩)
def restoringS (zs : List SavedBlock) : State :=
  { inTeam (fun x => { x with
      state := .restoring
      area := 0x200000
      savedBlocks := zs }) begunS with
    blocks := []
    gangs := []
    mem := begunS.mem ++ emptyImage.zipIdx.map (fun e => (0x200000 + e.2, e.1)) }

theorem witness_BlockLives :
    (∃ ws rest, queueS.nextQueue = some 5 ∧ (queueS.queue 5).packets = (9, ws) :: rest ∧ (queueS.queue 5).bound = some 0 ∧
      queueS.migrations = [] ∧ queueS.imageWaits 0 (launchOf ws) = false ∧ queueS.rejectReason 0 (launchOf ws) = none ∧ (launchOf ws).blocks ≠ 0 ∧ (launchOf ws).cores = 0) ∧
    (∃ x, takenS.team? 9 = some x ∧ x.tid = 9 ∧ (launchOf x.packet).cores = 0 ∧ x.waited = false ∧ takenS.placement x = some [(0, 8192)] ∧
      takenS.outranked x = false ∧ takenS.freeSlot = some 0) ∧
    (∀ e ∈ takenS.blocks, e.2.core = 0 → e.2.handler = true) ∧ (takenS.core 0).cupboard = none ∧ Orderly takenS 0 ∧
    (∃ b x y, stagedS.block? 1 = some b ∧ b.core = 0 ∧ b.started = false ∧ (stagedS.core 0).cupboard = none ∧ (0, x) ∈ stagedS.blocks ∧ x.core = 0 ∧
      x.handler = false ∧ stagedS.team? x.team = some y ∧ y.state = .saving ∧ stagedS.nextImage 0 1 = some [] ∧
      stagedS.nextWaits 1 = false) ∧
    (∃ b x xs, startedS.block? 1 = some b ∧ startedS.team? b.team = some x ∧ b.started = false ∧ x.state = .live ∧ x.begun = true ∧
      startedS.staged b.core 1 = none ∧ startedS.launchBytes x.asid (launchOf x.packet) = some [] ∧
      startedS.imageWaits x.asid (launchOf x.packet) = false ∧ startedS.migrations = [] ∧
      launchSections (launchOf x.packet) [] = some xs ∧ (launchOf x.packet).gangs.Nodup ∧ ∀ n ∈ (launchOf x.packet).gangs, n < 32) ∧
    ∃ b x, endedS.block? 0 = some b ∧ b.bid = 0 ∧ endedS.team? b.team = some x ∧ endedS.blockDone b = true ∧ x.state = .live ∧ b.dirty = [] ∧
      x.queue ≠ 128 ∧ x.ended + 1 < (launchOf x.packet).blocks ∧ x.ended + 1 < 2 ^ 24 := by
  refine ⟨⟨packetWords, [], by decide +kernel⟩, ⟨((takenS.team? 9).getD (Team.fresh 0 0 0 [] 0)), by decide +kernel⟩, by decide +kernel, by decide +kernel,
    orderly_of (by decide +kernel) (by decide +kernel) (by decide +kernel),
    ⟨(stagedS.block? 1).getD (Block.fresh 0 0 0 0 0 0 false [] 0 0 0 false), (stagedS.block? 0).getD (Block.fresh 0 0 0 0 0 0 false [] 0 0 0 false),
      (stagedS.team? 9).getD (Team.fresh 0 0 0 [] 0), by decide +kernel⟩,
    ⟨(startedS.block? 1).getD (Block.fresh 0 0 0 0 0 0 false [] 0 0 0 false), (startedS.team? 9).getD (Team.fresh 0 0 0 [] 0), [], by decide +kernel⟩,
    ⟨(endedS.block? 0).getD (Block.fresh 0 0 0 0 0 0 false [] 0 0 0 false), (endedS.team? 9).getD (Team.fresh 0 0 0 [] 0), by decide +kernel⟩⟩

/-- The block that ends leaves its core; the team goes on with one ended. -/
theorem test_block_ends : ((onward (.blockEnd 0) endedS).team? 9).map Team.ended = some 1 ∧ (onward (.blockEnd 0) endedS).block? 0 = none := by decide +kernel

/-- A team in a state, with the blocks it has there. -/
def teamB (s : State) (n : Nat) (q : Team → List Block → Bool) : Bool := match s.team? 9 with
  | some x => decide (x.tid = 9) && decide (s.link ≠ .down) && decide ((s.blocksOf 9).length = n) &&
      (s.blocksOf 9).all (fun b => b.copies = 0 && b.mops = 0) && q x (s.blocksOf 9)
  | none => false

theorem team_of {s : State} {n : Nat} {q : Team → List Block → Bool} (h : teamB s n q = true) : ∃ x, s.team? 9 = some x ∧ x.tid = 9 ∧ s.link ≠ .down ∧
    (s.blocksOf 9).length = n ∧ (∀ b ∈ s.blocksOf 9, b.copies = 0 ∧ b.mops = 0) ∧ q x (s.blocksOf 9) = true := by
  unfold teamB at h
  split at h
  · simp only [Bool.and_eq_true, decide_eq_true_eq, List.all_eq_true] at h
    exact ⟨_, ‹_›, h.1.1.1.1, h.1.1.1.2, h.1.1.2, h.1.2, h.2⟩
  · cases h

/-- A block that a save takes at once. -/
def savable (s : State) (b : Block) : Bool := b.dirty.isEmpty && s.block? b.bid = some b && s.quiet b && !s.wraps b &&
  b.gangs.all (fun n => (s.gang? (gangId b.bid n)).all (fun g => g.recruits.isEmpty)) && s.hbm.all (fun e => !e.2.retraining)

/-- A team that waits for places, with a saved block. -/
theorem witness_restore :
    teamB (restoringS (savedOf begunS)) 0 (fun x _ => x.state = .restoring && x.savedBlocks = savedOf begunS &&
      (restoringS (savedOf begunS)).restorePlan x = some [(0, 8192)] && !(restoringS (savedOf begunS)).outranked x &&
      x.requeued.isEmpty && (restoringS (savedOf begunS)).staged 0 0 = none && (restoringS (savedOf begunS)).savedSections 0x200000 16 = some [] &&
      (savedOf begunS).all (fun z => !(restoringS (savedOf begunS)).savedWaits z) && begunS.migrations.isEmpty && ((restoringS (savedOf begunS)).freeSlot).isSome &&
      (savedOf begunS).all (fun z => (z.gangs.map Gang.num).Nodup)) = true := by
  decide +kernel

/-- A gang with two splits and an armed join record, with tile tags and accumulation records: what an image holds (R317, R366, R403,
R404, R418). -/
def tabled : Gang :=
  { timedOut (Gang.fresh 0 0 1 256 false false false 0x10004 0 0 0) with
    tags := [⟨64, 5, 3, true⟩, ⟨32, 0x1F, 2, false⟩]
    accs := [⟨8, 3, 5, [2], [7, 9]⟩] }

theorem witness_places : tabled.tree.splits ≠ [] ∧ tabled.tree.recs ≠ [] ∧ tabled.tree.savable ∧ (∀ l ∈ tabled.layers, l.tree.savable) ∧
    tabled.tablesSavable ∧ tabled.role = 1 := by
  unfold Tree.savable Gang.tablesSavable Tab.wf
  decide +kernel

/-- The block's only split waits for a peer (R226). -/
def peerSplit (e : Nat × Split) : Nat × Split := (e.1, { e.2 with park := .remote 8 4 false 0 [] })
def peerGang (e : Nat × Gang) : Nat × Gang := (e.1, { e.2 with tree := { e.2.tree with splits := e.2.tree.splits.map peerSplit } })

theorem witness_unanswered :
    let s := { oneS .live begunS with gangs := (begunS.gangs.take 1).map peerGang }
    teamB s 1 (fun x bs => x.state = .live && bs.all (fun b => b.gangs = [0] && (s.gang? (gangId b.bid 0)).any (fun g =>
      g.tree.splits.length = 1 && g.tree.splits.all (fun y => y.2.park.atPeer && y.2.park.unanswered)))) = true := by
  decide +kernel

/-- A request, a restore and an end; a team to discard; one to save without a block, with one that has started and with one that has not;
one to restore without a block; and one to abort. -/
theorem witness_TeamLives :
    teamB begunS 2 (fun x _ => x.state = .live) = true ∧ begunS.gangs.all (fun e => e.2.tree.splits.all (fun y => !y.2.park.atPeer)) = true ∧ teamB (oneS .saved begunS) 1 (fun x _ => x.state = .saved && x.area = 0) = true ∧
    teamB (oneS .discarding begunS) 1 (fun x _ => x.state = .discarding && !x.waited && x.request = none) = true ∧
    teamB { oneS .saving begunS with blocks := [] } 0 (fun x _ => x.state = .saving && x.request = none && x.savedBlocks.isEmpty && begunS.hbm.all (fun e => !e.2.retraining)) = true ∧
    teamB (oneS .saving begunS) 1 (fun x bs => x.state = .saving && x.request = none && x.savedBlocks.isEmpty && bs.all (savable (oneS .saving begunS))) =
      true ∧
    teamB (oneS .saving bothS) 1 (fun x bs => x.state = .saving && x.request = none && x.savedBlocks.isEmpty && bothS.hbm.all (fun e => !e.2.retraining) &&
      bs.all (fun b => !b.started && (oneS .saving bothS).block? b.bid = some b)) = true ∧
    teamB (restoringS []) 0 (fun x _ => x.state = .restoring && x.savedBlocks.isEmpty && x.requeued.isEmpty && (restoringS []).restorePlan x = some [] &&
      !(restoringS []).outranked x) = true ∧
    teamB (oneS .ending begunS) 1 (fun x _ => x.state = .ending) = true :=
  ⟨by decide +kernel, by decide +kernel, by decide +kernel, by decide +kernel, by decide +kernel, by decide +kernel, by decide +kernel,
    by decide +kernel, by decide +kernel⟩

/-! ### Control pages and intervals -/

/-- Queue 5 with a binding and some packets; a done token; a trace ring, and one that has lost packets, for a traced gang. -/
def pageS (bound : Option Nat) (n : Nat) (qspill : Nat) : State :=
  { State.reset with
    link := .coherent
    identifiers := [(0, ⟨0x100000, 0x10004, 0x400000, 64, 0⟩), (3, ⟨0x100000, 0x10004, 0x400000, 64, 0⟩)]
    queues := [(5, { State.reset.queue 5 with
      bound := bound
      qspill := qspill
      packets := List.replicate n (9, packetWords) })]
    tokens := [(7, false)] }
def ring (losing : Bool) (size : Nat) : Trace := { (State.reset.core 0).trace with base := 0x10000, size := size, losing := losing, sinceSync := 4096, snap := [(0, 2, 0)], pending := if losing then [(0, 0, true, 4)] else [] }
def tracedS (losing : Bool) : State :=
  world .nop 0 0 (fun g => { g with trace := true }) (fun s => { s with cores := [(0, { s.core 0 with trace := ring losing 4096 })] })

theorem witness_ControlPages :
    (∀ c ∈ [((none : Option Nat), 0), (none, 1), (some 0, 0), (some 0, 31), (some 0, 32)], (pageS c.1 c.2 0).link ≠ .down ∧ ((pageS c.1 c.2 0).queue 5).bound = c.1 ∧
      ((pageS c.1 c.2 0).queue 5).packets.length = c.2 ∧ ((pageS c.1 c.2 0).queue 5).full = decide (c.2 = 32) ∧ (pageS c.1 c.2 0).ports.isEmpty = true) ∧
    Tab.look (pageS none 0 0).identifiers 3 = some ⟨0x100000, 0x10004, 0x400000, 64, 0⟩ ∧ Tab.look (pageS none 0 0).identifiers 2047 = none ∧
    (∀ value ∈ [0, 1 + 8 * 3, 1 + 8 * 2047, 2, 3, 4], value < 2 ^ 14) ∧
    Tab.look (pageS none 0 0).tokens (0 * 2 ^ 32 + 7) = some false ∧ ((List.replicate 64 0 : List Byte)).length = 64 ∧
    ((State.reset.core 1535).trace.size = 0) ∧
    (((tracedS true).core 0).trace.enabled = true ∧ ((tracedS true).core 0).trace.losing = true ∧
      ((tracedS true).core 0).trace.pending ≠ [] ∧ 8 * (2 * ((tracedS true).traceSet 0).length + 2) ≤ ((tracedS true).core 0).trace.free) ∧
    (((tracedS false).core 0).trace.enabled = true ∧ ((tracedS false).core 0).trace.losing = false ∧ (tracedS false).traceSet 0 ≠ [] ∧
      4096 ≤ ((tracedS false).core 0).trace.sinceSync ∧ 16 * ((tracedS false).traceSet 0).length ≤ ((tracedS false).core 0).trace.free) := by
  decide +kernel

/-- Slice 0 of span 2 with a set of sixteen lines whose words wait for core 1 while an access wants room there, and a shelf record of line 16: of one open stamp, or of two slots. -/
def stampOf (slot interval born : Nat) : Stamp := ⟨slot, .thread 0 3, interval, 0, born⟩
def sliceS (marks : List (Nat × Mark)) (f : Block → Block) : State :=
  world .nop 0 0 (fun g => { g with tree := g.tree.modSplit 0 (fun y => { y with park := .resource }) }) (fun s => { s with
    slices := [(32768, [⟨16, none, true⟩]), (32769, (List.range 16).map (fun l => ⟨l, none, false⟩))]
    wants := [⟨32769, 99, 0⟩]
    marks := (List.range 16).map (fun l => (32 * l, ⟨some (stampOf 9 0 1), none, some 1, false⟩)) ++ marks
    boards := [(0, ⟨7, 1, 0⟩), (2, ⟨0, 1, 0⟩), (9, ⟨5, 1, 0⟩)]
    blocks := s.blocks.map (fun (e : Nat × Block) => (e.1, f e.2))
    issue := none })
def fitS : State := sliceS [(512, ⟨some (stampOf 0 7 2), none, none, false⟩)] id
def openS : State := sliceS [(512, ⟨some (stampOf 0 7 2), none, none, false⟩), (513, ⟨some (stampOf 2 0 3), none, none, false⟩)] id
/-- The block is asked to split; its slot is at its last interval, named in the side band or not. -/
def askedS : State := sliceS [] (fun b => { b with closeReq := true })
def lastS (attic : Nat) : State :=
  let s := sliceS [(512, ⟨some (stampOf 0 7 2), none, none, false⟩)] (fun b => { b with wrapping := true })
  { s with boards := [(0, ⟨0x3FFFF, 1, attic⟩)] }
/-- The slot is being purged (R271). -/
def purgingS : State := { lastS 0 with boards := [(0, ⟨0x3FFFF, 2, 0⟩)] }
/-- A record in the side band of a live slot and of a retired one. -/
def sideS (attic : Nat) : State :=
  { State.reset with
    side := [(16, BitVec.ofNat 128 (1 + 2 * 2 ^ 32 + 2 ^ 64 + 2 * 2 ^ 96))]
    boards := [(1, ⟨3, 1, 1⟩), (2, ⟨4, 3, attic⟩)] }

/-- The stack of line 16 is being retrained (R465). -/
def trainingS : State := { sideS 1 with hbm := [(stackOf 16, { State.reset.stack 0 with retraining := true })] }

/-- The premises about the block of slot 0, tested. -/
def blockB (s : State) (q : Block → Bool) : Bool := match s.block? 0 with
  | some b => decide (b.bid = 0) && decide (b.slot = 0) && q b
  | none => false

theorem witness_Intervals :
    (∀ s ∈ [fitS, openS], s.stuckSet 32 = true ∧ s.shelfLines 32 = [16]) ∧ (State.reset.freeTags 32 = 16384 ∧ State.reset.stuckSet 32 = false) ∧
    (isHbm (16 * 128) = true ∧ fitS.fits 16 = true) ∧
    (∃ m : Nat × Stamp × Bool, openS.fits 16 = false ∧ m ∈ openS.openMarks 16 ∧
      (∀ e ∈ openS.openMarks 16, e.2.1.slot = m.2.1.slot ∨ m.2.1.born < e.2.1.born) ∧
      blockB openS (fun b => b.slot = m.2.1.slot && !b.closeSeen && openS.blocks = [(0, b)]) = true) ∧
    (blockB askedS (fun b => b.closeReq && !askedS.boundaryWaits b && b.dirty.isEmpty && b.core = 0 && !b.opened) = true ∧ Orderly askedS 0) ∧
    (∀ n ∈ [2, 0], blockB (lastS n) (fun b => b.wrapping && (lastS n).wraps b && decide (((lastS n).board 0).attic = n) &&
      decide ((lastS n).freeSlot = some 1)) = true) ∧
    blockB purgingS (fun b => b.wrapping && purgingS.wraps b && decide ((purgingS.board 0).attic = 0 ∧ (purgingS.board 0).state = 2)) = true ∧
    (fitS.resident 16 = true ∧ (∀ e ∈ Tab.getD fitS.slices (setKey 16) [], e.line = 16 → e.second ≠ some 16) ∧ fitS.mayLeave 16 = true ∧
      openS.resident 16 = true ∧ openS.mayLeave 16 = false) ∧
    (∀ n ∈ [1, 2], isPoisonRecord ((Tab.getD (sideS n).side 16 0).toNat) = false ∧ recordSlots (Tab.getD (sideS n).side 16 0).toNat = [1, 2] ∧
      ((sideS n).board 1).state = 1 ∧ ((sideS n).board 2) = ⟨4, 3, n⟩ ∧ isHbm (16 * 128) = true ∧ ((sideS n).stack (stackOf 16)).retraining = false) ∧
    (trainingS.stack (stackOf 16)).retraining = true := by
  refine ⟨by decide +kernel, by decide +kernel, by decide +kernel, ⟨(0, stampOf 0 7 2, true), by decide +kernel⟩,
    ⟨by decide +kernel, orderly_of (by decide +kernel) (by decide +kernel) (by decide +kernel)⟩, by decide +kernel, by decide +kernel, by decide +kernel, by decide +kernel, by decide +kernel⟩

/-- Every slot id is in use. -/
def fullS : State := { lastS 2 with boards := (List.range 16384).map (fun k => (k, ⟨0x3FFFF, 1, 2⟩)) }

theorem look_same {α : Type} (v : α) (xs : List Nat) (k : Nat) (h : k ∈ xs) : Tab.look (xs.map (fun i => (i, v))) k = some v := by
  induction xs with
  | nil => simp at h
  | cons x xs ih =>
    simp only [List.map_cons, Tab.look]
    split
    · rfl
    · rename_i hne
      rcases List.mem_cons.mp h with e | e
      · exact absurd e.symm hne
      · exact ih e

theorem witness_full : fullS.freeSlot = none ∧ (fullS.board 0).attic ≠ 0 := by
  have h : ∀ k ∈ List.range 16384, fullS.board k = ⟨0x3FFFF, 1, 2⟩ := fun k hk => by
    simp only [State.board, Tab.getD, fullS, look_same _ _ _ hk, Option.getD_some]
  refine ⟨List.find?_eq_none.mpr (fun k hk => by simp [State.slotFree, h k hk]), ?_⟩
  rw [h 0 (List.mem_range.mpr (by decide))]
  decide

/-! ### Messages, answers and the link -/

/-- Identifier 0 has a handler at 0x4004 for number 5, none for number 6, and an empty fault queue; a message is on its way to core 3, or waits there. -/
def messageOf (handler : Nat) : Message := ⟨1, 3, false, [0x77, 0x88], handler, 0, none, 0, 0, false⟩
def handlerS (flying msgs : List Message) : State :=
  let p := paged State.reset
  { p with
    mem := p.mem.take 16 ++ (bytesOf 8 0x4004 ++ bytesOf 24 1).zipIdx.map (fun e => (0x20050 + e.2, e.1)) ++ p.mem.drop 16 ++
      (List.range 8).map (fun k => (0x400000 + k, 0))
    identifiers := [(0, ⟨0x100000, 0x10004, 0x400000, 64, 0x20000⟩)]
    link := .coherent
    flying := flying
    cores := [(3, { State.reset.core 3 with msgs := msgs })] }
/-- The stack that holds the handler's entry is being retrained (R465). -/
def hotHandlerS : State := { handlerS [messageOf 5] [] with hbm := [(stackOf (0x20050 / 128), { State.reset.stack 0 with retraining := true })] }
/-- A split waits for translation record 1 of identifier 0. -/
def answerS : State :=
  world .nop 0 0 (parked (.translation 1 0x5000 1)) (fun s => { s with
    transRecs := [⟨1, 0, false, false, 0, 0x5000, []⟩]
    issue := none })
/-- The first copy of block 0 waits for translation record 1. -/
def copyWaitS : State :=
  { copyQueued with cores := copyQueued.cores.map (fun (e : Nat × Core) => (e.1, { e.2 with copies := e.2.copies.map (fun c => { c with ticket := some 1 }) })) }
/-- A migration of a 64 KiB page from 0x50000 to 0x30000, with its bitmap at 0x9000: of nothing, of one line, of all but the first, and of everything. -/
def migrationOf : Migration := ⟨0, 0, 0x40000, 0x30000, 0x50000, 0x9000, 0xA000, true⟩
def farDone : Migration := { migrationOf with done := 2 ^ 51 + 2 * 2 ^ 39 }
def pullS (bits : Nat) : State :=
  { State.reset with
    mem := (bytesOf 64 bits).zipIdx.map (fun e => (0x9000 + e.2, e.1)) ++ (bytesOf 4 0x11223344).zipIdx.map (fun e => (0x50000 + e.2, e.1))
    migrations := [(0, migrationOf)]
    slices := [(setKey 0x600, [⟨0x600, none, false⟩])] }

theorem witness_MessagesAndAnswers :
    (∀ h ∈ [5, 6], (handlerS [messageOf h] []).flying = [messageOf h] ∧ (handlerS [messageOf h] []).recordsMessage (messageOf h) = false ∧
      (handlerS [messageOf h] []).hasEntry 3 false = true ∧
      (handlerS [messageOf h] []).handlerWaits 3 (messageOf h) = false ∧ (handlerS [messageOf h] []).migrations = [] ∧
      ((handlerS [messageOf h] []).handlerPc 3 (messageOf h) = if h = 5 then some 0x4004 else none)) ∧
    (hotHandlerS.handlerWaits 3 (messageOf 5) = true ∧ hotHandlerS.flying = [messageOf 5] ∧ hotHandlerS.recordsMessage (messageOf 5) = false) ∧
    (handlerS [messageOf 5] (List.replicate 48 (messageOf 5))).hasEntry 3 false = false ∧
    QueueOpen (handlerS [messageOf 6] []) 0 ⟨0x100000, 0x10004, 0x400000, 64, 0x20000⟩ 0 ∧
    (((handlerS [] [messageOf 5]).core 3).msgs = [messageOf 5] ∧ (handlerS [] [messageOf 5]).handlerPc 3 (messageOf 5) = some 0x4004 ∧
      (handlerS [] [messageOf 5]).freeSlot = some 0 ∧ (handlerS [] [messageOf 5]).handlerWaits 3 (messageOf 5) = false ∧
      ((handlerS [] [messageOf 5]).blocks.filter (fun p => p.2.core = 3 && p.2.handler)).length < 4 ∧
      ((handlerS [] [messageOf 5]).die (dieOf 3)).state = 0) ∧
    (answerS.record? 0 1 ≠ none ∧ answerS.record? 0 2 = none ∧ answerS.link ≠ .down ∧ State.reset.link = .down ∧ ∃ g b p x y, (0, g) ∈ answerS.gangs ∧ answerS.block? g.bid = some b ∧ b.asid = 0 ∧
      (p, x) ∈ g.tree.splits ∧ x.park = .translation 1 0x5000 1 ∧ answerS.team? b.team = some y) ∧
    ((copyWaitS.core 0).copies.all (fun x => x.ticket = some 1 && (copyWaitS.block? x.bid).any (fun b => b.asid = 0 &&
      (copyWaitS.team? b.team).isSome)) = true ∧ (copyWaitS.core 0).copies ≠ []) ∧
    (∀ n ∈ [0, 1, 2 ^ 512 - 1], Tab.look (pullS n).migrations 0 = some migrationOf ∧ migrationOf.pulling = true) ∧
    (∀ i < migSize migrationOf.size / 128, (pullS (2 ^ 512 - 1)).pulled migrationOf i = true) ∧
    (isHbm migrationOf.done = true ∧ ∀ l ∈ linesTouched migrationOf.done 4, (pullS (2 ^ 512 - 1)).unpulled l = false ∧ (pullS (2 ^ 512 - 1)).lineWaits l = false) ∧
    (isPeer farDone.done = true ∧ { pullS (2 ^ 512 - 1) with routes := [(2, ⟨[1], 0⟩)] }.routed (peerOf farDone.done) = true) ∧
    (0 < migSize migrationOf.size / 128 ∧ (pullS (2 ^ 512 - 2)).fillLines migrationOf = [0] ∧ (pullS (2 ^ 512 - 2)).pulled migrationOf 0 = false ∧
      (pullS (2 ^ 512 - 2)).holdsLine (migrationOf.newPa / 128 + 0) = true ∧
      migrationOf.oldPa / 128 + 0 ≠ migrationOf.newPa / 128 + 0 ∧ (migrationOf.bitmap + 0 / 8) / 128 ≠ migrationOf.newPa / 128 + 0 ∧
      isStashKey ((migrationOf.newPa / 128 + 0) * 128) = false) := by
  refine ⟨by decide +kernel, ⟨by decide +kernel, by decide +kernel, by decide +kernel⟩, by decide +kernel,
    ⟨⟨by decide, by decide, rfl⟩, by decide +kernel, by decide, by decide, by decide +kernel, 0, by decide, by decide +kernel, by decide, by decide⟩,
    by decide +kernel, ⟨by decide +kernel, by decide +kernel, by decide, rfl, _, _, _, _, _, List.mem_singleton.mpr rfl, rfl, rfl, List.mem_singleton.mpr rfl, rfl, rfl⟩,
    by decide +kernel, by decide +kernel, by decide +kernel, by decide +kernel⟩

/-- One write from the host in front of another, and alone; each line it needs lies in its slice. -/
def inS (xs : List Inbound) : State :=
  { State.reset with
    link := .coherent
    inbound := xs
    slices := [(setKey 16, [⟨16, none, false⟩])]
    mem := (bytesOf 8 0x1122334455667788).zipIdx.map (fun e => (0x800 + e.2, e.1)) }
def inboundOf (sent : Bool) : Inbound := ⟨4, none, 0x806, [(0x806, [1, 2]), (0x808, [3])], [spanOfPa 0x806], false, sent, []⟩

theorem witness_InboundWrites :
    ((inS []).recording = false ∧ (inS []).link ≠ .down ∧ ([1, 2, 3] : List Byte) ≠ [] ∧ 2 ^ 39 - 3 + ([1, 2, 3] : List Byte).length ≤ 2 ^ 39 ∧
      2 ^ 39 < 2 ^ 39 - 2 + ([1, 2, 3] : List Byte).length ∧
      (inS []).hostHeld = [] ∧ (inS []).credit = true ∧ (inS (List.replicate 256 (inboundOf true))).credit = false ∧
      (inS (List.replicate 256 (inboundOf true))).hostHeld = [] ∧ (List.replicate 5000 (0 : Byte)).length = 5000) ∧
    ((inS [inboundOf true]).inbound = [inboundOf true] ∧ (inboundOf true).sent = true ∧ (inboundOf true).parts = partsOf 0x806 [1, 2, 3] ∧
      (∀ p ∈ (inboundOf true).parts, [spanOfPa p.1] = (inboundOf true).spans) ∧ (inS [inboundOf true]).hostHeld = [] ∧
      (∀ l ∈ linesTouched 0x806 3, (inS [inboundOf true]).holdsLine l = true ∧
        ∀ e ∈ Tab.getD (inS [inboundOf true]).slices (setKey l) [], e.holds l = true → e.second = none) ∧ ∀ m ∈ (inS [inboundOf true]).migrations, m.2.pulling = false) ∧
    (∃ y, (inS [inboundOf false]).inbound.find? (fun y => y.id = 4) = some y ∧ y.sent = false) :=
  ⟨by decide +kernel, by decide +kernel, inboundOf false, by decide +kernel⟩

def hotS32 : State := { inS [] with hbm := [(stackOf 32, { State.reset.stack 0 with retraining := true })] }

theorem witness_HostLink :
    ((inS []).link ≠ .down ∧ 0x800 + 8 ≤ 2 ^ 39 ∧ (∀ x ∈ (inS []).inbound, x.source ≠ none) ∧
      (inS []).hostHeld = [] ∧ (inS []).migrations = [] ∧ (∀ l ∈ linesTouched 0x800 8, (inS []).holdsLine l = true) ∧
      linesTouched 0x1000 8 = [32] ∧ ((inS []).stack (stackOf 32)).retraining = false ∧ (Tab.getD (inS []).slices (setKey 32) []).length < 16) ∧
    (isHbm (32 * 128) = true ∧ (hotS32.stack (stackOf 32)).retraining = true ∧ hotS32.holdsLine 32 = false ∧ hotS32.link ≠ .down) ∧
    (∃ x ∈ { inS [inboundOf true] with nextId := 5 }.inbound, x.source = none ∧ x.id < { inS [inboundOf true] with nextId := 5 }.nextId) ∧
    ((∀ w ∈ wordsTouched 0x10000000000 4, w ∉ (inS []).narrow) ∧ ((0x10000000000 + 4 - 1 : Nat)) < 0x90000000000) ∧ (inS []).linkMode = none ∧ (isCellar 0x10000000000 = true ∧ isCellar (0x90000000000 - 1) = true) ∧
    State.reset.link = .down := by
  refine ⟨by decide +kernel, by decide +kernel, ⟨inboundOf true, List.mem_singleton.mpr rfl, rfl, by decide⟩, by decide +kernel, by decide +kernel,
    by decide +kernel, by decide +kernel⟩

/-- A peer with a window of answers; a route; a split that waits for a remote atomic; and a write to the peer that has no answer yet. -/
def peerS (n : Nat) : State :=
  { inS [] with
    replayWindows := [(2, ⟨(List.range n).map (fun k => (k, 0)), []⟩)]
    routes := [(2, ⟨[1], 0x77⟩)] }
def askedOf (seq : Nat) (answer : Option (Option Nat)) : RemoteReq := ⟨0, 0x40004000, seq, 2, answer⟩
def remoteS (reqs : List RemoteReq) : State :=
  world .nop 0 0 (parked (.remote 4 1 false true reqs)) (fun s => { s with
    issue := none
    routes := [(2, ⟨[1], 0x77⟩)]
    cores := [(0, { s.core 0 with peerWrites := [(2, 0x40004000)] })] })

theorem witness_Peers :
    (3 ∈ (Tab.getD (peerS 64).replayWindows 2 ⟨[], []⟩).window.map Prod.fst ∧ (Tab.getD (peerS 64).replayWindows 2 ⟨[], []⟩).window.length ≤ 64 ∧
      64 ∉ (Tab.getD (peerS 64).replayWindows 2 ⟨[], []⟩).window.map Prod.fst ∧ 64 ∉ (Tab.getD (peerS 64).replayWindows 2 ⟨[], []⟩).older) ∧
    (0x1122334455667788 < 2 ^ (8 * 8) ∧ (peerS 64).canRead 0x800 8 = true ∧
      (∀ j < 8, Memory.byte? (peerS 64).mem (0x800 + j) = some (BitVec.ofNat 8 (0x1122334455667788 / 2 ^ (8 * j)))) ∧
      (∀ l ∈ linesTouched 0x800 8, (peerS 64).holdsLine l = true) ∧ (peerS 64).migrations = []) ∧
    (∀ reqs ∈ [[askedOf 7 none], [askedOf 6 (some (some 3)), askedOf 7 none], [askedOf 7 none, askedOf 8 none]],
      ∃ g b x, (remoteS reqs).gang? (gangId 0 0) = some g ∧ (remoteS reqs).block? 0 = some b ∧ Tab.look g.tree.splits 0 = some x ∧
        g.pending = none ∧ x.park = .remote 4 1 false true reqs) ∧
    (Tab.look (remoteS []).routes (0 + (3 * 4096 + 2) % 4096) = some ⟨[1], 0x77⟩ ∧ Tab.look (remoteS []).routes (4096 + 2) = none) ∧
    ((remoteS []).mgmtReset = false ∧ (remoteS []).routed 2 = true ∧ ((remoteS []).core 0).peerDropped = none ∧
      0 < (((remoteS []).core 0).peerWrites.filter (fun w => w.1 = 2)).length) :=
  ⟨by decide +kernel, by decide +kernel, fun reqs _ => ⟨_, _, _, rfl, rfl, rfl, rfl, rfl⟩, by decide +kernel, by decide +kernel⟩

/-! ### The management plane, temperatures, errors -/

def mgmtS : State := { endedS with hbm := [(2, { State.reset.stack 2 with retraining := true, pendingRate := some 1 })] }
def stackS (st : Stack) (saving : Bool) : State :=
  { (if saving then inTeam (fun x => { x with
      state := .saving
      area := 0x3800
      deadline := 10 }) startedS else startedS) with hbm := [(7, st)] }
def hotS (temp : Int) : State := { State.reset with sensors := [(0, ⟨temp, true, 0⟩), (15, ⟨85 * 16, true, 0⟩)] }

theorem witness_ManagementPlane : mgmtS.mgmtReset = false ∧ (∀ e ∈ mgmtS.blocks, e.2.bid = e.1) ∧ (∃ e ∈ mgmtS.blocks, dieOf e.2.core = 0) ∧
    Tab.look mgmtS.identifiers 0 = some ⟨0x100000, 0x10004, 0x400000, 64, 0⟩ := by
  refine ⟨by decide +kernel, by decide +kernel, ?_, by decide +kernel⟩
  have h : mgmtS.blocks.any (fun e => dieOf e.2.core = 0) = true := by decide +kernel
  simpa [List.any_eq_true] using h

/-- Sensors of each kind, at their levels; the hottest of a die at each limit; a stack that trains, waits for a save, or neither. -/
theorem witness_TemperatureAndRates :
    (∀ temp ∈ [(-(2 ^ 15) : Int), 85 * 16 - 1, 85 * 16, 100 * 16, 105 * 16, 108 * 16, 118 * 16, 2 ^ 15 - 1], -(2 ^ 15 : Int) ≤ temp ∧ temp < 2 ^ 15) ∧
    (∀ temp ∈ [(104 * 16 : Int), 104 * 16 + 1, 108 * 16, 118 * 16], (Tab.getD (hotS temp).sensors 0 Sensor.reset).valid = true ∧
      ∀ j < 16, (Tab.getD (hotS temp).sensors (0 * 16 + j) Sensor.reset).valid = true → (Tab.getD (hotS temp).sensors (0 * 16 + j) Sensor.reset).temp ≤ temp) ∧
    (∀ b ∈ [true, false], let s := stackS (State.reset.stack 7) b
      s.mgmtReset = false ∧ (s.stack 7).state ≠ 3 ∧ (s.stack 7).retraining = false ∧ (s.stack 7).deferred = none ∧
        (s.teams.any (fun e => e.2.state = .saving && s.clock < e.2.deadline)) = b) ∧
    (∀ b ∈ [true, false], ((stackS { State.reset.stack 7 with deferred := some 0 } b).stack 7).deferred = some 0 ∧
      (stackS { State.reset.stack 7 with deferred := some 0 } b).clock < 0 + 2000000) ∧
    ((mgmtS.stack 2).retraining = true ∧ (mgmtS.stack 2).pendingRate = some 1 ∧ mgmtS.heldWrites = [] ∧ mgmtS.hostHeld = [] ∧
      { mgmtS with heldWrites := [(0x800, [1, 2])] }.heldWrites = [(0x800, [1, 2])] ∧ (∀ e ∈ mgmtS.hbm, e.1 ≠ 2 → e.2.retraining = false) ∧
      mgmtS.migrations = []) := by decide +kernel

theorem streams_first (s : State) (t : Team) (h : 0 < s.imageBytes t) : s.streamsInto t (stackOf (t.area / 128)) = true := by
  have : 0 < (t.area % 128 + s.imageBytes t + 127) / 128 := by omega
  simp only [State.streamsInto, linesTouched, List.any_map, List.any_eq_true, List.mem_range]
  exact ⟨0, this, by simp⟩

theorem sum_first (f : Block → Nat) (b : Block) (bs : List Block) (h : 0 < f b) : 0 < ((b :: bs).map f).sum := by
  simp only [List.map_cons, List.sum_cons]; omega

/-- A save that streams into stack 7. -/
theorem witness_streams : ∃ e ∈ (stackS (State.reset.stack 7) true).teams, e.2.state = .saving ∧
    (stackS (State.reset.stack 7) true).clock < e.2.deadline ∧ (stackS (State.reset.stack 7) true).streamsInto e.2 7 = true := by
  refine ⟨_, List.mem_cons_self, by decide +kernel, by decide +kernel, ?_⟩
  refine streams_first _ _ (Nat.add_pos_left ?_ _)
  exact sum_first _ _ _ (by unfold State.saveBytes; omega)

/-- A sample at 108 °C is a warning and above (R459), and the hottest die slows down by a step (R460). -/
theorem test_hot : (reached (execSensorSample 0 (108 * 16) true State.reset)).errstat.testBit 2 = true ∧
    ((reached (execThermalDecision 0 (hotS (108 * 16)))).die 0).pendingClock = some 11 := by decide +kernel
theorem test_cool : reached (execThermalDecision 0 (hotS (106 * 16))) = hotS (106 * 16) := by decide +kernel

/-- A gang of a protected team whose split has been squashed n times in a row. -/
def squashedS (n : Nat) : State :=
  world .nop 0 0 (fun g => { g with
    prot := true
    tree := g.tree.modSplit 0 (fun x => { x with squash := n }) }) (fun s => { s with issue := none })

theorem witness_HardwareErrors :
    (isStashKey (stashKey 0 0) = true ∧ isHbm 0x800 = true ∧ (inS []).holdsLine (0x800 / 128) = true) ∧
    ((inS [inboundOf true]).inbound = [inboundOf true] ∧ ∀ x ∈ (inS []).inbound, x.id ≠ 4) ∧
    ∀ n ∈ [0, 14, 15], ∃ g b x, (squashedS n).gang? (gangId 0 0) = some g ∧ (squashedS n).block? g.bid = some b ∧ g.ended = false ∧
      (squashedS n).block? 0 = some b ∧ Tab.look g.tree.splits 0 = some x ∧ g.prot = true ∧ g.bad = [] ∧
      x.squash = n :=
  ⟨by decide +kernel, by decide +kernel, fun _ _ => ⟨_, _, _, rfl, rfl, rfl, rfl, rfl, rfl, rfl, rfl⟩⟩

theorem test_squash : ((reached (execScoreboardSquash 0 0 0 (squashedS 14))).gang? 0).bind (fun g => (Tab.look g.tree.splits 0).map Split.squash) =
    some 15 := by decide +kernel

/-! ### Decoding, the step and reset -/

theorem witness_RoundTrip : ∀ e ∈ vectorForms ++ uniformForms ++ laneForms ++ floatForms ++ specialForms ++ controlForms ++ waitForms ++ memoryForms ++
    tileForms ++ matrixForms ++ copyForms ++ systemForms ++ returnForms, e.2.2.wellFormed = true ∧ encode e.2.2 = some (e.1, e.2.1) := by decide +kernel

/-- The packet at 0x4000 of three nops, which the split at 0x4004 has not entered. -/
def nops : Packet := ⟨0x4000, 0x0300C030, 0xF7000000, 0xF7000000, 0xF7000000⟩
def enteringS : State :=
  world .nop 0 0 (fun g => { g with tree := g.tree.modSplit 0 (fun x => { x with
    packet := none
    pc := 0x4004 }) }) paged

theorem witness_StepRunsDecoded :
    (∃ (s : State) (g : Gang) (b : Block) (x : Split) (p : Packet), s.issue = some ⟨0, 0, .split 0⟩ ∧ s.gang? (gangId 0 0) = some g ∧ s.block? 0 = some b ∧ Tab.look g.tree.splits 0 = some x ∧
      x.squash = 0 ∧ x.packet = some p ∧ decodeSlot (p.word (pcSlot x.pc)) (p.lit (pcSlot x.pc)) = .ok (.add 4 6 (.reg 8))) ∧
    (∃ (g : Gang) (b : Block) (x : Split) (pa attr hold : Nat), enteringS.issue = some ⟨0, 0, .split 0⟩ ∧ enteringS.gang? (gangId 0 0) = some g ∧ enteringS.block? 0 = some b ∧
      Tab.look g.tree.splits 0 = some x ∧ x.squash = 0 ∧ x.packet = none ∧
      State.reachGlobal { enteringS with serial := enteringS.serial + 1 } ⟨b.asid, b.core, 0, g.system⟩ ⟨false, false, true⟩ (pcBase x.pc).toNat =
        .at_ (.hbm pa attr) hold false ∧ (pcBase x.pc).toNat < 2 ^ 57 ∧ inLocal (pcBase x.pc).toNat = false ∧
      inWindow (pcBase x.pc).toNat = false ∧ nops.base = pcBase x.pc ∧
      (∀ j < 4, Memory.byte? enteringS.mem (pa + j) = some (BitVec.ofNat 8 (nops.w0.toNat / 2 ^ (8 * j)))) ∧
      (∀ j < 4, Memory.byte? enteringS.mem (pa + 4 + j) = some (BitVec.ofNat 8 (nops.w1.toNat / 2 ^ (8 * j)))) ∧
      (∀ j < 4, Memory.byte? enteringS.mem (pa + 8 + j) = some (BitVec.ofNat 8 (nops.w2.toNat / 2 ^ (8 * j)))) ∧
      (∀ j < 4, Memory.byte? enteringS.mem (pa + 12 + j) = some (BitVec.ofNat 8 (nops.w3.toNat / 2 ^ (8 * j)))) ∧
      (∀ m ∈ enteringS.migrations, m.2.pulling = false) ∧ Tab.getD enteringS.rewritten (pa / 16) [] = [] ∧ nops.badSlot = none ∧ pcBadBits x.pc = false ∧ literalSlot nops.kind (pcSlot x.pc) = false ∧
      decodeSlot (nops.word (pcSlot x.pc)) (nops.lit (pcSlot x.pc)) = .ok .nop) ∧
    (∃ (s : State) (g : Gang) (x : Split) (p : Packet) (e : DecodeError), s.issue = some ⟨0, 0, .split 0⟩ ∧ s.gang? (gangId 0 0) = some g ∧
      Tab.look g.tree.splits 0 = some x ∧ x.packet = some p ∧ x.squash = 0 ∧
      decodeSlot (p.word (pcSlot x.pc)) (p.lit (pcSlot x.pc)) = .error e) ∧
    (∃ s : State, s.issue = none ∧ s.agenda = [(0, .schedulerTake), (0, .nop)] ∧ 0 ≤ s.time) ∧
    ∃ (s : State) (x : Stimulus), s.issue = none ∧ (∀ e ∈ s.agenda.head?, s.time < e.1) ∧ s.stimuli = [(0, x)] ∧ 0 ≤ s.time := by
  refine ⟨⟨world (.add 4 6 (.reg 8)) 0 0 id id, _, _, _, _, rfl, rfl, rfl, rfl, rfl, rfl, by decide +kernel⟩,
    ⟨_, _, _, 0x4000, 0, 0, rfl, rfl, rfl, rfl, rfl, rfl, ?_⟩,
    ⟨world .nop 0 0 (fun g => { g with tree := g.tree.modSplit 0 (fun x => { x with packet := some ⟨0x10000, 0x0300C030, 0xFF000000, 0, 0⟩ }) }) id,
      _, _, _, _, rfl, rfl, rfl, rfl, rfl, by rfl⟩,
    ⟨{ State.reset with agenda := [(0, .schedulerTake), (0, .nop)] }, rfl, rfl, Nat.zero_le _⟩,
    ⟨{ State.reset with stimuli := [(0, .bar0Read 0x5040)] }, _, rfl, by simp [State.reset], rfl, Nat.zero_le _⟩⟩
  decide +kernel

theorem witness_MemoryForm : MemoryKept State.reset := by simp [MemoryKept, State.reset, Memory.wf_nil]

/-! ### Ill-formed terms, one at least for each check (R8, R73, R76, R77, R80 and the entries) -/

theorem test_wellFormed_refuses : ([.add 4 6 (.lit64 9), .mov 4 (.lit64 9), .launch 4 6 (.lit64 9), .brx false 6 (.reg 1), .shli 4 6 32, .uShriI32 4 6 255,
    .lred 4 6 9, .lred 4 6 8, .cvt 4 6 true 0 28, .cvt 4 6 false 1 3, .qbx 4 6 false 1 true true, .sread 4 6, .sread 4 0x112, .swrite 6 1, .cntrd 4 0x12,
    .cntset 4 0x20, .ld 4 6 ⟨0, 2, 0, 2, 0, 0⟩, .lda 4 6 8 ⟨0, 1, 0, 2, 0, 0⟩, .ld 4 6 ⟨0, 0, 5, 2, 0, 0⟩, .ld 4 6 ⟨0, 0, 0, 5, 0, 0⟩, .ld 4 6 ⟨0, 0, 0, 2, 0, 1⟩, .ld 4 6 ⟨0, 0, 0, 2, 0, 2⟩,
    .lda 4 6 16 ⟨0, 0, 0, 2, 0, 0⟩, .st 4 6 ⟨0, 3, 0, 2, 0, 0⟩, .atom 4 6 8 ⟨0, 3, 0, 1, 0, 0⟩, .atom 4 6 8 ⟨0, 4, 0, 2, 0, 2⟩, .atom 4 6 8 ⟨0, 3, 0, 2, 0, 12⟩,
    .cas 4 6 8 ⟨0, 3, 0, 1, 0, 0⟩, .cas2 4 6 8 ⟨0, 3, 0, 2, 0, 0⟩, .pf 6 ⟨0, 1, 0, 0, 0, 0⟩, .evict 6 ⟨0, 0, 0, 0, 0, 2⟩, .smap 6 8 ⟨0, 0, 0, 0, 0, 16⟩,
    .sunmap ⟨0, 0, 1, 0, 0, 0⟩, .sflush ⟨0, 0, 0, 0, 0, 16⟩, .tld 16 6 ⟨0, 0, 0, 0, 0, 3⟩, .tst 16 6 8 ⟨0, 0, 0, 0, 1, 0⟩, .barSync 5 6 (.reg 8), .fence 5,
    .waitc 16 0, .uHloop 0 6 (.reg 8), .uHjoin 4 6 11, .uHjoin 4 6 0, .mzero 16 6 4] : List Instr).all (fun i => !i.wellFormed) = true := by decide +kernel

/-! ### Steps on small operands; the expected values are worked out by hand -/

/-- What an instruction leaves in v4 of lane 0, from v4 to v9 of that lane; and in v4 and v5 as a pair. -/
def gives (i : Instr) (xs : List Word) : Word :=
  match exec i (world i 0 0 (lane0 (xs.zipIdx.map (fun e => (e.2 + 4, e.1)))) id) with
  | .next t => ((t.gang? 0).map (fun g => Tab.getD g.regs 4 0)).getD 0
  | _ => 0
def givesPair (i : Instr) (xs : List Word) : Nat :=
  match exec i (world i 0 0 (lane0 (xs.zipIdx.map (fun e => (e.2 + 4, e.1)))) id) with
  | .next t => ((t.gang? 0).map (fun g => (Tab.getD g.regs 4 0).toNat + 2 ^ 32 * (Tab.getD g.regs 5 0).toNat)).getD 0
  | _ => 0

theorem test_integer : gives (.add 4 6 (.reg 8)) [0, 0, 0xFFFFFFFF, 0, 1] = 0 ∧ gives (.sub 4 6 (.lit32 1)) [0, 0, 0] = 0xFFFFFFFF ∧
    gives (.mad 4 6 (.reg 8)) [10, 0, 3, 0, 4] = 22 ∧ gives (.mulhiI32 4 6 (.reg 8)) [0, 0, 0xFFFFFFFF, 0, 2] = 0xFFFFFFFF ∧
    gives (.mulhiN32 4 6 (.reg 8)) [0, 0, 0xFFFFFFFF, 0, 2] = 1 ∧ gives (.minI32 4 6 (.reg 8)) [0, 0, 0x80000000, 0, 1] = 0x80000000 ∧
    gives (.minN32 4 6 (.reg 8)) [0, 0, 0x80000000, 0, 1] = 1 ∧ gives (.addi 4 0xFFFF) [5] = 4 ∧ gives (.ldi 4 0x8000) [0] = 0xFFFF8000 ∧
    gives (.movh 4 0x1234) [0x5678] = 0x12345678 := by decide +kernel

theorem test_pairs : givesPair (.addI64 4 6 (.reg 8)) [0, 0, 0xFFFFFFFF, 0, 1, 0] = 0x100000000 ∧ givesPair (.subI64 4 6 (.lit64 1)) [0, 0, 0, 1] = 0xFFFFFFFF ∧
    givesPair (.mulwI32 4 6 (.reg 8)) [0, 0, 0xFFFFFFFF, 0, 2] = 0xFFFFFFFFFFFFFFFE ∧
    givesPair (.mulwN32 4 6 (.reg 8)) [0, 0, 0xFFFFFFFF, 0, 2] = 0x1FFFFFFFE ∧ givesPair (.movI64 4 (.lit64 0x1122334455667788)) [] = 0x1122334455667788 := by
  decide +kernel

theorem test_bits : gives (.andn 4 6 (.reg 8)) [0, 0, 0xFF, 0, 0x0F] = 0xF0 ∧ gives (.shl 4 6 (.reg 8)) [0, 0, 1, 0, 33] = 0 ∧
    gives (.shrI32 4 6 (.reg 8)) [0, 0, 0x80000000, 0, 31] = 0xFFFFFFFF ∧ gives (.shriI32 4 6 4) [0, 0, 0x80000000] = 0xF8000000 ∧
    gives (.bfeI32 4 6 (.lit32 0x804)) [0, 0, 0xF80] = 0xFFFFFFF8 ∧ gives (.bfeN32 4 6 (.lit32 0x804)) [0, 0, 0xF80] = 0xF8 ∧
    gives (.bfi 4 6 (.lit32 0x804)) [0x12345678, 0, 0xFF] = 0x12345FF8 ∧ gives (.popc 4 6) [0, 0, 0xF0F0] = 8 ∧ gives (.clz 4 6) [0, 0, 0] = 32 ∧
    gives (.brev 4 6) [0, 0, 1] = 0x80000000 ∧ gives (.sel 4 6 (.reg 8)) [9, 0, 3, 0, 4] = 3 ∧ gives (.sel 4 6 (.reg 8)) [0, 0, 3, 0, 4] = 4 ∧
    gives (.setltI32 4 6 (.reg 8)) [0, 0, 0xFFFFFFFF, 0, 0] = 1 ∧ gives (.setltN32 4 6 (.reg 8)) [0, 0, 0xFFFFFFFF, 0, 0] = 0 := by decide +kernel

theorem test_float : gives (.faddF32 4 6 (.reg 8)) [0, 0, 0x3F800000, 0, 0x40000000] = 0x40400000 ∧
    gives (.fdivF32 4 6 (.reg 8)) [0, 0, 0x3F800000, 0, 0x40400000] = 0x3EAAAAAB ∧ gives (.fsqrtF32 4 6) [0, 0, 0x40800000] = 0x40000000 ∧
    gives (.ffmaF32 4 6 (.reg 8)) [0x3F800000, 0, 0x40000000, 0, 0x40400000] = 0x40E00000 ∧
    gives (.haddF16x2 4 6 (.reg 8)) [0, 0, 0x3C003C00, 0, 0x40003C00] = 0x42004000 ∧
    gives (.hmulBf16x2 4 6 (.reg 8)) [0, 0, 0x3F804000, 0, 0x40004000] = 0x40004080 ∧
    givesPair (.faddF64 4 6 (.reg 8)) [0, 0, 0, 0x3FF00000, 0, 0x40000000] = 0x4008000000000000 ∧
    gives (.cvt 4 6 false 0 12) [0, 0, 0x3FC00000] = 2 ∧ gives (.cvt 4 6 true 1 12) [0, 0, 0x3FC00000] = 1 ∧
    gives (.cvt 4 6 false 0 14) [0, 0, 3] = 0x40400000 ∧ givesPair (.cvt 4 6 false 0 0) [0, 0, 0x3FC00000] = 0x3FF8000000000000 := by decide +kernel

/-- The example of R181: cvt.i32.f32.rz v3, v5. -/
theorem test_cvt_word : decodeSlot 0x560305AC .none = .ok (.cvt 3 5 true 1 12) := by decide

end Sys2Proof.Tests
end

/-! Proofs/Scope.lean: what every instruction shares before its own effect (R8, R217): the order of the checks and the cause each raises. -/
section

namespace Sys2Proof.Machine

open Sys2Proof

/-! ### An instruction runs behind the checks of R217 -/

/-- Every row that an instruction word stands for has its effect only behind `run`, and that effect is chosen by the row alone: no arm of
`exec` looks at the state before R217 has been asked. -/
theorem exec_eq_run {i : Instr} (h : i.isEvent = false) : ∃ body, ∀ s, exec i s = run i s body := by
  cases i
  all_goals first
    | exact absurd h Bool.false_ne_true.symm
    | exact ⟨_, fun _ => rfl⟩

theorem run_of_trap {i : Instr} {cx : Cx} {s : State} {c : Nat} {m : Mask} {a n : Nat} (hc : cxOf i s = some cx)
    (hh : hindrance i cx s = some (.trap c m a n)) (body : Cx → State → State) : run i s body = .next (cx.fault s c m a n) := by
  simp only [run, hc, hh, Cx.stop]

theorem exec_of_trap {i : Instr} {cx : Cx} {s : State} {c : Nat} {m : Mask} {a n : Nat} (hi : i.isEvent = false)
    (hc : cxOf i s = some cx) (hh : hindrance i cx s = some (.trap c m a n)) : exec i s = .next (cx.fault s c m a n) := by
  obtain ⟨body, hb⟩ := exec_eq_run hi
  rw [hb, run_of_trap hc hh]

/-! ### What each check finds, those before it passed -/

theorem hindrance_of_illFormed {i : Instr} {cx : Cx} {s : State} (h : i.wellFormed = false) :
    hindrance i cx s = some (.trap 1 cx.active 0 i.illegalInfo) := by
  simp only [hindrance, h, Bool.not_false, if_true]

theorem hindrance_of_badReg {i : Instr} {cx : Cx} {s : State} {n : Nat} (hw : i.wellFormed = true)
    (hr : i.regs.findSome? cx.badReg = some n) : hindrance i cx s = some (.trap 1 cx.active 0 n) := by
  simp only [hindrance, hw, hr, Bool.not_true, Bool.false_eq_true, if_false]

/-- A valid instruction that some lane performs, other than pf and evict, with legal values: what is still to be asked is its role and
all that follows it (R80, R84, R217, R221). -/
structure Asked (i : Instr) (cx : Cx) (s : State) : Prop extends Valid i cx s where
  performed : cx.perform ≠ 0
  legal : cx.illegal s i = none
  loud : i.silent = false

theorem Asked.hindrance_of_role {i : Instr} {cx : Cx} {s : State} (h : Asked i cx s) (hr : i.admits.role cx.g.role = false) :
    hindrance i cx s = some (.trap 3 cx.perform 0 cx.g.role) := by
  rw [h.toValid.hindrance, h.legal]
  simp only [h.loud, decide_eq_true h.performed, hr, Bool.not_false, Bool.and_self, Bool.false_eq_true, if_false, if_true]

theorem Asked.hindrance_of_tooEarly {i : Instr} {cx : Cx} {s : State} {m : Mask} {n : Nat} (h : Asked i cx s)
    (hr : i.admits.role cx.g.role = true) (he : cx.tooEarly s i = some (m, n)) : hindrance i cx s = some (.trap 4 m 0 n) := by
  rw [h.toValid.hindrance, h.legal]
  simp [h.loud, hr, he]

theorem Asked.hindrance_of_level {i : Instr} {cx : Cx} {s : State} (h : Asked i cx s) (hr : i.admits.role cx.g.role = true)
    (he : cx.tooEarly s i = none) (hi : i.system = true) (hu : cx.g.system = false) :
    hindrance i cx s = some (.trap 9 cx.perform 0 1) := by
  rw [h.toValid.hindrance, h.legal]
  simp only [h.loud, decide_eq_true h.performed, hr, he, hi, hu, Bool.not_true, Bool.not_false, Bool.and_self, Bool.and_false,
    Bool.false_eq_true, if_false, if_true]

theorem Asked.hindrance_of_split {i : Instr} {cx : Cx} {s : State} (h : Asked i cx s) (hr : i.admits.role cx.g.role = true)
    (he : cx.tooEarly s i = none) (hl : i.system = true → cx.g.system = true) (hp : cx.predicateSplit s i ≠ 0) :
    hindrance i cx s = some (.trap 0x21 (cx.predicateSplit s i) 0 (2 + lowLane (cx.predicateSplit s i) * 4)) := by
  have hs : (i.system && !cx.g.system) = false := by
    cases e : i.system
    · rfl
    · simp [hl e]
  rw [h.toValid.hindrance, h.legal]
  simp only [h.loud, hr, he, hp, Bool.and_assoc, hs, Bool.not_true, Bool.and_false, Bool.false_eq_true, if_false, ne_eq, not_false_eq_true,
    if_true]

theorem lanesOf_zero : lanesOf 0 = [] := by
  simp [lanesOf]

theorem lowLane_of_lanesOf_eq_cons {m : Mask} {l : Nat} {ls : List Nat} (h : lanesOf m = l :: ls) : lowLane m = l := by
  rw [lowLane, h, List.headD_cons]

theorem ne_zero_of_lanesOf_eq_cons {m : Mask} {l : Nat} {ls : List Nat} (h : lanesOf m = l :: ls) : m ≠ 0 := by
  rintro rfl
  exact absurd (h.symm.trans lanesOf_zero) (List.cons_ne_nil l ls)

/-- Settles O11, one check of R217 after another: each is `exec_of_trap` for the hindrance that the check finds. -/
theorem decodeFaults : Obligations.DecodeFaults := by
  intro i cx s hi hc
  refine ⟨fun hw => exec_of_trap hi hc (hindrance_of_illFormed hw), fun n hw hr => exec_of_trap hi hc (hindrance_of_badReg hw hr),
    fun hv hp hl hs => ?_⟩
  have ha : Asked i cx s := ⟨hv, hp, hl, hs⟩
  refine ⟨fun hr => exec_of_trap hi hc (ha.hindrance_of_role hr), fun hr =>
    ⟨fun m n he => exec_of_trap hi hc (ha.hindrance_of_tooEarly hr he), fun he =>
      ⟨fun hy hu => exec_of_trap hi hc (ha.hindrance_of_level hr he hy hu), fun hy l m hm hls => ?_⟩⟩⟩
  subst hm
  have h := exec_of_trap hi hc (ha.hindrance_of_split hr he hy (ne_zero_of_lanesOf_eq_cons hls))
  rwa [lowLane_of_lanesOf_eq_cons hls] at h

end Sys2Proof.Machine
end

/-! Proofs/Frame.lean: what the homes, the L1s and the device's own accesses to memory leave alone, and what is left when a block leaves its
core (R47, R245, R255, R268 to R273, R286, R351, R435). -/
section

namespace Sys2Proof.Machine

open Sys2Proof

/-! ### Tables -/

theorem Tab.look_filter_key {α : Type} (p : Nat → Bool) (t : Tab α) (x : Nat) :
    Tab.look (t.filter (fun e => p e.1)) x = if p x then Tab.look t x else none := by
  induction t with
  | nil => simp
  | cons e t ih =>
    obtain ⟨k, v⟩ := e
    by_cases hx : k = x
    · subst hx
      cases hp : p k <;> simp [hp, Tab.look_cons, ih]
    · cases hp : p k <;> simp [hp, Tab.look_cons, hx, ih]

theorem Tab.look_map_val {α β : Type} (f : Nat → α → β) (t : Tab α) (x : Nat) :
    Tab.look (t.map (fun e => (e.1, f e.1 e.2))) x = (Tab.look t x).map (f x) := by
  induction t with
  | nil => rfl
  | cons e t ih =>
    obtain ⟨k, v⟩ := e
    rw [List.map_cons, Tab.look_cons, Tab.look_cons, ih]
    split
    · next h => subst h; rfl
    · rfl

theorem Memory.byte?_filter_key (p : Nat → Bool) (m : List Host.Cell) (a : Nat) (h : p a = true) :
    Memory.byte? (m.filter (fun c => p c.1)) a = Memory.byte? m a := by
  simp only [Memory.byte?, Tab.look_filter_key, h, if_true]

theorem Memory.byte?_filter_out (p : Nat → Bool) (m : List Host.Cell) (a : Nat) (h : p a = false) :
    Memory.byte? (m.filter (fun c => p c.1)) a = if isStashKey a then some 0 else none := by
  simp only [Memory.byte?, Tab.look_filter_key, h, Bool.false_eq_true, if_false]

/-! ### What the homes, and what the device's memory, leave alone -/

/-- A state without what home slices and the interval board hold, and the counters of the dies. -/
def State.offHomes (s : State) : State :=
  { s with
    hollow := []
    side := []
    marks := []
    slices := []
    boards := []
    dies := [] }

/-- A state without memory as well, what waits to reach it, the cores, and the device's error and loss registers: what is left are gangs,
blocks, teams, queues, tables and links. -/
def State.offMemory (s : State) : State :=
  { s.offHomes with
    mem := []
    rewritten := []
    heldWrites := []
    narrow := []
    wants := []
    cores := []
    peerPosted := []
    errstat := 0
    msix0 := 0
    msix1 := 0
    fqdrop := [] }

theorem State.offMemory_of_offHomes {s t : State} (h : t.offHomes = s.offHomes) : t.offMemory = s.offMemory := by
  simp only [State.offMemory, h]

section

variable {s t : State}

theorem State.mem_of_offHomes (h : t.offHomes = s.offHomes) : t.mem = s.mem := (congrArg State.mem h :)
theorem State.blocks_of_offHomes (h : t.offHomes = s.offHomes) : t.blocks = s.blocks := (congrArg State.blocks h :)
theorem State.teams_of_offHomes (h : t.offHomes = s.offHomes) : t.teams = s.teams := (congrArg State.teams h :)
theorem State.queues_of_offHomes (h : t.offHomes = s.offHomes) : t.queues = s.queues := (congrArg State.queues h :)
theorem State.tokens_of_offHomes (h : t.offHomes = s.offHomes) : t.tokens = s.tokens := (congrArg State.tokens h :)

theorem State.gangs_of_offMemory (h : t.offMemory = s.offMemory) : t.gangs = s.gangs := (congrArg State.gangs h :)
theorem State.blocks_of_offMemory (h : t.offMemory = s.offMemory) : t.blocks = s.blocks := (congrArg State.blocks h :)
theorem State.teams_of_offMemory (h : t.offMemory = s.offMemory) : t.teams = s.teams := (congrArg State.teams h :)

end

/-- What every step of a fold keeps, the fold keeps. -/
theorem foldl_keeps {α β γ : Type} (p : α → γ) (f : α → β → α) (h : ∀ a b, p (f a b) = p a) (l : List β) (a : α) :
    p (l.foldl f a) = p a := by
  induction l generalizing a with
  | nil => rfl
  | cons b l ih => rw [List.foldl_cons, ih, h]

section OffHomes

@[simp] theorem State.offHomes_setMark (s : State) (w : Nat) (m : Mark) : (s.setMark w m).offHomes = s.offHomes := rfl
@[simp] theorem State.offHomes_fillIn (s : State) (l : Nat) : (s.fillIn l).offHomes = s.offHomes := rfl
@[simp] theorem State.offHomes_clearMarks (s : State) (l : Nat) : (s.clearMarks l).offHomes = s.offHomes :=
  foldl_keeps _ _ (by intros; rfl) _ _
@[simp] theorem State.offHomes_atticAdd (s : State) (l : List Nat) : (s.atticAdd l).offHomes = s.offHomes :=
  foldl_keeps _ _ (by intros; rfl) _ _
@[simp] theorem State.offHomes_atticSub (s : State) (l : List Nat) : (s.atticSub l).offHomes = s.offHomes :=
  foldl_keeps _ _ (by intros; rfl) _ _

@[simp] theorem State.offHomes_clearPend (s : State) (c w : Nat) : (s.clearPend c w).offHomes = s.offHomes := by
  unfold State.clearPend
  dsimp only
  split <;> rfl

@[simp] theorem State.offHomes_spillLine (s : State) (l : Nat) : (s.spillLine l).offHomes = s.offHomes := by
  unfold State.spillLine
  split
  · calc _ = (((s.fillIn l).clearMarks l).atticAdd (recordSlots (s.record l).toNat)).offHomes := rfl
      _ = s.offHomes := by simp
  · simp

theorem State.offHomes_spillLines (s : State) (ls : List Nat) : (ls.foldl State.spillLine s).offHomes = s.offHomes :=
  foldl_keeps _ _ State.offHomes_spillLine _ _

@[simp] theorem State.offHomes_shelve (s : State) (l : Nat) : (s.shelve l).offHomes = s.offHomes := by
  unfold State.shelve
  dsimp only
  split
  · rfl
  · split
    · exact State.offHomes_spillLines _ _
    · rfl

@[simp] theorem State.offHomes_unshare (s : State) (l : Nat) : (s.unshare l).offHomes = s.offHomes := by
  unfold State.unshare
  dsimp only
  split
  · rfl
  · split
    · rfl
    · exact State.offHomes_spillLines _ _

@[simp] theorem State.offHomes_poisonWord (s : State) (w : Nat) : (s.poisonWord w).offHomes = s.offHomes := by
  unfold State.poisonWord
  dsimp only
  split
  · rfl
  · simp

@[simp] theorem State.offHomes_unspillLine (s : State) (l : Nat) : (s.unspillLine l).offHomes = s.offHomes := by
  unfold State.unspillLine
  dsimp only
  have hset : ∀ (f : State → Nat → Mark) (ks : List Nat) (g : Nat → Nat) (t : State),
      (ks.foldl (fun u i => u.setMark (g i) (f u i)) t).offHomes = t.offHomes := fun f ks g t => foldl_keeps _ _ (by intros; rfl) _ _
  split
  · exact hset _ _ _ _
  · split <;> split <;> simp only [hset, State.offHomes_atticSub] <;> rfl

end OffHomes

section OffMemory

variable (s : State)

@[simp] theorem State.offMemory_setMark (w : Nat) (m : Mark) : (s.setMark w m).offMemory = s.offMemory := rfl
@[simp] theorem State.offMemory_unshare (l : Nat) : (s.unshare l).offMemory = s.offMemory :=
  State.offMemory_of_offHomes (s.offHomes_unshare l)
@[simp] theorem State.offMemory_shelve (l : Nat) : (s.shelve l).offMemory = s.offMemory :=
  State.offMemory_of_offHomes (s.offHomes_shelve l)
@[simp] theorem State.offMemory_clearPend (c w : Nat) : (s.clearPend c w).offMemory = s.offMemory :=
  State.offMemory_of_offHomes (s.offHomes_clearPend c w)
@[simp] theorem State.offMemory_unspillLine (l : Nat) : (s.unspillLine l).offMemory = s.offMemory :=
  State.offMemory_of_offHomes (s.offHomes_unspillLine l)
@[simp] theorem State.offMemory_perf (k e n : Nat) : (s.perf k e n).offMemory = s.offMemory := rfl
@[simp] theorem State.offMemory_writeBytes (a : Nat) (bs : List Byte) : (s.writeBytes a bs).offMemory = s.offMemory := rfl
@[simp] theorem State.offMemory_fqLost (asid : Nat) : (s.fqLost asid).offMemory = s.offMemory := rfl
@[simp] theorem State.offMemory_modCore (c : Nat) (f : Core → Core) : (s.modCore c f).offMemory = s.offMemory := rfl
@[simp] theorem State.offMemory_setL1 (c l : Nat) (f : L1Line → L1Line) : (s.setL1 c l f).offMemory = s.offMemory := rfl
@[simp] theorem State.offMemory_staleCopies (but : Option Nat) (a n : Nat) : (s.staleCopies but a n).offMemory = s.offMemory := rfl
@[simp] theorem State.offMemory_openSlot (k : Nat) : (s.openSlot k).offMemory = s.offMemory := rfl
@[simp] theorem State.offMemory_moveRewritten (a b : Nat) : (s.moveRewritten a b).offMemory = s.offMemory :=
  foldl_keeps _ _ (by intros; rfl) _ _

@[simp] theorem State.offMemory_raiseErr (n : Nat) : (s.raiseErr n).offMemory = s.offMemory := by
  unfold State.raiseErr
  split <;> rfl

theorem State.offMemory_unshares (ls : List Nat) : (ls.foldl State.unshare s).offMemory = s.offMemory :=
  foldl_keeps _ _ (fun t l => t.offMemory_unshare l) _ _

@[simp] theorem State.offMemory_homeWrite (by_ : Option Nat) (a : Nat) (bs : List Byte) : (s.homeWrite by_ a bs).offMemory = s.offMemory := by
  unfold State.homeWrite
  dsimp only
  split
  · rfl
  · rw [State.offMemory_unshares]; rfl

@[simp] theorem State.offMemory_homeBack (core w : Nat) (bs : List (Option Byte)) : (s.homeBack core w bs).offMemory = s.offMemory := by
  unfold State.homeBack
  dsimp only
  rw [State.offMemory_unshare, State.offMemory_clearPend]
  refine foldl_keeps State.offMemory _ (fun t p => ?_) _ _
  split <;> rfl

@[simp] theorem State.offMemory_copyBytes (src dst n : Nat) : (s.copyBytes src dst n).offMemory = s.offMemory := by
  refine foldl_keeps State.offMemory _ (fun t i => ?_) _ _
  split <;> rfl

@[simp] theorem State.offMemory_pull (m : Migration) (i : Nat) : (s.pull m i).offMemory = s.offMemory := by
  unfold State.pull
  extract_lets old new t missed s1 s2 s3 key s4 b
  have hmissed : missed.offMemory = s.offMemory := by
    unfold missed
    split <;> rfl
  have h1 : s1.offMemory = s.offMemory := by
    unfold s1
    split
    · rfl
    · split
      · exact hmissed
      · rw [State.offMemory_unspillLine, hmissed]
  clear_value s1
  have h2 : s2.offMemory = s.offMemory := by
    unfold s2
    rw [State.offMemory_staleCopies, State.offMemory_copyBytes, State.offMemory_moveRewritten, h1]
  clear_value s2
  have h3 : s3.offMemory = s.offMemory :=
    (foldl_keeps State.offMemory (fun u k => (u.setMark (new * 32 + k) (s1.mark (old * 32 + k))).setMark (old * 32 + k) Mark.empty)
      (fun _ _ => by rw [State.offMemory_setMark, State.offMemory_setMark]) _ s2).trans h2
  clear_value s3
  rw [State.offMemory_perf, State.offMemory_homeWrite, State.offMemory_shelve]
  exact h3

@[simp] theorem State.offMemory_pullFirst (l : Nat) : (s.pullFirst l).offMemory = s.offMemory := by
  unfold State.pullFirst
  split
  · rfl
  · split
    · rfl
    · simp

@[simp] theorem State.offMemory_pullLines (a n : Nat) : (s.pullLines a n).offMemory = s.offMemory :=
  foldl_keeps _ _ (fun t l => t.offMemory_pullFirst l) _ _

@[simp] theorem State.offMemory_deviceWrite (a : Nat) (bs : List Byte) : (s.deviceWrite a bs).offMemory = s.offMemory := by
  unfold State.deviceWrite
  split
  · split
    · rfl
    · simp
  · split
    · split
      · rfl
      · simp
    · split
      · rfl
      · split <;> simp

@[simp] theorem State.offMemory_faultRecord (asid kind : Nat) (ws : List Nat) : (s.faultRecord asid kind ws).offMemory = s.offMemory := by
  unfold State.faultRecord
  split
  · rfl
  · dsimp only
    split
    · unfold State.fqStore
      calc _ = (((s.pullLines _ 8).deviceWrite _ _).deviceWrite _ _).offMemory := rfl
        _ = s.offMemory := by simp
    · simp

@[simp] theorem State.offMemory_backWord (core : Nat) (x : L1Line) (i : Nat) : (s.backWord core x i).offMemory = s.offMemory := by
  unfold State.backWord
  split <;> simp

@[simp] theorem State.offMemory_backLine (core : Nat) (x : L1Line) : (s.backLine core x).offMemory = s.offMemory := by
  unfold State.backLine
  rw [State.offMemory_setL1]
  exact foldl_keeps State.offMemory _ (fun t i => t.offMemory_backWord core x i) _ _

@[simp] theorem State.offMemory_writeBackL1 (core : Nat) : (s.writeBackL1 core).offMemory = s.offMemory :=
  foldl_keeps State.offMemory _ (fun t x => t.offMemory_backLine core x) _ _

@[simp] theorem State.offMemory_releaseAll : s.releaseAll.offMemory = s.offMemory := by
  unfold State.releaseAll
  extract_lets s1
  have h1 : s1.offMemory = s.offMemory := foldl_keeps State.offMemory (fun u (c : Nat × Core) => u.writeBackL1 c.1) (by simp) _ _
  exact h1

@[simp] theorem State.offMemory_storeVirt (asid va : Nat) (bs : List Byte) : (s.storeVirt asid va bs).offMemory = s.offMemory := by
  refine foldl_keeps State.offMemory _ (fun t c => ?_) _ _
  split <;> simp

end OffMemory

/-! ### Blocks that leave their cores -/

@[simp] theorem State.removeBlock_blocks (s : State) (b : Block) : (s.removeBlock b).blocks = Tab.del s.blocks b.bid := rfl
@[simp] theorem State.removeBlock_mem (s : State) (b : Block) : (s.removeBlock b).mem = s.mem := rfl
@[simp] theorem State.removeBlock_teams (s : State) (b : Block) : (s.removeBlock b).teams = s.teams := rfl
@[simp] theorem State.removeBlock_queues (s : State) (b : Block) : (s.removeBlock b).queues = s.queues := rfl
@[simp] theorem State.removeBlock_tokens (s : State) (b : Block) : (s.removeBlock b).tokens = s.tokens := rfl

theorem mem_blocks_of_removed (bs : List Block) (s : State) {e : Nat × Block} (h : e ∈ (bs.foldl State.removeBlock s).blocks) :
    e ∈ s.blocks ∧ ∀ b ∈ bs, e.1 ≠ b.bid := by
  induction bs generalizing s with
  | nil => exact ⟨h, by simp⟩
  | cons b bs ih =>
    obtain ⟨hmem, hbs⟩ := ih (s.removeBlock b) h
    obtain ⟨hs, hb⟩ := Tab.mem_del hmem
    exact ⟨hs, List.forall_mem_cons.mpr ⟨hb, hbs⟩⟩

end Sys2Proof.Machine
end

/-! Proofs/Management.lean: the management plane, the loss of a die, and what a power-up leaves (R19, R28 to R35, R273, R462 to R464, R487). -/
section

namespace Sys2Proof.Machine

open Sys2Proof

/-! ### What the states of the dies leave alone -/

/-- SOCKCAP.STATE of each die. -/
def State.dieStates (s : State) (k : Nat) : Nat := (s.die k).state

theorem State.dieStates_modDie (s : State) (n : Nat) (f : Die → Die) (h : ∀ d, (f d).state = d.state) :
    (s.modDie n f).dieStates = s.dieStates := by
  funext k
  simp only [State.dieStates, State.die_modDie]
  split
  · next e => rw [h, e]
  · rfl

@[simp] theorem State.dieStates_perf (s : State) (k e n : Nat) : (s.perf k e n).dieStates = s.dieStates :=
  s.dieStates_modDie _ _ (fun _ => rfl)
@[simp] theorem State.removeBlock_dieStates (s : State) (b : Block) : (s.removeBlock b).dieStates = s.dieStates := rfl
@[simp] theorem State.dieStates_clearMarks (s : State) (l : Nat) : (s.clearMarks l).dieStates = s.dieStates :=
  foldl_keeps _ _ (by intros; rfl) _ _
@[simp] theorem State.dieStates_atticAdd (s : State) (l : List Nat) : (s.atticAdd l).dieStates = s.dieStates :=
  foldl_keeps _ _ (by intros; rfl) _ _
@[simp] theorem State.dieStates_atticSub (s : State) (l : List Nat) : (s.atticSub l).dieStates = s.dieStates :=
  foldl_keeps _ _ (by intros; rfl) _ _

@[simp] theorem State.dieStates_spillLine (s : State) (l : Nat) : (s.spillLine l).dieStates = s.dieStates := by
  unfold State.spillLine
  split
  · rw [State.dieStates_perf]
    exact (State.dieStates_atticAdd _ _).trans (State.dieStates_clearMarks _ _)
  · exact State.dieStates_clearMarks _ _

@[simp] theorem State.dieStates_shelve (s : State) (l : Nat) : (s.shelve l).dieStates = s.dieStates := by
  unfold State.shelve
  dsimp only
  split
  · rfl
  · split
    · exact (State.dieStates_perf _ _ _ _).trans (foldl_keeps State.dieStates _ State.dieStates_spillLine _ _)
    · rfl

@[simp] theorem State.dieStates_poisonWord (s : State) (w : Nat) : (s.poisonWord w).dieStates = s.dieStates := by
  unfold State.poisonWord
  dsimp only
  split
  · rfl
  · exact State.dieStates_shelve _ _

theorem State.lostRecord_keeps (s : State) (slots : List Nat) (l : Nat) :
    (s.lostRecord slots l).offHomes = s.offHomes ∧ (s.lostRecord slots l).dieStates = s.dieStates := by
  unfold State.lostRecord
  dsimp only
  split
  · exact ⟨rfl, rfl⟩
  · exact ⟨State.offHomes_atticSub _ _, State.dieStates_atticSub _ _⟩

/-! ### A team that is stopped, and one whose cores are chosen -/

/-- How far a team has come, where it stands in a state. -/
def State.teamState (s : State) (tid : Nat) : Option TeamState := (s.team? tid).map Team.state

theorem State.teamState_modTeam (s : State) (tid k : Nat) (f : Team → Team) :
    (s.modTeam tid f).teamState k = if tid = k then (s.team? k).map (fun t => (f t).state) else s.teamState k := by
  simp only [State.teamState, State.team?_modTeam]
  split
  · rw [Option.map_map]; rfl
  · rfl

theorem State.abortTeam_teamState (s : State) (tid slot gang k : Nat) (trap : Option Trap) :
    (s.abortTeam tid slot gang trap).teamState k = if tid = k then (s.team? k).map (fun _ => .ending) else s.teamState k := by
  unfold State.abortTeam
  rw [State.teamState_modTeam]
  congr 2
  funext t
  split
  · assumption
  · rfl

theorem State.chooseFor_frame (s : State) (tid : Nat) : ∃ ts, s.chooseFor tid = { s with teams := ts } := by
  unfold State.chooseFor
  split
  · exact ⟨s.teams, rfl⟩
  · split
    · exact ⟨s.teams, rfl⟩
    · exact ⟨_, rfl⟩

theorem State.chooseFor_teamState (s : State) (tid : Nat) : (s.chooseFor tid).teamState = s.teamState := by
  funext k
  unfold State.chooseFor
  split
  · rfl
  · split
    · rfl
    · rw [State.teamState_modTeam]
      split <;> rfl

theorem State.chooseAll_frame (tids : List Nat) (s : State) : ∃ ts, tids.foldl State.chooseFor s = { s with teams := ts } := by
  induction tids generalizing s with
  | nil => exact ⟨s.teams, rfl⟩
  | cons tid tids ih =>
    obtain ⟨ts, h⟩ := s.chooseFor_frame tid
    obtain ⟨us, hu⟩ := ih (s.chooseFor tid)
    exact ⟨us, by rw [List.foldl_cons, hu, h]⟩

/-! ### A die that is lost (R33, R273) -/

/-- The blocks on a die. -/
def State.blocksOn (s : State) (die : Nat) : List Block := (s.blocks.filter (fun b => dieOf b.2.core = die)).map Prod.snd

/-- The teams of a die's blocks end as a whole. -/
def State.stopTeamsOn (s : State) (die : Nat) : State := (s.blocksOn die).foldl (fun t b => t.abortTeam b.team 0 0 none) s

/-- Their teams stopped, the writes that only the die held are lost: marks, records and words whose data are gone turn to poison. -/
def State.loseWritesOf (s : State) (die : Nat) : State :=
  let slots := (s.blocksOn die).map Block.slot
  let s1 := s.stopTeamsOn die
  (s.dirtyWords die).foldl State.poisonWord ((s1.side.map Prod.fst).foldl (fun t l => t.lostRecord slots l)
    { s1 with marks := (s1.marks.map (fun e => (e.1, s1.lostMark slots die e.2))).filter (fun e => e.2 ≠ Mark.empty) })

/-- What was on the die is gone, and the die has a state. -/
def State.emptyDie (s : State) (die state : Nat) : State :=
  let stash := fun (a : Nat) => isStashKey a && dieOf ((a - 2 ^ 60) / 2 ^ 18) = die
  { s with
    mem := s.mem.filter (fun c => !stash c.1)
    marks := s.marks.filter (fun e => !stash (4 * e.1))
    cores := s.cores.map (fun c => if dieOf c.1 = die then (c.1, c.2.afterReset) else c)
    clusterTlbs := s.clusterTlbs.filter (fun c => c.1 / 4 ≠ die)
    flying := s.flying.filter (fun m => dieOf m.dest ≠ die)
    teams := s.teams.map (fun (t : Nat × Team) =>
      if t.2.waited && t.2.chosen.any (fun c => dieOf c = die) then (t.1, { t.2 with chosen := [] }) else t)
    dies := Tab.upd s.dies die Die.reset (fun d => { d with state := state }) }

/-- The four stages of the loss of a die. -/
theorem State.loseDie_eq (s : State) (die state : Nat) : s.loseDie die state =
    let u := ((s.blocksOn die).foldl State.removeBlock (s.loseWritesOf die)).emptyDie die state
    (u.teams.map Prod.fst).foldl State.chooseFor u := rfl

theorem State.stopTeamsOn_keeps {γ : Type} (p : State → γ) (h : ∀ t tid, p (State.abortTeam t tid 0 0 none) = p t) (s : State) (die : Nat) :
    p (s.stopTeamsOn die) = p s :=
  foldl_keeps p (fun t (b : Block) => t.abortTeam b.team 0 0 none) (fun t b => h t b.team) _ _

theorem stopped_of_ending (bs : List Block) (s : State) (k : Nat) (h : s.teamState k = some .ending) :
    (bs.foldl (fun u b => u.abortTeam b.team 0 0 none) s).teamState k = some .ending := by
  induction bs generalizing s with
  | nil => exact h
  | cons b bs ih =>
    refine ih _ ?_
    rw [State.abortTeam_teamState]
    split
    · obtain ⟨y, hy, -⟩ := Option.map_eq_some_iff.mp h
      rw [hy]; rfl
    · exact h

theorem stopped_of_mem (bs : List Block) (s : State) (b : Block) (hb : b ∈ bs) (h : (s.team? b.team).isSome) :
    (bs.foldl (fun u c => u.abortTeam c.team 0 0 none) s).teamState b.team = some .ending := by
  induction bs generalizing s with
  | nil => exact absurd hb (List.not_mem_nil)
  | cons c bs ih =>
    have hstop : (s.abortTeam c.team 0 0 none).teamState b.team = some .ending ∨ (b ∈ bs ∧ c.team ≠ b.team) := by
      rw [State.abortTeam_teamState]
      obtain ⟨y, hy⟩ := Option.isSome_iff_exists.mp h
      by_cases e : c.team = b.team
      · exact .inl (by rw [if_pos e, hy]; rfl)
      · exact .inr ⟨(List.mem_cons.mp hb).resolve_left (fun hbc => e (by rw [hbc])), e⟩
    rcases hstop with hs | ⟨hbs, hne⟩
    · exact stopped_of_ending bs _ _ hs
    · refine ih _ hbs ?_
      rwa [show (s.abortTeam c.team 0 0 none).team? b.team = s.team? b.team from
        (State.team?_modTeam _ _ _ _).trans (if_neg hne)]

theorem State.loseWritesOf_offHomes (s : State) (die : Nat) : (s.loseWritesOf die).offHomes = (s.stopTeamsOn die).offHomes := by
  unfold State.loseWritesOf
  dsimp only
  rw [foldl_keeps State.offHomes _ State.offHomes_poisonWord, foldl_keeps State.offHomes _ (fun t l => (t.lostRecord_keeps _ l).1)]
  rfl

theorem State.loseWritesOf_dieStates (s : State) (die : Nat) : (s.loseWritesOf die).dieStates = s.dieStates := by
  unfold State.loseWritesOf
  dsimp only
  rw [foldl_keeps State.dieStates _ State.dieStates_poisonWord, foldl_keeps State.dieStates _ (fun t l => (t.lostRecord_keeps _ l).2)]
  exact State.stopTeamsOn_keeps State.dieStates (fun _ _ => rfl) s die

theorem State.emptyDie_teamState (s : State) (die state : Nat) : (s.emptyDie die state).teamState = s.teamState := by
  funext k
  have hmap : (s.emptyDie die state).teams = s.teams.map (fun e => (e.1,
      if e.2.waited && e.2.chosen.any (fun c => dieOf c = die) then { e.2 with chosen := [] } else e.2)) := by
    refine List.map_congr_left (fun e _ => ?_)
    split <;> rfl
  simp only [State.teamState, State.team?, hmap]
  rw [Tab.look_map_val (fun _ (t : Team) => if t.waited && t.chosen.any (fun c => dieOf c = die) then { t with chosen := [] } else t),
    Option.map_map]
  congr 1
  funext t
  simp only [Function.comp_apply]
  split <;> rfl

/-- A core of the die as its reset leaves it. -/
theorem State.emptyDie_core (s : State) (die state core : Nat) (h : dieOf core = die) :
    ∃ c : Core, (s.emptyDie die state).core core = c.afterReset ∨ (s.emptyDie die state).core core = Core.reset := by
  have hmap : (s.emptyDie die state).cores = s.cores.map (fun e => (e.1, if dieOf e.1 = die then e.2.afterReset else e.2)) := by
    refine List.map_congr_left (fun e _ => ?_)
    split <;> rfl
  simp only [State.core, Tab.getD, hmap]
  rw [Tab.look_map_val (fun k (c : Core) => if dieOf k = die then c.afterReset else c)]
  simp only [if_pos h]
  cases Tab.look s.cores core with
  | none => exact ⟨Core.reset, .inr rfl⟩
  | some c => exact ⟨c, .inl rfl⟩

theorem State.emptyDie_dieStates (s : State) (die state k : Nat) :
    (s.emptyDie die state).dieStates k = if die = k then state else s.dieStates k := by
  simp only [State.dieStates, State.die, State.emptyDie, Tab.getD_upd]
  split <;> rfl

theorem dieOf_stashKey {core off : Nat} (h : off < 2 ^ 18) : (stashKey core off - 2 ^ 60) / 2 ^ 18 = core := by
  unfold stashKey
  omega

theorem State.emptyDie_stash (s : State) (die state core off : Nat) (hc : dieOf core = die) (ho : off < 2 ^ 18) :
    Memory.byte? (s.emptyDie die state).mem (stashKey core off) = some 0 := by
  have hk : isStashKey (stashKey core off) = true := by
    unfold isStashKey stashKey
    exact decide_eq_true (by omega)
  have hp : (!(isStashKey (stashKey core off) && decide (dieOf ((stashKey core off - 2 ^ 60) / 2 ^ 18) = die))) = false := by
    rw [dieOf_stashKey ho, hk, decide_eq_true hc]; rfl
  refine (Memory.byte?_filter_out (fun a => !(isStashKey a && dieOf ((a - 2 ^ 60) / 2 ^ 18) = die)) s.mem _ hp).trans ?_
  rw [hk]; rfl

theorem State.emptyDie_mem (s : State) (die state a : Nat) (h : isStashKey a = false) :
    Memory.byte? (s.emptyDie die state).mem a = Memory.byte? s.mem a :=
  Memory.byte?_filter_key (fun a => !(isStashKey a && dieOf ((a - 2 ^ 60) / 2 ^ 18) = die)) s.mem a (by rw [h]; rfl)

/-- What is left once a die's blocks have gone: memory, queues, tokens and the dies' states as they were, and the teams as the stop left
them. -/
theorem State.dieCleared_keeps (s : State) (die : Nat) :
    let u := (s.blocksOn die).foldl State.removeBlock (s.loseWritesOf die)
    u.mem = s.mem ∧ u.queues = s.queues ∧ u.tokens = s.tokens ∧ u.dieStates = s.dieStates ∧ u.teams = (s.stopTeamsOn die).teams := by
  have hw := s.loseWritesOf_offHomes die
  refine ⟨?_, ?_, ?_, ?_, ?_⟩
  · rw [foldl_keeps State.mem _ State.removeBlock_mem, State.mem_of_offHomes hw]
    exact State.stopTeamsOn_keeps State.mem (fun _ _ => rfl) s die
  · rw [foldl_keeps State.queues _ State.removeBlock_queues, State.queues_of_offHomes hw]
    exact State.stopTeamsOn_keeps State.queues (fun _ _ => rfl) s die
  · rw [foldl_keeps State.tokens _ State.removeBlock_tokens, State.tokens_of_offHomes hw]
    exact State.stopTeamsOn_keeps State.tokens (fun _ _ => rfl) s die
  · rw [foldl_keeps State.dieStates _ State.removeBlock_dieStates, s.loseWritesOf_dieStates]
  · rw [foldl_keeps State.teams _ State.removeBlock_teams, State.teams_of_offHomes hw]

theorem State.dieCleared_blocks (s : State) (die : Nat) (hbid : ∀ e ∈ s.blocks, e.2.bid = e.1) {e : Nat × Block}
    (he : e ∈ ((s.blocksOn die).foldl State.removeBlock (s.loseWritesOf die)).blocks) : dieOf e.2.core ≠ die := by
  obtain ⟨hmem, hgone⟩ := mem_blocks_of_removed _ _ he
  rw [State.blocks_of_offHomes (s.loseWritesOf_offHomes die),
    State.stopTeamsOn_keeps State.blocks (fun _ _ => rfl)] at hmem
  intro hd
  exact hgone e.2 (List.mem_map.mpr ⟨e, List.mem_filter.mpr ⟨hmem, decide_eq_true hd⟩, rfl⟩) (hbid e hmem).symm

theorem execMgmtDieReset_effect {s : State} {die : Nat} (disable : Bool) (hm : s.mgmtReset = false)
    (hbid : ∀ e ∈ s.blocks, e.2.bid = e.1) (hd : die < 4) : ∃ t, exec (.mgmtDieReset die disable) s = .next t ∧
      (t.die die).state = (if disable then 2 else 1) ∧ (∀ k, k ≠ die → (t.die k).state = (s.die k).state) ∧
      (∀ e ∈ t.blocks, dieOf e.2.core ≠ die) ∧
      (∀ e ∈ s.blocks, dieOf e.2.core = die → ∀ y, s.team? e.2.team = some y → ∃ z, t.team? e.2.team = some z ∧ z.state = .ending) ∧
      (∀ core, dieOf core = die → (t.core core).l1 = [] ∧ (t.core core).msgs = [] ∧ (t.core core).copies = [] ∧
        ∀ off < 2 ^ 18, Memory.byte? t.mem (stashKey core off) = some 0) ∧
      (∀ a, isStashKey a = false → Memory.byte? t.mem a = Memory.byte? s.mem a) ∧ t.queues = s.queues ∧ t.tokens = s.tokens := by
  have hexec : exec (.mgmtDieReset die disable) s = .next (s.loseDie die (if disable then 2 else 1)) := by
    simp [exec, execMgmtDieReset, hm, Nat.not_le.mpr hd]
  obtain ⟨hmem, hq, htok, hdies, hteams⟩ := s.dieCleared_keeps die
  rw [State.loseDie_eq] at hexec
  dsimp only at hexec
  have hblocks : ∀ e ∈ ((s.blocksOn die).foldl State.removeBlock (s.loseWritesOf die)).blocks, dieOf e.2.core ≠ die :=
    fun e he => s.dieCleared_blocks die hbid he
  generalize (s.blocksOn die).foldl State.removeBlock (s.loseWritesOf die) = u at *
  generalize (if disable then 2 else 1) = n at *
  have hchosen := foldl_keeps State.teamState _ State.chooseFor_teamState ((u.emptyDie die n).teams.map Prod.fst) (u.emptyDie die n)
  obtain ⟨ts, hts⟩ := State.chooseAll_frame ((u.emptyDie die n).teams.map Prod.fst) (u.emptyDie die n)
  rw [hts] at hexec hchosen
  refine ⟨_, hexec, ?_, fun k hk => ?_, hblocks, fun e he hcore y hy => ?_, fun core hc => ?_, fun a ha => ?_, hq, htok⟩
  · exact (u.emptyDie_dieStates die n die).trans (if_pos rfl)
  · exact (u.emptyDie_dieStates die n k).trans ((if_neg (Ne.symm hk)).trans (congrFun hdies k))
  · have hstop : u.teamState e.2.team = some .ending := by
      have h := stopped_of_mem (s.blocksOn die) s e.2 (List.mem_map.mpr ⟨e, List.mem_filter.mpr ⟨he, decide_eq_true hcore⟩, rfl⟩)
        (Option.isSome_iff_exists.mpr ⟨y, hy⟩)
      simp only [State.teamState, State.team?, hteams]
      exact h
    rw [← u.emptyDie_teamState die n, ← hchosen] at hstop
    exact Option.map_eq_some_iff.mp hstop
  · have hmem0 : ∀ off < 2 ^ 18, Memory.byte? (u.emptyDie die n).mem (stashKey core off) = some 0 :=
      fun off ho => u.emptyDie_stash die n core off hc ho
    obtain ⟨c, h | h⟩ := u.emptyDie_core die n core hc
    · exact ⟨(congrArg Core.l1 h).trans rfl, (congrArg Core.msgs h).trans rfl, (congrArg Core.copies h).trans rfl, hmem0⟩
    · exact ⟨(congrArg Core.l1 h).trans rfl, (congrArg Core.msgs h).trans rfl, (congrArg Core.copies h).trans rfl, hmem0⟩
  · exact (u.emptyDie_mem die n a ha).trans (by rw [hmem])

/-! ### The rest of the management plane -/

theorem execMgmtQueueHold {s : State} {q : Nat} {i : Instr} {h : Bool} (hm : s.mgmtReset = false) (hq : q < 128)
    (hi : (i = .mgmtQueueDisable q ∧ h = true) ∨ (i = .mgmtQueueEnable q ∧ h = false)) :
    exec i s = .next (s.modQueue q (fun x => { x with mhold := h })) := by
  rcases hi with ⟨rfl, rfl⟩ | ⟨rfl, rfl⟩
  · simp [exec, execMgmtQueueDisable, hm, Nat.not_le.mpr hq]
  · simp [exec, execMgmtQueueEnable, hm, Nat.not_le.mpr hq]

theorem execMgmtDieEnable_eq {s : State} {die : Nat} (hm : s.mgmtReset = false) (hd : die < 4) :
    exec (.mgmtDieEnable die) s = .next (s.modDie die (fun d => { d with state := 0 })) := by
  simp [exec, execMgmtDieEnable, hm, Nat.not_le.mpr hd]

theorem readBytes_of_byte? {s : State} {salt a n k : Nat} {v : Byte} (hk : k < n) (hv : Memory.byte? s.mem (a + k) = some v) :
    (s.readBytes salt a n)[k]? = some v := by
  simp [State.readBytes, State.readByte, hk, hv]

theorem execMgmtFaultQueueRead_effect {s : State} {asid : Nat} {d : Descriptor} (hm : s.mgmtReset = false)
    (hd : Tab.look s.identifiers asid = some d) : ∃ t xs, exec (.mgmtFaultQueueRead asid) s = .next t ∧
      Tab.look t.faultsRead asid = some xs ∧ xs.length = 32 + 32 * d.fqsize ∧
      (∀ (k : Nat) (v : Byte), k < xs.length → Memory.byte? s.mem (d.fqbase + k) = some v → xs[k]? = some v) ∧
      t = { s with faultsRead := t.faultsRead } := by
  have hexec : exec (.mgmtFaultQueueRead asid) s =
      .next { s with faultsRead := Tab.put s.faultsRead asid (s.readBytes 52 d.fqbase (32 + 32 * d.fqsize)) } := by
    simp [exec, execMgmtFaultQueueRead, hd, hm]
  have hlen : (s.readBytes 52 d.fqbase (32 + 32 * d.fqsize)).length = 32 + 32 * d.fqsize := by simp [State.readBytes]
  refine ⟨_, _, hexec, Tab.look_put_self _ _ _, hlen, fun k v hk hv => ?_, rfl⟩
  rw [hlen] at hk
  exact readBytes_of_byte? hk hv

theorem execBallastWrite_eq {s : State} (hm : s.mgmtReset = false) (value : Nat) :
    exec (.ballastWrite value) s = .next (if 60 ≤ value ∧ value ≤ 100 then { s with ballast := value } else s) := by
  have hexec : exec (.ballastWrite value) s =
      .next (if s.mgmtReset || value < 60 || 100 < value then s else { s with ballast := value }) := rfl
  rw [hexec, hm]
  by_cases h : 60 ≤ value ∧ value ≤ 100
  · rw [if_pos h, if_neg (by simpa using h)]
  · rw [if_neg h, if_pos (by simp; omega)]

theorem execSpdmRequest_effect {s : State} (hm : s.mgmtReset = false) (request : Nat) : ∃ t, exec (.spdmRequest request) s = .next t ∧
    t = { s with
      spdmAnswered := s.spdmAnswered + 1
      spdmReport := t.spdmReport } ∧
    (request = 0 ∨ 4 < request → t.spdmReport = s.spdmReport) ∧
    (1 ≤ request → request ≤ 4 → ∃ r, t.spdmReport = some r ∧ r.block = request ∧
      r.config = (if request = 4 then some (s.link, (List.range 8).map (fun k => (s.stack k).rate), s.ballast) else none) ∧
      (request = 1 → r.measurement = Config.bootRom) ∧
      let key := Config.identityKey Config.fusedSecret Config.bootRom
      let hash := Config.transcript s.spdmAnswered request r.measurement
      r.certificates = Config.certificates key ∧ r.signature = Config.ecdsaP384 key hash ∧ r.lms = Config.lmsSign key hash) := by
  have hexec : exec (.spdmRequest request) s = .next { s with
      spdmAnswered := s.spdmAnswered + 1
      spdmReport := if 1 ≤ request ∧ request ≤ 4 then some (s.spdmReportOf request) else s.spdmReport } := by
    simp [exec, execSpdmRequest, hm]
  refine ⟨_, hexec, rfl, fun hr => if_neg (by omega), fun h1 h4 => ⟨s.spdmReportOf request, if_pos ⟨h1, h4⟩, rfl, rfl, fun h => ?_, rfl,
    rfl, rfl⟩⟩
  subst h
  rfl

theorem execPowerUp_mem (s : State) (a : Nat) : Memory.byte? (s.mem.filter (fun c => isCellar c.1)) a =
    if isCellar a then Memory.byte? s.mem a else if isStashKey a then some 0 else none := by
  split
  · exact Memory.byte?_filter_key isCellar _ _ ‹_›
  · exact Memory.byte?_filter_out isCellar _ _ (Bool.eq_false_iff.mpr ‹_›)

/-- Settles O53, operation by operation; the loss of a die is the one that needs what it leaves alone. -/
theorem managementPlane : Obligations.ManagementPlane := by
  intro s
  refine ⟨fun hm q hq i h hi => ?_, fun hm hbid die disable hd => execMgmtDieReset_effect disable hm hbid hd, fun hm die hd => ?_,
    fun hm asid d hd => execMgmtFaultQueueRead_effect hm hd, rfl, rfl,
    fun hm => ⟨execBallastWrite_eq hm, fun power => ?_, execSpdmRequest_effect hm⟩, fun target version ecdsa lms => ?_, ?_⟩
  · exact ⟨_, execMgmtQueueHold hm hq hi, by rw [State.queue_modQueue, if_pos rfl],
      fun k hk => by rw [State.queue_modQueue, if_neg (Ne.symm hk)], rfl⟩
  · exact ⟨_, execMgmtDieEnable_eq hm hd, by rw [State.die_modDie, if_pos rfl],
      fun k hk => by rw [State.die_modDie, if_neg (Ne.symm hk)], rfl⟩
  · simp [exec, execGovernorTest, hm]
  · simp [exec, execFirmwareImageLoad, and_assoc]
  · exact ⟨_, rfl, rfl, execPowerUp_mem s⟩

/-! ### The state after power-up -/

/-- Settles O60, by the values of the reset state; an address below the stashes has no byte in its empty memory. -/
theorem resetState : Obligations.ResetState := by
  refine ⟨by simp [MemoryKept, State.reset, Memory.wf_nil], rfl, rfl, rfl, fun a ha => ?_, fun _ => rfl, fun _ => rfl, fun _ => rfl,
    fun _ => ⟨rfl, rfl, rfl, rfl, rfl, rfl, rfl, rfl⟩, fun _ => ⟨rfl, rfl, rfl, rfl, rfl, rfl, rfl⟩, rfl, fun _ => rfl, rfl, fun _ => rfl,
    fun _ => rfl⟩
  have hs : isStashKey a = false := decide_eq_false (Nat.not_le.mpr ha)
  simp [Memory.byte?, State.reset, hs]

end Sys2Proof.Machine
end

/-! Proofs/Image.lean: what an image holds of a gang's trees and tables comes back as it was (R317, R366, R402 to R404, R418). -/
section

namespace Sys2Proof.Machine

open Sys2Proof

/-! ### Tables in the order of their keys -/

theorem Tab.mem_of_look {α : Type} {t : Tab α} {x : Nat} {v : α} (h : Tab.look t x = some v) : (x, v) ∈ t := by
  induction t with
  | nil => cases h
  | cons e t ih =>
    obtain ⟨k, u⟩ := e
    rw [Tab.look_cons] at h
    split at h
    · next hk => exact List.mem_cons.mpr (.inl (by rw [hk, Option.some.inj h]))
    · exact List.mem_cons_of_mem _ (ih h)

theorem Tab.look_eq_some_iff {α : Type} {t : Tab α} (ht : Tab.wf t) {x : Nat} {v : α} : Tab.look t x = some v ↔ (x, v) ∈ t := by
  refine ⟨Tab.mem_of_look, fun h => ?_⟩
  induction t with
  | nil => exact absurd h List.not_mem_nil
  | cons e t ih =>
    obtain ⟨k, u⟩ := e
    obtain ⟨hk, ht⟩ := List.pairwise_cons.mp ht
    rw [Tab.look_cons]
    rcases List.mem_cons.mp h with h | h
    · obtain ⟨rfl, rfl⟩ := Prod.mk.inj h
      exact if_pos rfl
    · rw [if_neg (Nat.ne_of_lt (hk x (List.mem_map_of_mem h))), ih ht h]

/-- A table read key by key, from zero to a bound of its keys, is the table. -/
theorem Tab.filterMap_look {α β : Type} {t : Tab α} (ht : Tab.wf t) {n : Nat} (hn : ∀ e ∈ t, e.1 < n) (f : α → β) :
    (List.range n).filterMap (fun p => (Tab.look t p).map (fun v => (p, f v))) = t.map (fun e => (e.1, f e.2)) := by
  have hwf : (t.map (fun e => (e.1, f e.2))).Pairwise (fun a b => a.1 < b.1) := by
    rw [List.pairwise_map]
    exact List.pairwise_map.mp ht
  have hrange : ((List.range n).filterMap (fun p => (Tab.look t p).map (fun v => (p, f v)))).Pairwise (fun a b => a.1 < b.1) := by
    rw [List.pairwise_filterMap]
    refine List.pairwise_lt_range.imp (fun hab x hx y hy => ?_)
    obtain ⟨u, -, rfl⟩ := Option.map_eq_some_iff.mp hx
    obtain ⟨v, -, rfl⟩ := Option.map_eq_some_iff.mp hy
    exact hab
  refine List.Perm.eq_of_pairwise (fun a b _ _ hab hba => absurd hab (Nat.lt_asymm hba)) hrange hwf
    ((List.perm_ext_iff_of_nodup (hrange.imp (fun h => fun e => absurd h (e ▸ Nat.lt_irrefl _)))
      (hwf.imp (fun h => fun e => absurd h (e ▸ Nat.lt_irrefl _)))).mpr (fun y => ?_))
  simp only [List.mem_filterMap, List.mem_range, Option.map_eq_some_iff, List.mem_map, Tab.look_eq_some_iff ht]
  constructor
  · rintro ⟨p, -, v, hv, rfl⟩
    exact ⟨(p, v), hv, rfl⟩
  · rintro ⟨e, he, rfl⟩
    exact ⟨e.1, hn e he, e.2, he, rfl⟩

theorem filterMap_getElem?_range {α : Type} (l : List α) {n : Nat} (h : l.length ≤ n) :
    (List.range n).filterMap (fun i => l[i]?) = l := by
  induction l generalizing n with
  | nil => simp
  | cons x l ih =>
    cases n with
    | zero => exact absurd h (by simp)
    | succ n =>
      rw [List.range_succ_eq_map, List.filterMap_cons_some (by rfl), List.filterMap_map]
      exact congrArg (x :: ·) (ih (Nat.le_of_succ_le_succ h))

/-! ### Blocks of words of one length, one after the other -/

/-- What stands from the block of an entry on. -/
theorem drop_flatMap_of_length {α β : Type} {f : α → List β} {k : Nat} (rest : List β) (l : List α) (h : ∀ x ∈ l, (f x).length = k)
    {i : Nat} (hi : i ≤ l.length) : (l.flatMap f ++ rest).drop (k * i) = (l.drop i).flatMap f ++ rest := by
  induction l generalizing i with
  | nil => simp at hi; simp [hi]
  | cons x l ih =>
    cases i with
    | zero => simp
    | succ i =>
      have hx : (f x).length = k := h x List.mem_cons_self
      rw [List.flatMap_cons, List.append_assoc, show k * (i + 1) = (f x).length + k * i by rw [hx]; ring, List.drop_length_add_append,
        ih (fun y hy => h y (List.mem_cons_of_mem _ hy)) (Nat.le_of_succ_le_succ hi), List.drop_succ_cons]

/-- The blocks of a range of numbers: from number i on, the block of i and some more. -/
theorem drop_flatMap_range {β : Type} {f : Nat → List β} {k : Nat} (rest : List β) (h : ∀ i, (f i).length = k) {n i : Nat} (hi : i < n) :
    ∃ more, ((List.range n).flatMap f ++ rest).drop (k * i) = f i ++ more := by
  refine ⟨((List.range n).drop (i + 1)).flatMap f ++ rest, ?_⟩
  rw [drop_flatMap_of_length rest _ (fun x _ => h x) (by simpa using hi.le), List.drop_eq_getElem_cons (by simpa using hi),
    List.flatMap_cons, List.getElem_range, List.append_assoc]

theorem drop_flatMap_range_all {β : Type} {f : Nat → List β} {k : Nat} (rest : List β) (h : ∀ i, (f i).length = k) (n : Nat) :
    ((List.range n).flatMap f ++ rest).drop (k * n) = rest := by
  rw [drop_flatMap_of_length rest _ (fun x _ => h x) (by simp), List.drop_of_length_le (by simp)]
  rfl

theorem getD_of_drop_eq {β : Type} {ws xs more : List β} {a : Nat} (h : ws.drop a = xs ++ more) {j : Nat} (hj : j < xs.length) (d : β) :
    ws.getD (a + j) d = xs.getD j d := by
  rw [List.getD_eq_getElem?_getD, ← List.getElem?_drop, h, List.getElem?_append_left hj, List.getD_eq_getElem?_getD]

/-! ### Splits and join records (R403, R404) -/

theorem Split.words_length (x : Split) : x.words.length = 8 := rfl
theorem JoinRec.words_length (r : JoinRec) : r.words.length = 8 := rfl

theorem Tree.placeWords_length (t : Tree) (p : Nat) : (t.placeWords p).length = 8 := by
  unfold Tree.placeWords
  split <;> rfl

/-- A PC comes back from its two words. -/
theorem pc_of_words (pc : Dword) :
    BitVec.ofNat 64 ((BitVec.ofNat 32 pc.toNat).toNat + (BitVec.ofNat 32 (pc.toNat / 2 ^ 32)).toNat * 2 ^ 32) = pc := by
  apply BitVec.eq_of_toNat_eq
  have h := pc.isLt
  simp only [BitVec.toNat_ofNat]
  omega

theorem Split.loaded_words {x : Split} (h : x.rec_ < 64) : x.loaded x.words = x := by
  have hrec : bits (BitVec.ofNat 32 (1 + 6 * 4 + x.rec_ * 2 ^ 5)).toNat 10 5 = x.rec_ := by
    simp only [bits, BitVec.toNat_ofNat]
    omega
  calc x.loaded x.words = { x with
      rec_ := bits (BitVec.ofNat 32 (1 + 6 * 4 + x.rec_ * 2 ^ 5)).toNat 10 5
      pc := BitVec.ofNat 64 ((BitVec.ofNat 32 x.pc.toNat).toNat + (BitVec.ofNat 32 (x.pc.toNat / 2 ^ 32)).toNat * 2 ^ 32) } := rfl
    _ = x := by rw [hrec, pc_of_words]

theorem Split.words_kind (x : Split) : bits (x.words.headD 0).toNat 1 0 = 1 := by
  change bits (BitVec.ofNat 32 (1 + 6 * 4 + x.rec_ * 2 ^ 5)).toNat 1 0 = 1
  simp only [bits, BitVec.toNat_ofNat]
  omega

/-- Word 0 of a join record as a number. -/
def JoinRec.code (r : JoinRec) : Nat :=
  2 + r.armed.toNat * 4 + r.id * 2 ^ 4 + r.outer * 2 ^ 10 + (if r.armed then r.units else 0) * 2 ^ 16

theorem JoinRec.words_head (r : JoinRec) : r.words.headD 0 = BitVec.ofNat 32 r.code := rfl

/-- The bounds that let word 0 of a join record hold its fields (R404). -/
structure JoinRec.Fits (r : JoinRec) : Prop where
  id : r.id < 64
  outer : r.outer < 64
  units : r.units < 2 ^ 16
  timer : r.armed = false → r.timer = 0

theorem JoinRec.code_toNat {r : JoinRec} (h : r.Fits) : (BitVec.ofNat 32 r.code).toNat = r.code := by
  obtain ⟨hid, houter, hunits, -⟩ := h
  have ha : r.armed.toNat ≤ 1 := Bool.toNat_le _
  refine Nat.mod_eq_of_lt ?_
  unfold JoinRec.code
  split <;> omega

theorem JoinRec.words_kind {r : JoinRec} (h : r.Fits) : bits (r.words.headD 0).toNat 1 0 = 2 := by
  rw [JoinRec.words_head, JoinRec.code_toNat h, bits, JoinRec.code]
  omega

theorem JoinRec.loaded_words {r : JoinRec} (h : r.Fits) : r.loaded r.words = { r with timer := 16 * r.units } := by
  have hcode := JoinRec.code_toNat h
  obtain ⟨hid, houter, hunits, htimer⟩ := h
  have ha : r.armed.toNat ≤ 1 := Bool.toNat_le _
  have hunarmed : r.armed = false → r.units = 0 := fun e => by rw [JoinRec.units, htimer e]
  have harmed : bit r.code 2 = r.armed := by
    have hdiv : r.code / 2 ^ 2 % 2 = r.armed.toNat := by
      unfold JoinRec.code
      omega
    rw [bit, Nat.testBit_eq_decide_div_mod_eq, hdiv]
    cases r.armed <;> rfl
  have hidf : bits r.code 9 4 = r.id := by
    unfold bits JoinRec.code
    omega
  have houterf : bits r.code 15 10 = r.outer := by
    unfold bits JoinRec.code
    omega
  have htimerf : bits r.code 31 16 * 16 = 16 * r.units := by
    have hdiv : bits r.code 31 16 = if r.armed then r.units else 0 := by
      unfold bits JoinRec.code
      split <;> omega
    rw [hdiv]
    split
    · exact Nat.mul_comm _ _
    · next e => rw [hunarmed (Bool.eq_false_iff.mpr e)]
  calc r.loaded r.words = { r with
      armed := bit (BitVec.ofNat 32 r.code).toNat 2
      id := bits (BitVec.ofNat 32 r.code).toNat 9 4
      outer := bits (BitVec.ofNat 32 r.code).toNat 15 10
      timer := bits (BitVec.ofNat 32 r.code).toNat 31 16 * 16
      jpc := BitVec.ofNat 64 ((BitVec.ofNat 32 r.jpc.toNat).toNat + (BitVec.ofNat 32 (r.jpc.toNat / 2 ^ 32)).toNat * 2 ^ 32) } := rfl
    _ = { r with timer := 16 * r.units } := by rw [hcode, harmed, hidf, houterf, htimerf, pc_of_words]

/-! ### Trees (R401, R402, R418) -/

/-- The number of places that a list of places asks for, from a least number on. -/
theorem foldl_max_place (ps : List Nat) (n : Nat) :
    n ≤ ps.foldl (fun m p => max m (p + 1)) n ∧ (∀ p ∈ ps, p < ps.foldl (fun m p => max m (p + 1)) n) ∧
      ∀ b, n ≤ b → (∀ p ∈ ps, p < b) → ps.foldl (fun m p => max m (p + 1)) n ≤ b := by
  induction ps generalizing n with
  | nil => exact ⟨Nat.le_refl _, by simp, fun b hb _ => hb⟩
  | cons p ps ih =>
    obtain ⟨hle, hlt, hub⟩ := ih (max n (p + 1))
    rw [List.foldl_cons]
    refine ⟨by omega, List.forall_mem_cons.mpr ⟨by omega, hlt⟩, fun b hb hps => ?_⟩
    obtain ⟨hp, hps⟩ := List.forall_mem_cons.mp hps
    exact hub b (by omega) hps

section Trees

variable {t : Tree}

theorem Tree.span_le (h : t.savable) : t.span ≤ 136 := by
  obtain ⟨-, -, hsplits, hrecs⟩ := h
  refine (foldl_max_place _ 8).2.2 136 (by omega) (fun p hp => ?_)
  rcases List.mem_append.mp hp with hp | hp
  · obtain ⟨e, he, rfl⟩ := List.mem_map.mp hp
    exact (hsplits e he).1
  · obtain ⟨e, he, rfl⟩ := List.mem_map.mp hp
    exact (hrecs e he).1

theorem Tree.lt_span_of_split {e : Nat × Split} (h : e ∈ t.splits) : e.1 < t.span :=
  (foldl_max_place _ 8).2.1 _ (List.mem_append_left _ (List.mem_map_of_mem h))

theorem Tree.lt_span_of_rec {e : Nat × JoinRec} (h : e ∈ t.recs) : e.1 < t.span :=
  (foldl_max_place _ 8).2.1 _ (List.mem_append_right _ (List.mem_map_of_mem h))

theorem Tree.savable.fits (h : t.savable) {e : Nat × JoinRec} (he : e ∈ t.recs) : e.2.Fits := by
  obtain ⟨-, -, -, hrecs⟩ := h
  obtain ⟨-, -, hid, houter, hunits, htimer⟩ := hrecs e he
  exact ⟨hid, houter, hunits, htimer⟩

theorem Tree.savable.rec_lt (h : t.savable) {e : Nat × Split} (he : e ∈ t.splits) : e.2.rec_ < 64 := (h.2.2.1 e he).2

theorem Tree.savable.no_split (h : t.savable) {e : Nat × JoinRec} (he : e ∈ t.recs) : Tab.look t.splits e.1 = none := (h.2.2.2 e he).2.1

theorem imageSpan_words (h : t.savable) (rest : List Word) : imageSpan (t.words ++ rest) = t.span := by
  have hspan := Tree.span_le h
  change min (BitVec.ofNat 32 t.span).toNat 136 = t.span
  rw [BitVec.toNat_ofNat]
  omega

theorem Tree.words_append (t : Tree) (rest : List Word) (n : Nat) :
    (t.words ++ rest).drop (8 + n) = ((List.range t.span).flatMap t.placeWords ++ rest).drop n := by
  rw [Tree.words, List.append_assoc, ← List.drop_drop]
  rfl

theorem afterTree_words (h : t.savable) (rest : List Word) : afterTree (t.words ++ rest) = rest := by
  rw [afterTree, imageSpan_words h, Tree.words_append]
  exact drop_flatMap_range_all rest t.placeWords_length _

/-- The eight words of a place in an image. -/
theorem Tree.words_place (t : Tree) (rest : List Word) {p : Nat} (hp : p < t.span) :
    ((t.words ++ rest).drop (8 + 8 * p)).take 8 = t.placeWords p := by
  obtain ⟨more, hmore⟩ := drop_flatMap_range rest t.placeWords_length hp
  rw [Tree.words_append, hmore]
  exact List.take_left' (t.placeWords_length p)

theorem Tree.placeWords_of_split {p : Nat} {x : Split} (h : Tab.look t.splits p = some x) : t.placeWords p = x.words := by
  rw [Tree.placeWords, h]

theorem Tree.placeWords_of_rec {p : Nat} {r : JoinRec} (h : Tab.look t.splits p = none) (hr : Tab.look t.recs p = some r) :
    t.placeWords p = r.words := by
  rw [Tree.placeWords, h, hr]

theorem Tree.placeWords_of_none {p : Nat} (h : Tab.look t.splits p = none) (hr : Tab.look t.recs p = none) :
    t.placeWords p = List.replicate 8 0 := by
  rw [Tree.placeWords, h, hr]

/-- What a place of an image gives back: its split, or none. -/
theorem Tree.place_split (h : t.savable) (p : Nat) :
    (if bits ((t.placeWords p).headD 0).toNat 1 0 = 1 then
      some (p, ((Tab.look t.splits p).getD (Split.new 0 0 0 0)).loaded (t.placeWords p)) else none) =
      (Tab.look t.splits p).map (fun v => (p, v)) := by
  cases hs : Tab.look t.splits p with
  | some x =>
    have hrec := h.rec_lt (Tab.mem_of_look hs)
    rw [Tree.placeWords_of_split hs, if_pos x.words_kind, Option.getD_some, Split.loaded_words hrec, Option.map_some]
  | none =>
    cases hr : Tab.look t.recs p with
    | some r =>
      rw [Tree.placeWords_of_rec hs hr, if_neg (by rw [JoinRec.words_kind (h.fits (Tab.mem_of_look hr))]; decide), Option.map_none]
    | none => rw [Tree.placeWords_of_none hs hr]; rfl

/-- What a place of an image gives back: its record, or none. -/
theorem Tree.place_rec (h : t.savable) (p : Nat) :
    (if bits ((t.placeWords p).headD 0).toNat 1 0 = 2 then
      some (p, ((Tab.look t.recs p).getD ⟨0, 0, 0, 0, 0, 0, 0, [], false, 0, 0, false⟩).loaded (t.placeWords p)) else none) =
      (Tab.look t.recs p).map (fun r => (p, { r with timer := 16 * r.units })) := by
  cases hr : Tab.look t.recs p with
  | some r =>
    have hmem := Tab.mem_of_look hr
    rw [Tree.placeWords_of_rec (h.no_split hmem) hr, if_pos (JoinRec.words_kind (h.fits hmem)), Option.getD_some,
      JoinRec.loaded_words (h.fits hmem), Option.map_some]
  | none =>
    cases hs : Tab.look t.splits p with
    | some x => rw [Tree.placeWords_of_split hs, if_neg (by rw [x.words_kind]; decide), Option.map_none]
    | none => rw [Tree.placeWords_of_none hs hr]; rfl

theorem Tree.loaded_words (h : t.savable) (rest : List Word) : t.loaded (t.words ++ rest) = t.reloaded := by
  obtain ⟨hsplits, hrecs, -, -⟩ := id h
  have hs : (t.loaded (t.words ++ rest)).splits = t.splits := by
    simp only [Tree.loaded, imageSpan_words h]
    calc _ = (List.range t.span).filterMap (fun p => (Tab.look t.splits p).map (fun v => (p, v))) :=
          List.filterMap_congr (fun p hp => by rw [t.words_place rest (List.mem_range.mp hp), Tree.place_split h p])
      _ = t.splits := (Tab.filterMap_look hsplits (fun _ he => Tree.lt_span_of_split he) id).trans (List.map_id _)
  have hr : (t.loaded (t.words ++ rest)).recs = t.recs.map (fun e => (e.1, { e.2 with timer := 16 * e.2.units })) := by
    simp only [Tree.loaded, imageSpan_words h]
    calc _ = (List.range t.span).filterMap (fun p => (Tab.look t.recs p).map (fun r => (p, { r with timer := 16 * r.units }))) :=
          List.filterMap_congr (fun p hp => by rw [t.words_place rest (List.mem_range.mp hp), Tree.place_rec h p])
      _ = _ := Tab.filterMap_look hrecs (fun _ he => Tree.lt_span_of_rec he) (fun r => { r with timer := 16 * r.units })
  calc t.loaded (t.words ++ rest) = ⟨(t.loaded (t.words ++ rest)).splits, (t.loaded (t.words ++ rest)).recs, t.rootExpect, t.rootAside⟩ := rfl
    _ = t.reloaded := by rw [hs, hr]; rfl

end Trees

theorem loadLayers_words (ls : List Layer) (h : ∀ l ∈ ls, l.tree.savable) (rest : List Word) :
    loadLayers ls ((ls.map Layer.tree).flatMap Tree.words ++ rest) = (ls.map (fun l => { l with tree := l.tree.reloaded }), rest) := by
  induction ls with
  | nil => rfl
  | cons l ls ih =>
    obtain ⟨hl, hls⟩ := List.forall_mem_cons.mp h
    rw [List.map_cons, List.flatMap_cons, List.append_assoc, loadLayers, afterTree_words hl, ih hls, Tree.loaded_words hl, List.map_cons]

/-! ### Tile tags (R317) -/

theorem tagWords_length (x : Option Tag) : (tagWords x).length = 2 := by
  cases x <;> rfl

theorem tagsOf_entry {x : Tag} (hb : x.base < 256) (hs : x.scoff < 2 ^ 18) :
    let n := ((tagWords (some x)).getD 0 0).toNat
    bit n 27 = true ∧ (⟨bits n 7 0, (tagWords (some x)).getD 1 0, bits n 25 8, bit n 26⟩ : Tag) = x := by
  have hst : x.stale.toNat ≤ 1 := Bool.toNat_le _
  have hn : ((tagWords (some x)).getD 0 0).toNat = x.base + x.scoff * 2 ^ 8 + x.stale.toNat * 2 ^ 26 + 2 ^ 27 := by
    change (BitVec.ofNat 32 (x.base % 2 ^ 8 + x.scoff % 2 ^ 18 * 2 ^ 8 + x.stale.toNat * 2 ^ 26 + 2 ^ 27)).toNat = _
    rw [BitVec.toNat_ofNat]
    omega
  have hbase : bits (x.base + x.scoff * 2 ^ 8 + x.stale.toNat * 2 ^ 26 + 2 ^ 27) 7 0 = x.base := by
    unfold bits
    omega
  have hscoff : bits (x.base + x.scoff * 2 ^ 8 + x.stale.toNat * 2 ^ 26 + 2 ^ 27) 25 8 = x.scoff := by
    unfold bits
    omega
  have hstale : bit (x.base + x.scoff * 2 ^ 8 + x.stale.toNat * 2 ^ 26 + 2 ^ 27) 26 = x.stale := by
    have hdiv : (x.base + x.scoff * 2 ^ 8 + x.stale.toNat * 2 ^ 26 + 2 ^ 27) / 2 ^ 26 % 2 = x.stale.toNat := by omega
    rw [bit, Nat.testBit_eq_decide_div_mod_eq, hdiv]
    cases x.stale <;> rfl
  dsimp only
  rw [hn, hbase, hscoff, hstale]
  refine ⟨?_, rfl⟩
  rw [bit, Nat.testBit_eq_decide_div_mod_eq]
  exact decide_eq_true (by omega)

theorem tagsOf_words {tags : List Tag} (hl : tags.length ≤ 8) (h : ∀ x ∈ tags, x.base < 256 ∧ x.scoff < 2 ^ 18) (rest : List Word) :
    tagsOf ((List.range 8).flatMap (fun i => tagWords tags[i]?) ++ rest) = tags := by
  refine Eq.trans ?_ (filterMap_getElem?_range tags hl)
  refine List.filterMap_congr (fun i hi => ?_)
  obtain ⟨more, hmore⟩ := drop_flatMap_range (f := fun i => tagWords tags[i]?) rest (fun i => tagWords_length _) (List.mem_range.mp hi)
  have hget : ∀ j < 2, ((List.range 8).flatMap (fun i => tagWords tags[i]?) ++ rest).getD (2 * i + j) 0 = (tagWords tags[i]?).getD j 0 :=
    fun j hj => getD_of_drop_eq hmore (by rw [tagWords_length]; exact hj) 0
  have h0 := hget 0 (by omega)
  have h1 := hget 1 (by omega)
  rw [Nat.add_zero] at h0
  dsimp only
  rw [h0, h1]
  cases hx : tags[i]? with
  | none => rfl
  | some x =>
    obtain ⟨hb, hs⟩ := h x (List.mem_of_getElem? hx)
    obtain ⟨hused, hsame⟩ := tagsOf_entry hb hs
    rw [if_pos hused, hsame]

/-! ### Accumulation records (R366) -/

theorem accWords_length (x : Option AccRec) : (accWords x).length = 8 := by
  cases x <;> rfl

theorem foldl_or_testBit (ws : List Nat) (m j : Nat) :
    (ws.foldl (fun m i => m ||| 2 ^ i) m).testBit j = (m.testBit j || decide (j ∈ ws)) := by
  induction ws generalizing m with
  | nil => simp
  | cons w ws ih =>
    rw [List.foldl_cons, ih, Nat.testBit_or, Nat.testBit_two_pow, Bool.or_assoc]
    congr 1
    by_cases h : w = j
    · simp [h]
    · simp [h, Ne.symm h]

theorem wordBits_testBit (ws : List Nat) (j : Nat) : (wordBits ws).testBit j = decide (j ∈ ws) := by
  rw [wordBits, foldl_or_testBit, Nat.zero_testBit, Bool.false_or]

theorem wordBits_lt {ws : List Nat} {n : Nat} (h : ∀ w ∈ ws, w < n) : wordBits ws < 2 ^ n := by
  refine Nat.lt_pow_two_of_testBit _ (fun j hj => ?_)
  rw [wordBits_testBit]
  exact decide_eq_false (fun hm => Nat.not_lt.mpr hj (h j hm))

theorem wordsToNat_append (ws : List Word) (w : Word) : wordsToNat (ws ++ [w]) = wordsToNat ws + w.toNat * 2 ^ (32 * ws.length) := by
  rw [wordsToNat, List.zipIdx_append, List.foldl_append]
  simp [wordsToNat]

theorem wordsToNat_natToWords (n x : Nat) : wordsToNat (natToWords n x) = x % 2 ^ (32 * n) := by
  induction n with
  | zero => rw [Nat.mul_zero, Nat.pow_zero, Nat.mod_one]; rfl
  | succ n ih =>
    have hsucc : natToWords (n + 1) x = natToWords n x ++ [BitVec.ofNat 32 (x / 2 ^ (32 * n))] := by
      simp [natToWords, List.range_succ]
    have hlen : (natToWords n x).length = n := by simp [natToWords]
    rw [hsucc, wordsToNat_append, ih, hlen, BitVec.toNat_ofNat, Nat.mul_succ, Nat.pow_add, Nat.mod_mul, Nat.mul_comm (2 ^ (32 * n))]

/-- CLAMP of an accumulation record as a number. -/
def AccRec.clamp (x : AccRec) : Nat := wordBits (x.clampRows.filter (· < 32)) + wordBits (x.clampCols.filter (· < 128)) * 2 ^ 32

theorem AccRec.clamp_lt (x : AccRec) : x.clamp < 2 ^ 160 := by
  have hrows : wordBits (x.clampRows.filter (· < 32)) < 2 ^ 32 := wordBits_lt (fun w hw => by simpa using (List.mem_filter.mp hw).2)
  have hcols : wordBits (x.clampCols.filter (· < 128)) < 2 ^ 128 := wordBits_lt (fun w hw => by simpa using (List.mem_filter.mp hw).2)
  unfold AccRec.clamp
  omega

theorem AccRec.clamp_row (x : AccRec) {i : Nat} (hi : i < 32) : x.clamp.testBit i = decide (i ∈ x.clampRows) := by
  rw [AccRec.clamp, Nat.add_comm, Nat.mul_comm, Nat.testBit_two_pow_mul_add _
    (wordBits_lt (fun w hw => by simpa using (List.mem_filter.mp hw).2)), if_pos hi, wordBits_testBit]
  simp [hi]

theorem AccRec.clamp_col (x : AccRec) {j : Nat} (hj : j < 128) : x.clamp.testBit (32 + j) = decide (j ∈ x.clampCols) := by
  rw [AccRec.clamp, Nat.add_comm, Nat.mul_comm, Nat.testBit_two_pow_mul_add _
    (wordBits_lt (fun w hw => by simpa using (List.mem_filter.mp hw).2)), if_neg (by omega), wordBits_testBit]
  simp [hj]

/-- An accumulation record as an image gives it back: CLAMP read bit by bit. -/
def AccRec.reloaded (x : AccRec) : AccRec :=
  { x with
    clampRows := (List.range 32).filter x.clamp.testBit
    clampCols := (List.range 128).filter (fun j => x.clamp.testBit (32 + j)) }

theorem AccRec.same_of_mem {x : AccRec} {rows cols : List Nat} (hrows : ∀ i, i ∈ rows ↔ i ∈ x.clampRows)
    (hcols : ∀ j, j ∈ cols ↔ j ∈ x.clampCols) : x.same ⟨x.base, x.geom, x.kdepth, rows, cols⟩ :=
  ⟨rfl, rfl, rfl, hrows, hcols⟩

theorem AccRec.same_reloaded {x : AccRec} (hrows : ∀ i ∈ x.clampRows, i < 32) (hcols : ∀ j ∈ x.clampCols, j < 128) :
    x.same x.reloaded := by
  refine AccRec.same_of_mem (fun i => ?_) (fun j => ?_)
  · rw [List.mem_filter, List.mem_range]
    exact ⟨fun ⟨hi, hb⟩ => of_decide_eq_true ((x.clamp_row hi).symm.trans hb),
      fun hm => ⟨hrows i hm, (x.clamp_row (hrows i hm)).trans (decide_eq_true hm)⟩⟩
  · rw [List.mem_filter, List.mem_range]
    exact ⟨fun ⟨hj, hb⟩ => of_decide_eq_true ((x.clamp_col hj).symm.trans hb),
      fun hm => ⟨hcols j hm, (x.clamp_col (hcols j hm)).trans (decide_eq_true hm)⟩⟩

theorem accsOf_words {accs : List AccRec} (hl : accs.length ≤ 4) (h : ∀ x ∈ accs, x.base < 256 ∧ x.kdepth < 2 ^ 32) (rest : List Word) :
    accsOf ((List.range 4).flatMap (fun i => accWords accs[i]?) ++ rest) = accs.map AccRec.reloaded := by
  have hmap : (List.range 4).filterMap (fun i => (accs[i]?).map AccRec.reloaded) = accs.map AccRec.reloaded := by
    rw [← List.map_filterMap, filterMap_getElem?_range accs hl]
  refine Eq.trans ?_ hmap
  refine List.filterMap_congr (fun i hi => ?_)
  obtain ⟨more, hmore⟩ := drop_flatMap_range (f := fun i => accWords accs[i]?) rest (fun i => accWords_length _) (List.mem_range.mp hi)
  have hget : ∀ j < 8, ((List.range 4).flatMap (fun i => accWords accs[i]?) ++ rest).getD (8 * i + j) 0 = (accWords accs[i]?).getD j 0 :=
    fun j hj => getD_of_drop_eq hmore (by rw [accWords_length]; exact hj) 0
  have h0 := hget 0 (by omega)
  have h1 := hget 1 (by omega)
  have h2 := hget 2 (by omega)
  have h3 : ((((List.range 4).flatMap (fun i => accWords accs[i]?) ++ rest).drop (8 * i + 3)).take 5) = (accWords accs[i]?).drop 3 := by
    rw [← List.drop_drop, hmore, List.drop_append_of_le_length (by rw [accWords_length]; omega)]
    exact List.take_left' (by rw [List.length_drop, accWords_length])
  rw [Nat.add_zero] at h0
  dsimp only
  rw [h0, h1, h2, h3]
  cases hx : accs[i]? with
  | none => rfl
  | some x =>
    obtain ⟨hb, hk⟩ := h x (List.mem_of_getElem? hx)
    have hbase : ((accWords (some x)).getD 0 0).toNat = x.base + 2 ^ 8 := by
      change (BitVec.ofNat 32 (x.base % 2 ^ 8 + 2 ^ 8)).toNat = _
      rw [BitVec.toNat_ofNat]
      omega
    have hused : bit (x.base + 2 ^ 8) 8 = true := by
      rw [bit, Nat.testBit_eq_decide_div_mod_eq]
      exact decide_eq_true (by omega)
    have hbits : bits (x.base + 2 ^ 8) 7 0 = x.base := by
      unfold bits
      omega
    have hdepth : ((accWords (some x)).getD 2 0).toNat = x.kdepth := by
      change (BitVec.ofNat 32 x.kdepth).toNat = _
      rw [BitVec.toNat_ofNat]
      omega
    have hclamp : wordsToNat ((accWords (some x)).drop 3) = x.clamp :=
      (wordsToNat_natToWords 5 x.clamp).trans (Nat.mod_eq_of_lt x.clamp_lt)
    rw [hbase, if_pos hused, hbits, hdepth, hclamp]
    rfl

/-! ### A gang (R418) -/

theorem Gang.loaded_placeWords {g : Gang} (ht : g.tree.savable) (hl : ∀ l ∈ g.layers, l.tree.savable) (hg : g.tablesSavable) :
    g.loaded g.placeWords = { g with
      tree := g.tree.reloaded
      layers := g.layers.map (fun l => { l with tree := l.tree.reloaded })
      accs := if g.role = 1 then g.accs.map AccRec.reloaded else [] } := by
  obtain ⟨htags, htag, haccs, hacc⟩ := hg
  let accPart := if g.role = 1 then (List.range 4).flatMap (fun i => accWords g.accs[i]?) else []
  let tables := (List.range 8).flatMap (fun i => tagWords g.tags[i]?) ++ accPart
  have hwords : g.placeWords = g.tree.words ++ ((g.layers.map Layer.tree).flatMap Tree.words ++ tables) := by
    simp only [Gang.placeWords, List.flatMap_cons, List.append_assoc]
    rfl
  have htree : g.tree.loaded g.placeWords = g.tree.reloaded := by rw [hwords, Tree.loaded_words ht]
  have hlayers : loadLayers g.layers (afterTree g.placeWords) = (g.layers.map (fun l => { l with tree := l.tree.reloaded }), tables) := by
    rw [hwords, afterTree_words ht, loadLayers_words _ hl]
  have hdrop : tables.drop 16 = accPart := drop_flatMap_range_all accPart (fun i => tagWords_length _) 8
  have hrecs : (if g.role = 1 then accsOf (tables.drop 16) else []) = if g.role = 1 then g.accs.map AccRec.reloaded else [] := by
    split
    · next hr =>
      have h := accsOf_words haccs (fun x hx => ⟨(hacc x hx).1, (hacc x hx).2.1⟩) []
      rw [List.append_nil] at h
      rw [hdrop, ← h]
      simp only [accPart, if_pos hr]
    · rfl
  simp only [Gang.loaded, htree, hlayers, tagsOf_words htags htag, tables] at hrecs ⊢
  rw [hrecs]

theorem Gang.places_come_back {g : Gang} (ht : g.tree.savable) (hl : ∀ l ∈ g.layers, l.tree.savable) (hg : g.tablesSavable) :
    let h := g.loaded g.placeWords
    h.tree = g.tree.reloaded ∧ h.layers = g.layers.map (fun l => { l with tree := l.tree.reloaded }) ∧ h.tags = g.tags ∧
    (g.role = 1 → List.Forall₂ AccRec.same g.accs h.accs) ∧
    (∀ e ∈ g.tree.splits, e.2.words = [BitVec.ofNat 32 (1 + 6 * 2 ^ 2 + e.2.rec_ * 2 ^ 5), 0, e.2.mask, 0,
      BitVec.ofNat 32 (e.2.pc.toNat % 2 ^ 32), BitVec.ofNat 32 (e.2.pc.toNat / 2 ^ 32), 0, 0]) := by
  dsimp only
  rw [Gang.loaded_placeWords ht hl hg]
  refine ⟨rfl, rfl, rfl, fun hr => ?_, fun e _ => ?_⟩
  · obtain ⟨-, -, -, hacc⟩ := hg
    rw [if_pos hr, List.forall₂_map_right_iff, List.forall₂_same]
    intro x hx
    obtain ⟨-, -, hrows, hcols⟩ := hacc x hx
    exact AccRec.same_reloaded hrows hcols
  · have hpc : BitVec.ofNat 32 (e.2.pc.toNat % 2 ^ 32) = BitVec.ofNat 32 e.2.pc.toNat := by
      apply BitVec.eq_of_toNat_eq
      simp only [BitVec.toNat_ofNat, Nat.mod_mod]
    rw [hpc]
    rfl

end Sys2Proof.Machine
end

/-! Proofs/Teams.lean: how a team is priced, discarded, ended and aborted, and what each of them leaves alone (R34, R224 to R229, R308,
R339, R353). -/
section

namespace Sys2Proof.Machine

open Sys2Proof

/-! ### Folds and the gangs of a state -/

theorem foldl_fixed {α β : Type} {f : α → β → α} {a : α} {l : List β} (h : ∀ b ∈ l, f a b = a) : l.foldl f a = a := by
  induction l with
  | nil => rfl
  | cons b l ih =>
    rw [List.foldl_cons, h b List.mem_cons_self]
    exact ih (fun c hc => h c (List.mem_cons_of_mem _ hc))

/-- Every gang of a state is in another, as a relation says. -/
def GangsRel (R : Gang → Gang → Prop) (s t : State) : Prop := ∀ k g, s.gang? k = some g → ∃ h, t.gang? k = some h ∧ R g h

theorem GangsRel.refl {R : Gang → Gang → Prop} (hR : ∀ g, R g g) (s : State) : GangsRel R s s := fun _ g hg => ⟨g, hg, hR g⟩

theorem GangsRel.trans {R : Gang → Gang → Prop} (hR : ∀ ⦃g h k⦄, R g h → R h k → R g k) {s t u : State} (hst : GangsRel R s t)
    (htu : GangsRel R t u) : GangsRel R s u := fun k g hg => by
  obtain ⟨h, hh, hgh⟩ := hst k g hg
  obtain ⟨j, hj, hhj⟩ := htu k h hh
  exact ⟨j, hj, hR hgh hhj⟩

theorem GangsRel.modGang {R : Gang → Gang → Prop} (hR : ∀ g, R g g) {s : State} {gid : Nat} {f : Gang → Gang} (hf : ∀ g, R g (f g)) :
    GangsRel R s (s.modGang gid f) := fun k g hg => by
  rw [State.gang?_modGang, hg]
  split
  · exact ⟨f g, rfl, hf g⟩
  · exact ⟨g, rfl, hR g⟩

theorem GangsRel.foldl {R : Gang → Gang → Prop} (hR : ∀ g, R g g) (hT : ∀ ⦃g h k⦄, R g h → R h k → R g k) {β : Type}
    {f : State → β → State} (hf : ∀ u b, GangsRel R u (f u b)) (l : List β) (s : State) : GangsRel R s (l.foldl f s) := by
  induction l generalizing s with
  | nil => exact GangsRel.refl hR s
  | cons b l ih => exact GangsRel.trans hT (hf s b) (ih (f s b))

/-- A gang with another tree that has the same splits. -/
def SameSplits (g h : Gang) : Prop := ∃ tr, h = { g with tree := tr } ∧ tr.splits = g.tree.splits

theorem SameSplits.refl (g : Gang) : SameSplits g g := ⟨g.tree, rfl, rfl⟩

theorem SameSplits.trans ⦃g h k : Gang⦄ (hgh : SameSplits g h) (hhk : SameSplits h k) : SameSplits g k := by
  obtain ⟨t, rfl, ht⟩ := hgh
  obtain ⟨u, rfl, hu⟩ := hhk
  exact ⟨u, rfl, hu.trans ht⟩

/-- A gang with other trees. -/
def OtherTrees (g h : Gang) : Prop := ∃ tr ls, h = { g with
  tree := tr
  layers := ls }

theorem OtherTrees.refl (g : Gang) : OtherTrees g g := ⟨g.tree, g.layers, rfl⟩

theorem OtherTrees.trans ⦃g h k : Gang⦄ (hgh : OtherTrees g h) (hhk : OtherTrees h k) : OtherTrees g k := by
  obtain ⟨t, ls, rfl⟩ := hgh
  obtain ⟨u, ms, rfl⟩ := hhk
  exact ⟨u, ms, rfl⟩

/-- A gang with other pending loads. -/
def OtherLoads (g h : Gang) : Prop := ∃ ls, h = { g with ldas := ls }

theorem OtherLoads.refl (g : Gang) : OtherLoads g g := ⟨g.ldas, rfl⟩

theorem OtherLoads.trans ⦃g h k : Gang⦄ (hgh : OtherLoads g h) (hhk : OtherLoads h k) : OtherLoads g k := by
  obtain ⟨ls, rfl⟩ := hgh
  obtain ⟨ms, rfl⟩ := hhk
  exact ⟨ms, rfl⟩

/-- A state without its gangs. -/
def State.offGangs (s : State) : State := { s with gangs := [] }

@[simp] theorem State.offGangs_modGang (s : State) (gid : Nat) (f : Gang → Gang) : (s.modGang gid f).offGangs = s.offGangs := rfl

theorem State.eq_of_offGangs {s t : State} (h : t.offGangs = s.offGangs) : t = { s with gangs := t.gangs } :=
  (congrArg (fun (u : State) => { u with gangs := t.gangs }) h :)

theorem State.offGangs_modGangs (key : Nat → Nat) (f : Gang → Gang) (ns : List Nat) (s : State) :
    (ns.foldl (fun v n => v.modGang (key n) f) s).offGangs = s.offGangs :=
  foldl_keeps State.offGangs _ (fun v n => v.offGangs_modGang (key n) f) ns s

/-- Gangs that a change leaves as they are stay as they are. -/
theorem foldl_modGang_fixed {key : Nat → Nat} {f : Gang → Gang} {ns : List Nat} {s : State}
    (h : ∀ n ∈ ns, ∀ g, s.gang? (key n) = some g → f g = g) (k : Nat) :
    (ns.foldl (fun v n => v.modGang (key n) f) s).gang? k = s.gang? k := by
  induction ns generalizing s with
  | nil => rfl
  | cons n ns ih =>
    have hsame : ∀ k, (s.modGang (key n) f).gang? k = s.gang? k := fun k => by
      rw [State.gang?_modGang]
      split
      · next hk =>
        subst hk
        cases hg : s.gang? (key n) with
        | none => rfl
        | some g => rw [Option.map_some, h n List.mem_cons_self g hg]
      · rfl
    rw [List.foldl_cons, ih (fun m hm g hg => h m (List.mem_cons_of_mem _ hm) g ((hsame _).symm.trans hg)), hsame]

/-! ### Pre-emption requests (R224 to R228, R353) -/

/-- A choice is one of the prices, or a save that misses its deadline. -/
theorem choose_cases (ps : List Price) (limit : Nat) :
    choose ps limit = (.save, true) ∨ ∃ p ∈ ps, choose ps limit = (p.choice, false) := by
  have hfold : ∀ (l : List Price) (a : Option Price), (∀ q, a = some q → q ∈ ps) → (∀ p ∈ l, p ∈ ps) → ∀ q,
      l.foldl (fun (a : Option Price) p => match a with
        | none => some p
        | some q => if p.cost < q.cost then some p else some q) a = some q → q ∈ ps := by
    intro l
    induction l with
    | nil => exact fun a ha _ q hq => ha q hq
    | cons p l ih =>
      intro a ha hl q hq
      refine ih _ (fun r hr => ?_) (fun r hr => hl r (List.mem_cons_of_mem _ hr)) q hq
      have hp := hl p List.mem_cons_self
      cases a with
      | none => exact Option.some.inj hr ▸ hp
      | some c =>
        dsimp only at hr
        split at hr
        · exact Option.some.inj hr ▸ hp
        · exact Option.some.inj hr ▸ ha c rfl
  unfold choose
  split
  · next p hp => exact .inr ⟨p, hfold _ none (by simp) (fun r hr => (List.mem_filter.mp hr).1) p hp, rfl⟩
  · exact .inl rfl

/-- What the estimator can find: a drain or a discard only where it is eligible, and a missed deadline only with a save (R226 to R228). -/
theorem State.estimate_cases (s : State) (t : Team) (deadline : Nat) (nodrain nodiscard : Bool) :
    (s.estimate t deadline nodrain nodiscard = (.drain, false) ∧ nodrain = false ∧ t.ended ≠ 0) ∨
      (∃ missed, s.estimate t deadline nodrain nodiscard = (.save, missed)) ∨
      s.estimate t deadline nodrain nodiscard = (.discard, false) ∧ nodiscard = false ∧ t.releases = 0 := by
  unfold State.estimate
  extract_lets p bs spans sBytes time
  rcases choose_cases (prices p.blocks t.ended time sBytes spans t.releases nodrain nodiscard)
    (deadline * (max t.ended 1 * 1000 * spans)) with h | ⟨q, hq, h⟩
  · exact .inr (.inl ⟨true, h⟩)
  · rw [h]
    simp only [prices, List.mem_append, List.mem_singleton, List.mem_ite_nil_left] at hq
    rcases hq with (⟨hd, rfl⟩ | rfl) | ⟨hd, rfl⟩
    · exact .inl ⟨rfl, by simpa using hd⟩
    · exact .inr (.inl ⟨false, rfl⟩)
    · exact .inr (.inr ⟨rfl, by simpa using hd⟩)

/-- A team with a request that has been priced at a clock. -/
def Team.requested (t : Team) (c : Choice × Bool) (clock deadline area : Nat) : Team :=
  let t1 : Team := { t with
    request := some c.2
    deadline := clock + deadline
    area := area
    dlmiss := if c.2 then satAdd 16 t.dlmiss 1 else t.dlmiss }
  match c.1 with
  | .drain => { t1 with state := .draining, frozen := false, choice := 0 }
  | .discard => { t1 with state := .discarding, frozen := true, choice := 1 }
  | .save => { t1 with state := .saving, frozen := true, choice := 2 }

/-- What a request leaves of a team, whatever it chooses. -/
theorem Team.requested_spec {s : State} {x : Team} (clock deadline area : Nat) (nodrain nodiscard : Bool) :
    let y := x.requested (s.estimate x deadline nodrain nodiscard) clock deadline area
    (y.state = .draining ∨ y.state = .discarding ∨ y.state = .saving) ∧ (y.frozen = false ↔ y.state = .draining) ∧
      (nodrain = true ∨ x.ended = 0 → y.state ≠ .draining) ∧ (nodiscard = true ∨ x.releases ≠ 0 → y.state ≠ .discarding) ∧
      y.area = area ∧ y.deadline = clock + deadline ∧ ∃ missed, y.request = some missed ∧
        (missed = true → y.state = .saving) ∧ y.dlmiss = if missed then satAdd 16 x.dlmiss 1 else x.dlmiss := by
  dsimp only
  rcases s.estimate_cases x deadline nodrain nodiscard with ⟨h, hd, he⟩ | ⟨missed, h⟩ | ⟨h, hd, hr⟩ <;> rw [h]
  · exact ⟨.inl rfl, ⟨fun _ => rfl, fun _ => rfl⟩, fun hn => absurd hn (by simp [hd, he]), fun _ => TeamState.noConfusion, rfl, rfl, false, rfl,
      fun hf => Bool.noConfusion hf, rfl⟩
  · exact ⟨.inr (.inr rfl), ⟨fun hf => Bool.noConfusion hf, fun hs => TeamState.noConfusion hs⟩, fun _ => TeamState.noConfusion,
      fun _ => TeamState.noConfusion, rfl, rfl, missed, rfl, fun _ => rfl, rfl⟩
  · exact ⟨.inr (.inl rfl), ⟨fun hf => Bool.noConfusion hf, fun hs => TeamState.noConfusion hs⟩, fun _ => TeamState.noConfusion,
      fun hn => absurd hn (by simp [hd, hr]), rfl, rfl, false, rfl, fun hf => Bool.noConfusion hf, rfl⟩

/-- Standing timers change the trees' records only. -/
theorem State.stopTimers_spec (s : State) (tid : Nat) :
    (s.stopTimers tid).offGangs = s.offGangs ∧ GangsRel SameSplits s (s.stopTimers tid) := by
  have hsame : ∀ (u : State) (b : Block), GangsRel SameSplits u (b.gangs.foldl (fun v n => v.modGang (gangId b.bid n) (fun g =>
      { g with tree := g.tree.holdTimers (s.cycle b.core) })) u) := fun u b =>
    GangsRel.foldl SameSplits.refl SameSplits.trans
      (fun v n => GangsRel.modGang SameSplits.refl (fun g => ⟨g.tree.holdTimers (s.cycle b.core), rfl, rfl⟩)) _ _
  unfold State.stopTimers
  split
  · exact ⟨rfl, GangsRel.refl SameSplits.refl s⟩
  · split
    · exact ⟨rfl, GangsRel.refl SameSplits.refl s⟩
    · exact ⟨foldl_keeps State.offGangs _ (fun u b => State.offGangs_modGangs _ _ _ u) _ _,
        GangsRel.foldl SameSplits.refl SameSplits.trans hsame _ _⟩

/-- Where no split waits for a peer there is nothing to settle. -/
theorem State.settleRemotes_of_none {s : State} (tid : Nat)
    (h : ∀ k g p y, s.gang? k = some g → (p, y) ∈ g.tree.splits → y.park.atPeer = false) : s.settleRemotes tid = s := by
  refine foldl_fixed (fun b _ => foldl_fixed (fun n _ => ?_))
  split
  · rfl
  · next g hg =>
    refine foldl_fixed (fun e he => ?_)
    split
    · next hp => exact absurd (h _ g e.1 e.2 hg he) (by rw [hp]; exact Bool.noConfusion)
    · rfl

/-- A split whose remote atomic nobody has performed is ready at it again (R226). -/
def Split.calledOff (y : Split) : Split :=
  { y with
    park := .ready
    again := false }

theorem Park.exists_remote_of_atPeer {k : Park} (h : k.atPeer = true) : ∃ d w u c r, k = .remote d w u c r := by
  cases k with
  | remote d w u c r => exact ⟨d, w, u, c, r, rfl⟩
  | _ => exact Bool.noConfusion h

theorem State.settleRemotes_of_unanswered {s : State} {tid n p : Nat} {b : Block} {g : Gang} {y : Split} (hb : s.blocksOf tid = [b])
    (hn : b.gangs = [n]) (hg : s.gang? (gangId b.bid n) = some g) (hs : g.tree.splits = [(p, y)]) (hp : y.park.atPeer = true)
    (hu : y.park.unanswered = true) : s.settleRemotes tid = s.modSplit (gangId b.bid n) p Split.calledOff := by
  obtain ⟨d, w, u, c, r, hr⟩ := Park.exists_remote_of_atPeer hp
  rw [hr] at hu
  simp only [State.settleRemotes, hb, hn, hg, hs, List.foldl_cons, List.foldl_nil, hr, hu, if_true]
  rfl

theorem execPreemptRequest_eq {s u : State} {tid : Nat} {x : Team} (hl : s.link ≠ .down) (ht : tid < 2 ^ 32)
    (hx : s.team? tid = some x) (hs : x.state = .live ∨ x.state = .draining) (hu : s.settleRemotes tid = u) (hux : u.team? tid = some x)
    (deadline area : Nat) (nodrain nodiscard : Bool) : exec (.preemptRequest tid deadline area nodrain nodiscard) s =
      .next (State.stopTimers { u with
        teams := Tab.put u.teams tid (x.requested (u.estimate x deadline nodrain nodiscard) u.clock deadline area) } tid) := by
  have hc : (decide (s.link = .down) || decide (2 ^ 32 ≤ tid) || !(decide (x.state = .live) || decide (x.state = .draining))) = false := by
    rw [decide_eq_false hl, decide_eq_false (Nat.not_le.mpr ht)]
    rcases hs with hs | hs <;> rw [hs] <;> rfl
  have hlive : (decide (x.state = .live) || decide (x.state = .draining)) = true := by
    rcases hs with hs | hs <;> simp [hs]
  have hfilter : (some x).filter (fun t => decide (t.state = .live) || decide (t.state = .draining)) = some x := by
    rw [Option.filter_some, hlive, if_pos rfl]
  have hexec : exec (.preemptRequest tid deadline area nodrain nodiscard) s = execPreemptRequest tid deadline area nodrain nodiscard s := rfl
  rw [hexec, execPreemptRequest]
  simp only [hx, hc, hu, hux, hfilter, Bool.false_eq_true, if_false]
  rfl

theorem State.team?_put (s : State) (tid k : Nat) (y : Team) :
    State.team? { s with teams := Tab.put s.teams tid y } k = if tid = k then some y else s.team? k := Tab.look_put _ _ _ _

/-! ### Requests that answer at once -/

theorem execRestoreRequest_eq {s : State} {tid area : Nat} {x : Team} (hl : s.link ≠ .down) (hx : s.team? tid = some x)
    (hs : x.state = .saved) (ha : x.area = area) :
    exec (.restoreRequest tid area) s = .next (s.modTeam tid (fun x => { x with state := .restoring })) := by
  have hexec : exec (.restoreRequest tid area) s = execRestoreRequest tid area s := rfl
  rw [hexec, execRestoreRequest]
  simp [hx, hl, hs, ha]

theorem execEndRequest_eq {s : State} {tid : Nat} (hl : s.link ≠ .down) (ht : tid < 2 ^ 32) :
    exec (.endRequest tid) s = .next (s.abortTeam tid 0 0 none) := by
  have hexec : exec (.endRequest tid) s = execEndRequest tid s := rfl
  rw [hexec, execEndRequest, decide_eq_false hl, decide_eq_false (Nat.not_le.mpr ht)]
  rfl

theorem State.team?_modTeam_some {s : State} {tid : Nat} {x : Team} (h : s.team? tid = some x) (f : Team → Team) :
    (s.modTeam tid f).team? tid = some (f x) := by
  rw [State.team?_modTeam, if_pos rfl, h, Option.map_some]

theorem State.answerRequest_of_none {s : State} {x : Team} (h : x.request = none) (choice : Nat) : s.answerRequest x choice = s := by
  rw [State.answerRequest, h]

/-! ### Blocks that are gone -/

/-- No block of a number is in a state, and no gang of it. -/
def GoneAt (t : State) (bid : Nat) : Prop := t.block? bid = none ∧ ∀ e ∈ t.gangs, e.2.bid ≠ bid

theorem GoneAt.congr {s t : State} {bid : Nat} (h : GoneAt s bid) (hb : t.blocks = s.blocks) (hg : t.gangs = s.gangs) : GoneAt t bid := by
  rw [GoneAt, State.block?, hb, hg]
  exact h

theorem State.removeBlock_goneAt (s : State) (b : Block) : GoneAt (s.removeBlock b) b.bid := by
  refine ⟨(Tab.look_del _ _ _).trans (if_pos rfl), fun e he => ?_⟩
  exact of_decide_eq_true (List.mem_filter.mp he).2

theorem GoneAt.removeBlock {s : State} {bid : Nat} (h : GoneAt s bid) (b : Block) : GoneAt (s.removeBlock b) bid := by
  refine ⟨(Tab.look_del _ _ _).trans ?_, fun e he => h.2 e (List.mem_filter.mp he).1⟩
  split
  · rfl
  · exact h.1

/-- Blocks that leave one after the other, each after a change that touches no block and no gang, are gone. `I` is what the change
rests on, and what every step keeps. -/
theorem gone_of_foldl_removeBlock {prepare : State → Block → State} (I : State → Prop) {bs : List Block}
    (hp : ∀ u, I u → ∀ b ∈ bs, (prepare u b).blocks = u.blocks ∧ (prepare u b).gangs = u.gangs ∧ I ((prepare u b).removeBlock b))
    {s : State} (hs : I s) :
    Gone (bs.foldl (fun u b => (prepare u b).removeBlock b) s) bs ∧ I (bs.foldl (fun u b => (prepare u b).removeBlock b) s) := by
  have hall : ∀ (cs : List Block), (∀ b ∈ cs, b ∈ bs) → ∀ u, I u → I (cs.foldl (fun u b => (prepare u b).removeBlock b) u) ∧
      ∀ bid, (GoneAt u bid ∨ ∃ b ∈ cs, b.bid = bid) → GoneAt (cs.foldl (fun u b => (prepare u b).removeBlock b) u) bid := by
    intro cs
    induction cs with
    | nil => exact fun _ u hu => ⟨hu, fun bid h => h.resolve_right (by simp)⟩
    | cons c cs ih =>
      intro hcs u hu
      obtain ⟨hblocks, hgangs, hI⟩ := hp u hu c (hcs c List.mem_cons_self)
      obtain ⟨hend, hgone⟩ := ih (fun b hb => hcs b (List.mem_cons_of_mem _ hb)) _ hI
      refine ⟨hend, fun bid h => hgone bid ?_⟩
      rcases h with h | ⟨b, hb, rfl⟩
      · exact .inl ((h.congr hblocks hgangs).removeBlock c)
      · rcases List.mem_cons.mp hb with rfl | hb
        · exact .inl (State.removeBlock_goneAt _ _)
        · exact .inr ⟨b, hb, rfl⟩
  obtain ⟨hend, hgone⟩ := hall bs (fun _ h => h) s hs
  exact ⟨fun b hb => hgone b.bid (.inr ⟨b, hb, rfl⟩), hend⟩

theorem Gone.congr {s t : State} {bs : List Block} (h : Gone s bs) (hb : t.blocks = s.blocks) (hg : t.gangs = s.gangs) : Gone t bs :=
  fun b hbs => GoneAt.congr (h b hbs) hb hg

/-! ### Discard (R229) -/

theorem State.mem_inOrder {s : State} {tid : Nat} {b : Block} : b ∈ s.inOrder tid ↔ b ∈ s.blocksOf tid := List.mem_mergeSort

theorem State.inOrder_of_single {s : State} {tid : Nat} {b : Block} (h : s.blocksOf tid = [b]) : s.inOrder tid = [b] := by
  rw [State.inOrder, h, List.mergeSort_singleton]

theorem State.inOrder_of_nil {s : State} {tid : Nat} (h : s.blocksOf tid = []) : s.inOrder tid = [] := by
  rw [State.inOrder, h, List.mergeSort_nil]

theorem opsDone_of {bs : List Block} (h : ∀ b ∈ bs, b.copies = 0 ∧ b.mops = 0) : opsDone bs = true := by
  simp only [opsDone, List.all_eq_true, Bool.and_eq_true, decide_eq_true_eq]
  exact h

theorem execTeamDiscard_effect {s : State} {tid : Nat} {x : Team} (hx : s.team? tid = some x) (hs : x.state = .discarding)
    (hw : x.waited = false) (hops : ∀ b ∈ s.blocksOf tid, b.copies = 0 ∧ b.mops = 0) (hr : x.request = none) :
    ∃ t, exec (.teamDiscard tid) s = .next t ∧ Gone t (s.blocksOf tid) ∧ t.team? tid = none ∧
      (t.queue x.queue).packets = (tid, x.packet) :: (s.queue x.queue).packets ∧ t.mem = s.mem := by
  have hdone : opsDone (s.inOrder tid) = true := opsDone_of (fun b hb => hops b (State.mem_inOrder.mp hb))
  let u := (s.inOrder tid).foldl (fun u b => (u.dropDirty b.core b.slot).removeBlock b) s
  have hexec : exec (.teamDiscard tid) s = .next (State.modQueue { u with teams := Tab.del u.teams tid } x.queue
      (fun q => { q with packets := (tid, x.packet) :: q.packets })) := by
    have he : exec (.teamDiscard tid) s = execTeamDiscard tid s := rfl
    rw [he, execTeamDiscard]
    simp only [hx, hs, hdone, hw, ne_eq, not_true, decide_false, Bool.not_true, Bool.or_self, Bool.false_eq_true, if_false]
    rw [State.answerRequest_of_none hr]
  have hgone : Gone u (s.inOrder tid) :=
    (gone_of_foldl_removeBlock (prepare := fun u b => u.dropDirty b.core b.slot) (fun _ => True) (fun _ _ _ _ => ⟨rfl, rfl, trivial⟩)
      trivial).1
  have hq : u.queues = s.queues := foldl_keeps State.queues _ (by intros; rfl) _ _
  have hm : u.mem = s.mem := foldl_keeps State.mem _ (by intros; rfl) _ _
  refine ⟨_, hexec, fun b hb => hgone b (State.mem_inOrder.mpr hb), (Tab.look_del _ _ _).trans (if_pos rfl), ?_, hm⟩
  rw [State.queue_modQueue, if_pos rfl]
  simp only [State.queue, hq]

/-! ### Write-backs of blocks with no dirty mapped word (R308) -/

theorem State.writeBackMapped_of_clean {s : State} {bid : Nat} (h : ∀ c, s.block? bid = some c → c.dirty = []) (lo hi : Nat) :
    s.writeBackMapped bid lo hi = s := by
  unfold State.writeBackMapped
  split
  · rfl
  · next c hc => rw [h c hc]; rfl

theorem State.releaseHalf_offMemory {s : State} {b : Block} (h : ∀ c, s.block? b.bid = some c → c.dirty = []) :
    (s.releaseHalf b).offMemory = s.offMemory := by
  have hb : (s.writeBackL1 b.core).blocks = s.blocks := State.blocks_of_offMemory (s.offMemory_writeBackL1 b.core)
  rw [State.releaseHalf, State.writeBackMapped_of_clean (fun c hc => h c (by rwa [State.block?, hb] at hc)),
    State.offMemory_writeBackL1]

theorem State.settleMapped_of_clean {s : State} {b : Block} (hb : s.block? b.bid = some b) (hd : b.dirty = []) :
    s.settleMapped b = (s, true) := by
  have hw : s.writeBackMapped b.bid 0 (2 ^ 32) = s :=
    State.writeBackMapped_of_clean (fun c hc => by rw [← Option.some.inj (hb.symm.trans hc), hd]) _ _
  have hstuck : s.stuckWord b = none := by rw [State.stuckWord, hd, List.findSome?_nil]
  unfold State.settleMapped
  simp only [hw, hb, Option.bind_some, hstuck]

theorem State.settleAll_of_clean {s : State} {bs : List Block} (h : ∀ b ∈ bs, s.block? b.bid = some b ∧ b.dirty = []) :
    s.settleAll bs = (s, true) := by
  refine foldl_fixed (fun b hb => ?_)
  obtain ⟨hblock, hd⟩ := h b hb
  simp only [State.settleMapped_of_clean hblock hd, Bool.and_self]

/-! ### The end of a team (R339) -/

/-- Gangs, blocks and teams. -/
def State.running (s : State) : Tab Gang × Tab Block × Tab Team := (s.gangs, s.blocks, s.teams)

theorem State.running_of_offMemory {s t : State} (h : t.offMemory = s.offMemory) : t.running = s.running := by
  rw [State.running, State.gangs_of_offMemory h, State.blocks_of_offMemory h, State.teams_of_offMemory h]
  rfl

theorem State.overrun_running (s : State) (q : Nat) : (s.overrun q).running = s.running := by
  unfold State.overrun
  extract_lets s1
  have h1 : s1.running = s.running := (State.running_of_offMemory (State.offMemory_raiseErr _ 1)).trans rfl
  split
  · exact h1
  · exact (State.running_of_offMemory (State.offMemory_faultRecord _ _ _ _)).trans h1

theorem State.enqueue_running (s : State) (q : Nat) (ws : List Word) : (s.enqueue q ws).running = s.running := by
  unfold State.enqueue
  dsimp only
  split <;> rfl

theorem State.pendToken_running {s t : State} {asid token : Nat} (h : s.pendToken asid token = some t) : t.running = s.running := by
  unfold State.pendToken at h
  split at h
  · rw [← Option.some.inj h]
  · dsimp only at h
    split at h
    · rw [← Option.some.inj h]; rfl
    · split at h
      · rw [← Option.some.inj h]; rfl
      · cases h

/-- A packet that a queue takes or drops leaves what runs alone. -/
theorem State.offer_running {s t : State} {q : Nat} {ws : List Word} (h : s.offer q ws = .taken t ∨ s.offer q ws = .dropped t) :
    t.running = s.running := by
  unfold State.offer at h
  split at h
  · obtain rfl : s.overrun q = t := by simpa using h
    exact s.overrun_running q
  · split at h
    · obtain rfl : s.overrun q = t := by simpa using h
      exact s.overrun_running q
    · split at h
      · next u hu =>
        obtain rfl : u.enqueue q ws = t := by simpa using h
        exact (u.enqueue_running q ws).trans (State.pendToken_running hu)
      · simp at h

theorem State.drainFrom_running (ps : List (Nat × List Word)) (s : State) : (State.drainFrom ps s).running = s.running := by
  induction ps generalizing s with
  | nil => rfl
  | cons p ps ih =>
    obtain ⟨q, ws⟩ := p
    rw [State.drainFrom, ih]
    split
    · rfl
    · split
      · next t ht => exact State.offer_running (.inl ht)
      · next t ht => exact State.offer_running (.inr ht)
      · rfl

theorem State.finishToken_running (s : State) (asid token : Nat) : (s.finishToken asid token).running = s.running := by
  unfold State.finishToken
  split
  · rfl
  · exact (State.drainFrom_running _ _).trans rfl

/-- The end of a team takes the team, and no block or gang. -/
theorem State.endTeam_running {s : State} {tid value : Nat} {x : Team} (hx : s.team? tid = some x) :
    (s.endTeam tid value).running = (s.gangs, s.blocks, Tab.del s.teams tid) := by
  unfold State.endTeam
  split
  · next hn => rw [hx] at hn; cases hn
  next y hy =>
  obtain rfl : x = y := Option.some.inj (hx.symm.trans hy)
  extract_lets p s1 s2 u s3 s4 s5
  have h2 : s2.offMemory = s.offMemory := by
    unfold s2
    split
    · exact s.offMemory_releaseAll
    · exact (State.offMemory_storeVirt _ _ _ _).trans s.offMemory_releaseAll
  have h3 : s3.running = (s.gangs, s.blocks, Tab.del s.teams tid) := by
    have hu : u.running = s.running :=
      State.running_of_offMemory ((foldl_keeps State.offMemory _ (by intros; rfl) _ _).trans h2)
    have hg : u.gangs = s.gangs := congrArg Prod.fst hu
    have hb : u.blocks = s.blocks := congrArg (fun r => r.2.1) hu
    have ht : s2.teams = s.teams := State.teams_of_offMemory h2
    calc s3.running = (u.gangs, u.blocks, Tab.del s2.teams tid) := rfl
      _ = (s.gangs, s.blocks, Tab.del s.teams tid) := by rw [hg, hb, ht]
  have h5 : s5.running = s3.running := by
    unfold s5
    split
    · exact (State.running_of_offMemory (State.offMemory_faultRecord s4 _ _ _)).trans rfl
    · rfl
  rw [State.finishToken_running, h5, h3]

/-! ### Abort (R34) -/

/-- No block of a list that a state holds has a dirty mapped word. -/
def CleanBlocks (bs : List Block) (s : State) : Prop := ∀ b ∈ bs, ∀ c, s.block? b.bid = some c → c.dirty = []

theorem CleanBlocks.removeBlock {bs : List Block} {s t : State} (h : CleanBlocks bs s) (ht : t.offMemory = s.offMemory) (b : Block) :
    CleanBlocks bs (t.removeBlock b) := fun d hd c hc => h d hd c (by
  rw [State.block?, State.removeBlock_blocks, State.blocks_of_offMemory ht, Tab.look_del] at hc
  split at hc
  · cases hc
  · exact hc)

theorem execTeamAbort_effect {s : State} {tid : Nat} {x : Team} (hx : s.team? tid = some x) (hs : x.state = .ending)
    (hb : ∀ b ∈ s.blocksOf tid, s.block? b.bid = some b ∧ b.copies = 0 ∧ b.mops = 0 ∧ b.dirty = []) :
    ∃ t, exec (.teamAbort tid) s = .next t ∧ Gone t (s.blocksOf tid) ∧ t.team? tid = none := by
  have hidle : (s.blocksOf tid).any (fun b => decide (b.copies ≠ 0) || decide (b.mops ≠ 0)) = false := by
    refine List.any_eq_false.mpr (fun b h => ?_)
    obtain ⟨-, hc, hm, -⟩ := hb b h
    simp [hc, hm]
  have hsettle : s.settleAll (s.blocksOf tid) = (s, true) := State.settleAll_of_clean (fun b h => ⟨(hb b h).1, (hb b h).2.2.2⟩)
  let u := (s.blocksOf tid).foldl (fun u b => (u.releaseHalf b).removeBlock b) s
  have hexec : exec (.teamAbort tid) s = .next ((u.faultRecord x.asid 2 (s.endRecord x)).endTeam tid 2) := by
    have he : exec (.teamAbort tid) s = execTeamAbort tid s := rfl
    rw [he, execTeamAbort]
    simp only [hx, hs, hidle, hsettle, ne_eq, not_true, decide_false, Bool.not_true, Bool.or_self, Bool.false_eq_true, if_false]
    rfl
  have hu : Gone u (s.blocksOf tid) ∧ u.teams = s.teams ∧ CleanBlocks (s.blocksOf tid) u := by
    refine gone_of_foldl_removeBlock (bs := s.blocksOf tid) (s := s) (prepare := State.releaseHalf)
      (fun v => v.teams = s.teams ∧ CleanBlocks (s.blocksOf tid) v) (fun v hv b h => ?_) ⟨rfl, fun b h c hc => ?_⟩
    · obtain ⟨hteams, hclean⟩ := hv
      have hrel := State.releaseHalf_offMemory (hclean b h)
      exact ⟨State.blocks_of_offMemory hrel, State.gangs_of_offMemory hrel, (State.teams_of_offMemory hrel).trans hteams,
        hclean.removeBlock hrel b⟩
    · obtain ⟨hblock, -, -, hd⟩ := hb b h
      rw [← Option.some.inj (hblock.symm.trans hc), hd]
  obtain ⟨hgone, hteams, -⟩ := hu
  have hrec : (u.faultRecord x.asid 2 (s.endRecord x)).running = u.running := State.running_of_offMemory (State.offMemory_faultRecord _ _ _ _)
  have hteam : (u.faultRecord x.asid 2 (s.endRecord x)).team? tid = some x := by
    have hts : (u.faultRecord x.asid 2 (s.endRecord x)).teams = u.teams := congrArg (fun r => r.2.2) hrec
    rw [State.team?, hts]
    exact (congrArg (fun ts => Tab.look ts tid) hteams).trans hx
  have hend := State.endTeam_running (value := 2) hteam
  refine ⟨_, hexec, hgone.congr ?_ ?_, ?_⟩
  · exact (congrArg (fun r => r.2.1) hend).trans (congrArg (fun r => r.2.1) hrec)
  · exact (congrArg (fun r => r.1) hend).trans (congrArg (fun r => r.1) hrec)
  · have hts := congrArg (fun r => r.2.2) hend
    refine (congrArg (fun ts => Tab.look ts tid) hts).trans ?_
    exact (Tab.look_del _ _ _).trans (if_pos rfl)

end Sys2Proof.Machine
end

/-! Proofs/Requests.lean: what the host's requests for a team do (R34, R224, R226, R232, R353). -/
section

namespace Sys2Proof.Machine

open Sys2Proof

/-! ### What the requests do (R34, R224, R232, R353) -/

/-- A request that has been priced: the team waits as it chose, and timers stand; nothing else changes. -/
theorem State.stopTimers_put (s : State) (tid : Nat) (y : Team) :
    let t := State.stopTimers { s with teams := Tab.put s.teams tid y } tid
    t.team? tid = some y ∧ (∀ k, k ≠ tid → t.team? k = s.team? k) ∧ GangsRel SameSplits s t ∧ t = { s with
      teams := t.teams
      gangs := t.gangs } := by
  intro t
  obtain ⟨hoff, hgangs⟩ := State.stopTimers_spec { s with teams := Tab.put s.teams tid y } tid
  have hteams : t.teams = Tab.put s.teams tid y := (congrArg State.teams hoff :)
  have hteam : ∀ k, t.team? k = if tid = k then some y else s.team? k := fun k => by
    rw [State.team?, hteams]
    exact State.team?_put s tid k y
  refine ⟨(hteam tid).trans (if_pos rfl), fun k hk => (hteam k).trans (if_neg (Ne.symm hk)), hgangs, ?_⟩
  rw [hteams]
  exact State.eq_of_offGangs hoff

theorem execPreemptRequest_effect {s : State} {tid : Nat} {x : Team} (hx : s.team? tid = some x) (hl : s.link ≠ .down) (ht : tid < 2 ^ 32)
    (hs : x.state = .live ∨ x.state = .draining)
    (hpeer : ∀ k g p y, s.gang? k = some g → (p, y) ∈ g.tree.splits → y.park.atPeer = false) (deadline area : Nat)
    (nodrain nodiscard : Bool) : ∃ t y, exec (.preemptRequest tid deadline area nodrain nodiscard) s = .next t ∧ t.team? tid = some y ∧
      (y.state = .draining ∨ y.state = .discarding ∨ y.state = .saving) ∧ (y.frozen = false ↔ y.state = .draining) ∧
      (nodrain = true ∨ x.ended = 0 → y.state ≠ .draining) ∧ (nodiscard = true ∨ x.releases ≠ 0 → y.state ≠ .discarding) ∧
      y.area = area ∧ y.deadline = s.clock + deadline ∧ (∃ missed, y.request = some missed ∧
        (missed = true → y.state = .saving) ∧ y.dlmiss = if missed then satAdd 16 x.dlmiss 1 else x.dlmiss) ∧
      (∀ k g, s.gang? k = some g → ∃ tr, t.gang? k = some { g with tree := tr } ∧ tr.splits = g.tree.splits) ∧
      t = { s with
        teams := t.teams
        gangs := t.gangs } ∧ ∀ k, k ≠ tid → t.team? k = s.team? k := by
  have hexec := execPreemptRequest_eq hl ht hx hs (State.settleRemotes_of_none tid hpeer) hx deadline area nodrain nodiscard
  obtain ⟨hstate, hfrozen, hdrain, hdiscard, harea, hdeadline, hmissed⟩ :=
    Team.requested_spec (s := s) (x := x) s.clock deadline area nodrain nodiscard
  obtain ⟨hteam, hothers, hgangs, heq⟩ := s.stopTimers_put tid (x.requested (s.estimate x deadline nodrain nodiscard) s.clock deadline area)
  refine ⟨_, _, hexec, hteam, hstate, hfrozen, hdrain, hdiscard, harea, hdeadline, hmissed, fun k g hg => ?_, heq, hothers⟩
  obtain ⟨h, hh, tr, rfl, htr⟩ := hgangs k g hg
  exact ⟨tr, hh, htr⟩

/-- A remote atomic that no peer has performed is called off when its team is frozen (R226). -/
theorem execPreemptRequest_callsOff {s : State} {tid n p : Nat} {x : Team} {b : Block} {g : Gang} {y : Split} (hx : s.team? tid = some x)
    (hl : s.link ≠ .down) (ht : tid < 2 ^ 32) (hs : x.state = .live ∨ x.state = .draining) (hb : s.blocksOf tid = [b])
    (hn : b.gangs = [n]) (hg : s.gang? (gangId b.bid n) = some g) (hsplit : g.tree.splits = [(p, y)]) (hp : y.park.atPeer = true)
    (hu : y.park.unanswered = true) (deadline area : Nat) (nodrain nodiscard : Bool) :
    ∃ t h, exec (.preemptRequest tid deadline area nodrain nodiscard) s = .next t ∧ t.gang? (gangId b.bid n) = some h ∧
      h.tree.splits = [(p, { y with
        park := .ready
        again := false })] ∧ h.regs = g.regs ∧ t.mem = s.mem := by
  let u := s.modSplit (gangId b.bid n) p Split.calledOff
  have hsettle : s.settleRemotes tid = u := State.settleRemotes_of_unanswered hb hn hg hsplit hp hu
  have hgang : u.gang? (gangId b.bid n) = some { g with tree := g.tree.modSplit p Split.calledOff } := by
    refine (State.gang?_modGang _ _ _ _).trans ?_
    rw [if_pos rfl, hg, Option.map_some]
  have hexec := execPreemptRequest_eq hl ht hx hs hsettle (u := u) hx deadline area nodrain nodiscard
  obtain ⟨-, -, hgangs, heq⟩ := u.stopTimers_put tid (x.requested (u.estimate x deadline nodrain nodiscard) u.clock deadline area)
  obtain ⟨h, hh, tr, rfl, htr⟩ := hgangs _ _ hgang
  refine ⟨_, _, hexec, hh, ?_, rfl, (congrArg State.mem heq :)⟩
  have hone : (g.tree.modSplit p Split.calledOff).splits = [(p, y.calledOff)] := by
    simp [Tree.modSplit, hsplit, Tab.modify, Tab.look_cons, Tab.put]
  exact htr.trans hone

theorem execEndRequest_effect {s : State} {tid : Nat} {x : Team} (hx : s.team? tid = some x) (hl : s.link ≠ .down) (ht : tid < 2 ^ 32)
    (hs : x.state ≠ .ending) : ∃ t y, exec (.endRequest tid) s = .next t ∧ t.team? tid = some y ∧ y.state = .ending ∧ y.frozen = true ∧
      y.endTrap = none ∧ t = { s with teams := t.teams } := by
  refine ⟨_, _, execEndRequest_eq hl ht, State.team?_modTeam_some hx _, ?_⟩
  rw [if_neg hs]
  exact ⟨rfl, rfl, rfl, rfl⟩

end Sys2Proof.Machine
end

/-! Proofs/Save.lean: a team's save, and the device's writes while no stack is retrained and no page migrates (R206, R230, R418, R435,
R465, R466). -/
section

namespace Sys2Proof.Machine

open Sys2Proof

/-! ### The device's own accesses while no stack is retrained and no page migrates (R435, R465) -/

theorem State.stackWaits_of_trained {s : State} (h : ∀ e ∈ s.hbm, e.2.retraining = false) (line : Nat) : s.stackWaits line = false := by
  have hstack : (s.stack (stackOf line)).retraining = false := by
    rw [State.stack, Tab.getD]
    cases hl : Tab.look s.hbm (stackOf line) with
    | none => rfl
    | some k => exact h _ (Tab.mem_of_look hl)
  rw [State.stackWaits, hstack, Bool.and_false]

theorem State.lineWaits_of_trained {s : State} (h : ∀ e ∈ s.hbm, e.2.retraining = false) (line : Nat) : s.lineWaits line = false := by
  rw [State.lineWaits, State.stackWaits_of_trained h, State.stackWaits_of_trained h, Bool.or_self]

theorem State.pullFirst_of_settled {s : State} (h : ∀ m ∈ s.migrations, m.2.pulling = false) (line : Nat) : s.pullFirst line = s := by
  have hnone : s.migrationOf line = none := by
    rw [State.migrationOf, List.find?_eq_none.mpr (fun m hm => by simp [h m hm]), Option.map_none]
  rw [State.pullFirst, hnone]

theorem State.pullLines_of_settled {s : State} (h : ∀ m ∈ s.migrations, m.2.pulling = false) (a n : Nat) : s.pullLines a n = s :=
  foldl_fixed (fun l _ => State.pullFirst_of_settled h l)

theorem State.homeWrite_mem (s : State) (by_ : Option Nat) (a : Nat) (bs : List Byte) :
    (s.homeWrite by_ a bs).mem = Memory.writes s.mem a bs := by
  unfold State.homeWrite
  dsimp only
  split
  · rfl
  · exact (State.mem_of_offHomes (foldl_keeps State.offHomes _ State.offHomes_unshare _ _)).trans rfl

theorem State.deviceWrite_mem {s : State} {a : Nat} (ha : isHbm a = true) (hr : ∀ e ∈ s.hbm, e.2.retraining = false)
    (hm : ∀ m ∈ s.migrations, m.2.pulling = false) (bs : List Byte) : (s.deviceWrite a bs).mem = Memory.writes s.mem a bs := by
  have hwaits : (linesTouched a bs.length).any s.lineWaits = false :=
    List.any_eq_false.mpr (fun l _ => Bool.eq_false_iff.mp (State.lineWaits_of_trained hr l))
  rw [State.deviceWrite, if_pos ha, hwaits, if_neg Bool.false_ne_true, State.pullLines_of_settled hm, State.homeWrite_mem]

/-! ### The save split of a block (R230) -/

/-- A state without memory, blocks and gangs. -/
def State.offRunning (s : State) : State := { s.offMemory with
  blocks := []
  gangs := [] }

theorem State.offRunning_of_offMemory {s t : State} (h : t.offMemory = s.offMemory) : t.offRunning = s.offRunning := by
  rw [State.offRunning, h, State.offRunning]

theorem State.teams_of_offRunning {s t : State} (h : t.offRunning = s.offRunning) : t.teams = s.teams := (congrArg State.teams h :)
theorem State.hbm_of_offRunning {s t : State} (h : t.offRunning = s.offRunning) : t.hbm = s.hbm := (congrArg State.hbm h :)
theorem State.migrations_of_offRunning {s t : State} (h : t.offRunning = s.offRunning) : t.migrations = s.migrations :=
  (congrArg State.migrations h :)

@[simp] theorem State.offRunning_modBlock (s : State) (bid : Nat) (f : Block → Block) : (s.modBlock bid f).offRunning = s.offRunning := rfl
@[simp] theorem State.gangs_modBlock (s : State) (bid : Nat) (f : Block → Block) : (s.modBlock bid f).gangs = s.gangs := rfl

@[simp] theorem State.offRunning_acquireHalf (s : State) (b : Block) : (s.acquireHalf b).offRunning = s.offRunning := rfl
@[simp] theorem State.gangs_acquireHalf (s : State) (b : Block) : (s.acquireHalf b).gangs = s.gangs := rfl
@[simp] theorem State.offRunning_emptyParams (s : State) (b : Block) : (s.emptyParams b).offRunning = s.offRunning := rfl
@[simp] theorem State.gangs_emptyParams (s : State) (b : Block) : (s.emptyParams b).gangs = s.gangs := rfl

/-- What a change to a block's flags and map leaves of it. -/
def SameCount (b c : Block) : Prop := c.bid = b.bid ∧ c.impSplits = b.impSplits

theorem State.block?_modBlock_same {s : State} {b c : Block} (hc : s.block? b.bid = some c) (hs : SameCount b c) {f : Block → Block}
    (hf : ∀ d, SameCount d (f d)) : ∃ d, (s.modBlock b.bid f).block? b.bid = some d ∧ SameCount b d := by
  obtain ⟨hbid, himp⟩ := hs
  refine ⟨f c, ?_, (hf c).1.trans hbid, (hf c).2.trans himp⟩
  rw [State.block?_modBlock, if_pos rfl, hc, Option.map_some]

theorem State.advance_spec {s : State} {b : Block} (hb : s.block? b.bid = some b) :
    (s.advance b).offRunning = s.offRunning ∧ (s.advance b).gangs = s.gangs ∧
      ∃ c, (s.advance b).block? b.bid = some c ∧ SameCount b c := by
  unfold State.advance
  extract_lets v
  have hv : v.offMemory = s.offMemory := by
    unfold v
    split <;> rfl
  clear_value v
  rw [State.offRunning_modBlock, State.gangs_modBlock]
  refine ⟨State.offRunning_of_offMemory hv, State.gangs_of_offMemory hv, State.block?_modBlock_same ?_ ⟨rfl, rfl⟩ (fun _ => ⟨rfl, rfl⟩)⟩
  rw [State.block?, State.blocks_of_offMemory hv]
  exact hb

/-- A boundary of a block without dirty mapped words changes, of what runs, that block only. -/
theorem State.split_spec {s : State} {b : Block} (hb : s.block? b.bid = some b) (hd : b.dirty = []) :
    (s.split b).offRunning = s.offRunning ∧ (s.split b).gangs = s.gangs ∧ ∃ c, (s.split b).block? b.bid = some c ∧ SameCount b c := by
  have hrel : (s.releaseHalf b).offMemory = s.offMemory :=
    State.releaseHalf_offMemory (fun c hc => by rw [← Option.some.inj (hb.symm.trans hc), hd])
  have hblock : (s.releaseHalf b).block? b.bid = some b := by
    rw [State.block?, State.blocks_of_offMemory hrel]
    exact hb
  obtain ⟨hoff, hgangs, c, hc, hsame⟩ := State.advance_spec hblock
  rw [State.split]
  generalize (s.releaseHalf b).advance b = u at *
  refine ⟨?_, ?_, State.block?_modBlock_same (s := u.invalidateL1 b.core) hc hsame (f := Block.unmapClean) (fun _ => ⟨rfl, rfl⟩)⟩
  · rw [State.offRunning_emptyParams, State.offRunning_acquireHalf, hoff, State.offRunning_of_offMemory hrel]
  · rw [State.gangs_emptyParams, State.gangs_acquireHalf, hgangs, State.gangs_of_offMemory hrel]

/-- A gang before its save, and as its save keeps it (R418). -/
theorem Gang.saved_awake (g : Gang) (cyc : Nat) : OtherTrees g (g.awake cyc) := ⟨_, _, rfl⟩

/-- What a save leaves of a state, and what it keeps of the block and its gangs. -/
theorem State.saveBlock_spec {s : State} {x y : Team} {b : Block} (hy : s.team? x.tid = some y) (hb : s.block? b.bid = some b)
    (hd : b.dirty = []) (area : Nat) : ∃ z : SavedBlock,
      Gone (s.saveBlock x area b).1 [b] ∧
      (s.saveBlock x area b).1.team? x.tid = some { y with savedBlocks := y.savedBlocks ++ [z] } ∧
      z.at_ = area ∧ z.block.bid = b.bid ∧ z.block.impSplits = satAdd 32 b.impSplits 1 ∧
      (∀ n ∈ b.gangs, ∀ g, s.gang? (gangId b.bid n) = some g → ∃ h ∈ z.gangs, h.num = g.num ∧ h.regs = g.regs ∧ h.tpc = g.tpc ∧
        h.acs = g.acs ∧ h.fly = []) ∧
      (isHbm area = true → (∀ e ∈ s.hbm, e.2.retraining = false) → (∀ m ∈ s.migrations, m.2.pulling = false) →
        ∀ (k : Nat) (v : Byte), z.image[k]? = some v → Memory.byte? (s.saveBlock x area b).1.mem (area + k) = some v) := by
  obtain ⟨hoff, hgangs, c, hc, hbid, himp⟩ := State.split_spec hb hd
  unfold State.saveBlock
  extract_lets p s0 s1 b1 image gangs lo stash s2
  have h0b : s0.block? b.bid = some { c with impSplits := satAdd 32 c.impSplits 1 } := by
    rw [State.block?_modBlock, if_pos rfl, hc, Option.map_some]
  have h1off : s1.offRunning = s.offRunning :=
    (foldl_keeps State.offRunning (fun u n => u.modGang (gangId b.bid n) (fun g => g.awake (s.cycle b.core))) (by intros; rfl) b.gangs s0).trans
      hoff
  have h1b : s1.block? b.bid = some { c with impSplits := satAdd 32 c.impSplits 1 } :=
    (congrFun (foldl_keeps State.block? (fun u n => u.modGang (gangId b.bid n) (fun g => g.awake (s.cycle b.core))) (by intros; rfl)
      b.gangs s0) b.bid).trans h0b
  have h1g : GangsRel OtherTrees s s1 := by
    have h : GangsRel OtherTrees s0 s1 := GangsRel.foldl OtherTrees.refl OtherTrees.trans
      (fun u n => GangsRel.modGang OtherTrees.refl (fun g => g.saved_awake (s.cycle b.core))) b.gangs s0
    exact fun k g hg => h k g ((congrArg (fun gs => Tab.look gs k) hgangs).trans hg)
  have hb1 : b1 = { c with impSplits := satAdd 32 c.impSplits 1 } := by
    unfold b1
    rw [h1b, Option.getD_some]
  have hbid1 : b1.bid = b.bid := by
    rw [hb1]
    exact hbid
  have hteam : (s2.removeBlock b1).team? x.tid = some y := by
    have h2 : s2.teams = s.teams := (State.teams_of_offMemory (s1.offMemory_deviceWrite area image)).trans (State.teams_of_offRunning h1off)
    exact (congrArg (fun ts => Tab.look ts x.tid) h2).trans hy
  have hgone : GoneAt (s2.removeBlock b1) b.bid := by
    have h := s2.removeBlock_goneAt b1
    rwa [hbid1] at h
  refine ⟨⟨b1, gangs, stash, image, area⟩, fun d hd => ?_, State.team?_modTeam_some hteam _, rfl, hbid1, ?_, fun n hn g hg => ?_,
    fun ha hr hm k v hk => ?_⟩
  · rw [List.mem_singleton.mp hd]
    exact hgone
  · rw [hb1]
    exact congrArg (fun i => satAdd 32 i 1) himp
  · obtain ⟨h, hh, tr, ls, rfl⟩ := h1g _ g hg
    refine ⟨Gang.saved _, List.mem_filterMap.mpr ⟨n, hn, congrArg (Option.map Gang.saved) hh⟩, rfl, rfl, rfl, rfl, rfl⟩
  · have hmem : s2.mem = Memory.writes s1.mem area image :=
      State.deviceWrite_mem ha (by rwa [State.hbm_of_offRunning h1off]) (by rwa [State.migrations_of_offRunning h1off]) image
    have hkl : k < image.length := (List.getElem?_eq_some_iff.mp hk).1
    calc Memory.byte? s2.mem (area + k) = image[k]? := by rw [hmem, Memory.byte?_writes_same _ _ _ _ hkl]
      _ = some v := hk

/-! ### A team's save (R206, R230) -/

theorem State.moveImages_of_none {s : State} {x : Team} (h : x.savedBlocks = []) : s.moveImages x = (s, x.area) := by
  rw [State.moveImages, h]
  rfl

/-- A save once nothing stands in its way: `bs` are the blocks that have started, `s0` the state with the loops stopped and the other
blocks back with the team. -/
theorem execTeamSave_eq {s s0 : State} {tid : Nat} {x : Team} {bs : List Block} (hx : s.team? tid = some x) (hs : x.state = .saving)
    (hr : x.request = none) (hnone : x.savedBlocks = []) (hbs : (s.inOrder tid).filter Block.started = bs)
    (hs0 : bs.foldl (fun u b => b.gangs.foldl (fun v n => v.modGang (gangId b.bid n) Gang.stopLoops) u)
      (((s.inOrder tid).filter (fun b => !b.started)).foldl State.requeueBlock s) = s0)
    (hops : opsDone bs = true) (hquiet : bs.all s0.quiet = true)
    (hstack : ∀ e ∈ s.hbm, e.2.retraining = true → s.streamsInto x e.1 = false)
    (hsettle : s0.settleAll bs = (s0, true)) (hwrap : bs.any s0.wraps = false) : exec (.teamSave tid) s =
      .next ((bs.foldl (fun (u : State × Nat) b => u.1.saveBlock x u.2 ((u.1.block? b.bid).getD b)) (s0, x.area)).1.modTeam tid (fun x =>
        { x with
          state := .saved
          request := none })) := by
  have hexec : exec (.teamSave tid) s = execTeamSave tid s := rfl
  have hretrain : s.hbm.any (fun e => e.2.retraining && s.streamsInto x e.1) = false := by
    refine List.any_eq_false.mpr (fun e he => ?_)
    cases hre : e.2.retraining with
    | false => simp
    | true => simp [hstack e he hre]
  rw [hexec, execTeamSave]
  simp only [hx, hs, hbs, hs0, hops, hquiet, hsettle, hwrap, hretrain, State.moveImages_of_none hnone, State.answerRequest_of_none hr, ne_eq,
    not_true, Bool.not_true, Bool.or_self, Bool.false_eq_true, if_false]

theorem Team.saved_of_unrequested {x : Team} (h : x.request = none) : ({ x with
    state := .saved
    request := none } : Team) = { x with state := .saved } := by
  rw [← h]

theorem State.team_of_mem_blocksOf {s : State} {tid : Nat} {b : Block} (h : b ∈ s.blocksOf tid) : b.team = tid := by
  obtain ⟨e, he, rfl⟩ := List.mem_map.mp h
  exact of_decide_eq_true (List.mem_filter.mp he).2

/-- A team without a resident block is saved at once. -/
theorem execTeamSave_empty {s : State} {tid : Nat} {x : Team} (hx : s.team? tid = some x) (hs : x.state = .saving) (hr : x.request = none)
    (hb : s.blocksOf tid = []) (hnone : x.savedBlocks = []) (hstack : ∀ e ∈ s.hbm, e.2.retraining = true → s.streamsInto x e.1 = false) :
    ∃ t, exec (.teamSave tid) s = .next t ∧ t.team? tid = some { x with state := .saved } ∧ t = { s with teams := t.teams } := by
  have horder := State.inOrder_of_nil hb
  have hexec := execTeamSave_eq (bs := []) (s0 := s) hx hs hr hnone (by rw [horder]; rfl) (by rw [horder]; rfl) rfl rfl hstack rfl rfl
  refine ⟨_, hexec, ?_, rfl⟩
  rw [List.foldl_nil, State.team?_modTeam_some hx, Team.saved_of_unrequested hr]

/-- A block that has not started leaves its core, and its index is queued with the team (R230). -/
theorem execTeamSave_queued {s : State} {tid : Nat} {x : Team} {b : Block} (hx : s.team? tid = some x) (hs : x.state = .saving)
    (hr : x.request = none) (hnone : x.savedBlocks = []) (hb : s.blocksOf tid = [b]) (hstart : b.started = false)
    (hstack : ∀ e ∈ s.hbm, e.2.retraining = true → s.streamsInto x e.1 = false) :
    ∃ t, exec (.teamSave tid) s = .next t ∧ Gone t [b] ∧ t.team? tid = some { x with
      state := .saved
      requeued := (x.requeued ++ [b.index]).mergeSort (· ≤ ·) } ∧ t.mem = s.mem := by
  have horder := State.inOrder_of_single hb
  have hteam : b.team = tid := State.team_of_mem_blocksOf (hb ▸ List.mem_singleton_self b)
  have hexec := execTeamSave_eq (bs := []) (s0 := s.requeueBlock b) hx hs hr hnone (by simp [horder, hstart])
    (by simp [horder, hstart]) rfl rfl hstack rfl rfl
  have hrequeued : (s.requeueBlock b).team? tid = some { x with requeued := (x.requeued ++ [b.index]).mergeSort (· ≤ ·) } := by
    rw [State.requeueBlock, hteam]
    exact State.team?_modTeam_some (s := s.removeBlock b) hx _
  refine ⟨_, hexec, fun d hd => ?_, ?_, rfl⟩
  · rw [List.mem_singleton.mp hd]
    exact s.removeBlock_goneAt b
  · rw [List.foldl_nil, State.team?_modTeam_some hrequeued]
    exact congrArg some (Team.saved_of_unrequested (x := { x with requeued := (x.requeued ++ [b.index]).mergeSort (· ≤ ·) }) hr)

theorem Gang.stopLoops_of_none {g : Gang} (h : g.recruits = []) : g.stopLoops = g := by
  have hmap : g.recruits.map (fun r => (r.1, { r.2 with
      helpers := r.2.helpers.filter (fun h => h.iter.isSome || r.2.loop.isNone)
      loop := r.2.loop.map (fun l => { l with stopped := true }) })) = g.recruits := by rw [h, List.map_nil]
  exact (congrArg (fun rs => { g with recruits := rs }) hmap :)

theorem State.quiet_congr {s t : State} (h : ∀ k, t.gang? k = s.gang? k) (b : Block) : t.quiet b = s.quiet b := by
  simp only [State.quiet, h]

/-- A started block's image is in the save area, its places are in the team, and it is gone (R230). -/
theorem execTeamSave_started {s : State} {tid : Nat} {x : Team} {b : Block} (hx : s.team? tid = some x) (htid : x.tid = tid)
    (hs : x.state = .saving) (hr : x.request = none) (hbs : s.blocksOf tid = [b]) (hstart : b.started = true) (hd : b.dirty = [])
    (hc : b.copies = 0) (hm : b.mops = 0) (hb : s.block? b.bid = some b) (hquiet : s.quiet b = true)
    (hloops : ∀ n ∈ b.gangs, ∀ g, s.gang? (gangId b.bid n) = some g → g.recruits = []) (hwrap : s.wraps b = false)
    (hstack : ∀ e ∈ s.hbm, e.2.retraining = true → s.streamsInto x e.1 = false) (hnone : x.savedBlocks = []) :
    ∃ t y z, exec (.teamSave tid) s = .next t ∧ Gone t [b] ∧ t.team? tid = some y ∧ y.state = .saved ∧ y.savedBlocks = [z] ∧
      z.at_ = x.area ∧ z.block.bid = b.bid ∧ z.block.impSplits = satAdd 32 b.impSplits 1 ∧
      (∀ n ∈ b.gangs, ∀ g, s.gang? (gangId b.bid n) = some g → ∃ h ∈ z.gangs, h.num = g.num ∧ h.regs = g.regs ∧ h.tpc = g.tpc ∧
        h.acs = g.acs ∧ h.fly = []) ∧
      (isHbm x.area = true → isStashKey (x.area + z.image.length) = false → (∀ e ∈ s.hbm, e.2.retraining = false) →
        (∀ m ∈ s.migrations, m.2.pulling = false) → ∀ (k : Nat) (v : Byte), z.image[k]? = some v →
          Memory.byte? t.mem (x.area + k) = some v) := by
  have horder := State.inOrder_of_single hbs
  obtain ⟨s0, hs0⟩ : ∃ s0, b.gangs.foldl (fun v n => v.modGang (gangId b.bid n) Gang.stopLoops) s = s0 := ⟨_, rfl⟩
  have hoff : s0 = { s with gangs := s0.gangs } := State.eq_of_offGangs (by rw [← hs0]; exact State.offGangs_modGangs _ _ _ s)
  have hgang : ∀ k, s0.gang? k = s.gang? k := by
    rw [← hs0]
    exact foldl_modGang_fixed (fun n hn g hg => Gang.stopLoops_of_none (hloops n hn g hg))
  have hb0 : s0.block? b.bid = some b := by rw [hoff]; exact hb
  have hx0 : s0.team? x.tid = some x := by rw [hoff, htid]; exact hx
  have hwrap0 : s0.wraps b = false := by rw [hoff]; exact hwrap
  have hexec := execTeamSave_eq (bs := [b]) (s0 := s0) hx hs hr hnone (by simp [horder, hstart]) (by simp [horder, hstart, hs0])
    (opsDone_of (by simp [hc, hm])) (by simp [State.quiet_congr hgang, hquiet]) hstack
    (State.settleAll_of_clean (by simp [hb0, hd])) (by simp [hwrap0])
  rw [List.foldl_cons, List.foldl_nil] at hexec
  dsimp only at hexec
  rw [hb0, Option.getD_some] at hexec
  obtain ⟨z, hgone, hteam, hat, hbid, himp, hgangs, hbytes⟩ := State.saveBlock_spec hx0 hb0 hd x.area
  rw [htid] at hteam
  rw [hnone] at hteam
  refine ⟨_, _, z, hexec, hgone, State.team?_modTeam_some hteam _, rfl, rfl, hat, hbid, himp,
    fun n hn g hg => hgangs n hn g ((hgang _).trans hg), fun ha _ hre hmi k v hk => hbytes ha ?_ ?_ k v hk⟩
  · rw [hoff]; exact hre
  · rw [hoff]; exact hmi

end Sys2Proof.Machine
end

/-! Proofs/Restore.lean: a team's restore, and the whole life of a team (R231, R232, R234, R418). -/
section

namespace Sys2Proof.Machine

open Sys2Proof

/-! ### A gang as it goes on (R231, R418) -/

theorem loadLayers_length (ls : List Layer) (ws : List Word) : (loadLayers ls ws).1.length = ls.length := by
  induction ls generalizing ws with
  | nil => rfl
  | cons l ls ih => simp only [loadLayers, List.length_cons, ih]

/-- Splits that go on are where they were, in the lanes and under the records that they had. -/
theorem Tree.look_restored (t : Tree) (cyc p : Nat) :
    (Tab.look (t.restored cyc).splits p).map (fun e => (e.pc, e.mask, e.rec_)) =
      (Tab.look t.splits p).map (fun e => (e.pc, e.mask, e.rec_)) := by
  simp only [Tree.restored, Tree.thaw, Tab.look_map_val (fun _ (x : Split) => x.restored cyc),
    Tab.look_map_val (fun _ (x : Split) => { x with readyAt := cyc + 1 }), Option.map_map]
  rfl

theorem Gang.restored_layers_length (g : Gang) (xs : List Section) (cyc : Nat) : (g.restored xs cyc).layers.length = g.layers.length :=
  (List.length_map _).trans (loadLayers_length _ _)

/-! ### A saved block on its new core (R231) -/

/-- Values entered under distinct keys are found there. -/
theorem Tab.look_foldl_put {α β : Type} (key : β → Nat) (val : β → α) {l : List β} (h : (l.map key).Nodup) (t : Tab α) {b : β} (hb : b ∈ l) :
    Tab.look (l.foldl (fun t b => Tab.put t (key b) (val b)) t) (key b) = some (val b) := by
  have hkeep : ∀ (l : List β) (t : Tab α) (k : Nat), k ∉ l.map key →
      Tab.look (l.foldl (fun t b => Tab.put t (key b) (val b)) t) k = Tab.look t k := by
    intro l
    induction l with
    | nil => exact fun _ _ _ => rfl
    | cons c l ih =>
      intro t k hk
      rw [List.map_cons, List.mem_cons, not_or] at hk
      rw [List.foldl_cons, ih _ _ hk.2, Tab.look_put, if_neg (Ne.symm hk.1)]
  induction l generalizing t with
  | nil => cases hb
  | cons c l ih =>
    obtain ⟨hc, hl⟩ := List.nodup_cons.mp h
    rcases List.mem_cons.mp hb with rfl | hb
    · rw [List.foldl_cons, hkeep l _ _ hc, Tab.look_put_self]
    · exact ih hl _ hb

theorem gangId_injective (bid : Nat) : Function.Injective (gangId bid) := fun _ _ h => Nat.add_left_cancel h

theorem State.placeBlock_teams (s : State) (t : Team) (p : Launch) (index core base : Nat) :
    (s.placeBlock t p index core base).teams = s.teams := by
  unfold State.placeBlock
  split
  · rfl
  · extract_lets c s1 s2 b
    have h1 : s1.offMemory = s.offMemory := by
      unfold s1
      split
      · rfl
      · rw [State.offMemory_modCore, State.drainCore, State.offMemory_modCore, State.offMemory_writeBackL1]
    clear_value s1
    calc _ = s1.teams := rfl
      _ = s.teams := State.teams_of_offMemory h1

/-- A block as it comes back from its image (R231, R432). -/
def SavedBlock.back (z : SavedBlock) (xs : List Section) (slot core base : Nat) : Block :=
  { z.block with
    smap := mapOf ((sectionWords xs 5 0xFF).drop (z.block.stashNeed / 4))
    slot := slot
    core := core
    stashBase := base
    started := true
    fills := []
    opened := false
    wrapping := false
    closeReq := false
    closeSeen := false }

theorem State.restoreBlock_spec {s : State} {slot : Nat} {z : SavedBlock} (hslot : s.freeSlot = some slot)
    (hnum : (z.gangs.map Gang.num).Nodup) (x : Team) (xs : List Section) (core base : Nat) :
    (s.restoreBlock x z xs core base).teams = s.teams ∧
      (s.restoreBlock x z xs core base).block? z.block.bid = some (z.back xs slot core base) ∧
      ∀ g ∈ z.gangs, ∃ h, (s.restoreBlock x z xs core base).gang? (gangId z.block.bid g.num) = some h ∧
        OtherLoads (g.restored xs (s.cycle core)) h := by
  unfold State.restoreBlock
  extract_lets p placed s1 words saved cyc
  split
  · next hfree => rw [hslot] at hfree; cases hfree
  next free hfree =>
  obtain rfl : slot = free := Option.some.inj (hslot.symm.trans hfree)
  extract_lets b stash s2 s3
  have hplaced : placed.teams = s.teams := s.placeBlock_teams x p z.block.index core base
  clear_value placed
  have hteams : s2.teams = s.teams := Eq.trans rfl hplaced
  have hblock : s2.block? z.block.bid = some (z.back xs slot core base) := Tab.look_put_self _ _ _
  have hkeys : (z.gangs.map (fun g => gangId z.block.bid g.num)).Nodup := by
    have h := hnum.map (gangId_injective z.block.bid)
    rwa [List.map_map] at h
  have hgangs : ∀ g ∈ z.gangs, s3.gang? (gangId z.block.bid g.num) = some (g.restored xs (s.cycle core)) :=
    fun g hg => Tab.look_foldl_put (fun (g : Gang) => gangId z.block.bid g.num) (fun (g : Gang) => g.restored xs (s.cycle core)) hkeys _ hg
  refine ⟨(foldl_keeps State.teams _ (by intros; rfl) z.gangs s3).trans hteams,
    (congrFun (foldl_keeps State.block? _ (by intros; rfl) z.gangs s3) z.block.bid).trans hblock, fun g hg => ?_⟩
  have hstep : ∀ (u : State) (g : Gang), GangsRel OtherLoads u ((u.modGang (gangId b.bid g.num) (fun y =>
      { y with ldas := y.ldas.map (u.replaceLda (b.viewer y.system)) })).unsync (gangId b.bid g.num) core) := fun u g => by
    have h : GangsRel OtherLoads u (u.modGang (gangId b.bid g.num) (fun y =>
      { y with ldas := y.ldas.map (u.replaceLda (b.viewer y.system)) })) := GangsRel.modGang OtherLoads.refl (fun _ => ⟨_, rfl⟩)
    exact h
  have hloads := GangsRel.foldl OtherLoads.refl OtherLoads.trans hstep z.gangs s3
  exact hloads _ _ (hgangs g hg)

/-! ### A team's restore (R231, R232) -/

/-- A team of which nothing is left to bring back. -/
def Team.resumed (x : Team) : Team := { x with
  state := .live
  frozen := false
  savedBlocks := [] }

theorem Team.resumed_eq : Team.resumed = fun x => { x with
    state := .live
    frozen := false
    savedBlocks := [] } := rfl

theorem Team.resumed_of_none {x : Team} (h : x.savedBlocks = []) : x.resumed = { x with
    state := .live
    frozen := false } := by
  rw [Team.resumed, ← h]

theorem execTeamRestore_none {s : State} {tid : Nat} {x : Team} (hx : s.team? tid = some x) (hs : x.state = .restoring)
    (hnone : x.savedBlocks = []) (hq : x.requeued = []) (hplan : s.restorePlan x = some []) (hrank : s.outranked x = false) :
    exec (.teamRestore tid) s = .next ((s.modTeam tid Team.resumed).faultRecord x.asid 7 [tid, 3]) := by
  have hexec : exec (.teamRestore tid) s = execTeamRestore tid s := rfl
  rw [hexec, execTeamRestore]
  simp [hx, hs, hnone, hq, hplan, hrank, State.placeQueued, Team.resumed_eq]

theorem execTeamRestore_one {s : State} {tid core base : Nat} {x : Team} {z : SavedBlock} {xs : List Section} (hx : s.team? tid = some x)
    (hs : x.state = .restoring) (hone : x.savedBlocks = [z]) (hq : x.requeued = []) (hplan : s.restorePlan x = some [(core, base)])
    (hrank : s.outranked x = false) (hstaged : s.staged core z.block.bid = none)
    (hxs : s.savedSections z.at_ z.image.length = some xs) (hwaits : s.savedWaits z = false)
    (hm : ∀ m ∈ s.migrations, m.2.pulling = false) : exec (.teamRestore tid) s =
      .next ((((s.restoreBlock x z xs core base).unstage z.block.bid).modTeam tid Team.resumed).faultRecord x.asid 7 [tid, 3]) := by
  have hexec : exec (.teamRestore tid) s = execTeamRestore tid s := rfl
  rw [hexec, execTeamRestore]
  simp [hx, hs, hone, hq, hplan, hrank, hstaged, hxs, hwaits, State.placeQueued, State.pullLines_of_settled hm, Team.resumed_eq]

theorem State.team?_faultRecord (s : State) (asid kind tid : Nat) (ws : List Nat) : (s.faultRecord asid kind ws).team? tid = s.team? tid := by
  rw [State.team?, State.teams_of_offMemory (s.offMemory_faultRecord asid kind ws)]
  rfl

/-- A team with no block to bring back goes on. -/
theorem execTeamRestore_empty {s : State} {tid : Nat} {x : Team} (hx : s.team? tid = some x) (hs : x.state = .restoring)
    (hnone : x.savedBlocks = []) (hq : x.requeued = []) (hplan : s.restorePlan x = some []) (hrank : s.outranked x = false) :
    ∃ t, exec (.teamRestore tid) s = .next t ∧ t.team? tid = some { x with
      state := .live
      frozen := false } := by
  refine ⟨_, execTeamRestore_none hx hs hnone hq hplan hrank, ?_⟩
  rw [State.team?_faultRecord, State.team?_modTeam_some hx, Team.resumed_of_none hnone]

/-- A block that is brought back is on its new core with its gangs, and its team goes on. -/
theorem execTeamRestore_placed {s : State} {tid core base slot : Nat} {x : Team} {z : SavedBlock} {xs : List Section}
    (hx : s.team? tid = some x) (hs : x.state = .restoring) (hone : x.savedBlocks = [z]) (hq : x.requeued = [])
    (hplan : s.restorePlan x = some [(core, base)]) (hrank : s.outranked x = false) (hstaged : s.staged core z.block.bid = none)
    (hxs : s.savedSections z.at_ z.image.length = some xs) (hwaits : s.savedWaits z = false)
    (hm : ∀ m ∈ s.migrations, m.2.pulling = false) (hslot : s.freeSlot = some slot) (hnum : (z.gangs.map Gang.num).Nodup) :
    ∃ t b y, exec (.teamRestore tid) s = .next t ∧ t.block? z.block.bid = some b ∧ b.slot = slot ∧ b.core = core ∧ b.stashBase = base ∧
      b.started = true ∧ b.smap = mapOf ((sectionWords xs 5 0xFF).drop (z.block.stashNeed / 4)) ∧ b.opid = z.block.opid ∧
      t.team? tid = some y ∧ y.state = .live ∧ y.frozen = false ∧
      ∀ g ∈ z.gangs, ∃ h, t.gang? (gangId z.block.bid g.num) = some h ∧ h.tpc = g.tpc ∧ h.tcause = g.tcause ∧ h.acs = g.acs ∧
        h.dmask = g.dmask ∧ h.system = g.system ∧ h.fmode = g.fmode ∧ h.layers.length = g.layers.length ∧
        ∀ p, (Tab.look h.tree.splits p).map (fun e => (e.pc, e.mask, e.rec_)) =
          (Tab.look (g.loaded (sectionWords xs 3 g.num)).tree.splits p).map (fun e => (e.pc, e.mask, e.rec_)) := by
  have hexec := execTeamRestore_one hx hs hone hq hplan hrank hstaged hxs hwaits hm
  obtain ⟨hteams, hblock, hgangs⟩ := State.restoreBlock_spec hslot hnum x xs core base
  generalize s.restoreBlock x z xs core base = u at *
  let v := (u.unstage z.block.bid).modTeam tid Team.resumed
  have hv : v.team? tid = some x.resumed := State.team?_modTeam_some (s := u.unstage z.block.bid)
    ((congrArg (fun ts => Tab.look ts tid) hteams).trans hx) Team.resumed
  have hrec : (v.faultRecord x.asid 7 [tid, 3]).offMemory = v.offMemory := State.offMemory_faultRecord _ _ _ _
  refine ⟨_, z.back xs slot core base, x.resumed, hexec, ?_, rfl, rfl, rfl, rfl, rfl, rfl, ?_, rfl, rfl, fun g hg => ?_⟩
  · exact (congrArg (fun bs => Tab.look bs z.block.bid) (State.blocks_of_offMemory hrec)).trans hblock
  · exact (State.team?_faultRecord v _ _ _ _).trans hv
  · obtain ⟨h, hh, ls, rfl⟩ := hgangs g hg
    refine ⟨_, (congrArg (fun gs => Tab.look gs (gangId z.block.bid g.num)) (State.gangs_of_offMemory hrec)).trans hh, rfl, rfl, rfl, rfl,
      rfl, rfl, g.restored_layers_length xs (s.cycle core), fun p => Tree.look_restored _ (s.cycle core) p⟩

/-! ### The life of a team -/

/-- Settles O46, event by event: places that come back from their image (R418), requests, discard, save, restore and abort. -/
theorem teamLives : Obligations.TeamLives := by
  refine ⟨fun g => Gang.places_come_back, fun s tid x hx htid hl => ⟨?_, ?_, ?_, ?_, rfl, ?_, ?_, ?_, ?_, ?_, ?_, ?_⟩⟩
  · exact fun deadline area nodrain nodiscard ht hs hpeer =>
      execPreemptRequest_effect hx hl ht hs hpeer deadline area nodrain nodiscard
  · exact fun deadline area nodrain nodiscard b n g p y ht hs hb hn hg hsplit hp hu =>
      execPreemptRequest_callsOff hx hl ht hs hb hn hg hsplit hp hu deadline area nodrain nodiscard
  · exact fun area hs ha => ⟨_, execRestoreRequest_eq hl hx hs ha, State.team?_modTeam_some hx _, rfl⟩
  · exact fun ht hs => execEndRequest_effect hx hl ht hs
  · exact fun hs hw hops hr => execTeamDiscard_effect hx hs hw hops hr
  · exact fun hs hr hb hnone hstack => execTeamSave_empty hx hs hr hb hnone hstack
  · exact fun b hs hr hbs hstart hd hc hm hb hquiet hloops hwrap hstack hnone =>
      execTeamSave_started hx htid hs hr hbs hstart hd hc hm hb hquiet hloops hwrap hstack hnone
  · exact fun b hs hr hnone hb hstart _ hstack => execTeamSave_queued hx hs hr hnone hb hstart hstack
  · exact fun hs hnone hq hplan hrank => execTeamRestore_empty hx hs hnone hq hplan hrank
  · exact fun z xs core base slot hs hone hq hplan hrank hstaged hxs hwaits hm hslot hnum =>
      execTeamRestore_placed hx hs hone hq hplan hrank hstaged hxs hwaits hm hslot hnum
  · exact fun hs hb => execTeamAbort_effect hx hs hb

end Sys2Proof.Machine
end

/-! Proofs/AccessFaults.lean: what the checks before and behind an access make of a memory instruction (R59, R217, R221, R249, R423). -/
section

namespace Sys2Proof.Machine

open Sys2Proof

/-! ### The forms of memory instructions -/

theorem exec_of_loadForm {i : Instr} {m : MemForm} (h : loadForm i = some m) (s : State) :
    exec i s = loadOp i m.uniform m.d m.a m.x s := by
  unfold loadForm at h
  split at h
  · cases h; rfl
  · cases h; rfl
  · cases h

theorem exec_of_storeForm {i : Instr} {m : MemForm} (h : storeForm i = some m) (s : State) :
    exec i s = storeOp i m.uniform m.d m.a m.x s := by
  unfold storeForm at h
  split at h
  · cases h; rfl
  · cases h; rfl
  · cases h

theorem atomOp_eq_atomicOp (i : Instr) (uniform : Bool) (d a b : Reg) (x : Access) :
    ∃ f, ∀ s, atomOp i uniform d a b x s = atomicOp i uniform d a b x (x.op.toNat = 0 || x.op.toNat = 11) [(b, x.regs)] f s :=
  ⟨_, fun _ => rfl⟩

theorem casOp_eq_atomicOp (i : Instr) (uniform : Bool) (d a b : Reg) (x : Access) :
    ∃ f, ∀ s, casOp i uniform d a b x s = atomicOp i uniform d a b x true [(d, x.regs), (b, x.regs)] f s := ⟨_, fun _ => rfl⟩

theorem exec_of_atomForm {i : Instr} {m : AtomForm} (h : atomForm i = some m) :
    ∃ b isOp f, ∀ s, exec i s = atomicOp i m.form.uniform m.form.d m.form.a b m.form.x isOp m.data f s := by
  unfold atomForm at h
  split at h
  · next d a b x => cases h; exact ⟨b, _, atomOp_eq_atomicOp (.atom d a b x) false d a b x⟩
  · next d a b x => cases h; exact ⟨b, _, atomOp_eq_atomicOp (.uAtom d a b x) true d a b x⟩
  · next d a b x => cases h; exact ⟨b, _, casOp_eq_atomicOp (.cas d a b x) false d a b x⟩
  · next d a b x => cases h; exact ⟨b, _, casOp_eq_atomicOp (.cas2 d a b x) false d a b x⟩
  · next d a b x => cases h; exact ⟨b, _, casOp_eq_atomicOp (.uCas d a b x) true d a b x⟩
  · cases h

theorem loadForm_of_storeForm {i : Instr} {m : MemForm} (h : storeForm i = some m) : loadForm i = none := by
  unfold storeForm at h
  split at h
  · rfl
  · rfl
  · cases h

theorem Access.regs_le (x : Access) : x.regs ≤ 4 := by
  unfold Access.regs
  split
  · decide
  · split <;> decide

/-- The data of an atomic are registers of its size. -/
theorem atomForm_data_width {i : Instr} {m : AtomForm} (h : atomForm i = some m) : ∀ e ∈ m.data, e.2 = m.form.x.regs := by
  unfold atomForm at h
  split at h <;> cases h <;> simp

/-! ### The copies of a protected team (R59, R221) -/

theorem wordsToNat_lt (ws : List Word) : wordsToNat ws < 2 ^ (32 * ws.length) := by
  induction ws using List.reverseRecOn with
  | nil => exact Nat.one_pos
  | append_singleton ws w ih =>
    rw [wordsToNat_append, List.length_append, List.length_singleton, Nat.mul_add, Nat.pow_add]
    calc wordsToNat ws + w.toNat * 2 ^ (32 * ws.length) < 2 ^ (32 * ws.length) + w.toNat * 2 ^ (32 * ws.length) := Nat.add_lt_add_right ih _
      _ = 2 ^ (32 * ws.length) * (w.toNat + 1) := by rw [Nat.mul_succ, Nat.add_comm, Nat.mul_comm]
      _ ≤ 2 ^ (32 * ws.length) * 2 ^ (32 * 1) := Nat.mul_le_mul_left _ w.isLt

theorem Cx.rdn_lt (cx : Cx) (s : State) (phys n : Nat) {w : Nat} (hw : w ≤ 4) : cx.rdn s phys n w < 2 ^ 128 := by
  refine Nat.lt_of_lt_of_le (wordsToNat_lt _) (Nat.pow_le_pow_right Nat.two_pos ?_)
  rw [List.length_map, List.length_range]
  omega

/-- Numbers below a base are packed without loss. -/
theorem foldl_pack_inj {B : Nat} {xs ys : List Nat} (hlen : xs.length = ys.length) (hx : ∀ x ∈ xs, x < B) (hy : ∀ y ∈ ys, y < B) {a b : Nat}
    (h : xs.foldl (fun x y => x * B + y) a = ys.foldl (fun x y => x * B + y) b) : a = b ∧ xs = ys := by
  induction xs generalizing ys a b with
  | nil =>
    obtain rfl := List.length_eq_zero_iff.mp hlen.symm
    exact ⟨h, rfl⟩
  | cons x xs ih =>
    cases ys with
    | nil => cases hlen
    | cons y ys =>
      obtain ⟨hxB, hxs⟩ := List.forall_mem_cons.mp hx
      obtain ⟨hyB, hys⟩ := List.forall_mem_cons.mp hy
      obtain ⟨hhead, rfl⟩ := ih (Nat.succ.inj hlen) hxs hys h
      have hB : 0 < B := Nat.zero_lt_of_lt hxB
      have hmod : x = y := by
        have := congrArg (· % B) hhead
        simpa [Nat.mul_add_mod_self_right, Nat.mul_add_mod_of_lt, Nat.mod_eq_of_lt, hxB, hyB] using this
      subst hmod
      exact ⟨Nat.eq_of_mul_eq_mul_right hB (Nat.add_right_cancel hhead), rfl⟩

/-- Two copies bring the same packed data exactly where they bring the same data. -/
theorem Cx.packed_eq_iff (cx : Cx) (s : State) {data : List (Reg × Nat)} (hd : ∀ e ∈ data, e.2 ≤ 4) (p q : Nat) :
    (data.map (fun e => cx.rdn s p e.1.toNat e.2)).foldl (fun x y => x * 2 ^ 128 + y) 0 =
        (data.map (fun e => cx.rdn s q e.1.toNat e.2)).foldl (fun x y => x * 2 ^ 128 + y) 0 ↔
      data.map (fun e => cx.rdn s p e.1.toNat e.2) = data.map (fun e => cx.rdn s q e.1.toNat e.2) := by
  have hlt : ∀ p, ∀ x ∈ data.map (fun e => cx.rdn s p e.1.toNat e.2), x < 2 ^ 128 := fun p x hx => by
    obtain ⟨e, he, rfl⟩ := List.mem_map.mp hx
    exact cx.rdn_lt s p _ (hd e he)
  refine ⟨fun h => (foldl_pack_inj ?_ (hlt p) (hlt q) h).2, fun h => by rw [h]⟩
  rw [List.length_map, List.length_map]

section ShadowSplit

variable {cx : Cx} {s : State} {a : Reg} {offset : BitVec 16} {data : List (Reg × Nat)} {rs rest : List Req} {r : Req}

theorem Cx.shadowSplit_of_addresses (hp : cx.g.prot = true) (hr : cx.g.role ≠ 2)
    (h : rs.filter (fun r => (cx.g.phys r.vis).any (fun p => cx.address s a offset p ≠ cx.address s a offset r.phys)) = r :: rest) :
    cx.shadowSplit s a offset data rs = some (.trap 0x21 (maskOf (r.vis :: rest.map Req.vis)) r.va (r.vis * 4)) := by
  simp only [Cx.shadowSplit, hp, hr, h, Bool.not_true, decide_false, Bool.or_self, Bool.false_eq_true, if_false]

theorem Cx.shadowSplit_of_data (hp : cx.g.prot = true) (hr : cx.g.role ≠ 2) (hd : ∀ e ∈ data, e.2 ≤ 4)
    (ha : ∀ r ∈ rs, ∀ p ∈ cx.g.phys r.vis, cx.address s a offset p = cx.address s a offset r.phys)
    (h : rs.filter (fun r => (cx.g.phys r.vis).any (fun p =>
      data.map (fun e => cx.rdn s p e.1.toNat e.2) ≠ data.map (fun e => cx.rdn s r.phys e.1.toNat e.2))) = r :: rest) :
    cx.shadowSplit s a offset data rs = some (.trap 0x21 (maskOf (r.vis :: rest.map Req.vis)) r.va (1 + r.vis * 4)) := by
  have hsame : rs.filter (fun r => (cx.g.phys r.vis).any (fun p => cx.address s a offset p ≠ cx.address s a offset r.phys)) = [] :=
    List.filter_eq_nil_iff.mpr (fun r hr => by simpa using ha r hr)
  simp only [ne_eq, ← cx.packed_eq_iff s hd] at h
  simp only [Cx.shadowSplit, hp, hr, hsame, ne_eq, h, Bool.not_true, decide_false, Bool.or_self, Bool.false_eq_true, if_false]

end ShadowSplit

/-- A store or an atomic whose copies disagree has no other effect than the trap. -/
theorem exec_of_shadowSplit {i : Instr} {m : MemForm} {data : List (Reg × Nat)} {cx : Cx} {s : State} {c n at_ : Nat} {k : Mask}
    (hf : storeForm i = some m ∧ data = [(m.d, m.x.regs)] ∨ ∃ f, atomForm i = some f ∧ m = f.form ∧ data = f.data) (hc : Clear i cx s)
    (h : cx.shadowSplit s m.a m.x.offset data (cx.reqs s m.uniform m.a m.x.offset (2 ^ m.x.size.toNat)) = some (.trap c k at_ n)) :
    exec i s = .next (cx.fault s c k at_ n) := by
  rcases hf with ⟨hm, rfl⟩ | ⟨f, hf, rfl, rfl⟩
  · rw [exec_of_storeForm hm, storeOp, run_clear hc]
    simp only [Access.bytes, h, Cx.stop]
  · obtain ⟨b, isOp, g, he⟩ := exec_of_atomForm hf
    rw [he, atomicOp, run_clear hc]
    simp only [Access.bytes, h, Cx.stop]

/-! ### The checks of the accesses (R217, R249, R262, R423, R430) -/

section Checks

variable {cx : Cx} {s u : State} {h : How} {own : State → Req → List Piece → Option (Nat × Nat × Nat)} {rs : List Req}

theorem Cx.access_of_fault {f : Found} (hc : s.check cx.viewer h (cx.toucher h.label h.reads h.writes) true own rs = .fault u f) (b : Bound)
    (k : State → List (Req × List Piece) → State) : cx.access s h b own rs k = cx.fault u f.cause f.lanes f.addr f.info := by
  simp only [Cx.access, hc]

theorem Cx.access_of_untranslated {va level reason agent : Nat} {lanes : Mask}
    (hc : s.check cx.viewer h (cx.toucher h.label h.reads h.writes) true own rs = .untranslated u va level reason agent lanes) (b : Bound)
    (k : State → List (Req × List Piece) → State) :
    cx.access s h b own rs k = cx.untranslated u h.need.w false va level reason agent lanes := by
  simp only [Cx.access, hc]

theorem Cx.access_of_wait (hc : s.check cx.viewer h (cx.toucher h.label h.reads h.writes) true own rs = .wait u) (b : Bound)
    (k : State → List (Req × List Piece) → State) : cx.access s h b own rs k = cx.park u .resource := by
  simp only [Cx.access, hc]

end Checks

/-- A fault that the elements with a property raise is that of the first of them, for the lanes of all. -/
theorem gather_of_filter {α : Type} {cause : Nat} {xs rest : List α} {x : α} {vis : α → Nat} {p : α → Prop} [DecidablePred p]
    {f : α → Nat × Nat} (h : xs.filter p = x :: rest) :
    gather cause xs vis (fun y => if p y then some (f y) else none) = some ⟨cause, maskOf (vis x :: rest.map vis), (f x).1, (f x).2⟩ := by
  have hmap : xs.filterMap (fun y => (if p y then some (f y) else none).map (fun r => (vis y, r))) =
      (xs.filter p).map (fun y => (vis y, f y)) := by
    rw [← List.filterMap_eq_map, List.filterMap_filter]
    refine List.filterMap_congr (fun y _ => ?_)
    by_cases hy : p y <;> simp [hy]
  rw [gather, hmap, h]
  simp [Function.comp_def]

/-- A misaligned address is looked for first (R217, R249). -/
theorem State.check_of_misaligned {s : State} {h : How} {rs rest : List Req} {r : Req}
    (hm : rs.filter (fun r => r.va % h.align ≠ 0) = r :: rest) (v : Viewer) (tou : Nat → Toucher) (races : Bool)
    (own : State → Req → List Piece → Option (Nat × Nat × Nat)) :
    s.check v h tou races own rs = .fault s ⟨0x05, maskOf (r.vis :: rest.map Req.vis), r.va, h.size⟩ := by
  rw [State.check, gather_of_filter (vis := Req.vis) (f := fun r => (r.va, h.size)) hm]

/-- What a load or a store does at its addresses. -/
def accessHow (i : Instr) (x : Access) : How := if (loadForm i).isSome then loadHow x else storeHow x

theorem accessHow_size (i : Instr) (x : Access) : (accessHow i x).size = x.size.toNat := by
  unfold accessHow
  split <;> rfl

/-- A load or a store whose copies do not disagree is its accesses, made as `accessHow` says. -/
theorem exec_eq_access {i : Instr} {m : MemForm} {cx : Cx} {s : State} (hm : loadForm i = some m ∨ storeForm i = some m) (hc : Clear i cx s)
    (hs : (storeForm i).isSome = true →
      cx.shadowSplit s m.a m.x.offset [(m.d, m.x.regs)] (cx.reqs s m.uniform m.a m.x.offset (2 ^ m.x.size.toNat)) = none) :
    ∃ b k, exec i s = .next (cx.access s (accessHow i m.x) b noOwn (cx.reqs s m.uniform m.a m.x.offset (2 ^ m.x.size.toNat)) k) := by
  rcases hm with hm | hm
  · rw [exec_of_loadForm hm, loadOp, run_clear hc, accessHow, hm, Option.isSome_some, if_pos rfl]
    exact ⟨_, _, rfl⟩
  · have hsplit := hs (by rw [hm, Option.isSome_some])
    rw [exec_of_storeForm hm, storeOp, run_clear hc, accessHow, loadForm_of_storeForm hm, Option.isSome_none, if_neg Bool.false_ne_true]
    simp only [Access.bytes, hsplit]
    exact ⟨_, _, rfl⟩

/-- Settles O22: the copies of a protected team are compared before the access, and of the access each answer of the checks is what the
instruction does. -/
theorem accessFaults : Obligations.AccessFaults := by
  refine ⟨fun i m data cx s hf hc hp hr => ?_, fun i m cx s hm hc => ?_⟩
  · have hd : ∀ e ∈ data, e.2 ≤ 4 := by
      rcases hf with ⟨-, rfl⟩ | ⟨f, hf, rfl, rfl⟩
      · simpa using Access.regs_le m.x
      · exact fun e he => atomForm_data_width hf e he ▸ Access.regs_le _
    refine ⟨fun r rest h => ?_, fun ha r rest h => ?_⟩
    · rw [Nat.zero_add, Nat.mul_comm]
      exact exec_of_shadowSplit hf hc (Cx.shadowSplit_of_addresses hp hr h)
    · rw [Nat.mul_comm]
      exact exec_of_shadowSplit hf hc (Cx.shadowSplit_of_data hp hr hd ha h)
  · intro h rs checked hs
    obtain ⟨b, k, he⟩ := exec_eq_access hm hc hs
    refine ⟨fun u f hcheck => ?_, fun u va level reason agent lanes hcheck => ?_, fun u hcheck => ?_, fun r rest hmis => ?_⟩
    · exact he.trans (congrArg Host.Outcome.next (Cx.access_of_fault hcheck b k))
    · exact he.trans (congrArg Host.Outcome.next (Cx.access_of_untranslated hcheck b k))
    · exact he.trans (congrArg Host.Outcome.next (Cx.access_of_wait hcheck b k))
    · rw [← accessHow_size i m.x]
      exact State.check_of_misaligned hmis _ _ _ _

end Sys2Proof.Machine
end

/-! Proofs/Selection.lean: which split a quad's turn goes to, and what a joinw timeout leaves (R55, R345, R411). -/
section

namespace Sys2Proof.Machine

open Sys2Proof

/-! ### The order of candidates (R55, R345) -/

theorem keyLess_asymm {xs ys : List Nat} (h : keyLess xs ys = true) : keyLess ys xs = false := by
  induction xs generalizing ys with
  | nil => cases h
  | cons x xs ih =>
    cases ys with
    | nil => rfl
    | cons y ys =>
      simp only [keyLess, Bool.or_eq_true, Bool.and_eq_true, decide_eq_true_eq] at h
      rcases h with h | ⟨rfl, h⟩
      · simp [keyLess, Nat.lt_asymm h, Nat.ne_of_gt h]
      · simp [keyLess, ih h]

/-- The better of the candidate held and the next one. -/
def Cand.better (a : Option Cand) (c : Cand) : Option Cand :=
  match a with
  | none => some c
  | some x => if keyLess c.key x.key then some c else some x

theorem Cand.first_eq_foldl (cs : List Cand) : Cand.first cs = cs.foldl Cand.better none := rfl

theorem Cand.better_of_held {c x : Cand} (h : x = c ∨ keyLess c.key x.key = true) : Cand.better (some c) x = some c := by
  rcases h with rfl | h
  · exact ite_self _
  · rw [Cand.better, keyLess_asymm h, if_neg Bool.false_ne_true]

theorem Cand.better_of_next {c : Cand} {a : Option Cand} (h : ∀ x, a = some x → x = c ∨ keyLess c.key x.key = true) :
    Cand.better a c = some c := by
  cases a with
  | none => rfl
  | some x =>
    rcases h x rfl with rfl | h
    · exact ite_self _
    · rw [Cand.better, h, if_pos rfl]

theorem Cand.better_mem {c : Cand} {a : Option Cand} {x : Cand} (h : Cand.better a c = some x) : x = c ∨ a = some x := by
  cases a with
  | none => exact .inl (Option.some.inj h).symm
  | some y =>
    rw [Cand.better] at h
    split at h
    · exact .inl (Option.some.inj h).symm
    · exact .inr h

/-- A candidate that comes before all others is the first. -/
theorem Cand.first_eq_some {cs : List Cand} {c : Cand} (hc : c ∈ cs) (h : ∀ x ∈ cs, x = c ∨ keyLess c.key x.key = true) :
    Cand.first cs = some c := by
  have hfold : ∀ (l : List Cand) (a : Option Cand), (∀ x ∈ l, x = c ∨ keyLess c.key x.key = true) →
      (a = some c ∨ c ∈ l ∧ ∀ x, a = some x → x = c ∨ keyLess c.key x.key = true) → l.foldl Cand.better a = some c := by
    intro l
    induction l with
    | nil => exact fun a _ ha => ha.resolve_right (by simp)
    | cons y l ih =>
      intro a hl ha
      obtain ⟨hy, hl⟩ := List.forall_mem_cons.mp hl
      refine ih _ hl ?_
      rcases ha with rfl | ⟨hmem, ha⟩
      · exact .inl (Cand.better_of_held hy)
      · rcases List.mem_cons.mp hmem with rfl | hmem
        · exact .inl (Cand.better_of_next ha)
        · exact .inr ⟨hmem, fun x hx => (Cand.better_mem hx).elim (fun e => e ▸ hy) (ha x)⟩
  rw [Cand.first_eq_foldl]
  exact hfold cs none h (.inr ⟨hc, fun x hx => by cases hx⟩)

/-- Of two starved candidates the one with the lower gang, then the lower place, comes first (R55). -/
theorem Cand.key_less_of_starved {c x : Cand} (hc : c.starved = true) (hx : x.starved = true)
    (h : c.gang < x.gang ∨ x.gang = c.gang ∧ c.place < x.place) : keyLess c.key x.key = true := by
  rcases h with h | ⟨h, hp⟩
  · simp [Cand.key, hc, hx, keyLess, h]
  · simp [Cand.key, hc, hx, keyLess, h, hp]

/-! ### A quad's turn (R345) -/

/-- The splits and helpers passed over are counted in their gangs, and no gang goes. -/
theorem State.starveOthers_spec (s : State) (cs : List Cand) (but : Issue) :
    (s.starveOthers cs but).offGangs = s.offGangs ∧ GangsRel (fun _ _ => True) s (s.starveOthers cs but) := by
  refine ⟨foldl_keeps State.offGangs _ (fun u c => ?_) cs s,
    GangsRel.foldl (fun _ => trivial) (fun _ _ _ _ _ => trivial) (fun u c => ?_) cs s⟩
  · split
    · rfl
    · split <;> rfl
  · split
    · exact GangsRel.refl (fun _ => trivial) u
    · split <;> exact GangsRel.modGang (fun _ => trivial) (fun _ => trivial)

/-- A split on chip that is chosen issues; only its gang has changed. -/
theorem State.choose_split {s : State} {c : Cand} {p : Nat} {g : Gang} (hw : c.who.who = .split p) (hp : p < 8)
    (hg : s.gang? (gangId c.who.bid c.who.gang) = some g) (cyc : Nat) :
    ∃ gs, s.choose cyc c = { s with
      issue := some c.who
      gangs := gs } := by
  have hrefill : g.tree.refill p = (p, g.tree) := if_pos hp
  have hwho : ({ c.who with who := .split p } : Issue) = c.who := by rw [← hw]
  unfold State.choose
  dsimp only
  rw [hw]
  simp only [hg, hrefill, hwho]
  exact ⟨_, rfl⟩

/-- A quad's turn goes to the candidate that comes before all others. -/
theorem State.selectFrom_split {s : State} {core quad p : Nat} {cs : List Cand} {c : Cand} (ht : s.turns.contains (core * 5 + quad) = true)
    (hc : c ∈ cs) (hfirst : ∀ x ∈ cs, x = c ∨ keyLess c.key x.key = true) (hw : c.who.who = .split p) (hp : p < 8)
    (hg : ∃ g, s.gang? (gangId c.who.bid c.who.gang) = some g) :
    ∃ gs, s.selectFrom core quad cs = { s with
      issue := some c.who
      turns := s.turns.erase (core * 5 + quad)
      gangs := gs } := by
  obtain ⟨g, hg⟩ := hg
  let s0 : State := { s with turns := s.turns.erase (core * 5 + quad) }
  obtain ⟨hoff, hrel⟩ := s0.starveOthers_spec (s.cands core quad) c.who
  obtain ⟨h, hh, -⟩ := hrel _ g hg
  obtain ⟨gs, hgs⟩ := State.choose_split hw hp hh (s.cycle core)
  refine ⟨gs, ?_⟩
  rw [State.selectFrom, ht, Bool.not_true, if_neg Bool.false_ne_true, Cand.first_eq_some hc hfirst]
  refine hgs.trans ?_
  rw [State.eq_of_offGangs hoff]

/-! ### The timeout of a joinw (R411) -/

/-- A record whose timer has run out: the lanes that have arrived are no longer expected. -/
def JoinRec.timedOut (r : JoinRec) : JoinRec :=
  { r with
    expect_ := r.expect_ &&& ~~~r.arrived
    arrived := 0
    wmask := 0
    wregs := []
    armed := false
    late := true }

/-- The flags that a timeout sets. -/
def JoinRec.lateFlags (r : JoinRec) : FlagWrites := (r.wregs.filter (fun w => r.wmask.getLsbD w.1)).map (fun w => (w.1, w.2, true))

theorem Tree.timeout_eq (t : Tree) (cyc : Nat) (r : JoinRec) : t.timeout cyc r =
    ((t.modRec r.id JoinRec.timedOut).addSplit 64 (Split.new r.outer r.arrived (r.jpc + 4) cyc), r.lateFlags) := rfl

/-- A record waits that expects lanes, some of which have not arrived, and that has no split of its own to dissolve into. -/
theorem Tree.fate_eq_wait {r : JoinRec} (he : r.expect_ ≠ 0) (hf : r.arrived ||| r.aside = r.expect_ → r.arrived = 0)
    (hd : r.late = true ∨ r.arrived ≠ 0) (t : Tree) : t.fate r = .wait := by
  rw [Tree.fate, if_neg he, if_neg (fun h => h.2 (hf h.1)), if_neg (fun h => ?_)]
  obtain ⟨hlate, harrived, -⟩ := h
  rcases hd with hd | hd
  · rw [hd] at hlate
    cases hlate
  · exact hd harrived

theorem Tree.settleAll_of_waiting {t : Tree} (h : ∀ p ∈ t.recs, t.fate p.2 = .wait) (cyc : Nat) : t.settleAll cyc = (t, []) := by
  have hnone : t.recs.find? (fun p => t.fate p.2 ≠ .wait) = none := List.find?_eq_none.mpr (fun p hp => by simp [h p hp])
  rw [Tree.settleAll, Tree.settle, hnone]

section OneRecord

variable {t : Tree} {r : JoinRec}

theorem Tree.recs_modRec {q : Nat} (h : t.recs = [(q, r)]) (f : JoinRec → JoinRec) : (t.modRec r.id f).recs = [(q, f r)] := by
  simp [Tree.modRec, h]

/-- The one record of a tree may change its place when room is made, and stays what it is. -/
theorem Tree.recs_move (h : t.recs.map Prod.snd = [r]) (src dst : Nat) : (t.move src dst).recs.map Prod.snd = [r] := by
  unfold Tree.move
  split
  · exact h
  · split
    · next x hx =>
      obtain ⟨e, he, rfl⟩ := List.map_eq_singleton_iff.mp h
      rw [he, Tab.look_cons] at hx
      split at hx
      · next hsrc => simp [he, Tab.del, Tab.put, hsrc, ← Option.some.inj hx]
      · cases hx
    · exact h

theorem Tree.recs_claim (h : t.recs.map Prod.snd = [r]) (keep : Nat) : (t.claim keep).2.recs.map Prod.snd = [r] := by
  unfold Tree.claim
  split
  · exact h
  · split
    · exact Tree.recs_move h _ _
    · exact h

end OneRecord

theorem Tree.look_addSplit (t : Tree) (keep : Nat) (x : Split) : ∃ k, Tab.look (t.addSplit keep x).splits k = some x :=
  ⟨(t.claim keep).1, Tab.look_put_self _ _ _⟩

/-- The lanes that arrived go on, and the record waits for the others. -/
theorem Tree.timeout_spec {t : Tree} {q : Nat} {r : JoinRec} (h : t.recs = [(q, r)]) (he : r.expect_ &&& ~~~r.arrived ≠ 0) (cyc : Nat) :
    ∃ u, t.timeout cyc r = (u, r.lateFlags) ∧ u.settleAll cyc = (u, []) ∧ u.recs.map Prod.snd = [r.timedOut] ∧
      ∃ k, Tab.look u.splits k = some (Split.new r.outer r.arrived (r.jpc + 4) cyc) := by
  have hrecs : ((t.modRec r.id JoinRec.timedOut).claim 64).2.recs.map Prod.snd = [r.timedOut] :=
    Tree.recs_claim (by rw [Tree.recs_modRec h]; rfl) 64
  refine ⟨_, Tree.timeout_eq t cyc r, Tree.settleAll_of_waiting (fun p hp => ?_) cyc, hrecs, Tree.look_addSplit _ 64 _⟩
  have hp : p.2 = r.timedOut := List.mem_singleton.mp (hrecs ▸ List.mem_map_of_mem hp)
  rw [hp]
  exact Tree.fate_eq_wait he (fun _ => rfl) (.inl rfl) _

/-! ### Flag registers (R404, R411) -/

/-- Where every write brings one value, a register written holds it. -/
theorem Gang.writes_regs_const {ws : List (Nat × Word)} {v : Word} (h : ∀ e ∈ ws, e.2 = v) {k : Nat} (hk : k ∈ ws.map Prod.fst) (g : Gang)
    (cyc : Nat) (lat : Option Nat) : Tab.getD (g.writes cyc lat ws).regs k 0 = v := by
  induction ws generalizing g with
  | nil => cases hk
  | cons e ws ih =>
    obtain ⟨x, w⟩ := e
    obtain ⟨rfl, hv⟩ := List.forall_mem_cons.mp h
    rw [Gang.writes]
    by_cases hmem : k ∈ ws.map Prod.fst
    · exact ih hv hmem _
    · have hx : k = x := (List.mem_cons.mp hk).resolve_right hmem
      rw [Gang.writes_regs_other _ _ _ _ _ (fun e he hek => hmem (List.mem_map.mpr ⟨e, he, hek⟩)), Gang.write_regs, if_pos hx.symm]

/-- Setting flags writes registers of the gang, and logs the errors overwritten in its core. -/
theorem State.setFlags_spec {s : State} {gid : Nat} {g : Gang} (hg : s.gang? gid = some g) (cyc : Nat) {ws : FlagWrites} {v : Bool}
    (hv : ∀ w ∈ ws, w.2.2 = v) : ∃ h, (s.setFlags gid cyc ws).gang? gid = some h ∧ h.tree = g.tree ∧
      (∀ w ∈ ws, ∀ p ∈ g.phys w.1, Tab.getD h.regs (vKey p w.2.1) 0 = Word.ofBool v) ∧
      (∀ c, ∃ n, (s.setFlags gid cyc ws).core c = { s.core c with laneDeath := n }) ∧
      s.setFlags gid cyc ws = { s with
        gangs := (s.setFlags gid cyc ws).gangs
        cores := (s.setFlags gid cyc ws).cores } := by
  unfold State.setFlags
  simp only [hg]
  generalize hl : ws.flatMap (fun w => (g.phys w.1).map (fun p => (vKey p w.2.1, Word.ofBool w.2.2))) = l
  have hmem : ∀ {e}, e ∈ l ↔ ∃ w ∈ ws, ∃ p ∈ g.phys w.1, (vKey p w.2.1, Word.ofBool w.2.2) = e := by
    simp [← hl, List.mem_flatMap, List.mem_map]
  refine ⟨g.writes cyc none l, ?_, ?_, fun w hw p hp => ?_, State.countLatent_core s gid _ _, ?_⟩
  · rw [State.writeRegs, State.gang?_modGang, if_pos rfl, State.countLatent_gang?, hg, Option.map_some]
  · obtain ⟨_, _, _, _, _, _, h⟩ := g.writes_frame l cyc none
    rw [h]
  · refine Gang.writes_regs_const (fun e he => ?_) (List.mem_map.mpr ⟨_, hmem.mpr ⟨w, hw, p, hp, rfl⟩, rfl⟩) g cyc none
    obtain ⟨w, hw, p, -, rfl⟩ := hmem.mp he
    rw [hv w hw]
  · rw [State.writeRegs, State.countLatent_rest]
    rfl

/-- A joinw timer that has run out: the gang's tree is `Tree.timeout`'s, and the flags are set. -/
theorem execJoinwTimeout_eq {s : State} {bid n q : Nat} {g : Gang} {b : Block} {r : JoinRec} {u : Tree}
    (hg : s.gang? (gangId bid n) = some g) (hb : s.block? bid = some b) (hr : g.tree.recs = [(q, r)]) (ha : r.armed = true)
    (ht : r.timer ≤ s.cycle b.core - r.armedAt) (hwait : g.tree.fate r = .wait)
    (hf : ((s.team? b.team).map Team.frozen).getD false = false) (hu : g.tree.timeout (s.cycle b.core) r = (u, r.lateFlags))
    (hsettle : u.settleAll (s.cycle b.core) = (u, [])) : exec (.joinwTimeout bid n q) s =
      .next ((s.modGang (gangId bid n) (fun x => { x with tree := u })).setFlags (gangId bid n) (s.cycle b.core) r.lateFlags) := by
  have hexec : exec (.joinwTimeout bid n q) s = execJoinwTimeout bid n q s := rfl
  have hlook : Tab.look g.tree.recs q = some r := by rw [hr, Tab.look_cons, if_pos rfl]
  rw [hexec, execJoinwTimeout]
  simp [hg, hb, hlook, ha, ht, hwait, hf, hu, hsettle]

end Sys2Proof.Machine
end

/-! Proofs/WriteBack.lean: an L1 whose dirty words go back to their homes leaves there what its core saw (R244, R248, R254, R255), and a line
brought to its home leaves memory alone (R242, R246). -/
section

namespace Sys2Proof.Machine

open Sys2Proof

/-! ### Bytes that may have no value -/

theorem isStashKey_eq_false_iff {a : Nat} : isStashKey a = false ↔ a < 2 ^ 60 := by
  rw [isStashKey, decide_eq_false_iff_not, Nat.not_le]

/-- A byte entered at an address, or its value forgotten. -/
def Memory.enter (m : List Host.Cell) (a : Nat) (o : Option Byte) : List Host.Cell :=
  match o with
  | some b => Memory.write m a b
  | none => Memory.erase m a

theorem Memory.byte?_enter {m : List Host.Cell} {a : Nat} (ha : a < 2 ^ 60) (o : Option Byte) (x : Nat) :
    Memory.byte? (Memory.enter m a o) x = if a = x then o else Memory.byte? m x := by
  cases o with
  | some b => exact Memory.byte?_write m a x b
  | none =>
    rw [Memory.enter, Memory.erase, Memory.byte?, Tab.look_del]
    by_cases h : a = x
    · subst h
      simp [isStashKey_eq_false_iff.mpr ha]
    · simp only [h, if_false, Memory.byte?]

/-- Consecutive bytes entered one after the other. -/
theorem Memory.byte?_enters (bs : List (Option Byte)) (m : List Host.Cell) {a k : Nat} (ha : a + k + bs.length ≤ 2 ^ 60)
    (x : Nat) : Memory.byte? ((bs.zipIdx k).foldl (fun m p => Memory.enter m (a + p.2) p.1) m) x =
      if a + k ≤ x ∧ x < a + k + bs.length then (bs[x - (a + k)]?).join else Memory.byte? m x := by
  induction bs generalizing m k with
  | nil => rw [if_neg (by rw [List.length_nil]; omega)]; rfl
  | cons o bs ih =>
    rw [List.length_cons] at ha ⊢
    rw [List.zipIdx_cons, List.foldl_cons, ih _ (k := k + 1) (by omega), Memory.byte?_enter (by dsimp only; omega)]
    by_cases hx : a + k = x
    · subst hx
      rw [if_neg (by omega), if_pos rfl, if_pos (by omega), Nat.sub_self]
      rfl
    · rw [if_neg hx]
      by_cases hin : a + (k + 1) ≤ x ∧ x < a + (k + 1) + bs.length
      · rw [if_pos hin, if_pos (by omega), show x - (a + k) = x - (a + (k + 1)) + 1 by omega, List.getElem?_cons_succ]
      · rw [if_neg hin, if_neg (by omega)]

/-! ### Dirty words that go to their homes (R244, R248, R254) -/

/-- A byte as it is behind a line: the line's own where its word is dirty there, else what the home holds. -/
def L1Line.over (x : L1Line) (a : Nat) (home : Option Byte) : Option Byte :=
  if a / 128 = x.line ∧ x.dirty.getLsbD (a / 4 % 32) = true then Tab.look x.bytes (a % 128) else home

theorem L1Line.over_of_clean {x : L1Line} {a : Nat} (h : x.dirty.getLsbD (a / 4 % 32) = false) (home : Option Byte) : x.over a home = home :=
  if_neg (fun c => Bool.false_ne_true (h.symm.trans c.2))

theorem L1Line.over_of_other {x : L1Line} {a : Nat} (h : x.line ≠ a / 128) (home : Option Byte) : x.over a home = home :=
  if_neg (fun c => h c.1.symm)

theorem State.line_of_l1Line {s : State} {core line : Nat} {x : L1Line} (h : s.l1Line core line = some x) : x.line = line :=
  of_decide_eq_true (List.find?_some h :)

theorem State.seen_of_absent {s : State} {core a : Nat} (h : s.l1Line core (a / 128) = none) : s.seen core a = Memory.byte? s.mem a := by
  rw [State.seen, h]

theorem State.seen_of_held {s : State} {core a : Nat} {x : L1Line} (h : s.l1Line core (a / 128) = some x) :
    s.seen core a = x.over a (Memory.byte? s.mem a) := by
  rw [State.seen, h, L1Line.over, State.line_of_l1Line h]
  simp only [true_and]

theorem State.homeBack_mem (s : State) (core w : Nat) (bs : List (Option Byte)) :
    (s.homeBack core w bs).mem = bs.zipIdx.foldl (fun m p => Memory.enter m (4 * w + p.2) p.1) s.mem := by
  unfold State.homeBack
  dsimp only
  rw [State.mem_of_offHomes (State.offHomes_unshare _ _), State.mem_of_offHomes (State.offHomes_clearPend _ _ _)]
  refine (List.foldl_hom State.mem (fun u p => ?_)).symm
  obtain ⟨o, k⟩ := p
  cases o <;> rfl

/-- A dirty word that goes back is found at its home. -/
theorem State.byte?_backWord {s : State} {x : L1Line} (hl : s.link ≠ .down) (hx : x.line * 128 < 2 ^ 60) (core : Nat) {i : Nat}
    (hi : i < 32) (a : Nat) : Memory.byte? (s.backWord core x i).mem a =
      if a / 128 = x.line ∧ a / 4 % 32 = i then Tab.look x.bytes (a % 128) else Memory.byte? s.mem a := by
  have hlink : (isCellar (x.line * 128) && decide (s.link = .down)) = false := by rw [decide_eq_false hl, Bool.and_false]
  rw [State.backWord, hlink, if_neg Bool.false_ne_true, State.homeBack_mem, Memory.byte?_enters _ _ (by simp; omega)]
  simp only [List.length_map, List.length_range, Nat.add_zero]
  by_cases h : a / 128 = x.line ∧ a / 4 % 32 = i
  · have hat : 4 * i + (a - 4 * (x.line * 32 + i)) = a % 128 := by omega
    have hlt : a - 4 * (x.line * 32 + i) < 4 := by omega
    rw [if_pos (by omega), if_pos h, List.getElem?_map, List.getElem?_range hlt, Option.map_some, hat]
    rfl
  · rw [if_neg (by omega), if_neg h]

theorem State.link_of_offMemory {s t : State} (h : t.offMemory = s.offMemory) : t.link = s.link := (congrArg State.link h :)

theorem State.byte?_backWords {s : State} {x : L1Line} (hl : s.link ≠ .down) (hx : x.line * 128 < 2 ^ 60) (core : Nat) {is : List Nat}
    (hi : ∀ i ∈ is, i < 32) (a : Nat) : Memory.byte? (is.foldl (fun t i => t.backWord core x i) s).mem a =
      if a / 128 = x.line ∧ a / 4 % 32 ∈ is then Tab.look x.bytes (a % 128) else Memory.byte? s.mem a := by
  induction is generalizing s with
  | nil => simp
  | cons i is ih =>
    obtain ⟨hi0, his⟩ := List.forall_mem_cons.mp hi
    have hlink : (s.backWord core x i).link ≠ .down := by rwa [State.link_of_offMemory (s.offMemory_backWord core x i)]
    rw [List.foldl_cons, ih hlink his, State.byte?_backWord hl hx core hi0]
    by_cases h1 : a / 128 = x.line <;> by_cases h2 : a / 4 % 32 ∈ is <;> simp [h1, h2]

/-- A line whose dirty words go back leaves what was behind it with them over it. -/
theorem State.byte?_backLine {s : State} {x : L1Line} (hl : s.link ≠ .down) (hx : x.line * 128 < 2 ^ 60) (core a : Nat) :
    Memory.byte? (s.backLine core x).mem a = x.over a (Memory.byte? s.mem a) := by
  have h := State.byte?_backWords hl hx core (is := lanesOf x.dirty) (fun i hi => (mem_lanesOf.mp hi).1) a
  have hmem : a / 4 % 32 ∈ lanesOf x.dirty ↔ x.dirty.getLsbD (a / 4 % 32) = true := by
    rw [mem_lanesOf]
    exact and_iff_right (Nat.mod_lt _ (by decide))
  simp only [hmem] at h
  exact h

/-! ### A line that is given up (R254) -/

@[simp] theorem State.offMemory_yieldL1 (s : State) (core a n : Nat) : (s.yieldL1 core a n).offMemory = s.offMemory := by
  unfold State.yieldL1
  split
  · rfl
  · split
    · unfold State.evictL1
      split
      · rfl
      · exact s.offMemory_backLine core _
    · rfl

/-- What a core saw of a line is at its home once its L1 has given the line up. -/
theorem State.byte?_yieldL1 {s : State} {core line j : Nat} (hl : s.link ≠ .down) (hx : line * 128 < 2 ^ 60) (hj : j < 128) :
    Memory.byte? (s.yieldL1 core (line * 128) 128).mem (line * 128 + j) = s.seen core (line * 128 + j) := by
  have hline : line * 128 / 128 = line := by omega
  have hat : (line * 128 + j) / 128 = line := by omega
  rw [State.yieldL1, hline]
  cases h : s.l1Line core line with
  | none => rw [State.seen_of_absent (by rwa [hat])]
  | some x =>
    rw [State.seen_of_held (by rwa [hat])]
    dsimp only
    split
    · rw [State.evictL1, h]
      exact State.byte?_backLine hl (by rwa [State.line_of_l1Line h]) core _
    · next hclean =>
      refine (L1Line.over_of_clean (Bool.eq_false_iff.mpr (fun hd => hclean (List.any_eq_true.mpr ⟨(line * 128 + j) / 4, ?_, hd⟩))) _).symm
      exact List.mem_map.mpr ⟨j / 4, List.mem_range.mpr (by omega), by omega⟩

/-! ### An L1 that is written back whole (R248, R255) -/

theorem State.byte?_backLines {s : State} {core : Nat} {l : List L1Line} (hl : s.link ≠ .down) (hd : (l.map L1Line.line).Nodup)
    (hg : ∀ x ∈ l, x.line * 128 < 2 ^ 60) (a : Nat) :
    Memory.byte? ((l.filter (fun x => x.dirty ≠ 0)).foldl (fun t x => t.backLine core x) s).mem a =
      match l.find? (fun x => x.line = a / 128) with
      | some x => x.over a (Memory.byte? s.mem a)
      | none => Memory.byte? s.mem a := by
  induction l generalizing s with
  | nil => rfl
  | cons x l ih =>
    obtain ⟨hx, hd⟩ := List.nodup_cons.mp hd
    obtain ⟨hgx, hg⟩ := List.forall_mem_cons.mp hg
    let t := if x.dirty ≠ 0 then s.backLine core x else s
    have hfold : ((x :: l).filter (fun x => x.dirty ≠ 0)).foldl (fun t x => t.backLine core x) s =
        (l.filter (fun x => x.dirty ≠ 0)).foldl (fun t x => t.backLine core x) t := by
      unfold t
      rw [List.filter_cons]
      by_cases h : x.dirty ≠ 0
      · rw [if_pos (decide_eq_true h), if_pos h, List.foldl_cons]
      · rw [if_neg (by rwa [decide_eq_true_eq]), if_neg h]
    have hlink : t.link ≠ .down := by
      unfold t
      split
      · rwa [State.link_of_offMemory (s.offMemory_backLine core x)]
      · exact hl
    have hbyte : Memory.byte? t.mem a = x.over a (Memory.byte? s.mem a) := by
      unfold t
      split
      · exact State.byte?_backLine hl hgx core a
      · next h => rw [L1Line.over_of_clean (by simp [not_not.mp h])]
    rw [hfold, ih hlink hd hg, hbyte]
    by_cases hline : x.line = a / 128
    · have hnone : l.find? (fun y => y.line = a / 128) = none := by
        refine List.find?_eq_none.mpr (fun y hy hya => hx (List.mem_map.mpr ⟨y, hy, ?_⟩))
        exact (of_decide_eq_true hya).trans hline.symm
      rw [List.find?_cons_of_pos (by simp [hline]), hnone]
    · rw [List.find?_cons_of_neg (by simp [hline]), L1Line.over_of_other hline]

/-- What a core saw is at its home once its L1 is written back. -/
theorem State.byte?_writeBackL1 {s : State} {core : Nat} (h : Orderly s core) (a : Nat) :
    Memory.byte? (s.writeBackL1 core).mem a = s.seen core a := by
  rw [State.writeBackL1, State.byte?_backLines h.linked h.distinct (fun x hx => isStashKey_eq_false_iff.mp (h.global x hx))]
  cases hl : s.l1Line core (a / 128) with
  | none => rw [State.seen_of_absent hl, show List.find? _ _ = none from hl]
  | some x => rw [State.seen_of_held hl, show List.find? _ _ = some x from hl]

theorem State.offMemory_drainCore (s : State) (core : Nat) : (s.drainCore core).offMemory = s.offMemory := s.offMemory_writeBackL1 core

theorem State.core_drainCore (s : State) (core : Nat) : ((s.drainCore core).core core).l1 = [] := by
  rw [State.drainCore, State.core_modCore, if_pos rfl]

/-- A core sees the same bytes after its L1 has been emptied (R248). -/
theorem State.seen_drainCore {s : State} {core : Nat} (h : Orderly s core) (a : Nat) : (s.drainCore core).seen core a = s.seen core a := by
  rw [State.seen_of_absent (by rw [State.l1Line, State.core_drainCore, List.find?_nil])]
  exact State.byte?_writeBackL1 h a

/-! ### A line that is brought to its home (R246, R269) -/

/-- A state without what home slices hold, what waits to reach them, and what set duelling counts. -/
def State.offFill (s : State) : State := { s.offHomes with
  selectors := []
  wants := [] }

theorem State.offFill_of_offHomes {s t : State} (h : t.offHomes = s.offHomes) : t.offFill = s.offFill := by
  rw [State.offFill, h, State.offFill]

@[simp] theorem State.offFill_perf (s : State) (k e n : Nat) : (s.perf k e n).offFill = s.offFill := rfl
@[simp] theorem State.offFill_fillIn (s : State) (l : Nat) : (s.fillIn l).offFill = s.offFill := rfl
@[simp] theorem State.offFill_unspillLine (s : State) (l : Nat) : (s.unspillLine l).offFill = s.offFill :=
  State.offFill_of_offHomes (s.offHomes_unspillLine l)

@[simp] theorem State.offFill_dropEntry (s : State) (key : Nat) (e : SliceEntry) : (s.dropEntry key e).offFill = s.offFill :=
  State.offFill_of_offHomes (State.offHomes_spillLines s e.lines)

@[simp] theorem State.offFill_duel (s : State) (asid hint line : Nat) : (s.duel asid hint line).offFill = s.offFill := by
  unfold State.duel
  dsimp only
  split
  · rfl
  · split
    · rfl
    · split <;> rfl

/-- Bringing a line into its slice changes what the homes hold, and no memory. -/
theorem State.fillHome_offFill {s t : State} {asid hint line : Nat} (h : s.fillHome asid hint line = some t) : t.offFill = s.offFill := by
  unfold State.fillHome at h
  extract_lets die moved at h
  have hmoved : ∀ u : State, (moved u).offFill = u.offFill := fun u => by
    unfold moved
    split <;> rfl
  clear_value moved
  have hmiss : ((s.duel asid hint line).perf die 6 1).offFill = s.offFill := by rw [State.offFill_perf, State.offFill_duel]
  split at h
  · rw [← Option.some.inj h, State.offFill_perf]
  split at h
  · cases h
  split at h
  · rw [← Option.some.inj h, State.offFill_fillIn, hmoved, hmiss]
  rename_i key s2 set young place _ _ _
  have h2 : s2.offFill = s.offFill := by
    unfold s2
    rw [hmoved, State.offFill_fillIn, State.offFill_unspillLine, hmiss]
  have hplace : ∀ u : State, (place u).offFill = u.offFill := fun _ => rfl
  clear_value s2 place
  split at h
  · rw [← Option.some.inj h, hplace, h2]
  split at h
  · rw [← Option.some.inj h]
    exact h2
  split at h
  · rw [← Option.some.inj h, hplace, State.offFill_dropEntry, h2]
  · cases h

/-- While no page migrates, a line made ready at its home leaves all else alone. -/
theorem State.atHome_offFill {s t : State} {asid hint line : Nat} (hm : ∀ m ∈ s.migrations, m.2.pulling = false)
    (h : s.atHome asid hint line = some t) : t.offFill = s.offFill := by
  unfold State.atHome at h
  split at h
  · cases h
  · obtain ⟨u, hu, rfl⟩ := Option.map_eq_some_iff.mp h
    have hoff := State.fillHome_offFill hu
    have hmig : u.migrations = s.migrations := (congrArg State.migrations hoff :)
    rw [State.pullFirst_of_settled (by rwa [hmig]), hoff]

/-! ### Bytes copied (R242) -/

/-- One byte of a copy. -/
def State.copyByte (s : State) (src dst i : Nat) : State :=
  match Memory.byte? s.mem (src + i) with
  | some b => { s with mem := Memory.write s.mem (dst + i) b }
  | none => { s with mem := if isStashKey (dst + i) then Memory.write s.mem (dst + i) (Config.freeByte s.serial ((src + i) * 64))
      else Memory.erase s.mem (dst + i) }

theorem State.copyBytes_succ (s : State) (src dst n : Nat) :
    s.copyBytes src dst (n + 1) = (s.copyBytes src dst n).copyByte src dst n := by
  rw [State.copyBytes, List.range_succ, List.foldl_append]
  rfl

theorem Memory.byte?_erase_other {m : List Host.Cell} {a x : Nat} (h : a ≠ x) : Memory.byte? (Memory.erase m a) x = Memory.byte? m x := by
  rw [Memory.erase, Memory.byte?, Tab.look_del, if_neg h, Memory.byte?]

theorem State.byte?_copyByte_other (s : State) (src : Nat) {dst i a : Nat} (h : a ≠ dst + i) :
    Memory.byte? (s.copyByte src dst i).mem a = Memory.byte? s.mem a := by
  unfold State.copyByte
  split
  · exact (Memory.byte?_write _ _ _ _).trans (if_neg h.symm)
  · dsimp only
    split
    · exact (Memory.byte?_write _ _ _ _).trans (if_neg h.symm)
    · exact Memory.byte?_erase_other h.symm

theorem State.byte?_copyByte_same {s : State} {src i : Nat} {b : Byte} (h : Memory.byte? s.mem (src + i) = some b) (dst : Nat) :
    Memory.byte? (s.copyByte src dst i).mem (dst + i) = some b := by
  rw [State.copyByte, h]
  exact (Memory.byte?_write _ _ _ _).trans (if_pos rfl)

theorem State.byte?_copyBytes_other (s : State) (src : Nat) {dst n a : Nat} (h : a < dst) :
    Memory.byte? (s.copyBytes src dst n).mem a = Memory.byte? s.mem a := by
  induction n with
  | zero => rfl
  | succ n ih => rw [State.copyBytes_succ, State.byte?_copyByte_other _ _ (by omega), ih]

/-- What is copied to a place behind it is found there. -/
theorem State.byte?_copyBytes {s : State} {src dst n j : Nat} {b : Byte} (h : src + n ≤ dst) (hj : j < n)
    (hb : Memory.byte? s.mem (src + j) = some b) : Memory.byte? (s.copyBytes src dst n).mem (dst + j) = some b := by
  induction n with
  | zero => cases hj
  | succ n ih =>
    rw [State.copyBytes_succ]
    rcases Nat.lt_succ_iff_lt_or_eq.mp hj with hj | rfl
    · rw [State.byte?_copyByte_other _ _ (by omega), ih (by omega) hj]
    · exact State.byte?_copyByte_same (by rwa [State.byte?_copyBytes_other _ _ (by omega)]) dst

end Sys2Proof.Machine
end

/-! Proofs/SplitEvents.lean: the events that come to splits and to mapped stash lines (R55, R242, R345, R411, R432). -/
section

namespace Sys2Proof.Machine

open Sys2Proof

/-! ### The joinw timeout (R411) -/

theorem execJoinwTimeout_effect {s : State} {bid n q : Nat} {g : Gang} {b : Block} {r : JoinRec}
    (hg : s.gang? (gangId bid n) = some g) (hb : s.block? bid = some b) (hr : g.tree.recs = [(q, r)]) (ha : r.armed = true)
    (ht : r.timer ≤ s.cycle b.core - r.armedAt) (hsome : r.arrived ≠ 0) (hleft : r.expect_ &&& ~~~r.arrived ≠ 0)
    (hopen : r.arrived ||| r.aside ≠ r.expect_) (hf : ((s.team? b.team).map Team.frozen).getD false = false) :
    ∃ t g' k x, exec (.joinwTimeout bid n q) s = .next t ∧ t.gang? (gangId bid n) = some g' ∧
      Tab.look g'.tree.splits k = some x ∧ x.mask = r.arrived ∧ x.pc = r.jpc + 4 ∧ x.rec_ = r.outer ∧ x.park = .ready ∧
      g'.tree.recs.map Prod.snd = [r.timedOut] ∧
      (∀ w ∈ r.wregs, r.wmask.getLsbD w.1 = true → ∀ p ∈ g.phys w.1, t.reg (gangId bid n) (vKey p w.2) = 1) ∧
      (∀ c, ∃ n, t.core c = { s.core c with laneDeath := n }) ∧ t = { s with gangs := t.gangs, cores := t.cores } := by
  have hexpect : r.expect_ ≠ 0 := fun h => hleft (by rw [h]; exact BitVec.zero_and)
  have hwait : g.tree.fate r = .wait := Tree.fate_eq_wait hexpect (fun h => absurd h hopen) (.inr hsome) _
  obtain ⟨u, htimeout, hsettle, hrecs, k, hk⟩ := Tree.timeout_spec hr hleft (s.cycle b.core)
  have hexec := execJoinwTimeout_eq hg hb hr ha ht hwait hf htimeout hsettle
  have hg1 : (s.modGang (gangId bid n) (fun x => { x with tree := u })).gang? (gangId bid n) = some { g with tree := u } := by
    rw [State.gang?_modGang_self, hg, Option.map_some]
  have hlate : ∀ w ∈ r.lateFlags, w.2.2 = true := fun w hw => by
    obtain ⟨e, -, rfl⟩ := List.mem_map.mp hw
    rfl
  obtain ⟨g', hg', htree, hflags, hcore, hrest⟩ := State.setFlags_spec hg1 (s.cycle b.core) hlate
  refine ⟨_, g', k, _, hexec, hg', by rw [htree]; exact hk, rfl, rfl, rfl, rfl, by rw [htree]; exact hrecs, fun w hw hm p hp => ?_, hcore, ?_⟩
  · rw [State.reg, hg']
    exact hflags (w.1, w.2, true) (List.mem_map.mpr ⟨w, List.mem_filter.mpr ⟨hw, hm⟩, rfl⟩) p hp
  · exact hrest

/-! ### The first-touch fill (R242, R432) -/

/-- A line of a block is there, and its fill is over. -/
def Block.filled (b : Block) (line : Nat) : Block :=
  { b with
    fills := b.fills.filter (· ≠ line)
    absent := b.absent.filter (· ≠ line) }

theorem execFirstTouchFill_eq {s s1 : State} {bid line pa : Nat} {b : Block} {e : MapEntry} (hb : s.block? bid = some b)
    (hf : line ∈ b.fills) (he : b.mapEntry (128 * line) = some e)
    (hpa : s.backPa (b.viewer true) (e.g + (128 * line - e.s)) = some pa) (h1 : s.atHome b.asid e.hint (pa / 128) = some s1) :
    exec (.firstTouchFill bid line) s = .next ((((s1.yieldL1 b.core (pa / 128 * 128) 128).copyBytes (pa / 128 * 128)
      (stashKey b.core (b.stashBase + 128 * line)) 128).modBlock bid (fun x => { x with fills := x.fills.filter (· ≠ line) })).modBlock bid
        (fun x => { x with absent := x.absent.filter (· ≠ line) })) := by
  have hexec : exec (.firstTouchFill bid line) s = execFirstTouchFill bid line s := rfl
  rw [hexec, execFirstTouchFill]
  simp [hb, hf, he, hpa, h1]

theorem State.seen_congr {s t : State} (hc : t.cores = s.cores) (hm : t.mem = s.mem) (core a : Nat) : t.seen core a = s.seen core a := by
  simp only [State.seen, State.l1Line, State.core, hc, hm]

theorem execFirstTouchFill_effect {s s1 : State} {bid line pa : Nat} {b : Block} {e : MapEntry} (hb : s.block? bid = some b)
    (hf : line ∈ b.fills) (he : b.mapEntry (128 * line) = some e)
    (hpa : s.backPa (b.viewer true) (e.g + (128 * line - e.s)) = some pa) (hglobal : isStashKey pa = false)
    (h1 : s.atHome b.asid e.hint (pa / 128) = some s1) (ho : Orderly s b.core) :
    ∃ t, exec (.firstTouchFill bid line) s = .next t ∧ t.block? bid = some (b.filled line) ∧
      ∀ j < 128, ∀ x, s.seen b.core (pa / 128 * 128 + j) = some x →
        Memory.byte? t.mem (stashKey b.core (b.stashBase + 128 * line) + j) = some x := by
  have hoff : s1.offFill = s.offFill := State.atHome_offFill ho.still h1
  have hmem : s1.mem = s.mem := (congrArg State.mem hoff :)
  have hcores : s1.cores = s.cores := (congrArg State.cores hoff :)
  have hlink : s1.link = s.link := (congrArg State.link hoff :)
  have hblocks : s1.blocks = s.blocks := (congrArg State.blocks hoff :)
  have hline : pa / 128 * 128 + 128 ≤ 2 ^ 60 := by
    have := isStashKey_eq_false_iff.mp hglobal
    omega
  refine ⟨_, execFirstTouchFill_eq hb hf he hpa h1, ?_, fun j hj x hx => ?_⟩
  · have hb2 : ((s1.yieldL1 b.core (pa / 128 * 128) 128).copyBytes (pa / 128 * 128) (stashKey b.core (b.stashBase + 128 * line)) 128).block?
        bid = some b := by
      rw [State.block?, State.blocks_of_offMemory ((State.offMemory_copyBytes _ _ _ _).trans (State.offMemory_yieldL1 _ _ _ _)), hblocks]
      exact hb
    rw [State.block?_modBlock, if_pos rfl, State.block?_modBlock, if_pos rfl, hb2]
    rfl
  · rw [State.modBlock_mem, State.modBlock_mem]
    refine State.byte?_copyBytes ?_ hj ?_
    · rw [stashKey]
      omega
    · rw [State.byte?_yieldL1 (by rw [hlink]; exact ho.linked) (by omega) hj, State.seen_congr hcores hmem]
      exact hx

/-- Settles O34, event by event: a quad's turn, a starved split's turn, the timeout of a joinw and a first-touch fill. -/
theorem splitEvents : Obligations.SplitEvents := by
  refine fun s => ⟨fun core quad c p ht hw hp hg => ⟨fun hc hfirst => ?_, fun hc hstarve hfirst => ?_⟩, ?_, ?_⟩
  · obtain ⟨gs, hsel⟩ := State.selectFrom_split ht hc hfirst hw hp hg
    exact ⟨_, congrArg Host.Outcome.next hsel, rfl, rfl, rfl⟩
  · have hstarved : ∀ {x : Cand}, x.starved = true ↔ 1024 ≤ x.starve := decide_eq_true_iff
    have hmem : c ∈ (s.selectable core quad).filter Cand.starved := List.mem_filter.mpr ⟨hc, hstarved.mpr hstarve⟩
    have hless : ∀ x ∈ (s.selectable core quad).filter Cand.starved, x = c ∨ keyLess c.key x.key = true := fun x hx => by
      obtain ⟨hx, hxs⟩ := List.mem_filter.mp hx
      rcases hfirst x hx with h | h | h | h
      · exact .inl h
      · exact absurd h (Nat.not_lt.mpr (hstarved.mp hxs))
      · exact .inr (Cand.key_less_of_starved (hstarved.mpr hstarve) hxs (.inl h))
      · exact .inr (Cand.key_less_of_starved (hstarved.mpr hstarve) hxs (.inr h))
    obtain ⟨gs, hsel⟩ := State.selectFrom_split ht hmem hless hw hp hg
    refine ⟨_, congrArg Host.Outcome.next ((if_neg ?_).trans hsel), rfl, rfl⟩
    rw [List.isEmpty_iff]
    exact List.ne_nil_of_mem hmem
  · exact fun bid n q g b r hg hb hr ha ht hsome hleft hopen _ hf =>
      execJoinwTimeout_effect hg hb hr ha ht hsome hleft hopen hf
  · intro bid line pa b e s1 hb hf he hpa hglobal h1 ho
    obtain ⟨t, hexec, hblock, hbytes⟩ := execFirstTouchFill_effect hb hf he hpa hglobal h1 ho
    refine ⟨t, b.filled line, hexec, hblock, ?_, ?_, fun l hl => ?_, hbytes⟩
    · simp [Block.filled]
    · simp [Block.filled]
    · simp [Block.filled, hl]

end Sys2Proof.Machine
end

/-! Proofs/Blocks.lean: how packets become teams, and how blocks are placed, staged, started and ended (R45 to R47, R235, R248, R335 to
R340). -/
section

namespace Sys2Proof.Machine

open Sys2Proof

/-! ### Taking a packet (R335, R337) -/

/-- While no page migrates, the read of an image leaves a state as it is. -/
theorem State.pullImage_of_settled {s : State} (h : ∀ m ∈ s.migrations, m.2.pulling = false) (asid : Nat) (p : Launch) :
    s.pullImage asid p = s := by
  unfold State.pullImage State.pullVirt
  split
  · rfl
  · refine foldl_fixed (fun c _ => ?_)
    split
    · split
      · exact State.pullFirst_of_settled h _
      · rfl
    · rfl

theorem execSchedulerTake_eq {s : State} {q tid asid : Nat} {ws : List Word} {rest : List (Nat × List Word)} (hq : s.nextQueue = some q)
    (hp : (s.queue q).packets = (tid, ws) :: rest) (ha : (s.queue q).bound = some asid) (hr : s.rejectReason asid (launchOf ws) = none)
    (hb : (launchOf ws).blocks ≠ 0) (hc : (launchOf ws).cores = 0) (hm : ∀ m ∈ s.migrations, m.2.pulling = false)
    (hw : s.imageWaits asid (launchOf ws) = false) : exec .schedulerTake s = .next (State.popPacket { s with
      lastQueue := if q = 127 then s.lastQueue else Tab.put s.lastQueue (launchOf ws).prio q
      teams := Tab.put s.teams tid (Team.fresh tid asid q ws s.serial) } q tid) := by
  have hexec : exec .schedulerTake s = execSchedulerTake s := rfl
  rw [hexec, execSchedulerTake]
  simp only [hq, hp, ha, hw, hr, hb, hc, State.pullImage_of_settled hm, Bool.false_eq_true, if_false, if_true, ne_eq, not_true, decide_false]
  rfl

theorem execSchedulerTake_effect {s : State} {q tid asid : Nat} {ws : List Word} {rest : List (Nat × List Word)} (hq : s.nextQueue = some q)
    (hq' : q ≠ 127) (hp : (s.queue q).packets = (tid, ws) :: rest) (ha : (s.queue q).bound = some asid)
    (hr : s.rejectReason asid (launchOf ws) = none) (hb : (launchOf ws).blocks ≠ 0) (hc : (launchOf ws).cores = 0)
    (hm : ∀ m ∈ s.migrations, m.2.pulling = false) (hw : s.imageWaits asid (launchOf ws) = false) :
    ∃ t x, exec .schedulerTake s = .next t ∧ (t.queue q).packets = rest ∧ t.team? tid = some x ∧ x.packet = ws ∧ x.asid = asid ∧
      x.queue = q ∧ x.state = .live ∧ x.nextBlock = 0 ∧ x.ended = 0 ∧ Tab.look t.lastQueue (launchOf ws).prio = some q ∧
      t.gangs = s.gangs ∧ t.blocks = s.blocks ∧ t.mem = s.mem := by
  refine ⟨_, Team.fresh tid asid q ws s.serial, execSchedulerTake_eq hq hp ha hr hb hc hm hw, ?_, Tab.look_put_self _ _ _, rfl, rfl, rfl, rfl,
    rfl, rfl, ?_, rfl, rfl, rfl⟩
  · rw [State.popPacket, State.queue_modQueue, if_pos rfl]
    have hpop : (s.queue q).packets.eraseP (fun e => e.1 = tid) = rest := by rw [hp, List.eraseP_cons_of_pos (by simp)]
    exact hpop
  · show Tab.look (if q = 127 then _ else _) _ = _
    rw [if_neg hq', Tab.look_put_self]

/-! ### Placing a block (R45, R46, R248, R340) -/

/-- A change of every core that a core at reset does not feel. -/
theorem State.core_map (s : State) {f : Core → Core} (hf : f Core.reset = Core.reset) (c : Nat) :
    State.core { s with cores := s.cores.map (fun (e : Nat × Core) => (e.1, f e.2)) } c = f (s.core c) := by
  simp only [State.core, Tab.getD, Tab.look_map_val (fun _ => f)]
  cases Tab.look s.cores c with
  | none => exact hf.symm
  | some k => rfl

/-- A core whose L1 lines forget who has touched them keeps its boundaries. -/
theorem State.core_forgetSeen (s : State) (slot c : Nat) : ∃ l, (s.forgetSeen slot).core c = { s.core c with l1 := l } :=
  ⟨_, s.core_map (f := fun c => { c with l1 := c.l1.map (fun x => { x with seen := x.seen.filter (fun q => q.1 ≠ slot) }) }) rfl c⟩

theorem State.core_openSlot (s : State) (slot c : Nat) : ∃ l, (s.openSlot slot).core c = { s.core c with l1 := l } :=
  s.core_forgetSeen slot c

theorem State.board_openSlot (s : State) (slot : Nat) : ((s.openSlot slot).board slot).state = 1 ∧ ((s.openSlot slot).board slot).interval = 0 := by
  rw [State.openSlot, State.board_modBoard, if_pos rfl]
  exact ⟨rfl, rfl⟩

/-- A core with the boundaries of a launch: its own where they are those, else set once its L1 has been emptied (R248). -/
def State.bounded (s : State) (p : Launch) (core : Nat) : State :=
  if (s.core core).bndreg = p.breg && (s.core core).bndstash = p.bstash && (s.core core).bndcache = p.bcache then s
  else (s.drainCore core).modCore core (fun x => { x with bndreg := p.breg, bndstash := p.bstash, bndcache := p.bcache })

theorem State.offMemory_bounded (s : State) (p : Launch) (core : Nat) : (s.bounded p core).offMemory = s.offMemory := by
  unfold State.bounded
  split
  · rfl
  · exact s.offMemory_drainCore core

theorem State.core_bounded (s : State) (p : Launch) (core : Nat) : ((s.bounded p core).core core).bndreg = p.breg ∧
    ((s.bounded p core).core core).bndstash = p.bstash ∧ ((s.bounded p core).core core).bndcache = p.bcache := by
  unfold State.bounded
  split
  · next h =>
    simp only [Bool.and_eq_true, decide_eq_true_eq] at h
    exact ⟨h.1.1, h.1.2, h.2⟩
  · rw [State.core_modCore, if_pos rfl]
    exact ⟨rfl, rfl, rfl⟩

/-- A block as it stands in its place before it starts. -/
def Block.placed (s : State) (t : Team) (p : Launch) (slot index core base : Nat) : Block :=
  { Block.fresh s.nextBid slot core index t.tid t.asid false p.gangs p.regBytes base p.stash p.window with started := false }

theorem State.placeBlock_spec {s : State} {slot : Nat} (h : s.freeSlot = some slot) (t : Team) (p : Launch) (index core base : Nat) :
    (s.placeBlock t p index core base).block? s.nextBid = some (Block.placed s t p slot index core base) ∧
      (s.placeBlock t p index core base).nextBid = s.nextBid + 1 ∧
      (∀ k, (s.placeBlock t p index core base).board k = ((s.bounded p core).openSlot slot).board k) ∧
      (∀ k, (s.placeBlock t p index core base).core k = ((s.bounded p core).openSlot slot).core k) ∧
      (s.placeBlock t p index core base).gangs = s.gangs := by
  have hgangs : (s.bounded p core).gangs = s.gangs := State.gangs_of_offMemory (s.offMemory_bounded p core)
  unfold State.placeBlock
  split
  · next hfree => rw [h] at hfree; cases hfree
  next free hfree =>
  obtain rfl : slot = free := Option.some.inj (h.symm.trans hfree)
  extract_lets c s1 s2 b
  have h1 : s1 = s.bounded p core := rfl
  clear_value s1
  subst h1
  exact ⟨Tab.look_put_self _ _ _, rfl, fun _ => rfl, fun _ => rfl, hgangs⟩

/-- A team of which one more block has a place. -/
def Team.placedOne (t x : Team) : Team :=
  { x with
    nextBlock := if t.requeued.isEmpty then t.nextBlock + 1 else t.nextBlock
    requeued := t.requeued.tail
    waited := false
    chosen := [] }

theorem execBlockPlace_eq {s : State} {tid core base : Nat} {x : Team} (hx : s.team? tid = some x) (hw : x.waited = false)
    (hp : s.placement x = some [(core, base)]) (ho : s.outranked x = false) : exec (.blockPlace tid) s =
      .next ((s.placeBlock x (launchOf x.packet) x.nextIndex core base).modTeam tid (Team.placedOne x)) := by
  have hexec : exec (.blockPlace tid) s = execBlockPlace tid s := rfl
  rw [hexec, execBlockPlace]
  simp only [hx, hp, ho, hw, Bool.false_eq_true, if_false]
  rfl

theorem execBlockPlace_effect {s : State} {tid core base slot : Nat} {x : Team} (hx : s.team? tid = some x) (htid : x.tid = tid)
    (hw : x.waited = false) (hp : s.placement x = some [(core, base)]) (ho : s.outranked x = false) (hslot : s.freeSlot = some slot) :
    let p := launchOf x.packet
    ∃ t b, exec (.blockPlace tid) s = .next t ∧ t.block? s.nextBid = some b ∧ b.slot = slot ∧ b.core = core ∧ b.index = x.nextIndex ∧
      b.team = tid ∧ b.asid = x.asid ∧ b.stashBase = base ∧ b.stashNeed = p.stash ∧ b.started = false ∧ t.nextBid = s.nextBid + 1 ∧
      (∃ y, t.team? tid = some y ∧ y.requeued = x.requeued.tail ∧
        y.nextBlock = if x.requeued = [] then x.nextBlock + 1 else x.nextBlock) ∧ (t.board slot).state = 1 ∧ (t.board slot).interval = 0 ∧
      (t.core core).bndreg = p.breg ∧ (t.core core).bndstash = p.bstash ∧ (t.core core).bndcache = p.bcache ∧ t.gangs = s.gangs := by
  intro p
  obtain ⟨hblock, hnext, hboard, hcore, hgangs⟩ := State.placeBlock_spec hslot x (launchOf x.packet) x.nextIndex core base
  obtain ⟨hstate, hinterval⟩ := (s.bounded p core).board_openSlot slot
  obtain ⟨l, hl⟩ := (s.bounded p core).core_openSlot slot core
  obtain ⟨hreg, hstash, hcache⟩ := s.core_bounded p core
  rw [← hboard] at hstate hinterval
  rw [← hcore] at hl
  have hteam : (s.placeBlock x (launchOf x.packet) x.nextIndex core base).team? tid = some x := by
    rw [State.team?, State.placeBlock_teams]
    exact hx
  have hexec := execBlockPlace_eq hx hw hp ho
  generalize s.placeBlock x (launchOf x.packet) x.nextIndex core base = u at *
  refine ⟨_, _, hexec, hblock, rfl, rfl, rfl, htid, rfl, rfl, rfl, rfl, hnext,
    ⟨_, State.team?_modTeam_some hteam _, rfl, ?_⟩, hstate, hinterval, ?_, ?_, ?_, hgangs⟩
  · simp only [Team.placedOne, List.isEmpty_iff]
  · exact (congrArg Core.bndreg hl).trans hreg
  · exact (congrArg Core.bndstash hl).trans hstash
  · exact (congrArg Core.bndcache hl).trans hcache

/-! ### Emptying a core and staging a context (R235, R248) -/

theorem State.discardAt_of_none {s : State} {core : Nat} (h : (s.core core).cupboard = none) : s.discardAt core = s := by
  rw [State.discardAt, h]

theorem State.mem_residents {s : State} {core : Nat} {b : Block} :
    b ∈ s.residents core ↔ (∃ k, (k, b) ∈ s.blocks) ∧ b.core = core ∧ b.handler = false := by
  simp [State.residents, and_assoc]

theorem State.residents_of_handlers {s : State} {core : Nat} (h : ∀ e ∈ s.blocks, e.2.core = core → e.2.handler = true) :
    s.residents core = [] := by
  refine List.eq_nil_iff_forall_not_mem.mpr (fun b hb => ?_)
  obtain ⟨⟨k, hk⟩, hcore, hhandler⟩ := State.mem_residents.mp hb
  rw [h _ hk hcore] at hhandler
  cases hhandler

theorem execBoundaryDrain_eq {s : State} {core : Nat} (h : ∀ e ∈ s.blocks, e.2.core = core → e.2.handler = true)
    (hc : (s.core core).cupboard = none) : exec (.boundaryDrain core) s = .next (s.drainCore core) := by
  have hexec : exec (.boundaryDrain core) s = execBoundaryDrain core s := rfl
  rw [hexec, execBoundaryDrain, State.discardAt_of_none hc, State.residents_of_handlers h, hc]
  rfl

theorem execContextStage_eq {s : State} {core bid : Nat} {bs : List Byte} {x : Block} {y : Team} (hn : s.nextImage core bid = some bs)
    (hc : (s.core core).cupboard = none) (hx : x ∈ s.residents core) (hy : s.team? x.team = some y) (hs : y.state = .saving)
    (hl : bs.length ≤ 0x40000 - (s.core core).bndcache) (hw : s.nextWaits bid = false) :
    exec (.contextStage core bid) s = .next (s.modCore core (fun c => { c with cupboard := some (bid, bs) })) := by
  have hexec : exec (.contextStage core bid) s = execContextStage core bid s := rfl
  have hsaving : (s.residents core).any (fun x => decide (((s.team? x.team).map Team.state) = some .saving)) = true :=
    List.any_eq_true.mpr ⟨x, hx, by rw [hy, Option.map_some, hs]; rfl⟩
  rw [hexec, execContextStage, State.discardAt_of_none hc]
  simp only [hsaving, hc, hw, hn, hl, Option.isSome_none, Bool.not_true, Bool.or_self, Bool.false_eq_true, if_false, if_true]

/-! ### Starting a block (R46, R235) -/

theorem State.staged_unstage (s : State) (core bid : Nat) : (s.unstage bid).staged core bid = none := by
  have hfilter : ∀ o : Option (Nat × List Byte), (o.filter (fun e => e.1 ≠ bid)).filter (fun e => e.1 = bid) = none := fun o => by
    cases o with
    | none => rfl
    | some e => by_cases h : e.1 = bid <;> simp [Option.filter, h]
  have hcore : (s.unstage bid).core core = { s.core core with cupboard := (s.core core).cupboard.filter (fun e => e.1 ≠ bid) } :=
    s.core_map (f := fun c => { c with cupboard := c.cupboard.filter (fun e => e.1 ≠ bid) }) rfl core
  rw [State.staged, hcore, hfilter, Option.map_none]

/-- The stash of a block that starts is zero (R239), and other memory is as it was. -/
theorem State.byte?_clearStash (s : State) (b : Block) (a : Nat) : Memory.byte? (s.clearStash b).mem a =
    if stashKey b.core b.stashBase ≤ a ∧ a < stashKey b.core b.stashBase + b.stashNeed then some 0 else Memory.byte? s.mem a := by
  let p := fun (a : Nat) => decide (a < stashKey b.core b.stashBase) || decide (stashKey b.core b.stashBase + b.stashNeed ≤ a)
  have hmem : (s.clearStash b).mem = s.mem.filter (fun c => p c.1) := rfl
  rw [hmem]
  split
  · next h =>
    rw [Memory.byte?_filter_out _ _ _ (by simp [p]; omega), if_pos]
    have := h.1
    simp only [isStashKey, stashKey, decide_eq_true_eq] at this ⊢
    omega
  · next h => rw [Memory.byte?_filter_key _ _ _ (by simp [p]; omega)]

/-- A state in which a placed block has started with the sections of its image. -/
def State.started (s : State) (b : Block) (p : Launch) (xs : List Section) (bid : Nat) : State :=
  let s1 := (s.clearStash b).modBlock bid (fun x => { x with started := true })
  State.unstage { s1 with
    gangs := p.gangs.foldl (fun gs n => Tab.put gs (gangId bid n) (startGang bid n b.index p xs (s.cycle b.core))) s1.gangs } bid

theorem execBlockStart_eq {s : State} {bid : Nat} {b : Block} {x : Team} {bs : List Byte} {xs : List Section} (hb : s.block? bid = some b)
    (hx : s.team? b.team = some x) (hs : b.started = false) (hl : x.state = .live) (hg : x.begun = true)
    (hbs : s.staged b.core bid = some bs ∨ s.staged b.core bid = none ∧ s.launchBytes x.asid (launchOf x.packet) = some bs ∧
      s.imageWaits x.asid (launchOf x.packet) = false ∧ ∀ m ∈ s.migrations, m.2.pulling = false)
    (hxs : launchSections (launchOf x.packet) bs = some xs) :
    exec (.blockStart bid) s = .next (s.started b (launchOf x.packet) xs bid) := by
  have hexec : exec (.blockStart bid) s = execBlockStart bid s := rfl
  rw [hexec, execBlockStart]
  rcases hbs with hbs | ⟨hnone, hbs, hw, hm⟩
  · simp [hb, hx, hs, hl, hg, hbs, hxs, State.started]
  · simp [hb, hx, hs, hl, hg, hnone, hbs, hw, hxs, State.pullImage_of_settled hm, State.started]

theorem State.started_spec {s : State} {bid : Nat} {b : Block} {p : Launch} (hb : s.block? bid = some b) (hd : p.gangs.Nodup)
    (xs : List Section) : (s.started b p xs bid).block? bid = some { b with started := true } ∧
      (s.started b p xs bid).staged b.core bid = none ∧
      (∀ n ∈ p.gangs, (s.started b p xs bid).gang? (gangId bid n) = some (startGang bid n b.index p xs (s.cycle b.core))) ∧
      (s.started b p xs bid).mem = (s.clearStash b).mem := by
  refine ⟨?_, State.staged_unstage _ _ _, fun n hn => ?_, rfl⟩
  · have h := State.block?_modBlock (s.clearStash b) bid bid (fun x => { x with started := true })
    rw [if_pos rfl, show (s.clearStash b).block? bid = some b from hb, Option.map_some] at h
    exact h
  · exact Tab.look_foldl_put (gangId bid) (fun n => startGang bid n b.index p xs (s.cycle b.core))
      (hd.map (gangId_injective bid)) _ hn

/-! ### Ending a block (R47, R339) -/

/-- A slot that is given back is free, or in retirement while side-band records name it (R271, R272). -/
theorem State.board_removeBlock (s : State) (b : Block) :
    ((s.removeBlock b).board b.slot).state = if (s.board b.slot).attic = 0 then 0 else 3 := by
  rw [State.removeBlock, State.retireSlot, State.board_modBoard, if_pos rfl]
  rfl

theorem execBlockEnd_eq {s : State} {bid : Nat} {b : Block} {x : Team} (hb : s.block? bid = some b) (hbid : b.bid = bid)
    (hx : s.team? b.team = some x) (hdone : s.blockDone b = true) (hl : x.state = .live) (hd : b.dirty = []) (hq : x.queue ≠ 128)
    (hleft : x.ended + 1 < (launchOf x.packet).blocks) : exec (.blockEnd bid) s =
      .next ((s.removeBlock b).modTeam b.team (fun x => { x with ended := satAdd 24 x.ended 1 })) := by
  have hexec : exec (.blockEnd bid) s = execBlockEnd bid s := rfl
  have hsettle : s.settleMapped b = (s, true) := State.settleMapped_of_clean (by rwa [hbid]) hd
  rw [hexec, execBlockEnd]
  simp [hb, hx, hdone, hl, hsettle, hq, Nat.not_le.mpr hleft]

theorem execBlockEnd_effect {s : State} {bid : Nat} {b : Block} {x : Team} (hb : s.block? bid = some b) (hbid : b.bid = bid)
    (hx : s.team? b.team = some x) (hdone : s.blockDone b = true) (hl : x.state = .live) (hd : b.dirty = []) (hq : x.queue ≠ 128)
    (hleft : x.ended + 1 < (launchOf x.packet).blocks) (hmax : x.ended + 1 < 2 ^ 24) :
    ∃ t y, exec (.blockEnd bid) s = .next t ∧ Gone t [b] ∧ t.team? b.team = some y ∧ y.ended = x.ended + 1 ∧
      ((t.board b.slot).state = if (s.board b.slot).attic = 0 then 0 else 3) ∧
      (∀ k, k ≠ bid → t.block? k = s.block? k) ∧ t.mem = s.mem := by
  have hteam : (s.removeBlock b).team? b.team = some x := hx
  refine ⟨_, _, execBlockEnd_eq hb hbid hx hdone hl hd hq hleft, fun c hc => ?_, State.team?_modTeam_some hteam _, ?_,
    s.board_removeBlock b, fun k hk => ?_, rfl⟩
  · rw [List.mem_singleton.mp hc]
    exact s.removeBlock_goneAt b
  · exact Nat.min_eq_left (by omega)
  · exact (Tab.look_del _ _ _).trans (if_neg (by rw [hbid]; exact hk.symm))

/-- Settles O45, event by event: the scheduler's take, a block's place, an empty core, a staged context, a block's start and its end. -/
theorem blockLives : Obligations.BlockLives := by
  refine fun s => ⟨?_, ?_, ?_, ?_, ?_, ?_⟩
  · exact fun q tid ws rest asid hq hq' hp ha hr hb hc hm hw => execSchedulerTake_effect hq hq' hp ha hr hb hc hm hw
  · exact fun tid x core base slot hx htid _ hw hp ho hslot => execBlockPlace_effect hx htid hw hp ho hslot
  · exact fun core h hc ho => ⟨_, execBoundaryDrain_eq h hc, s.core_drainCore core, State.seen_drainCore ho,
      State.gangs_of_offMemory (s.offMemory_drainCore core)⟩
  · intro core bid bs x y hn hc hx hcore hh hy hs hl hw
    refine ⟨_, execContextStage_eq hn hc (State.mem_residents.mpr ⟨hx, hcore, hh⟩) hy hs hl hw, ?_, rfl⟩
    rw [State.core_modCore, if_pos rfl]
  · intro bid b x bs xs hb hx hs hl hg p hbs hxs hd _
    obtain ⟨hblock, hstaged, hgangs, hmem⟩ := State.started_spec hb hd xs
    have hbyte := s.byte?_clearStash b
    refine ⟨_, _, execBlockStart_eq hb hx hs hl hg hbs hxs, hblock, rfl, hstaged, fun n hn => ?_, fun o ho => ?_, fun a ha => ?_⟩
    · exact ⟨_, hgangs n hn, rfl, rfl, rfl, rfl, rfl, rfl, rfl, rfl, rfl, rfl, rfl, rfl, rfl, rfl, rfl, rfl, _, rfl, rfl, rfl, rfl, rfl⟩
    · rw [hmem, hbyte, if_pos]
      simp only [stashKey]
      omega
    · rw [hmem, hbyte, if_neg]
      rintro ⟨hlo, hhi⟩
      refine ha (a - stashKey b.core b.stashBase) (by omega) ?_
      simp only [stashKey] at hlo ⊢
      omega
  · exact fun bid b x hb hbid hx hdone hl hd hq hleft hmax => execBlockEnd_effect hb hbid hx hdone hl hd hq hleft hmax

end Sys2Proof.Machine
end

/-! Proofs/Encoding.lean: words and instructions stand for each other, one to one (R64 to R76). -/
section

namespace Sys2Proof

theorem encode_isSome (i : Instr) : (encode i).isSome = !i.isEvent := by
  cases i <;> rfl

theorem isEvent_eq_false_iff (i : Instr) : i.isEvent = false ↔ ∃ w lit, encode i = some (w, lit) := by
  rw [← Bool.not_eq_true', ← encode_isSome, Option.isSome_iff_exists, Prod.exists]

theorem encode_of_isEvent {i : Instr} (h : i.isEvent = true) : encode i = none := by
  rw [← Option.not_isSome_iff_eq_none, encode_isSome, h]
  exact Bool.false_ne_true

end Sys2Proof

namespace Sys2Proof.Laws.RoundTrip

/-- The lemmas of Laws/PerInstr.lean, one for each instruction, cover every row that has a word. -/
theorem statement_of_instr (i : Instr) : Statement i := by
  cases i with
  | add d a b => exact add d a b | sub d a b => exact sub d a b | mul d a b => exact mul d a b | mulhiI32 d a b => exact mulhiI32 d a b
  | mulhiN32 d a b => exact mulhiN32 d a b | mad d a b => exact mad d a b | addI64 d a b => exact addI64 d a b
  | subI64 d a b => exact subI64 d a b | mulwI32 d a b => exact mulwI32 d a b | mulwN32 d a b => exact mulwN32 d a b
  | minI32 d a b => exact minI32 d a b | maxI32 d a b => exact maxI32 d a b | minN32 d a b => exact minN32 d a b
  | maxN32 d a b => exact maxN32 d a b | addi d imm => exact addi d imm | ldi d imm => exact ldi d imm | and d a b => exact and d a b
  | or d a b => exact or d a b | xor d a b => exact xor d a b | andn d a b => exact andn d a b | shl d a b => exact shl d a b
  | shrN32 d a b => exact shrN32 d a b | shrI32 d a b => exact shrI32 d a b | shli d a imm => exact shli d a imm
  | shriN32 d a imm => exact shriN32 d a imm | shriI32 d a imm => exact shriI32 d a imm | bfeN32 d a b => exact bfeN32 d a b
  | bfeI32 d a b => exact bfeI32 d a b | bfi d a b => exact bfi d a b | popc d a => exact popc d a | clz d a => exact clz d a
  | brev d a => exact brev d a | uAdd d a b => exact uAdd d a b | uSub d a b => exact uSub d a b | uMul d a b => exact uMul d a b
  | uMulhiI32 d a b => exact uMulhiI32 d a b | uMulhiN32 d a b => exact uMulhiN32 d a b | uMad d a b => exact uMad d a b
  | uAddI64 d a b => exact uAddI64 d a b | uSubI64 d a b => exact uSubI64 d a b | uMulwI32 d a b => exact uMulwI32 d a b
  | uMulwN32 d a b => exact uMulwN32 d a b | uMinI32 d a b => exact uMinI32 d a b | uMaxI32 d a b => exact uMaxI32 d a b
  | uMinN32 d a b => exact uMinN32 d a b | uMaxN32 d a b => exact uMaxN32 d a b | uAddi d imm => exact uAddi d imm
  | uLdi d imm => exact uLdi d imm | uAnd d a b => exact uAnd d a b | uOr d a b => exact uOr d a b | uXor d a b => exact uXor d a b
  | uAndn d a b => exact uAndn d a b | uShl d a b => exact uShl d a b | uShrN32 d a b => exact uShrN32 d a b
  | uShrI32 d a b => exact uShrI32 d a b | uShli d a imm => exact uShli d a imm | uShriN32 d a imm => exact uShriN32 d a imm
  | uShriI32 d a imm => exact uShriI32 d a imm | uBfeN32 d a b => exact uBfeN32 d a b | uBfeI32 d a b => exact uBfeI32 d a b
  | uBfi d a b => exact uBfi d a b | uPopc d a => exact uPopc d a | uClz d a => exact uClz d a | uBrev d a => exact uBrev d a
  | seteq d a b => exact seteq d a b | setne d a b => exact setne d a b | setltI32 d a b => exact setltI32 d a b
  | setleI32 d a b => exact setleI32 d a b | setltN32 d a b => exact setltN32 d a b | setleN32 d a b => exact setleN32 d a b
  | setltI64 d a b => exact setltI64 d a b | seteqI64 d a b => exact seteqI64 d a b | xchAt d a b => exact xchAt d a b
  | xchBelow d a b => exact xchBelow d a b | xchAbove d a b => exact xchAbove d a b | xchMirror d a b => exact xchMirror d a b
  | vmask d a => exact vmask d a | vgroup d a => exact vgroup d a | lred d a imm => exact lred d a imm
  | faddF32 d a b => exact faddF32 d a b | fsubF32 d a b => exact fsubF32 d a b | fmulF32 d a b => exact fmulF32 d a b
  | ffmaF32 d a b => exact ffmaF32 d a b | fminF32 d a b => exact fminF32 d a b | fmaxF32 d a b => exact fmaxF32 d a b
  | fdivF32 d a b => exact fdivF32 d a b | fsqrtF32 d a => exact fsqrtF32 d a | fseteqF32 d a b => exact fseteqF32 d a b
  | fsetltF32 d a b => exact fsetltF32 d a b | fsetleF32 d a b => exact fsetleF32 d a b | fsetunF32 d a b => exact fsetunF32 d a b
  | faddiF32 d imm => exact faddiF32 d imm | fmuliF32 d imm => exact fmuliF32 d imm | fclassF32 d a => exact fclassF32 d a
  | fnmaF32 d a b => exact fnmaF32 d a b | faddF64 d a b => exact faddF64 d a b | fsubF64 d a b => exact fsubF64 d a b
  | fmulF64 d a b => exact fmulF64 d a b | ffmaF64 d a b => exact ffmaF64 d a b | fminF64 d a b => exact fminF64 d a b
  | fmaxF64 d a b => exact fmaxF64 d a b | fdivF64 d a b => exact fdivF64 d a b | fsqrtF64 d a => exact fsqrtF64 d a
  | fseteqF64 d a b => exact fseteqF64 d a b | fsetltF64 d a b => exact fsetltF64 d a b | fsetleF64 d a b => exact fsetleF64 d a b
  | fsetunF64 d a b => exact fsetunF64 d a b | faddiF64 d imm => exact faddiF64 d imm | fmuliF64 d imm => exact fmuliF64 d imm
  | fclassF64 d a => exact fclassF64 d a | fnmaF64 d a b => exact fnmaF64 d a b | haddF16x2 d a b => exact haddF16x2 d a b
  | hmulF16x2 d a b => exact hmulF16x2 d a b | hfmaF16x2 d a b => exact hfmaF16x2 d a b | haddBf16x2 d a b => exact haddBf16x2 d a b
  | hmulBf16x2 d a b => exact hmulBf16x2 d a b | hfmaBf16x2 d a b => exact hfmaBf16x2 d a b
  | cvt d a ovr rm conv => exact cvt d a ovr rm conv | qbx d a ovr rm len16 bx4 => exact qbx d a ovr rm len16 bx4
  | frcpF32 d a => exact frcpF32 d a | frsqF32 d a => exact frsqF32 d a | fexp2F32 d a => exact fexp2F32 d a
  | flog2F32 d a => exact flog2F32 d a | fsinF32 d a => exact fsinF32 d a | fcosF32 d a => exact fcosF32 d a
  | frcpF64 d a => exact frcpF64 d a | frsqF64 d a => exact frsqF64 d a | ld d a acc => exact ld d a acc | st d a acc => exact st d a acc
  | lda d a b acc => exact lda d a b acc | atom d a b acc => exact atom d a b acc | cas d a b acc => exact cas d a b acc
  | cas2 d a b acc => exact cas2 d a b acc | pf a acc => exact pf a acc | evict a acc => exact evict a acc | mov d b => exact mov d b
  | movI64 d b => exact movI64 d b | movx d a b => exact movx d a b | movxr d a b => exact movxr d a b | sel d a b => exact sel d a b
  | sread d imm => exact sread d imm | swrite d imm => exact swrite d imm | movh d imm => exact movh d imm | bra t j => exact bra t j
  | brx x a b => exact brx x a b | call t l => exact call t l | ret a => exact ret a | join => exact join
  | joinw d imm => exact joinw d imm | yield => exact yield | exit => exact exit | trap imm => exact trap imm | brk imm => exact brk imm
  | emsave d => exact emsave d | emset a => exact emset a | barInit d a b => exact barInit d a b
  | barArrive d a b => exact barArrive d a b | barWait d a b => exact barWait d a b | fence scope => exact fence scope
  | uIsplit => exact uIsplit | waitc d imm => exact waitc d imm | uWaitring d a b => exact uWaitring d a b
  | barSync d a b => exact barSync d a b | uRecruit d a => exact uRecruit d a | uHloop d a b => exact uHloop d a b
  | uHjoin d a b => exact uHjoin d a b | uHrel => exact uHrel | setshape d a => exact setshape d a | mma d a b => exact mma d a b
  | mgath d a => exact mgath d a | mdrain d a clear recomp => exact mdrain d a clear recomp | mzero d a b => exact mzero d a b
  | tld d a acc => exact tld d a acc | tst d a b acc => exact tst d a b acc | cksum d b => exact cksum d b | ckchk d => exact ckchk d
  | ckinj d a b => exact ckinj d a b | copy d a b => exact copy d a b | copyTile d a b => exact copyTile d a b
  | copyGath d a b => exact copyGath d a b | copyScat d a b => exact copyScat d a b | copyRed d a b => exact copyRed d a b
  | copyConv d a b => exact copyConv d a b | launch d a b => exact launch d a b | amsend d a b => exact amsend d a b
  | trctl on => exact trctl on | trmark imm => exact trmark imm | uLd d a acc => exact uLd d a acc | uSt d a acc => exact uSt d a acc
  | uAtom d a b acc => exact uAtom d a b acc | smap a b acc => exact smap a b acc | sunmap acc => exact sunmap acc
  | sflush acc => exact sflush acc | uCas d a b acc => exact uCas d a b acc | tretRetry => exact tretRetry | tretSkip => exact tretSkip
  | tretEnd => exact tretEnd | locq d a => exact locq d a | tlbinvPage a b => exact tlbinvPage a b | tlbinvAsid b => exact tlbinvAsid b
  | tlbinvAll => exact tlbinvAll | asidset d a b => exact asidset d a b | mgate d a => exact mgate d a | cntrd d imm => exact cntrd d imm
  | cntset d imm => exact cntset d imm | nop => exact nop | sleep imm => exact sleep imm
  | _ =>
    intro w lit h
    rw [encode_of_isEvent rfl] at h
    contradiction

end Sys2Proof.Laws.RoundTrip

namespace Sys2Proof

theorem Instr.literalOk_of_wellFormed {i : Instr} (h : i.wellFormed = true) : i.literalOk = true :=
  (Bool.and_eq_true_iff.mp h).1

theorem decodeSlot_encode {i : Instr} {w : Word} {lit : Lit} (h : i.wellFormed = true) (he : encode i = some (w, lit)) :
    decodeSlot w lit = .ok i :=
  Laws.RoundTrip.statement_of_instr i w lit he (Instr.literalOk_of_wellFormed h)

/-- Two well-formed instructions with one word are what that word decodes to. -/
theorem encode_inj {i j : Instr} {w : Word} {lit : Lit} (hi : i.wellFormed = true) (hj : j.wellFormed = true)
    (hei : encode i = some (w, lit)) (hej : encode j = some (w, lit)) : i = j :=
  Except.ok.inj ((decodeSlot_encode hi hei).symm.trans (decodeSlot_encode hj hej))

/-- Settles O57: decoding an encoding, by the form of the row, gives the rest. -/
theorem roundTrip : Obligations.RoundTrip :=
  ⟨fun _ _ _ => decodeSlot_encode, isEvent_eq_false_iff, fun _ _ _ _ => encode_inj⟩

/-- Settles O56: the decoder is run on each word. -/
theorem decodeWords : Obligations.DecodeWords :=
  ⟨rfl, rfl, rfl, rfl, rfl, rfl, rfl, rfl, rfl, rfl, rfl, rfl, rfl, ⟨_, rfl⟩, _, rfl⟩

end Sys2Proof
end

/-! Proofs/Issue.lean: instructions that only move their issuer on or hold it back (R69 to R71, R377, R414, R446). -/
section

namespace Sys2Proof.Machine

open Sys2Proof

/-! ### One split changed after another -/

theorem Tab.put_put {α : Type} (t : Tab α) (x : Nat) (u v : α) : Tab.put (Tab.put t x u) x v = Tab.put t x v := by
  induction t with
  | nil => simp [Tab.put]
  | cons e t ih =>
    obtain ⟨k, w⟩ := e
    rcases Nat.lt_trichotomy x k with h | rfl | h
    · simp [Tab.put, h]
    · simp [Tab.put]
    · simp [Tab.put, Nat.not_lt_of_gt h, Nat.ne_of_gt h, ih]

theorem Tab.modify_modify {α : Type} (t : Tab α) (x : Nat) (f h : α → α) :
    Tab.modify (Tab.modify t x f) x h = Tab.modify t x (fun v => h (f v)) := by
  cases hx : Tab.look t x with
  | none => simp [Tab.modify, hx]
  | some v => simp [Tab.modify, hx, Tab.put_put]

theorem State.modSplit_modSplit (s : State) (gid place : Nat) (f h : Split → Split) :
    (s.modSplit gid place f).modSplit gid place h = s.modSplit gid place (fun x => h (f x)) := by
  simp only [State.modSplit, State.modGang, Tree.modSplit, Tab.modify_modify]

theorem State.gang?_modSplit (s : State) (gid place : Nat) (f : Split → Split) :
    (s.modSplit gid place f).gang? gid = (s.gang? gid).map (fun g => { g with tree := g.tree.modSplit place f }) :=
  s.gang?_modGang_self ..

theorem State.gang?_modSplit_other (s : State) {gid k : Nat} (hk : k ≠ gid) (place : Nat) (f : Split → Split) :
    (s.modSplit gid place f).gang? k = s.gang? k := by
  rw [State.modSplit, State.gang?_modGang, if_neg hk.symm]

/-! ### Moving on and pausing (R69, R414, R446) -/

/-- A change of the issuer's gang that keeps its registers and leaves the issuer at a PC, and nothing else. -/
theorem OnlyRegs.modGang {cx : Cx} {s : State} (hg : s.gang? cx.gid = some cx.g) {f : Gang → Gang} {pc : Dword}
    (hf : GangFrame cx.g [] (f cx.g)) (hpc : StandsAt cx cx.g (f cx.g) pc) : OnlyRegs cx s (s.modGang cx.gid f) cx.g [] pc := by
  refine ⟨⟨f cx.g, ?_, hf, hpc⟩, fun k hk => ?_, fun c => ⟨_, rfl⟩, rfl⟩
  · rw [State.gang?_modGang_self, hg, Option.map_some]
  · rw [State.gang?_modGang, if_neg hk.symm]

theorem OnlyRegs.finish {cx : Cx} {s : State} (hg : s.gang? cx.gid = some cx.g) : OnlyRegs cx s (cx.finish s) cx.g [] cx.next := by
  rw [Cx.finish_eq]
  exact OnlyRegs.modGang hg (cx.moveGang_frame ..) (cx.moveGang_moved ..)

/-- The issuing split of a yield: at the next instruction, silent in the next cycle, and of the age of that cycle's end. -/
def Cx.yielded (cx : Cx) (x : Split) : Split :=
  { x with
    pc := cx.next
    readyAt := max cx.ready (cx.cyc + 2)
    again := false
    packet := stay x.pc x.packet cx.next
    since := cx.cyc + 2 }

theorem Cx.yields_eq {cx : Cx} (h : cx.index = 0) (s : State) : cx.yields s = s.modSplit cx.gid cx.place cx.yielded := by
  rw [Cx.yields, Cx.move, if_pos h, State.modSplit_modSplit]
  rfl

theorem OnlyRegs.yields {cx : Cx} {s : State} (hg : s.gang? cx.gid = some cx.g) (h : cx.index = 0) :
    OnlyRegs cx s (cx.yields s) cx.g [] cx.next := by
  rw [Cx.yields_eq h]
  refine OnlyRegs.modGang hg ⟨rfl, fun _ _ => rfl, by simp, by simp [vNumbers], by simp [vNumbers]⟩
    ⟨fun _ => ⟨rfl, fun x hx => ⟨cx.yielded x, ?_, rfl, rfl, rfl, rfl⟩⟩, fun hne => absurd h hne, fun q hq => ?_, rfl, rfl, rfl⟩
  · rw [Tree.modSplit, Tab.look_modify, if_pos rfl, hx, Option.map_some]
  · rw [Tree.modSplit, Tab.look_modify, if_neg (hq.resolve_right (not_not_intro h)).symm]

theorem exec_nop {cx : Cx} {s : State} (h : Clear .nop cx s) : exec .nop s = .next (cx.finish s) := run_clear h _

theorem exec_sleep_eq_run (n : BitVec 16) (s : State) : exec (.sleep n) s =
    run (.sleep n) s (fun cx u => if n = 0 then cx.yields u else cx.park u (.sleep (u.clock + n.toNat * 64))) := rfl

theorem exec_yield {i : Instr} {cx : Cx} {s : State} (hi : i = .yield ∨ i = .sleep 0) (h : Clear i cx s) :
    exec i s = .next (cx.yields s) := by
  rcases hi with rfl | rfl
  · exact run_clear h _
  · rw [exec_sleep_eq_run, run_clear h, if_pos rfl]

theorem exec_sleep {n : BitVec 16} {cx : Cx} {s : State} (hn : n ≠ 0) (hi : cx.index = 0) (h : Clear (.sleep n) cx s) :
    exec (.sleep n) s = .next (s.modSplit cx.gid cx.place (fun x => { x with park := .sleep (s.clock + 64 * n.toNat) })) := by
  rw [exec_sleep_eq_run, run_clear h, if_neg hn, Cx.park, if_pos hi, Nat.mul_comm]

/-- Settles O16: nop finishes, yield and sleep 0 give the turn away, and any other sleep only parks. -/
theorem pauses : Obligations.Pauses := by
  refine fun cx s => ⟨fun h => ?_, fun i x hi h h0 hx => ?_, fun n x hn h h0 hx => ?_⟩
  · exact ⟨_, exec_nop h, OnlyRegs.finish (cxOf_gang h.issued)⟩
  · have hg := cxOf_gang h.issued
    refine ⟨_, { cx.g with tree := cx.g.tree.modSplit cx.place cx.yielded }, cx.yielded x, exec_yield hi h, OnlyRegs.yields hg h0, ?_, ?_,
      rfl, Nat.le_max_right _ _, rfl⟩
    · rw [Cx.yields_eq h0, State.gang?_modSplit, hg, Option.map_some]
    · rw [Tree.modSplit, Tab.look_modify, if_pos rfl, hx, Option.map_some]
  · refine ⟨_, cx.g.tree.modSplit cx.place (fun x => { x with park := .sleep (s.clock + 64 * n.toNat) }), exec_sleep hn h0 h,
      ⟨?_, fun k hk => s.gang?_modSplit_other hk _ _, rfl⟩, rfl, fun p => ?_⟩
    · rw [State.gang?_modSplit, cxOf_gang h.issued, Option.map_some]
    · rw [Tree.modSplit, Tab.look_modify]
      by_cases hp : p = cx.place
      · rw [if_pos hp, if_pos hp.symm, hp, hx, Option.map_some]
      · rw [if_neg hp, if_neg (Ne.symm hp)]

/-! ### No lane performs (R70, R71, R377) -/

theorem Idle.hindrance {i : Instr} {cx : Cx} {s : State} (h : Idle i cx s) (hr : i.runsEmpty = false) :
    hindrance i cx s = some .skip := by
  rw [h.toValid.hindrance, h.legal]
  cases hs : i.silent
  · simp [h.noLane, h.settled hs, h.agreed hs, hr]
  · simp [h.noLane]

/-- What no lane performs still takes a held matrix fault where its predicate lies in a block of the failed operation (R377). -/
theorem exec_of_idle {i : Instr} {cx : Cx} {s : State} (hi : i.isEvent = false) (hr : i.runsEmpty = false) (h : Idle i cx s) :
    exec i s = .next (match cx.heldMatrix s i with
      | some x => cx.fault (s.modGang cx.gid (fun g => { g with heldMatrix := g.heldMatrix.erase x })) x.cause cx.g.live x.addr.toNat x.info.toNat
      | none => cx.finish s) := by
  obtain ⟨body, hbody⟩ := exec_eq_run hi
  have hload : cx.heldLda i = none := by rw [Cx.heldLda, if_pos h.noLane]
  have hcopy : cx.heldCopy i = none := by simp [Cx.heldCopy, h.noLane]
  rw [hbody]
  simp only [run, h.issued, h.hindrance hr, Cx.takeHeld, hload, hcopy]
  cases cx.heldMatrix s i <;> rfl

/-- Where it takes none, it only moves its issuer on. -/
theorem onlyRegs_of_idle {i : Instr} {cx : Cx} {s : State} (hi : i.isEvent = false) (hr : i.runsEmpty = false) (h : Idle i cx s)
    (hm : cx.heldMatrix s i = none) : ∃ t, exec i s = .next t ∧ OnlyRegs cx s t cx.g [] cx.next := by
  refine ⟨cx.finish s, ?_, OnlyRegs.finish (cxOf_gang h.issued)⟩
  rw [exec_of_idle hi hr h, hm]

theorem GangFrame.tcause_eq {g g' : Gang} {ks : List Nat} (h : GangFrame g ks g') : g'.tcause = g.tcause := by
  rw [h.1]

/-- add v4, v6, v8 under the predicate v0, which is false in every lane. -/
def unperformed : Packet := ⟨0x10000, 0x0000C030, 0x00040608, 0xF7000000, 0xF7000000⟩

/-- A matrix gang whose split stands at that instruction, and which holds a fault (cause 0x18) of a matrix operation that had v0 to v7. -/
def failedGang : Gang :=
  { Gang.fresh 0 0 1 256 false false false 0x10004 0 0 0 with
    tree := (Tree.start (lowMask 32) 0x10004 0).modSplit 0 (fun x => { x with packet := some unperformed })
    heldMatrix := [⟨0x18, 0, 0, 0, [(0, 8)]⟩] }

def failedS : State := { State.reset.placeWord 32 0x00040608 with gangs := [(0, failedGang)] }

def failedCx : Cx where
  bid := 0
  gid := 0
  core := 0
  asid := 0
  g := failedGang
  b := Block.fresh 0 0 0 0 0 0 false [0] 32768 0 0 false
  place := 0
  body := none
  index := 0
  hlane := 0
  pc := 0x10004
  kind := unperformed.kind
  ctl := 0
  active := lowMask 32
  perform := 0
  cyc := 0
  lat := (Instr.add 4 6 (.reg 8)).latency

theorem failed_idle : Idle (.add 4 6 (.reg 8)) failedCx failedS where
  issued := by decide +kernel
  wellFormed := rfl
  inBudget := by decide +kernel
  inBody := rfl
  inHandler := by decide
  returning := by decide
  unpredicated := by decide
  placed := rfl
  inBlock := rfl
  free := by decide +kernel
  sound := by decide +kernel
  legal := rfl
  settled := fun _ => by decide +kernel
  agreed := fun _ => by decide +kernel
  noLane := rfl

theorem failed_cause : ((failedCx.fault (failedS.modGang 0 (fun g => { g with heldMatrix := [] })) 0x18 failedGang.live 0 0).gang? 0).map
    Gang.tcause = some 0x18 := by decide +kernel

/-- Refutes O10: the predicate is a register of a failed matrix operation, so the gang takes the held fault though no lane performs (R377). -/
theorem not_predicatedOff : ¬ Obligations.PredicatedOff := by
  intro h
  obtain ⟨t, ht, ⟨g, hg, hframe, -⟩, -⟩ := h _ failedCx failedS rfl rfl failed_idle
  have hheld : failedCx.heldMatrix failedS (.add 4 6 (.reg 8)) = some ⟨0x18, 0, 0, 0, [(0, 8)]⟩ := by decide +kernel
  rw [exec_of_idle rfl rfl failed_idle, hheld] at ht
  obtain rfl := Host.Outcome.next.inj ht
  have htaken : g.tcause = 0x18 := Option.some.inj ((congrArg (Option.map Gang.tcause) hg).symm.trans failed_cause)
  exact absurd (htaken.symm.trans hframe.tcause_eq) (by decide)

end Sys2Proof.Machine
end

/-! Proofs/Fetch.lean: a split whose packet lies in a stack that is being retrained runs nothing (R68, R86, R465). -/
section

namespace Sys2Proof.Machine

open Sys2Proof

theorem State.enter_of_lineWaits {s : State} {u : Issue} {place : Nat} {g : Gang} {b : Block} {x : Split} (hw : u.who = .split place)
    (hg : s.gang? (gangId u.bid u.gang) = some g) (hb : s.block? u.bid = some b) (hx : Tab.look g.tree.splits place = some x)
    (hp : x.packet = none) (hl : (s.fetchLines ⟨b.asid, b.core, b.bid, g.system⟩ x.pc).any s.lineWaits = true) :
    s.enter u = .stopped s := by
  simp only [State.enter, hg, hb, hw, hx, hp, hl, Option.map_some, if_true]

theorem step_of_stopped {s t : State} {u : Issue} (hi : s.issue = some u) (he : s.counted.enter u = .stopped t) :
    step s = .next t.unissue := by
  have hu : s.counted.issue = some u := hi
  simp only [step, hu, issueStep, he]

theorem cxOf_split {i : Instr} {s : State} {bid n place : Nat} {g : Gang} {b : Block} {x : Split} {p : Packet}
    (hi : s.issue = some ⟨bid, n, .split place⟩) (hg : s.gang? (gangId bid n) = some g) (hb : s.block? bid = some b)
    (hx : Tab.look g.tree.splits place = some x) (hp : x.packet = some p) :
    cxOf i s = some ⟨bid, gangId bid n, b.core, b.asid, g, b, place, g.bodyOf x.mask, 0, 0, x.pc, p.kind, p.ctl (pcSlot x.pc), x.mask,
      g.performing s i (s.cycle b.core) (p.ctl (pcSlot x.pc)) x.mask, s.cycle b.core, i.latency⟩ := by
  simp only [cxOf, hi, hg, hb, hx, hp, Option.map_some]

/-- Under PRED 48 an instruction that is performed once is performed by every active lane (R65, R71). -/
theorem Gang.performing_always (g : Gang) (s : State) {i : Instr} (cyc : Nat) {ctl : Nat} {active : Mask} (hi : i.perLane = false)
    (hp : ctlPred ctl = 48) (hn : ctlNeg ctl = false) (ha : active ≠ 0) : g.performing s i cyc ctl active = active := by
  have htrue : g.predicate s cyc ctl (g.prime (lowLane active)) = true := by simp [Gang.predicate, hp, hn]
  rw [Gang.performing, if_neg (ne_true_of_eq_false hi), htrue, Bool.and_true, if_pos (decide_eq_true ha)]

theorem Gang.bodyOf_of_no_recruits (g : Gang) (h : g.recruits = []) (m : Mask) : g.bodyOf m = none := by
  unfold Gang.bodyOf
  split
  · rw [h]; rfl
  · rfl

/-- A compute gang that is neither checked nor protected, lends no helpers, and holds no fault, no error and no load. -/
structure Gang.Plain (g : Gang) : Prop where
  role : g.role = 0
  check : g.check = false
  prot : g.prot = false
  bad : g.bad = []
  ldas : g.ldas = []
  heldMatrix : g.heldMatrix = []
  recruits : g.recruits = []

theorem clear_nop {cx : Cx} {s : State} (hc : cxOf .nop s = some cx) (hp : cx.perform ≠ 0) (hbody : cx.body = none) (hg : cx.g.Plain) :
    Clear .nop cx s where
  issued := hc
  wellFormed := rfl
  inBudget := rfl
  inBody := by simp [Cx.bodyBreach, hbody]
  inHandler := nofun
  returning := nofun
  unpredicated := nofun
  placed := rfl
  inBlock := rfl
  free := by simp [Cx.interlocked, hg.role]
  sound := by simp [Cx.deadReads, hg.bad]
  performed := hp
  legal := rfl
  role := rfl
  settled := fun _ => by simp [Cx.tooEarly, Cx.early, hg.check]
  level := nofun
  agreed := fun _ => by simp [Cx.predicateSplit, hg.prot]
  noHeldLoad := by simp [Cx.heldLda, hg.ldas]
  noHeldMatrix := by simp [Cx.heldMatrix, hg.heldMatrix]
  noHeldCopy := by simp [Cx.heldCopy, Instr.copies, Instr.barriers, Instr.isWaitring, Instr.waitsOn, Instr.bounds, Instr.leaves]
  noWait := nofun

/-- Under PRED 48 a nop moves the split of such a gang to the next slot. -/
theorem exec_nop_moves {s : State} {bid n place : Nat} {g : Gang} {b : Block} {x : Split} {p : Packet}
    (hi : s.issue = some ⟨bid, n, .split place⟩) (hg : s.gang? (gangId bid n) = some g) (hb : s.block? bid = some b)
    (hx : Tab.look g.tree.splits place = some x) (hp : x.packet = some p) (hplain : g.Plain) (hmask : x.mask ≠ 0)
    (hpred : ctlPred (p.ctl (pcSlot x.pc)) = 48) (hneg : ctlNeg (p.ctl (pcSlot x.pc)) = false) :
    ∃ t g' y, exec .nop s = .next t ∧ t.gang? (gangId bid n) = some g' ∧ Tab.look g'.tree.splits place = some y ∧
      y.pc = nextPc p.kind x.pc := by
  have hperform := g.performing_always s (i := .nop) (s.cycle b.core) rfl hpred hneg hmask
  have hclear := clear_nop (cxOf_split hi hg hb hx hp) (ne_of_eq_of_ne hperform hmask)
    (g.bodyOf_of_no_recruits hplain.recruits _) hplain
  obtain ⟨t, ht, ⟨g', hg', -, hplace, -⟩, -⟩ := (pauses _ s).1 hclear
  obtain ⟨-, hmoved⟩ := hplace rfl
  obtain ⟨y, hy, hpc, -⟩ := hmoved x hx
  exact ⟨t, g', y, ht, hg', hy, hpc⟩

/-- A gang at 0x10004 that has not entered its packet yet, which lies at 0x30_0000 in stack 0; that stack is being retrained. -/
def retrainedS : State := { State.reset.placeWord 32 0xF7000000 with hbm := [(0, { Stack.reset with retraining := true })] }

def retrainedGang : Gang := Gang.fresh 0 0 0 256 false false false 0x10004 0 0 0

def retrainedBlock : Block := Block.fresh 0 0 0 0 0 0 false [0] 32768 0 0 false

/-- The packet: three nops. -/
def threeNops : Packet := ⟨0x10000, 0x0300C030, 0xF7000000, 0xF7000000, 0xF7000000⟩

theorem retrained_waits : (retrainedS.counted.fetchLines ⟨0, 0, 0, false⟩ 0x10004).any retrainedS.counted.lineWaits = true := by decide +kernel

theorem retrained_step : step retrainedS = .next retrainedS.counted.unissue :=
  step_of_stopped rfl (State.enter_of_lineWaits (b := retrainedBlock) (g := retrainedGang) rfl rfl rfl rfl rfl retrained_waits)

/-- Refutes O58: while the stack of its packet is retrained a split cannot enter it (R465), and the step leaves it where it stands. -/
theorem not_stepRunsDecoded : ¬ Obligations.StepRunsDecoded := by
  intro h
  obtain ⟨u, ⟨hnext, -, -⟩, ⟨-, -, hu⟩, -, tr, hgang, -, hlook⟩ := (h.1 retrainedS 0 0 0 retrainedGang
    retrainedBlock (Split.new 0 (lowMask 32) 0x10004 0) .nop rfl rfl rfl rfl rfl).2 0x300000 0 0 threeNops
    rfl (by decide +kernel) (by decide) (by decide) (by decide) (by decide) (by decide +kernel) (by decide +kernel) (by decide +kernel)
    (by decide +kernel) (by decide) (by decide) (by decide) (by decide) (by decide) (by decide)
  have hissue : u.issue = some ⟨0, 0, .split 0⟩ := by rw [hu]; rfl
  have hblock : u.block? 0 = some retrainedBlock := by rw [hu]; rfl
  obtain ⟨t, g, y, ht, hg, hy, hpc⟩ := exec_nop_moves hissue hgang hblock (hlook 0) rfl ⟨rfl, rfl, rfl, rfl, rfl, rfl, rfl⟩
    (show lowMask 32 ≠ 0 by decide) rfl rfl
  have hstep := Host.Outcome.next.inj ((hnext t ht).symm.trans retrained_step)
  have hstays : t.gang? 0 = some retrainedGang := congrArg (fun r : State => r.gang? 0) hstep
  obtain rfl := Option.some.inj (hg.symm.trans hstays)
  obtain rfl := Option.some.inj hy
  exact absurd hpc (by decide)

end Sys2Proof.Machine
end

/-! Proofs/Float.lean: floating-point instructions, conversions and block quantisation all run the one floating-point operation, so they
complete or trap as it does (R110, R111, R169 to R190). -/
section

namespace Sys2Proof.Machine

open Sys2Proof

/-- The instruction runs the shared floating-point operation on the computation c, and its first operand is c's destination: a register, a
pair or a quad. -/
structure RunsFloat (i : Instr) (c : FCalc) : Prop where
  exec_eq : ∀ s, exec i s = fpOp i c.d c.w s c.f
  dest : ∃ reads us, i.regs = ⟨c.d, c.w, reads, true⟩ :: us
  width : c.w = 1 ∨ c.w = 2 ∨ c.w = 4

/-- The destination of a clear instruction lies within the register codes. -/
theorem RunsFloat.fits {i : Instr} {c : FCalc} {cx : Cx} {s : State} (hf : RunsFloat i c) (h : Clear i cx s) : c.d.toNat + c.w ≤ 256 := by
  obtain ⟨reads, us, hregs⟩ := hf.dest
  exact h.fits (u := ⟨c.d, c.w, reads, true⟩) (hregs ▸ List.mem_cons_self) hf.width

/-- A conversion writes a register, a pair or a quad (R182). -/
theorem cvtRegs_width (n : Nat) : (cvtRegs n).2 = 1 ∨ (cvtRegs n).2 = 2 ∨ (cvtRegs n).2 = 4 := by
  unfold cvtRegs
  split <;> simp

/-! ### Each family runs it, instruction by instruction -/

theorem runsFloat_of_single {i : Instr} {c : FCalc} (h : single i = some c) : RunsFloat i c := by
  unfold single at h
  split at h <;> cases h <;> exact ⟨fun _ => rfl, ⟨_, _, rfl⟩, .inl rfl⟩

theorem runsFloat_of_double {i : Instr} {c : FCalc} (h : double i = some c) : RunsFloat i c := by
  unfold double at h
  split at h <;> cases h <;> exact ⟨fun _ => rfl, ⟨_, _, rfl⟩, by simp⟩

theorem runsFloat_of_packed {i : Instr} {c : FCalc} (h : packed i = some c) : RunsFloat i c := by
  unfold packed at h
  split at h <;> cases h <;> exact ⟨fun _ => rfl, ⟨_, _, rfl⟩, .inl rfl⟩

theorem runsFloat_of_special {i : Instr} {c : FCalc} (h : special i = some c) : RunsFloat i c := by
  unfold special at h
  split at h <;> cases h <;> exact ⟨fun _ => rfl, ⟨_, _, rfl⟩, by simp⟩

theorem runsFloat_of_converted {i : Instr} {c : FCalc} (h : converted i = some c) : RunsFloat i c := by
  unfold converted at h
  split at h
  case h_1 => cases h; exact ⟨fun _ => rfl, ⟨_, _, rfl⟩, cvtRegs_width _⟩
  case h_2 => cases h; exact ⟨fun _ => rfl, ⟨_, _, rfl⟩, .inl rfl⟩
  case h_3 => cases h

theorem runsFloat_of_family {i : Instr} {c : FCalc}
    (h : single i = some c ∨ double i = some c ∨ packed i = some c ∨ special i = some c ∨ converted i = some c) : RunsFloat i c := by
  rcases h with h | h | h | h | h
  · exact runsFloat_of_single h
  · exact runsFloat_of_double h
  · exact runsFloat_of_packed h
  · exact runsFloat_of_special h
  · exact runsFloat_of_converted h

/-! ### Completion and traps -/

/-- Settles O2: every family runs the shared operation, which completes where no lane raises an enabled exception (`fpOp_completes`). -/
theorem floatResults : Obligations.FloatResults := by
  intro i c cx s hfam h hquiet
  have hf := runsFloat_of_family hfam
  rw [CompletesFloat, hf.exec_eq]
  exact fpOp_completes h c (hf.fits h) hquiet

/-- Settles O3: where a lane raises an enabled exception, the shared operation traps for the lanes that do (`fpOp_traps`). -/
theorem floatTraps : Obligations.FloatTraps := by
  intro i c cx s hfam h hraised
  have hf := runsFloat_of_family hfam
  rw [TrapsFloat, hf.exec_eq]
  exact fpOp_traps h c (hf.fits h) hraised

end Sys2Proof.Machine
end

/-! Proofs/SpecialReads.lean: reads of special registers and of the clock, the locality query and the split's mask (R127 to R135, R157, R350,
R415). -/
section

namespace Sys2Proof.Machine

open Sys2Proof

/-! ### What a lane sees (R19, R127, R132 to R134) -/

theorem wideSpecial_eq_wide (n : Nat) : wideSpecial n = wide n := by
  simp [wideSpecial, wide, Bool.or_assoc]

theorem State.sockcap_eq_socket (s : State) (n : Nat) : s.sockcap n = s.socket n := by
  unfold State.sockcap State.socket
  dsimp only
  split
  · omega
  · split
    · omega
    · split
      · omega
      · rfl

/-- Every register of R127 but the clock, number by number; what is left are the sockets (R18, R19). -/
theorem Cx.special_eq_shows (cx : Cx) (s : State) (p : Nat) {n : Nat} (hn : n ≠ 0x40) : cx.special s n p = cx.shows s p n := by
  unfold Cx.shows
  split
  case h_21 =>
    show locality cx.core cx.g = _
    unfold locality
    split <;> omega
  case h_24 =>
    simp_all [Cx.special, State.sockcap_eq_socket]
  all_goals rfl

/-! ### sread (R157) -/

/-- Results of the performing lanes written, and the issuer moved on. -/
theorem finish_lanewise {cx : Cx} {i : Instr} {s : State} (hc : cxOf i s = some cx) {d : Reg} {w : Nat} (hn : d.toNat + w ≤ 256)
    (f : Nat → Nat) : Holds cx (cx.finish (cx.lanewise s d w (fun p => some (f p)))) cx.lanes d w f ∧
      OnlyRegs cx s (cx.finish (cx.lanewise s d w (fun p => some (f p)))) cx.g (cx.keysIn cx.lanes d w) cx.next :=
  finish_put hc hn cx.lanes (cx.g.expand_nodup _) (fun _ hp => Cx.perform_active hc hp) f

theorem sread_fits {d : Reg} {n : BitVec 16} {cx : Cx} {s : State} (h : Clear (.sread d n) cx s) :
    d.toNat + (if wide n.toNat then 2 else 1) ≤ 256 := by
  rw [← wideSpecial_eq_wide]
  refine h.fits (u := ⟨d, if wideSpecial n.toNat then 2 else 1, false, true⟩) List.mem_cons_self ?_
  dsimp only
  split <;> simp

theorem exec_sread_eq (d : Reg) (n : BitVec 16) (s : State) : exec (.sread d n) s = execSread d n s := rfl

theorem exec_sread {d : Reg} {n : BitVec 16} {cx : Cx} {s : State} (h : Clear (.sread d n) cx s) (hn : n ≠ 0x40) :
    exec (.sread d n) s =
      .next (cx.finish (cx.lanewise s d (if wide n.toNat then 2 else 1) (fun p => some (cx.shows s p n.toNat)))) := by
  have hshows : (fun p => some (cx.special s n.toNat p)) = fun p => some (cx.shows s p n.toNat) :=
    funext fun p => congrArg some (cx.special_eq_shows s p (fun e => hn (BitVec.eq_of_toNat_eq e)))
  rw [exec_sread_eq, execSread, run_clear h, if_neg hn, wideSpecial_eq_wide, hshows]

/-! ### The clock (R127, R350) -/

theorem exec_sread_clock {d : Reg} {cx : Cx} {s : State} (h : Clear (.sread d 0x40) cx s) :
    exec (.sread d 0x40) s = .next (cx.finish (cx.lanewise (cx.readClock s).1 d 2 (fun _ => some (cx.readClock s).2))) := by
  rw [exec_sread_eq, execSread]
  exact run_clear h _

/-- A read of the clock changes the replay log or the values still to be replayed, and nothing that an issuer is found by. -/
theorem cxOf_readClock (i : Instr) (cx : Cx) (s : State) : cxOf i (cx.readClock s).1 = cxOf i s := by
  unfold Cx.readClock
  split
  · rfl
  · split
    · rfl
    · split <;> rfl

theorem Cx.readClock_clockRead (cx : Cx) (s : State) : ClockRead cx s (cx.readClock s).1 (cx.readClock s).2 := by
  show (s.recorded cx.bid = false → _) ∧ (s.recorded cx.bid = true → _)
  refine ⟨fun h => ?_, fun h => ⟨fun x xs hx => ?_, fun hnone => ?_⟩⟩
  · simp [Cx.readClock, h]
  · obtain ⟨r, hr, hclocks⟩ := Option.map_eq_some_iff.mp hx
    obtain ⟨cs, ps, qs, ls⟩ := r
    obtain rfl : cs = x :: xs := hclocks
    simp [Cx.readClock, h, hr]
  · unfold Cx.readClock
    rw [h]
    cases hr : s.rerun with
    | none => exact ⟨rfl, rfl⟩
    | some r =>
      obtain ⟨cs, ps, qs, ls⟩ := r
      rw [hr] at hnone
      obtain rfl : cs = [] := hnone
      exact ⟨rfl, rfl⟩

/-! ### locq and emsave (R135, R415) -/

/-- locq finds the local aperture, the cluster window, and the home or the failure of any other address (R135). -/
theorem homed_homeReport (cx : Cx) (s : State) (va : Nat) : Homed cx s va (s.homeReport cx.viewer va) := by
  refine ⟨fun h => ?_, fun h hl => ?_, fun h hl hw => ?_, fun h hl hw => ⟨fun l q ht => ?_, fun pte level ht =>
    ⟨fun hhbm => ?_, fun hhbm hcellar => ?_, fun hhbm hcellar => ?_⟩⟩⟩
  · rw [State.homeReport, if_pos h]
  · rw [State.homeReport, if_neg (Nat.not_le.mpr h), if_pos hl]
    exact congrArg (1 + ·) (Nat.mul_comm _ _)
  · simp [State.homeReport, Cx.viewer, Nat.not_le.mpr h, hl, hw, Nat.mul_comm, -Nat.reducePow]
  · simp [State.homeReport, Cx.viewer, Nat.not_le.mpr h, hl, hw, ht, -Nat.reducePow] <;> rfl
  · simp [State.homeReport, Cx.viewer, Nat.not_le.mpr h, hl, hw, ht, hhbm, Nat.mul_comm, -Nat.reducePow]
  · simp [State.homeReport, Cx.viewer, Nat.not_le.mpr h, hl, hw, ht, hhbm, hcellar, -Nat.reducePow]
  · simp [State.homeReport, Cx.viewer, Nat.not_le.mpr h, hl, hw, ht, hhbm, hcellar, -Nat.reducePow]

theorem exec_locq (d a : Reg) (s : State) : exec (.locq d a) s =
    uniformOp (.locq d a) d 1 s (fun x p => x.s.homeReport x.cx.viewer (x.cx.rd2 x.s p a.toNat)) := rfl

theorem exec_emsave (d : Reg) (s : State) : exec (.emsave d) s = uniformOp (.emsave d) d 1 s (fun x _ => x.cx.active.toNat) := rfl

/-- Settles O7: sread writes each lane what it sees, or the clock read once; locq and emsave are uniform operations (`uniformOp_effect`). -/
theorem specialReads : Obligations.SpecialReads := by
  refine ⟨fun d n cx s h => ⟨fun hn => ?_, ?_⟩, fun d cx s => ⟨fun a h => ?_, fun h => ?_⟩⟩
  · exact ⟨_, exec_sread h hn, finish_lanewise h.issued (sread_fits h) _⟩
  · rintro rfl
    exact ⟨_, _, _, exec_sread_clock h, cx.readClock_clockRead s,
      finish_lanewise ((cxOf_readClock _ cx s).trans h.issued) (sread_fits h) _⟩
  · rw [exec_locq]
    obtain ⟨t, ht, hholds, honly⟩ := uniformOp_effect h (d := d) (w := 1)
      (fun x p => x.s.homeReport x.cx.viewer (x.cx.rd2 x.s p a.toNat)) d.isLt
    exact ⟨t, _, ht, fun p _ => homed_homeReport cx s _, hholds, honly⟩
  · rw [exec_emsave]
    exact uniformOp_effect h (fun x _ => x.cx.active.toNat) d.isLt

end Sys2Proof.Machine
end

/-! Proofs/SpecialWrites.lean: emset while a split-phase load of a protected gang has brought the primary's word of its mask and not yet the
shadow's (R84, R287, R415). -/
section

namespace Sys2Proof.Machine

open Sys2Proof

/-- emset v6, always, and two nops. -/
def emsetPacket : Packet := ⟨0x10000, 0x0300C030, 0xAB000600, 0xF7000000, 0xF7000000⟩

/-- A split-phase load of v6 in lane 0: the word of the primary, physical lane 0, has come; that of the shadow, physical lane 1, has not. -/
def halfReplied : Lda where
  id := 0
  counter := 0
  acc := ⟨0, 0, 0, 0, 0, 0⟩
  keys := [(0, vKey 0 6), (1, vKey 1 6)]
  addrs := []
  pending := [(1, 0)]
  captured := [(0, [0])]
  dropped := []
  held := []
  interval := 0
  counted := false
  taken := none

/-- A protected gang under the checking scoreboard with that load, whose one split stands at the emset; v6 is 0, a mask of no lane. -/
def halfRepliedGang : Gang :=
  { Gang.fresh 0 0 0 256 true true false 0x10004 0 0 0 with
    tree := (Tree.start (lowMask 16) 0x10004 0).modSplit 0 (fun x => { x with packet := some emsetPacket })
    ldas := [halfReplied] }

def halfRepliedS : State := { State.reset.placeWord 32 0xAB000600 with gangs := [(0, halfRepliedGang)] }

def halfRepliedCx : Cx where
  bid := 0
  gid := 0
  core := 0
  asid := 0
  g := halfRepliedGang
  b := Block.fresh 0 0 0 0 0 0 false [0] 32768 0 0 false
  place := 0
  body := none
  index := 0
  hlane := 0
  pc := 0x10004
  kind := emsetPacket.kind
  ctl := emsetPacket.ctl 1
  active := lowMask 16
  perform := lowMask 16
  cyc := 0
  lat := (Instr.emset 6).latency

theorem halfReplied_asked : Asked (.emset 6) halfRepliedCx halfRepliedS where
  issued := by decide +kernel
  wellFormed := rfl
  inBudget := by decide +kernel
  inBody := rfl
  inHandler := nofun
  returning := nofun
  unpredicated := nofun
  placed := rfl
  inBlock := rfl
  free := rfl
  sound := by decide +kernel
  performed := by decide
  legal := by decide +kernel
  loud := rfl

/-- The shadow's v6 is read too early; TINFO names the register and the seven cycles of a load (R84, R289). -/
theorem halfReplied_tooEarly : halfRepliedCx.tooEarly halfRepliedS (.emset 6) = some (1, 0x706) := by decide +kernel

theorem exec_halfReplied : exec (.emset 6) halfRepliedS = .next (halfRepliedCx.fault halfRepliedS 0x04 1 0 0x706) :=
  exec_of_trap rfl halfReplied_asked.issued (halfReplied_asked.hindrance_of_tooEarly rfl halfReplied_tooEarly)

theorem halfReplied_primary_settled : halfRepliedCx.early (halfRepliedCx.key halfRepliedCx.lowPhys 6) = false := by decide +kernel

theorem halfReplied_kept (x : Split) : halfRepliedCx.kept x (halfRepliedCx.rd halfRepliedS halfRepliedCx.lowPhys 6) = 0 := by
  have hmask : halfRepliedCx.rd halfRepliedS halfRepliedCx.lowPhys 6 = 0 := by decide +kernel
  simp [Cx.kept, hmask]

/-- The cause that a gang holds after a trap. -/
def State.causeOf (s : State) (gid : Nat) : Option Nat := (s.gang? gid).map Gang.tcause

theorem halfReplied_causes : (halfRepliedCx.fault halfRepliedS 0x04 1 0 0x706).causeOf 0 = some 0x04 ∧
    (halfRepliedCx.fault halfRepliedS 0x01 halfRepliedCx.perform 0 0).causeOf 0 = some 0x01 := by decide +kernel

/-- Refutes O8: replies to a split-phase load come one physical lane at a time (R287). While the shadow's word of emset's register is still
to come and the primary's is there, the read of the shadow is too early and raises 0x04 (R84), not the 0x01 of a mask without a lane. -/
theorem not_specialWrites : ¬ Obligations.SpecialWrites := by
  intro h
  obtain ⟨-, hleaves, -⟩ := h.2 6 halfRepliedCx halfRepliedS
  have htrap := hleaves halfReplied_asked.toValid halfReplied_asked.performed halfReplied_primary_settled _ rfl (halfReplied_kept _)
  have hsame := congrArg (fun t => t.causeOf 0) (Host.Outcome.next.inj (exec_halfReplied.symm.trans htrap))
  obtain ⟨h4, h1⟩ := halfReplied_causes
  exact absurd (h4.symm.trans (hsame.trans h1)) (by decide)

end Sys2Proof.Machine
end

/-! Proofs/Integer.lean: integer instructions run the vector or the uniform operation on words, which compute the numbers of their rules (R142
to R152). -/
section

namespace Sys2Proof.Machine

open Sys2Proof

/-- An operation that an instruction runs for a destination of some registers and a function of its operands: `vectorOp` or `uniformOp`. -/
abbrev LaneOp := Instr → Reg → Nat → State → (Lanes → Nat → Nat) → Host.Outcome State Fault Refusal

/-- The instruction runs the operation op (of V or of U instructions) on the computation c, and its first operand is c's destination: a
register or a pair. -/
structure RunsInteger (op : LaneOp) (i : Instr) (c : Calc) : Prop where
  exec_eq : ∀ s, exec i s = op i c.d c.w s c.f
  dest : ∃ reads us, i.regs = ⟨c.d, c.w, reads, true⟩ :: us
  width : c.w = 1 ∨ c.w = 2

/-- An instruction that runs op on words runs it on the numbers that the words stand for. -/
theorem RunsInteger.of_words {op : LaneOp} {i : Instr} {d : Reg} {w : Nat} {f g : Lanes → Nat → Nat}
    (hexec : ∀ s, exec i s = op i d w s f) (hvalue : ∀ x p, f x p = g x p) (hdest : ∃ reads us, i.regs = ⟨d, w, reads, true⟩ :: us)
    (hwidth : w = 1 ∨ w = 2) : RunsInteger op i ⟨d, w, g⟩ := by
  obtain rfl : f = g := funext fun x => funext (hvalue x)
  exact ⟨hexec, hdest, hwidth⟩

/-- The destination of a clear instruction lies within the register codes. -/
theorem RunsInteger.fits {op : LaneOp} {i : Instr} {c : Calc} (hr : RunsInteger op i c) {cx : Cx} {s : State} (h : Clear i cx s) :
    c.d.toNat + c.w ≤ 256 := by
  obtain ⟨reads, us, hregs⟩ := hr.dest
  exact h.fits (u := ⟨c.d, c.w, reads, true⟩) (hregs ▸ List.mem_cons_self) (hr.width.imp_right .inl)

/-! ### Each family runs it, instruction by instruction: the law of the operation on words gives the number of the rule -/

/-- The instruction i runs op on what the V instruction j computes: it is j itself, or a U instruction whose V form is j (R144). -/
def Issues (op : LaneOp) (i j : Instr) : Prop := i = j ∧ op = vectorOp ∨ vectorForm i = some j ∧ op = uniformOp

theorem toNat_signExtend_wrap (m : BitVec 16) : (m.signExtend 32).toNat = wrap m.toInt 32 := by
  rw [wrap32]
  rfl

theorem runsInteger_of_arithmetic {op : LaneOp} {i j : Instr} {c : Calc} (hop : Issues op i j)
    (hc : arithmetic j = some c) : RunsInteger op i c := by
  unfold arithmetic at hc
  delta Lanes.zr Lanes.zs Lanes.sr Lanes.ss at hc
  obtain ⟨rfl, rfl⟩ | ⟨hij, rfl⟩ := hop
  case' inl => split at hc <;> cases hc
  case' inr =>
    unfold vectorForm at hij
    split at hij <;> cases hij <;> cases hc
  all_goals refine .of_words (fun _ => by unfold exec; rfl) (fun x p => ?_) ⟨_, _, rfl⟩ (by simp)
  all_goals simp only [sext32, sext16, ↓toNat_mad_wrap, ↓toNat_addi_wrap, toNat_signExtend_wrap, toNat_add_wrap, toNat_sub_wrap,
    toNat_mul_wrap, toNat_mulhiSigned, toNat_mulhiUnsigned, toNat_mulwSigned, toNat_mulwUnsigned, toNat_minSigned, toNat_maxSigned,
    toNat_minUnsigned, toNat_maxUnsigned, toNat_movhWord, add64_wrap, sub64_wrap, Lanes.src2_lt]

theorem runsInteger_of_logic {op : LaneOp} {i j : Instr} {c : Calc} (hop : Issues op i j) (hc : logic j = some c) : RunsInteger op i c := by
  unfold logic at hc
  delta Lanes.zr Lanes.zs Lanes.sr at hc
  obtain ⟨rfl, rfl⟩ | ⟨hij, rfl⟩ := hop
  case' inl => split at hc <;> cases hc
  case' inr =>
    unfold vectorForm at hij
    split at hij <;> cases hij <;> cases hc
  all_goals refine .of_words (fun _ => by unfold exec; rfl) (fun x p => ?_) ⟨_, _, rfl⟩ (by simp)
  all_goals simp only [sext32, BitVec.toNat_and, BitVec.toNat_or, BitVec.toNat_xor, BitVec.toNat_not, toNat_shlBy, toNat_shrUnsigned,
    toNat_shrSigned, toNat_bfe, toNat_bfi, toNat_popc, toNat_clz, brev_eq, if_true, Bool.false_eq_true, if_false]

theorem runsInteger_of_choices {i : Instr} {c : Calc} (hc : choices i = some c) : RunsInteger vectorOp i c := by
  unfold choices at hc
  delta Lanes.zr Lanes.zs Lanes.sr Lanes.ss at hc
  split at hc <;> cases hc
  all_goals refine .of_words (fun _ => by unfold exec; rfl) (fun x p => ?_) ⟨_, _, rfl⟩ (by simp)
  all_goals simp only [sext32, toNat_ofBool, BitVec.toNat_eq, ne_eq, apply_ite BitVec.toNat, BitVec.ofNat_eq_ofNat,
    BitVec.toNat_ofNat, Nat.zero_mod]

theorem calculated_cases {i : Instr} {c : Calc} (h : calculated i = some c) :
    arithmetic i = some c ∨ logic i = some c ∨ choices i = some c := by
  unfold calculated at h
  split at h
  case h_1 ha => exact .inl (ha.trans h)
  case h_2 =>
    split at h
    case h_1 hl => exact .inr (.inl (hl.trans h))
    case h_2 => exact .inr (.inr h)

/-- A compare, sel or move is no U instruction's V form. -/
theorem choices_of_vectorForm {i j : Instr} (h : vectorForm i = some j) : choices j = none := by
  unfold vectorForm at h
  split at h <;> cases h <;> rfl

theorem runsInteger_of_calculated {op : LaneOp} {i j : Instr} {c : Calc} (hop : Issues op i j)
    (hc : calculated j = some c) : RunsInteger op i c := by
  rcases calculated_cases hc with ha | hl | hch
  · exact runsInteger_of_arithmetic hop ha
  · exact runsInteger_of_logic hop hl
  · obtain ⟨rfl, rfl⟩ | ⟨hij, -⟩ := hop
    · exact runsInteger_of_choices hch
    · exact absurd ((choices_of_vectorForm hij).symm.trans hch) nofun

/-! ### Completion -/

/-- Settles O1: each instruction runs the operation of its set on the rule's numbers, and the operation has the effect of its set
(`vectorOp_effect`, `uniformOp_effect`). -/
theorem integerResults : Obligations.IntegerResults := by
  refine ⟨fun i c cx s hc h => ?_, fun i j c cx s hij hc h => ?_⟩
  · have hr := runsInteger_of_calculated (.inl ⟨rfl, rfl⟩) hc
    rw [CompletesPerLane, hr.exec_eq]
    exact vectorOp_effect h c.f (hr.fits h)
  · have hr := runsInteger_of_calculated (.inr ⟨hij, rfl⟩) hc
    rw [CompletesUniform, hr.exec_eq]
    exact uniformOp_effect h c.f (hr.fits h)

end Sys2Proof.Machine
end

/-! Proofs/Lane.lean: shuffles, votes and reductions: each performing lane's result, and the dead-source flags (R159 to R166). -/
section

namespace Sys2Proof.Machine

open Sys2Proof

/-! ### Masks -/

theorem lanesOf_ne_nil {m : Mask} (h : m ≠ 0) : lanesOf m ≠ [] := by
  contrapose! h
  refine BitVec.eq_of_getLsbD_eq fun j hj => ?_
  simpa using fun hbit : m.getLsbD j = true => List.ne_nil_of_mem (mem_lanesOf.mpr ⟨hj, hbit⟩) h

/-- The common lanes of two masks, counted along the second. -/
theorem and_eq_maskOf (m n : Mask) : m &&& n = maskOf ((lanesOf n).filter (fun l => m.getLsbD l)) := by
  refine BitVec.eq_of_getLsbD_eq fun j hj => ?_
  rw [BitVec.getLsbD_and, getLsbD_maskOf, Bool.eq_iff_iff]
  simp [mem_lanesOf, hj, and_comm]

/-! ### Results that come with a change of the flags -/

/-- Results of the performing lanes written, the dead-source flags set to what h makes of them, and the issuer moved on. -/
theorem finish_lanewise_dsf {cx : Cx} {i : Instr} {s : State} (hc : cxOf i s = some cx) (d : Reg) (f : Nat → Nat) (h : Mask → Mask) :
    let t := cx.finish ((cx.lanewise s d 1 (fun p => some (f p))).modGang cx.gid (fun g => { g with dsf := h g.dsf }))
    Holds cx t cx.lanes d 1 f ∧ OnlyRegs cx s t { cx.g with dsf := h cx.g.dsf } (cx.keysIn cx.lanes d 1) cx.next :=
  finish_put_mod hc d.isLt cx.lanes (cx.g.expand_nodup _) (fun _ hp => Cx.perform_active hc hp) f (fun g => { g with dsf := h g.dsf })
    (fun _ _ _ _ _ _ => rfl) rfl rfl rfl rfl rfl

/-! ### Shuffles (R159 to R162) -/

/-- Whether a physical lane's source lane is dead. -/
def Exchange.drawsDead (x : Exchange) (cx : Cx) (s : State) (p : Nat) : Bool :=
  match x.from_ cx s p with
  | some k => cx.g.dead.getLsbD k
  | none => false

theorem Exchange.drawsDead_iff (x : Exchange) (cx : Cx) (s : State) (p : Nat) :
    x.drawsDead cx s p = true ↔ ∃ k, x.from_ cx s p = some k ∧ cx.g.dead.getLsbD k = true := by
  unfold Exchange.drawsDead
  cases x.from_ cx s p <;> simp

/-- The visible lanes that receive from a dead lane. -/
def Exchange.flagged (x : Exchange) (cx : Cx) (s : State) : Mask := maskOf ((cx.lanes.filter (x.drawsDead cx s)).map cx.g.vis)

theorem Exchange.getLsbD_flagged (x : Exchange) (cx : Cx) (s : State) {l : Nat} (hl : l < 32) :
    (x.flagged cx s).getLsbD l = true ↔ x.fromDead cx s l := by
  simp only [Exchange.flagged, Exchange.fromDead, getLsbD_maskOf, hl, decide_true, Bool.true_and, decide_eq_true_eq, List.mem_map,
    List.mem_filter, Exchange.drawsDead_iff]
  exact exists_congr fun p => by tauto

theorem exec_exchange {i : Instr} {x : Exchange} (h : exchange i = some x) (s : State) :
    exec i s = shuffle i x.d x.a x.b x.source s := by
  unfold exchange at h
  split at h <;> cases h <;> rfl

/-- A clear shuffle writes each lane's value and sets the flags of the lanes that receive from a dead one. -/
theorem shuffle_clear {i : Instr} {x : Exchange} {cx : Cx} {s : State} (h : Clear i cx s) : shuffle i x.d x.a x.b x.source s =
    .next (cx.finish ((cx.lanewise s x.d 1 (fun p => some (x.value cx s p))).modGang cx.gid
      (fun g => { g with dsf := g.dsf ||| x.flagged cx s }))) := by
  rw [shuffle, run_clear h]
  rfl

/-- Settles O4: the four shuffles are one operation, which writes the exchange's values and the flags of the lanes with a dead source. -/
theorem shuffles : Obligations.Shuffles := by
  intro i x cx s hx h
  obtain ⟨hholds, honly⟩ := finish_lanewise_dsf h.issued x.d (x.value cx s) (· ||| x.flagged cx s)
  refine ⟨_, cx.g.dsf ||| x.flagged cx s, (exec_exchange hx s).trans (shuffle_clear h), hholds, fun l hl => ?_, honly⟩
  rw [BitVec.getLsbD_or, Bool.or_eq_true, x.getLsbD_flagged cx s hl]

/-! ### Votes and reductions (R163 to R165) -/

theorem Cx.map_fst_votes (cx : Cx) (s : State) (a : Reg) (p : Nat) : (cx.votes s a p).map Prod.fst = lanesOf cx.perform := by
  simp [Cx.votes, Function.comp_def]

/-- The mask of some voting lanes is the sum of their powers of two. -/
theorem Cx.toNat_maskOf_votes (cx : Cx) (s : State) (a : Reg) (p : Nat) (q : Nat × Word → Bool) :
    (maskOf (((cx.votes s a p).filter q).map Prod.fst)).toNat = laneSum (((cx.votes s a p).filter q).map Prod.fst) := by
  have hsub : (((cx.votes s a p).filter q).map Prod.fst).Sublist (lanesOf cx.perform) :=
    cx.map_fst_votes s a p ▸ List.filter_sublist.map Prod.fst
  exact toNat_maskOf _ (hsub.nodup (lanesOf_nodup _)) fun l hl => (mem_lanesOf.mp (hsub.subset hl)).1

theorem exec_vmask {d a : Reg} {cx : Cx} {s : State} (h : Clear (.vmask d a) cx s) : exec (.vmask d a) s =
    .next (cx.finish (cx.lanewise s d 1 (fun p =>
      some (laneSum (((cx.votes s a p).filter (fun e => e.2 ≠ 0)).map Prod.fst))))) := by
  simp only [← Cx.toNat_maskOf_votes]
  unfold exec execVmask
  exact run_clear h _

theorem exec_vgroup {d a : Reg} {cx : Cx} {s : State} (h : Clear (.vgroup d a) cx s) : exec (.vgroup d a) s =
    .next (cx.finish (cx.lanewise s d 1 (fun p =>
      some (laneSum (((cx.votes s a p).filter (fun e => e.2 = cx.rd s p a.toNat)).map Prod.fst))))) := by
  simp only [← Cx.toNat_maskOf_votes]
  unfold exec execVgroup
  exact run_clear h _

theorem exec_lred_eq (d a : Reg) (op : BitVec 8) (s : State) : exec (.lred d a op) s = execLred d a op s := rfl

theorem exec_lred_reduces {d a : Reg} {op : BitVec 8} {cx : Cx} {s : State} (h : Clear (.lred d a op) cx s) (hop : op ≠ 8) :
    exec (.lred d a op) s =
      .next (cx.finish (cx.lanewise s d 1 (fun p => some (reduceLanes op.toNat ((cx.votes s a p).map Prod.snd)).toNat))) := by
  rw [exec_lred_eq, execLred, run_clear h, if_neg hop]
  rfl

/-- lred.dsf reads the flags of the performing lanes and clears them. -/
theorem exec_lred_dsf {d a : Reg} {cx : Cx} {s : State} (h : Clear (.lred d a 8) cx s) : exec (.lred d a 8) s =
    .next (cx.finish ((cx.lanewise s d 1 (fun _ =>
      some (laneSum ((lanesOf cx.perform).filter (fun m => cx.g.dsf.getLsbD m))))).modGang cx.gid
        (fun g => { g with dsf := g.dsf &&& ~~~cx.perform }))) := by
  have hsum : (cx.g.dsf &&& cx.perform).toNat = laneSum ((lanesOf cx.perform).filter (fun m => cx.g.dsf.getLsbD m)) := by
    rw [and_eq_maskOf]
    exact toNat_maskOf _ ((lanesOf_nodup _).filter _) fun l hl => (mem_lanesOf.mp (List.mem_of_mem_filter hl)).1
  rw [exec_lred_eq, execLred, run_clear h, if_pos rfl, hsum]

theorem Clear.votes_ne_nil {i : Instr} {cx : Cx} {s : State} (h : Clear i cx s) (a : Reg) (p : Nat) :
    (cx.votes s a p).map Prod.snd ≠ [] := by
  simpa [Cx.votes] using lanesOf_ne_nil h.performed

/-- Settles O5: vmask and vgroup write the masks of the lanes that they find among the votes, lred what it reduces the votes to, and
lred.dsf the flags that it clears. -/
theorem laneGatherings : Obligations.LaneGatherings := by
  refine ⟨fun d a cx s => ⟨fun h => ?_, fun h => ?_⟩, fun d a op cx s h => ⟨fun hop => ?_, ?_⟩⟩
  · exact ⟨_, exec_vmask h, finish_lanewise h.issued d.isLt _⟩
  · exact ⟨_, exec_vgroup h, finish_lanewise h.issued d.isLt _⟩
  · have hne : op ≠ 8 := by rintro rfl; exact absurd hop (by decide)
    obtain ⟨hholds, honly⟩ := finish_lanewise h.issued (d := d) (w := 1) d.isLt
      (fun p => (reduceLanes op.toNat ((cx.votes s a p).map Prod.snd)).toNat)
    exact ⟨_, _, exec_lred_reduces h hne, hholds, fun p _ => reduceLanes_reduces _ hop _ (h.votes_ne_nil a p), honly⟩
  · rintro rfl
    exact ⟨_, exec_lred_dsf h, finish_lanewise_dsf h.issued d _ (· &&& ~~~cx.perform)⟩

end Sys2Proof.Machine
end

/-! Proofs/IndexedMoves.lean: moves to and from a register whose number the lane computes (R153 to R156). -/
section

namespace Sys2Proof.Machine

open Sys2Proof

/-! ### A register number out of the budget (R153) -/

theorem hindrance_of_illegal {i : Instr} {cx : Cx} {s : State} {m : Mask} {n : Nat} (h : Valid i cx s)
    (hi : cx.illegal s i = some (m, n)) : hindrance i cx s = some (.trap 1 m 0 n) := by
  rw [h.hindrance, hi]

/-- Where no lane reads its index too early, the offending lanes are those whose number is out of the budget. -/
theorem Cx.badTargets_of_settled {cx : Cx} {s : State} {base a : Reg} (he : ∀ p ∈ cx.lanes, cx.early (cx.key p a.toNat) = false)
    {p : Nat} {ps : List Nat} (hb : cx.lanes.filter (fun q => cx.g.budget ≤ cx.target s base a q) = p :: ps) :
    cx.badTargets s base a = some (maskOf ((p :: ps).map cx.g.vis), cx.target s base a p) := by
  have hf : cx.lanes.filter (fun q => !cx.early (cx.key q a.toNat) && cx.g.budget ≤ cx.target s base a q) = p :: ps := by
    rw [← hb]
    exact List.filter_congr fun q hq => by simp [he q hq]
  rw [Cx.badTargets, hf]

/-! ### Writes to registers of the lanes' own choice -/

theorem vKey_inj {p q m n : Nat} (hm : m < 512) (hn : n < 512) (h : vKey p m = vKey q n) : p = q := by
  unfold vKey at h
  omega

/-- One v register of each lane, of whatever number, has a key of its own. -/
theorem nodup_vKeys {lanes : List Nat} (hl : lanes.Nodup) {n : Nat → Nat} (hn : ∀ p ∈ lanes, n p < 512) :
    (lanes.map (fun p => vKey p (n p))).Nodup :=
  hl.map_on fun _ hp _ hq h => vKey_inj (hn _ hp) (hn _ hq) h

/-- Moving on leaves the registers as they are. -/
theorem State.reg_finish (cx : Cx) (s : State) (k : Nat) : (cx.finish s).reg cx.gid k = s.reg cx.gid k := by
  have hregs : ∀ g : Gang, (cx.moveGang cx.next cx.ready false g).regs = g.regs := fun g => by
    unfold Cx.moveGang
    split <;> rfl
  rw [Cx.finish_eq, State.reg, State.reg, State.gang?_modGang, if_pos rfl]
  cases s.gang? cx.gid with
  | none => rfl
  | some g => exact congrArg (fun r => Tab.getD r k 0) (hregs g)

/-- Words written by key, no key twice, and the issuer moved on: each register holds its word, and nothing else changes. -/
theorem finish_put_words {cx : Cx} {i : Instr} {s : State} (hc : cxOf i s = some cx) {ws : List (Nat × Word)}
    (hn : (ws.map Prod.fst).Nodup) : (∀ e ∈ ws, (cx.finish (cx.put s ws)).reg cx.gid e.1 = e.2) ∧
      OnlyRegs cx s (cx.finish (cx.put s ws)) cx.g (ws.map Prod.fst) cx.next := by
  have hg := cxOf_gang hc
  refine ⟨fun e he => ?_, ?_⟩
  · rw [State.reg_finish, State.reg, Cx.put_gang?, if_pos rfl, hg]
    exact Gang.writes_regs_mem ws cx.g cx.cyc cx.lat e.1 e.2 hn he
  · rw [Cx.finish_eq]
    exact OnlyRegs.put hg ws id (cx.put_gang? s ws) (cx.put_rest s ws) (cx.put_core s ws) cx.next cx.ready false
      (fun _ _ _ _ _ _ => rfl) rfl rfl rfl rfl rfl

theorem exec_movx {d a : Reg} {b : Src} {cx : Cx} {s : State} (h : Clear (.movx d a b) cx s) : exec (.movx d a b) s =
    .next (cx.finish (cx.put s (cx.lanes.map (fun p => (vKey p (cx.target s d a p), cx.srcWord s p b))))) := by
  unfold exec execMovx
  exact run_clear h _

theorem exec_movxr {d a b : Reg} {cx : Cx} {s : State} (h : Clear (.movxr d a b) cx s) : exec (.movxr d a b) s =
    .next (cx.finish (cx.lanewise s d 1 (fun p => some (cx.g.read s cx.cyc (vKey p (cx.target s b a p))).toNat))) := by
  unfold exec execMovxr
  exact run_clear h _

/-- Settles O6: in the budget movx writes one register of each lane and movxr is an operation on lanes; out of it both are illegal for the
values they read. -/
theorem indexedMoves : Obligations.IndexedMoves := by
  refine fun d a cx s => ⟨fun b => ⟨fun h hin => ?_, fun h _ he p ps hout => ?_⟩, fun b => ⟨fun h => ?_, fun h _ he p ps hout => ?_⟩⟩
  · have hkeys : (cx.lanes.map (fun p => (vKey p (cx.target s d a p), cx.srcWord s p b))).map Prod.fst =
        cx.lanes.map (fun p => vKey p (cx.target s d a p)) := by
      rw [List.map_map]
      rfl
    have hnodup := nodup_vKeys (cx.g.expand_nodup cx.perform) fun p hp => show cx.target s d a p < 512 by
      have := hin p hp
      omega
    obtain ⟨hheld, honly⟩ := finish_put_words h.issued (hkeys ▸ hnodup)
    exact ⟨_, exec_movx h, fun p hp => hheld _ (List.mem_map_of_mem hp), hkeys ▸ honly⟩
  · exact exec_of_trap rfl h.issued (hindrance_of_illegal h (Cx.badTargets_of_settled he hout))
  · exact ⟨_, exec_movxr h, finish_lanewise h.issued d.isLt _⟩
  · exact exec_of_trap rfl h.issued (hindrance_of_illegal h (Cx.badTargets_of_settled he hout))

end Sys2Proof.Machine
end

/-! Proofs/HelperEvents.lean: the entry of a trap that has waited for helpers, a helper's fault charged to its recruiter, and the lanes of
a lender that it gets back (R205 to R207). -/
section

namespace Sys2Proof.Machine

open Sys2Proof

/-! ### Trap entry at the system level (R209 to R213) -/

/-- A gang in its system handler for a trap, at the handler's first PC. -/
def Gang.entered (g : Gang) (cyc : Nat) (t : Trap) (pc : Dword) : Gang :=
  { (g.dropReserved (BitVec.allOnes 32)).setTrap t false with
    fly := []
    halves := []
    pending := none
    layers := ⟨g.tree.freeze cyc, t.place, g.system⟩ :: g.layers
    system := true
    tree := Tree.start g.live pc (cyc + 1) }

/-- A trap of a cause that is not delegated, outside a handler, is entered at the system level. -/
theorem State.trapEntry_gang? {s : State} {gid : Nat} {t : Trap} {g : Gang} {b : Block} (hg : s.gang? gid = some g)
    (hb : s.block? g.bid = some b) (hh : g.inHandler = false) (hd : g.tdeleg.getLsbD t.cause = false) :
    ∃ pc, (s.trapEntry gid t).gang? gid = some (g.entered (s.cycle b.core) t pc) := by
  unfold State.trapEntry
  simp only [hg, hb, hh, hd, Bool.false_and, Bool.and_false, Bool.false_eq_true, if_false, State.gang?_modGang_self, Option.map_some]
  exact ⟨_, rfl⟩

/-- A gang whose helpers are idle, and that waits for no peer, enters its own trap at once (R206, R209). -/
theorem State.takeTrap_gang? {s : State} {gid : Nat} {t : Trap} {g : Gang} {b : Block} (hg : s.gang? gid = some g)
    (hb : s.block? g.bid = some b) (hh : g.inHandler = false) (hd : g.tdeleg.getLsbD t.cause = false)
    (hidle : g.helpersBusy = false) (hops : g.opsBusy = false) :
    ∃ pc, (s.takeTrap gid t).gang? gid = some (g.stopLoops.entered (s.cycle b.core) t pc) := by
  have hsame : g.cancelLater t.place = g := g.cancelLater_idle t.place hops
  have hstop : g.stopLoops.cancelLater t.place = g.stopLoops := g.stopLoops.cancelLater_idle t.place hops
  unfold State.takeTrap
  simp only [hg, hidle, hsame, hops, Bool.or_self, Bool.false_eq_true, if_false]
  refine State.trapEntry_gang? (s := s.modGang gid (fun x => x.stopLoops.cancelLater t.place)) ?_ hb hh hd
  rw [State.gang?_modGang_self, hg, Option.map_some, hstop]

/-- A trap that has waited is entered once no helper runs an iteration and no instruction issued before is out (R206, R209). -/
theorem execTrapEntry_of_pending {s : State} {bid n : Nat} {g : Gang} {t : Trap} (hg : s.gang? (gangId bid n) = some g)
    (ht : g.pending = some t) (hidle : g.helpersBusy = false) (hops : g.opsBusy = false) :
    exec (.trapEntry bid n) s = .next (s.trapEntry (gangId bid n) t) := by
  show execTrapEntry bid n s = _
  unfold execTrapEntry
  simp only [hg, ht, hidle, hops, Bool.or_self, Bool.false_eq_true, if_false]

/-! ### The fault of a helper (R205) -/

/-- What a recruiter's loop becomes when it takes over a faulted iteration. -/
def Loop.adopting (l : Loop) (h : HeldIter) : Loop :=
  { l with
    heldIters := l.heldIters.erase h
    iter0 := some h.iter
    flags := h.flags }

/-- Taking over a faulted iteration writes the recruiter's frame and changes its loop. -/
theorem Gang.adopt_frame (g : Gang) (lane : Nat) (h : HeldIter) : ∃ fly bad tags accs ldas, g.adopt lane h =
    { g.modLoop lane (fun l => l.adopting h) with
      regs := (g.writes 0 none (h.frame.map (fun e => (hKey lane 0 0 e.1, e.2)))).regs
      fly := fly
      bad := bad
      tags := tags
      accs := accs
      ldas := ldas } := by
  obtain ⟨r, f, b, t, a, l, hw⟩ := Gang.writes_frame (h.frame.map (fun e => (hKey lane 0 0 e.1, e.2))) g 0 none
  unfold Gang.adopt
  rw [hw]
  exact ⟨_, _, _, _, _, rfl⟩

/-- The words of the helper's frame are the recruiter's. -/
theorem getD_adopted_frame (g : Gang) (lane : Nat) {frame : Tab Word} (hn : (frame.map Prod.fst).Nodup) {e : Nat × Word} (he : e ∈ frame) :
    Tab.getD (g.writes 0 none (frame.map (fun e => (hKey lane 0 0 e.1, e.2)))).regs (hKey lane 0 0 e.1) 0 = e.2 := by
  have hinj : Function.Injective (hKey lane 0 0) := fun a b h => Nat.add_left_cancel h
  have hkeys : (frame.map (fun e => (hKey lane 0 0 e.1, e.2))).map Prod.fst = (frame.map Prod.fst).map (hKey lane 0 0) := by
    simp only [List.map_map, Function.comp_def]
  exact Gang.writes_regs_mem _ g 0 none _ _ (hkeys ▸ hn.map hinj) (List.mem_map_of_mem (f := fun e => (hKey lane 0 0 e.1, e.2)) he)

/-- With one recruiter, which waits in its loop, one faulted iteration and no other that runs, that iteration is the next. -/
theorem Gang.heldHelper_eq {g : Gang} {lane place : Nat} {r : Recruit} {l : Loop} {h : HeldIter} {x : Split} (hh : g.inHandler = false)
    (hr : g.recruits = [(lane, r)]) (hl : r.loop = some l) (hheld : l.heldIters = [h]) (h0 : l.iter0 = none)
    (hidle : ∀ y ∈ r.helpers, y.iter = none) (hs : g.tree.splits = [(place, x)]) (hp : x.park = .loop) (hm : x.mask = maskOf [lane]) :
    g.heldHelper = some (lane, place, h) := by
  unfold Gang.heldHelper
  simpa [hh, hr, hs, hl, hp, hm, hheld, h0] using hidle

/-- A helper's faulted iteration is charged to its recruiter: the frame is its own, and the trap is cause 0x20 (R205). -/
theorem execTrapEntry_of_held {s : State} {bid n lane place : Nat} {g : Gang} {h : HeldIter} (hg : s.gang? (gangId bid n) = some g)
    (hp : g.pending = none) (hh : g.heldHelper = some (lane, place, h)) : ∃ u : State, u.gang? (gangId bid n) = some (g.adopt lane h) ∧
      u.blocks = s.blocks ∧ exec (.trapEntry bid n) s = .next (u.takeTrap (gangId bid n) ⟨0x20, maskOf [lane], h.trap.pc, h.trap.addr,
        BitVec.ofNat 64 (h.trap.cause % 256 + h.index * 2 ^ 8 + h.iter * 2 ^ 32), place⟩) := by
  refine ⟨(s.countLatent (gangId bid n) (((s.block? g.bid).map Block.core).getD 0) (h.frame.map (fun e => hKey lane 0 0 e.1))).modGang
    (gangId bid n) (fun y => y.adopt lane h), ?_, ?_, ?_⟩
  · rw [State.gang?_modGang_self, State.countLatent_gang?, hg, Option.map_some]
  · rw [State.countLatent_rest]
    rfl
  · show execTrapEntry bid n s = _
    unfold execTrapEntry
    simp only [hg, hp, hh]

/-! ### Forced release (R207) -/

theorem Tab.look_filter_of_look {α : Type} {t : Tab α} {p : Nat × α → Bool} {x : Nat} {v : α} (h : Tab.look t x = some v)
    (hp : p (x, v) = true) : Tab.look (t.filter p) x = some v := by
  induction t with
  | nil => cases h
  | cons e t ih =>
    obtain ⟨k, u⟩ := e
    rw [Tab.look_cons] at h
    by_cases hk : k = x
    · rw [if_pos hk] at h
      cases h
      subst hk
      rw [List.filter_cons_of_pos hp, Tab.look_cons, if_pos rfl]
    · rw [if_neg hk] at h
      rw [List.filter_cons]
      split
      · rw [Tab.look_cons, if_neg hk, ih h]
      · exact ih h

/-- A change of several gangs that is the same when made twice: each gang named has changed once. -/
theorem gang?_foldl_modGang {f : Gang → Gang} (hf : ∀ g, f (f g) = f g) (key : Nat → Nat) (ns : List Nat) (s : State) (k : Nat) :
    (ns.foldl (fun v n => v.modGang (key n) f) s).gang? k = if k ∈ ns.map key then (s.gang? k).map f else s.gang? k := by
  induction ns generalizing s with
  | nil => rfl
  | cons n ns ih =>
    rw [List.foldl_cons, ih, State.gang?_modGang]
    by_cases hn : key n = k
    · have htwice : ((s.gang? k).map f).map f = (s.gang? k).map f := by
        rw [Option.map_map]
        exact congrArg (fun h => (s.gang? k).map h) (funext hf)
      simp [hn, htwice]
    · simp [hn, Ne.symm hn]

/-- A recruitment after gang n has asked for its lanes: the idle ones are gone, the others go at the end of their iteration. -/
def Recruit.released (n : Nat) (r : Recruit) : Recruit :=
  { r with helpers := (r.helpers.filter (fun h => h.gang ≠ n || h.iter.isSome)).map (fun h =>
      if h.gang = n then { h with released := true } else h) }

theorem Recruit.released_released (n : Nat) (r : Recruit) : (r.released n).released n = r.released n := by
  have hkeeps : ∀ h : Helper, ((if h.gang = n then { h with released := true } else h : Helper).gang ≠ n ||
      (if h.gang = n then { h with released := true } else h : Helper).iter.isSome) = (h.gang ≠ n || h.iter.isSome) := fun h => by
    split <;> rfl
  have hmarks : ∀ h : Helper, (if (if h.gang = n then { h with released := true } else h : Helper).gang = n then
      { (if h.gang = n then { h with released := true } else h : Helper) with released := true }
      else (if h.gang = n then { h with released := true } else h : Helper)) = if h.gang = n then { h with released := true } else h := fun h => by
    by_cases hn : h.gang = n <;> simp [hn]
  simp only [Recruit.released, List.filter_map, Function.comp_def, hkeeps, List.filter_filter, Bool.and_self, List.map_map, hmarks]

/-- A gang that gives gang n its lanes back. -/
def Gang.givesBack (n : Nat) (y : Gang) : Gang :=
  { y with recruits := (y.recruits.map (fun r => (r.1, r.2.released n))).filter (fun r => r.2.loop.isSome || !r.2.helpers.isEmpty) }

theorem Gang.givesBack_givesBack (n : Nat) (y : Gang) : (y.givesBack n).givesBack n = y.givesBack n := by
  have hagain : (y.givesBack n).recruits.map (fun r => (r.1, r.2.released n)) = (y.givesBack n).recruits := by
    conv_rhs => rw [← List.map_id (y.givesBack n).recruits]
    refine List.map_congr_left fun r hr => ?_
    obtain ⟨q, -, rfl⟩ := List.mem_map.mp (List.mem_filter.mp hr).1
    rw [Recruit.released_released]
    rfl
  show ({ y with recruits := ((y.givesBack n).recruits.map (fun r => (r.1, r.2.released n))).filter _ } : Gang) = _
  rw [hagain]
  simp only [Gang.givesBack, List.filter_filter, Bool.and_self]

/-- A recruitment whose loop runs is kept. -/
theorem Gang.look_givesBack {y : Gang} {l : Nat} {r : Recruit} (h : Tab.look y.recruits l = some r) (hr : r.loop ≠ none) (n : Nat) :
    Tab.look (y.givesBack n).recruits l = some (r.released n) := by
  refine Tab.look_filter_of_look ?_ ?_
  · rw [Tab.look_map_val (fun _ r => Recruit.released n r), h]
    rfl
  · show (r.loop.isSome || _) = true
    rw [Option.isSome_iff_ne_none.mpr hr, Bool.true_or]

/-- A gang that goes on with a ready split takes its lanes back from every other gang of the block. -/
theorem execHelperForcedRelease_eq {s : State} {bid n p : Nat} {g : Gang} {b : Block} {x : Split} (hg : s.gang? (gangId bid n) = some g)
    (hb : s.block? bid = some b) (he : g.ended = false) (hx : Tab.look g.tree.splits p = some x) (hp : x.park = .ready) :
    exec (.helperForcedRelease bid n) s =
      .next ((b.gangs.filter (fun m => m ≠ n)).foldl (fun t m => t.modGang (gangId bid m) (Gang.givesBack n)) s) := by
  have hready : g.tree.splits.all (fun q => q.2.park.lends) = false := by
    rw [List.all_eq_false]
    exact ⟨(p, x), Tab.mem_of_look hx, by simp [hp, Park.lends]⟩
  show execHelperForcedRelease bid n s = _
  unfold execHelperForcedRelease
  simp only [hg, hb, he, hready, Bool.or_self, Bool.false_eq_true, if_false]
  rw [List.foldl_filter]
  refine congrArg Host.Outcome.next (congrArg (fun f => b.gangs.foldl f s) (funext fun t => funext fun m => ?_))
  by_cases hm : m = n
  · simp only [hm, if_true, ne_eq, not_true_eq_false, decide_false, Bool.false_eq_true, if_false]
  · simp only [hm, if_false, ne_eq, not_false_eq_true, decide_true, if_true]
    rfl

/-- Settles O33: the two traps are entered at the system level, the held one after its frame has become the recruiter's; giving lanes back is
a change of the block's other gangs, the same when made twice. -/
theorem helperEvents : Obligations.HelperEvents := by
  intro bid n s g b hg
  refine ⟨fun t ht hidle hops hb hh hd => ?_, fun lane place r l h x hp hh hb hd hr hl hheld h0 hidle hs hpark hm hn => ?_,
    fun p x hb he hx hp => ?_⟩
  · obtain ⟨pc, hu⟩ := State.trapEntry_gang? hg hb hh hd
    have hlayers : g.layers = [] := by simpa [Gang.inHandler] using hh
    exact ⟨_, _, execTrapEntry_of_pending hg ht hidle hops, hu, rfl, rfl, rfl, rfl, rfl, rfl, rfl, by simp [Gang.entered, hlayers], rfl⟩
  · obtain ⟨u, hu, hblocks, hexec⟩ := execTrapEntry_of_held hg hp (Gang.heldHelper_eq hh hr hl hheld h0 hidle hs hpark hm)
    obtain ⟨fly, bad, tags, accs, ldas, hadopt⟩ := g.adopt_frame lane h
    have hrecruits : (g.adopt lane h).recruits = [(lane, { r with loop := some (l.adopting h) })] := by
      simp [hadopt, Gang.modLoop, hr, hl, Tab.modify, Tab.look, Tab.put]
    have hquiet : (g.adopt lane h).helpersBusy = false := by
      simpa [Gang.helpersBusy, hrecruits] using hidle
    have hops : (g.adopt lane h).opsBusy = false := by
      simp [Gang.opsBusy, hadopt, Gang.modLoop, hs, hpark, Park.code]
    obtain ⟨pc, ht⟩ := State.takeTrap_gang? (t := ⟨0x20, maskOf [lane], h.trap.pc, h.trap.addr,
      BitVec.ofNat 64 (h.trap.cause % 256 + h.index * 2 ^ 8 + h.iter * 2 ^ 32), place⟩) hu
      (b := b) (by rw [hadopt]; exact (congrArg (Tab.look · g.bid) hblocks).trans hb) (by rw [hadopt]; exact hh)
      (by rw [hadopt]; exact hd) hquiet hops
    have hleft : ((g.adopt lane h).stopLoops.dropReserved (BitVec.allOnes 32)).recruits =
        [(lane, ⟨[], some { l.adopting h with stopped := true }⟩)] := by
      simpa [Gang.dropReserved, Gang.stopLoops, hrecruits] using hidle
    refine ⟨_, _, ⟨[], some { l.adopting h with stopped := true }⟩, _, hexec, ht, rfl, rfl, rfl, rfl, rfl, ?_, rfl, ?_, rfl, rfl, rfl,
      fun e he => ?_⟩
    · show Tab.look ((g.adopt lane h).stopLoops.dropReserved (BitVec.allOnes 32)).recruits lane = _
      rw [hleft, Tab.look_cons, if_pos rfl]
    · show l.heldIters.erase h = []
      simp [hheld]
    · show Tab.getD (g.adopt lane h).regs (hKey lane 0 0 e.1) 0 = e.2
      rw [hadopt]
      exact getD_adopted_frame g lane hn he
  · have hgang := gang?_foldl_modGang (Gang.givesBack_givesBack n) (gangId bid) (b.gangs.filter (fun m => m ≠ n)) s
    refine ⟨_, execHelperForcedRelease_eq hg hb he hx hp, State.eq_of_offGangs (State.offGangs_modGangs _ _ _ s), ?_,
      fun m hm hmn y hy _ => ⟨y.givesBack n, ?_, rfl, fun l r hl hr => Gang.look_givesBack hl hr n⟩⟩
    · rw [hgang, if_neg, hg]
      rw [List.mem_map_of_injective (gangId_injective bid)]
      simp
    · rw [hgang, if_pos, hy, Option.map_some]
      exact List.mem_map_of_mem (List.mem_filter.mpr ⟨hm, by simpa using hmn⟩)

end Sys2Proof.Machine
end

/-! Proofs/HelperFrames.lean: the frames that a loop's participants start with, and how helpers without an iteration take theirs (R198,
R199). -/
section

namespace Sys2Proof.Machine

open Sys2Proof

/-! ### Frames (R198, R199) -/

/-- Word n of the frame of a participant at the start of an iteration. -/
def frameWord (index : Nat) (iter : Word) (n : Nat) : Word := if n = 0 then iter else if n = 1 then BitVec.ofNat 32 index else 0

/-- A participant's frame is as it is at the start of an iteration. -/
def Gang.HasFrame (g : Gang) (lane index : Nat) (iter : Word) : Prop :=
  ∀ p ∈ g.phys lane, ∀ n < 16, Tab.getD g.regs (hKey lane index (g.copy p) n) 0 = frameWord index iter n

/-- A gang that differs from another in frames, in what rests on them, and in its recruitments alone. -/
def OtherFrames (g h : Gang) : Prop := ∃ regs fly bad tags accs ldas rs, h = { g with
  regs := regs
  fly := fly
  bad := bad
  tags := tags
  accs := accs
  ldas := ldas
  recruits := rs } ∧ ∀ k < 16384, Tab.getD regs k 0 = Tab.getD g.regs k 0

theorem OtherFrames.of_recruits (g : Gang) (rs : Tab Recruit) : OtherFrames g { g with recruits := rs } :=
  ⟨_, _, _, _, _, _, _, rfl, fun _ _ => rfl⟩

theorem OtherFrames.refl (g : Gang) : OtherFrames g g := OtherFrames.of_recruits g g.recruits

theorem OtherFrames.trans {g h k : Gang} (hgh : OtherFrames g h) (hhk : OtherFrames h k) : OtherFrames g k := by
  obtain ⟨_, _, _, _, _, _, _, rfl, hlow⟩ := hgh
  obtain ⟨_, _, _, _, _, _, _, rfl, hlow'⟩ := hhk
  exact ⟨_, _, _, _, _, _, _, rfl, fun n hn => (hlow' n hn).trans (hlow n hn)⟩

theorem OtherFrames.tree {g h : Gang} (hgh : OtherFrames g h) : h.tree = g.tree := by
  obtain ⟨_, _, _, _, _, _, _, rfl, -⟩ := hgh
  rfl

theorem OtherFrames.regs {g h : Gang} (hgh : OtherFrames g h) {k : Nat} (hk : k < 16384) : Tab.getD h.regs k 0 = Tab.getD g.regs k 0 := by
  obtain ⟨_, _, _, _, _, _, _, rfl, hlow⟩ := hgh
  exact hlow k hk

theorem OtherFrames.hasFrame_iff {g h : Gang} (hgh : OtherFrames g h) (lane index : Nat) (iter : Word) : h.HasFrame lane index iter ↔
    ∀ p ∈ g.phys lane, ∀ n < 16, Tab.getD h.regs (hKey lane index (g.copy p) n) 0 = frameWord index iter n := by
  obtain ⟨_, _, _, _, _, _, _, rfl, -⟩ := hgh
  rfl

theorem hKey_inj {lane i j c c' n n' : Nat} (hc : c ≤ 1) (hc' : c' ≤ 1) (hn : n < 16) (hn' : n' < 16)
    (h : hKey lane i c n = hKey lane j c' n') : i = j ∧ c = c' ∧ n = n' := by
  rw [hKey_def, hKey_def] at h
  omega

/-- The words that a frame is set to, by key. -/
def Gang.frameWords (g : Gang) (lane index : Nat) (iter : Word) : List (Nat × Word) :=
  (g.phys lane).flatMap (fun p => (List.range 16).map (fun n => (hKey lane index (g.copy p) n, frameWord index iter n)))

theorem Gang.frame_eq (g : Gang) (lane index : Nat) (l : Loop) (k : Nat) :
    g.frame lane index l k = g.writes 0 none (g.frameWords lane index (l.indexOf k)) := rfl

theorem Gang.mem_frameWords {g : Gang} {lane index : Nat} {iter : Word} {e : Nat × Word} : e ∈ g.frameWords lane index iter ↔
    ∃ p ∈ g.phys lane, ∃ n < 16, e = (hKey lane index (g.copy p) n, frameWord index iter n) := by
  simp only [Gang.frameWords, List.mem_flatMap, List.mem_map, List.mem_range, eq_comm (b := e)]

/-- The physical lanes of a lane carry different copies (R59). -/
theorem Gang.copy_injOn_phys (g : Gang) (lane : Nat) {p q : Nat} (hp : p ∈ g.phys lane) (hq : q ∈ g.phys lane) (h : g.copy p = g.copy q) :
    p = q := by
  unfold Gang.phys at hp hq
  unfold Gang.copy at h
  split at hp
  · next hprot =>
    simp only [hprot, if_true, List.mem_cons, List.not_mem_nil, or_false] at hq hp h
    omega
  · next hprot =>
    simp only [hprot, if_false, Bool.false_eq_true, List.mem_singleton] at hq hp
    exact hp.trans hq.symm

theorem Gang.nodup_frameWords (g : Gang) (lane index : Nat) (iter : Word) : ((g.frameWords lane index iter).map Prod.fst).Nodup := by
  simp only [Gang.frameWords, List.map_flatMap, List.map_map, Function.comp_def]
  rw [List.nodup_flatMap]
  refine ⟨fun p _ => ?_, (g.phys_nodup lane).imp_of_mem fun {p q} hp hq hpq k hk hk' => ?_⟩
  · exact List.nodup_range.map fun _ _ h => Nat.add_left_cancel h
  · obtain ⟨n, hn, rfl⟩ := List.mem_map.mp hk
    obtain ⟨n', hn', h⟩ := List.mem_map.mp hk'
    exact hpq (g.copy_injOn_phys lane hp hq
      (hKey_inj (g.copy_le q) (g.copy_le p) (List.mem_range.mp hn') (List.mem_range.mp hn) h).2.1.symm)

theorem Gang.frame_recruits (g : Gang) (lane index : Nat) (l : Loop) (k : Nat) : (g.frame lane index l k).recruits = g.recruits := by
  obtain ⟨_, _, _, _, _, _, h⟩ := Gang.writes_frame (g.frameWords lane index (l.indexOf k)) g 0 none
  rw [Gang.frame_eq, h]

theorem Gang.frame_otherFrames (g : Gang) (lane index : Nat) (l : Loop) (k : Nat) : OtherFrames g (g.frame lane index l k) := by
  obtain ⟨r, f, b, t, a, d, h⟩ := Gang.writes_frame (g.frameWords lane index (l.indexOf k)) g 0 none
  have hlow : ∀ n < 16384, Tab.getD (g.writes 0 none (g.frameWords lane index (l.indexOf k))).regs n 0 = Tab.getD g.regs n 0 := fun n hn =>
    Gang.writes_regs_other _ g 0 none n fun e he => by
      obtain ⟨p, -, m, -, rfl⟩ := Gang.mem_frameWords.mp he
      rw [hKey_def]
      omega
  rw [Gang.frame_eq, h]
  exact ⟨_, _, _, _, _, _, _, rfl, fun n hn => by simpa only [h] using hlow n hn⟩

theorem Gang.hasFrame_frame (g : Gang) (lane index : Nat) (l : Loop) (k : Nat) : (g.frame lane index l k).HasFrame lane index (l.indexOf k) :=
  ((g.frame_otherFrames lane index l k).hasFrame_iff lane index _).mpr fun p hp n hn =>
    Gang.writes_regs_mem _ g 0 none _ _ (g.nodup_frameWords lane index _) (Gang.mem_frameWords.mpr ⟨p, hp, n, hn, rfl⟩)

/-- The frame of one participant is not that of another. -/
theorem Gang.HasFrame.frame {g : Gang} {lane index : Nat} {iter : Word} (h : g.HasFrame lane index iter) {j : Nat} (hj : j ≠ index)
    (l : Loop) (k : Nat) : (g.frame lane j l k).HasFrame lane index iter :=
  ((g.frame_otherFrames lane j l k).hasFrame_iff lane index iter).mpr fun p hp n hn => by
    rw [← h p hp n hn]
    refine Gang.writes_regs_other _ g 0 none _ fun e he hk => ?_
    obtain ⟨q, -, m, hm, rfl⟩ := Gang.mem_frameWords.mp he
    exact hj (hKey_inj (g.copy_le q) (g.copy_le p) hm hn hk).1

/-! ### Helpers that take an iteration (R198) -/

/-- A helper at the start of an iteration. -/
def Helper.serving (h : Helper) (k cyc : Nat) (pc : Dword) : Helper :=
  { h with
    iter := some k
    flags := 0
    pc := pc
    packet := none
    readyAt := cyc + 1 }

/-- One helper of a recruiting lane takes the next iteration, if it has none and one is left. -/
def Gang.dealOne (lane cyc : Nat) (x : Gang) (h : Helper) : Gang :=
  match (Tab.look x.recruits lane).bind Recruit.loop with
  | some l =>
    if h.iter.isNone && !h.released && !l.stopped && l.left then
      ((x.frame lane h.index l l.taken).modHelper lane h.index (fun y => y.serving l.taken cyc l.first)).modLoop lane
        (fun y => { y with taken := y.taken + 1 })
    else x
  | none => x

theorem Gang.deal_of_look {g : Gang} {lane : Nat} {r : Recruit} (h : Tab.look g.recruits lane = some r) (cyc : Nat) :
    g.deal lane cyc = r.helpers.foldl (Gang.dealOne lane cyc) g := by
  unfold Gang.deal
  rw [h]
  rfl

theorem Gang.dealOne_otherFrames (lane cyc : Nat) (x : Gang) (h : Helper) : OtherFrames x (x.dealOne lane cyc h) := by
  unfold Gang.dealOne
  split
  · split
    · exact ((x.frame_otherFrames lane h.index _ _).trans (OtherFrames.of_recruits _ _)).trans (OtherFrames.of_recruits _ _)
    · exact OtherFrames.refl x
  · exact OtherFrames.refl x

theorem Gang.deal_otherFrames (g : Gang) (lane cyc : Nat) : OtherFrames g (g.deal lane cyc) := by
  cases h : Tab.look g.recruits lane with
  | none =>
    unfold Gang.deal
    rw [h]
    exact OtherFrames.refl g
  | some r =>
    rw [Gang.deal_of_look h]
    suffices ∀ (hs : List Helper) (x : Gang), OtherFrames x (hs.foldl (Gang.dealOne lane cyc) x) from this _ _
    intro hs
    induction hs with
    | nil => exact OtherFrames.refl
    | cons y hs ih => exact fun x => (x.dealOne_otherFrames lane cyc y).trans (ih _)

/-- A helper may take an iteration: it has none, it is not asked back, and its number fits a frame. -/
def Helper.Free (h : Helper) : Prop := h.iter = none ∧ h.released = false ∧ 1 ≤ h.index ∧ h.index < 32

section Dealing

variable {x : Gang} {lane : Nat} {helpers : List Helper} {l : Loop}

/-- A loop that has come to a number of iterations taken. -/
def Loop.takenTo (l : Loop) (k : Nat) : Loop := { l with taken := k }

theorem Gang.dealOne_of_left (hx : Tab.look x.recruits lane = some ⟨helpers, some l⟩) (hl : l.stopped = false) (hleft : l.taken < l.count)
    {h : Helper} (hf : h.Free) (cyc : Nat) :
    Tab.look (x.dealOne lane cyc h).recruits lane = some ⟨helpers.map (fun y => if y.index = h.index then y.serving l.taken cyc l.first else y),
        some (l.takenTo (l.taken + 1))⟩ ∧
      (x.dealOne lane cyc h).HasFrame lane h.index (l.indexOf l.taken) ∧
      ∀ j w, j ≠ h.index → x.HasFrame lane j w → (x.dealOne lane cyc h).HasFrame lane j w := by
  obtain ⟨hiter, hback, -, -⟩ := hf
  have hdeal : x.dealOne lane cyc h = ((x.frame lane h.index l l.taken).modHelper lane h.index (fun y => y.serving l.taken cyc l.first)).modLoop
      lane (fun y => { y with taken := y.taken + 1 }) := by
    unfold Gang.dealOne
    simp [hx, hiter, hback, hl, Loop.left, hleft]
  rw [hdeal]
  refine ⟨?_, (x.hasFrame_frame lane h.index l l.taken), fun j w hj hw => hw.frame (Ne.symm hj) l l.taken⟩
  simp only [Gang.modLoop, Gang.modHelper, Tab.look_modify, if_true, Gang.frame_recruits, hx, Option.map_some]
  rfl

theorem Gang.dealOne_of_over (hx : Tab.look x.recruits lane = some ⟨helpers, some l⟩) (hover : ¬ l.taken < l.count) (h : Helper) (cyc : Nat) :
    x.dealOne lane cyc h = x := by
  unfold Gang.dealOne
  simp [hx, Loop.left, hover]

/-- What a helper's number and iteration are after iterations from a number on have been dealt to a list of helpers. -/
def dealt (count : Nat) (e : Helper × Nat) : Nat × Option Nat := (e.1.index, if e.2 < count then some e.2 else none)

/-- Each of a list of free helpers takes the next iteration as long as one is left, in the order of the list; frames of participants that are
not in the list stay as they are. -/
theorem Gang.foldl_dealOne {todo done : List Helper} (hx : Tab.look x.recruits lane = some ⟨done ++ todo, some l⟩)
    (hl : l.stopped = false) (htaken : l.taken ≤ l.count) (hf : ∀ h ∈ todo, h.Free)
    (hn : ((done ++ todo).map Helper.index).Nodup) (cyc : Nat) :
    (∃ served, Tab.look (todo.foldl (Gang.dealOne lane cyc) x).recruits lane =
        some ⟨done ++ served, some (l.takenTo (min l.count (l.taken + todo.length)))⟩ ∧
        served.map (fun h => (h.index, h.iter)) = (todo.zipIdx l.taken).map (dealt l.count)) ∧
      (∀ k h, todo[k]? = some h → l.taken + k < l.count →
        (todo.foldl (Gang.dealOne lane cyc) x).HasFrame lane h.index (l.indexOf (l.taken + k))) ∧
      ∀ j w, j ∉ todo.map Helper.index → x.HasFrame lane j w → (todo.foldl (Gang.dealOne lane cyc) x).HasFrame lane j w := by
  induction todo generalizing x done l with
  | nil =>
    refine ⟨⟨[], ?_, rfl⟩, nofun, fun _ _ _ h => h⟩
    rw [List.foldl_nil, hx, List.length_nil, Nat.add_zero, Nat.min_eq_right htaken]
    rfl
  | cons h todo ih =>
    have hfree := hf h List.mem_cons_self
    have hrest : ∀ y ∈ todo, y.Free := fun y hy => hf y (List.mem_cons_of_mem _ hy)
    have hnew : h.index ∉ todo.map Helper.index := by
      rw [List.map_append, List.map_cons] at hn
      exact (List.nodup_cons.mp hn.of_append_right).1
    rw [List.foldl_cons]
    by_cases hleft : l.taken < l.count
    · obtain ⟨hlook, hframe, hother⟩ := Gang.dealOne_of_left hx hl hleft hfree cyc
      have hserved : (done ++ h :: todo).map (fun y => if y.index = h.index then y.serving l.taken cyc l.first else y) =
          (done ++ [h.serving l.taken cyc l.first]) ++ todo := by
        have hne : ∀ y ∈ done ++ todo, y.index ≠ h.index := fun y hy he => by
          have := (List.perm_middle.map Helper.index).nodup_iff.mp hn
          exact (List.nodup_cons.mp this).1 (he ▸ List.mem_map_of_mem hy)
        have hkept : ∀ ys : List Helper, (∀ y ∈ ys, y ∈ done ++ todo) →
            ys.map (fun y => if y.index = h.index then y.serving l.taken cyc l.first else y) = ys := fun ys hys =>
          (List.map_congr_left fun y hy => if_neg (hne y (hys y hy))).trans (List.map_id ys)
        rw [List.map_append, List.map_cons, if_pos rfl, hkept done (fun y hy => List.mem_append_left _ hy),
          hkept todo (fun y hy => List.mem_append_right _ hy), List.append_assoc]
        rfl
      rw [hserved] at hlook
      obtain ⟨⟨served, hlook', hmap⟩, hframes, hkeep⟩ := ih hlook hl hleft hrest
        (by simpa [Helper.serving] using hn)
      refine ⟨⟨h.serving l.taken cyc l.first :: served, ?_, ?_⟩, fun k y hy hk => ?_, fun j w hj hw => ?_⟩
      · rw [hlook', List.append_assoc, List.length_cons]
        simp only [Loop.takenTo, List.singleton_append, Nat.add_assoc, Nat.add_comm 1]
      · rw [List.map_cons, hmap, List.zipIdx_cons, List.map_cons]
        simp only [dealt, Helper.serving, hleft, if_true, Loop.takenTo]
      · cases k with
        | zero =>
          obtain rfl : h = y := by simpa using hy
          exact hkeep _ _ hnew hframe
        | succ k =>
          have hk' : l.taken + 1 + k = l.taken + (k + 1) := by omega
          have := hframes k y (by simpa using hy) (show l.taken + 1 + k < l.count by omega)
          rwa [show (l.takenTo (l.taken + 1)).taken + k = l.taken + (k + 1) from hk'] at this
      · rw [List.map_cons, List.mem_cons, not_or] at hj
        exact hkeep j w hj.2 (hother j w hj.1 hw)
    · have hx' : Tab.look x.recruits lane = some ⟨(done ++ [h]) ++ todo, some l⟩ := by
        rw [hx, List.append_assoc, List.singleton_append]
      rw [Gang.dealOne_of_over hx hleft]
      obtain ⟨⟨served, hlook', hmap⟩, -, hkeep⟩ := ih hx' hl htaken hrest (by simpa using hn)
      refine ⟨⟨h :: served, ?_, ?_⟩, fun k y _ hk => absurd hk (by omega), fun j w hj => hkeep j w (List.not_mem_of_not_mem_cons hj)⟩
      · rw [hlook', List.append_assoc, List.singleton_append, List.length_cons, Nat.min_eq_left (by omega), Nat.min_eq_left (by omega)]
      · have hend : ∀ (ys : List Helper) (n : Nat), l.count ≤ n → (ys.zipIdx n).map (dealt l.count) = ys.map (fun y => (y.index, none)) := by
          intro ys
          induction ys with
          | nil => exact fun _ _ => rfl
          | cons y ys ih => exact fun n hn => by simp [List.zipIdx_cons, dealt, ih (n + 1) (by omega), Nat.not_lt.mpr hn]
        rw [List.map_cons, hmap, hend _ _ (Nat.not_lt.mp hleft), hend _ _ (Nat.not_lt.mp hleft), List.map_cons, hfree.1]

end Dealing

end Sys2Proof.Machine
end

/-! Proofs/HelperLoops.lean: what u.recruit reserves, what u.hrel gives back, and how u.hloop starts a loop (R192 to R198). -/
section

namespace Sys2Proof.Machine

open Sys2Proof

/-! ### Loop instructions where they may not stand (R197, R202, R217) -/

theorem Formed.hindrance_of_misplaced {i : Instr} {cx : Cx} {s : State} {n : Nat} (h : Formed i cx s) (hp : cx.misplaced i = some n) :
    hindrance i cx s = some (.trap 1 cx.active 0 n) := by
  have hhandler : (i.handlerOnly && !cx.g.inHandler) = false := by
    cases e : i.handlerOnly <;> simp [h.inHandler, e]
  have hreturn : (i.returns && (!cx.g.inHandler || decide (cx.g.tree.splits.length ≠ 1))) = false := by
    cases e : i.returns
    · rfl
    · obtain ⟨a, b⟩ := h.returning e
      simp [a, b]
  have hpred : (i.always && (decide (ctlPred cx.ctl ≠ 48) || ctlNeg cx.ctl)) = false := by
    cases e : i.always
    · rfl
    · obtain ⟨a, b⟩ := h.unpredicated e
      simp [a, b]
  unfold hindrance
  simp only [h.wellFormed, h.inBudget, h.inBody, hhandler, hreturn, hpred, hp, orElse]
  rfl

/-- u.hloop starts a loop for one lane, outside of any loop's body (R197). -/
theorem Cx.misplaced_uHloop {cx : Cx} (h : (lanesOf cx.active).length ≠ 1 ∨ cx.body ≠ none) (d a : Reg) (b : Src) :
    cx.misplaced (.uHloop d a b) = some 0 := by
  rcases h with h | h
  · simp [Cx.misplaced, h]
  · simp [Cx.misplaced, Option.isSome_iff_ne_none.mpr h]

theorem Cx.body_of_placed_uHloop {cx : Cx} {d a : Reg} {b : Src} (h : cx.misplaced (.uHloop d a b) = none) : cx.body = none := by
  by_contra hb
  cases h.symm.trans (Cx.misplaced_uHloop (.inr hb) d a b)

/-- Outside of a loop's body a split issues. -/
theorem cxOf_split_of_body_none {i : Instr} {s : State} {cx : Cx} (h : cxOf i s = some cx) (hb : cx.body = none) :
    cx.index = 0 ∧ ∃ x, Tab.look cx.g.tree.splits cx.place = some x ∧ x.mask = cx.active := by
  unfold cxOf at h
  repeat' split at h
  all_goals try cases h
  · next x hx =>
    obtain ⟨p, -, rfl⟩ := Option.map_eq_some_iff.mp h
    exact ⟨rfl, x, hx, rfl⟩
  · obtain ⟨p, -, rfl⟩ := Option.map_eq_some_iff.mp h
    cases hb

/-! ### Lanes that can be granted (R192) -/

/-- The lanes of a gang that are neither dead nor lent, of a kind that a predicate names. -/
def State.freeLanes (s : State) (b : Block) (x : Gang) (p : Nat → Bool) : List (Nat × Nat) :=
  ((List.range 32).filter (fun l => !x.dmask.getLsbD l && !(s.lentLanes b x.num).contains l && p l)).map (fun l => (x.num, l))

theorem State.mem_freeLanes {s : State} {b : Block} {x : Gang} {p : Nat → Bool} {e : Nat × Nat} : e ∈ s.freeLanes b x p ↔
    e.1 = x.num ∧ e.2 < 32 ∧ x.dmask.getLsbD e.2 = false ∧ e.2 ∉ s.lentLanes b x.num ∧ p e.2 = true := by
  simp only [State.freeLanes, List.mem_map, List.mem_filter, List.mem_range, Bool.and_eq_true, Bool.not_eq_true', List.contains_eq_mem,
    decide_eq_false_iff_not]
  constructor
  · rintro ⟨l, ⟨hl, ⟨hd, ho⟩, hp⟩, rfl⟩
    exact ⟨rfl, hl, hd, ho, hp⟩
  · rintro ⟨h, hl, hd, ho, hp⟩
    exact ⟨e.2, ⟨hl, ⟨hd, ho⟩, hp⟩, Prod.ext h.symm rfl⟩

theorem State.nodup_freeLanes (s : State) (b : Block) (x : Gang) (p : Nat → Bool) : (s.freeLanes b x p).Nodup :=
  (List.nodup_range.filter _).map fun _ _ h => (Prod.mk.inj h).2

/-- The lanes that another gang of the block offers. -/
def State.lentBy (s : State) (b : Block) (n : Nat) : List (Nat × Nat) :=
  match s.gang? (gangId b.bid n) with
  | some x => if x.lender then s.freeLanes b x (fun _ => true) else []
  | none => []

theorem State.lendable_eq (s : State) (b : Block) (g : Gang) : s.lendable b g = s.freeLanes b g (fun l => g.exited.getLsbD l) ++
    (b.gangs.filter (fun n => n ≠ g.num && n ≠ 31 && n % 4 = g.num % 4)).flatMap (s.lentBy b) := rfl

theorem State.mem_lentBy {s : State} {b : Block} {n : Nat} {e : Nat × Nat} : e ∈ s.lentBy b n ↔
    ∃ x, s.gang? (gangId b.bid n) = some x ∧ x.lender = true ∧ e ∈ s.freeLanes b x (fun _ => true) := by
  unfold State.lentBy
  cases s.gang? (gangId b.bid n) with
  | none => simp
  | some x => cases hx : x.lender <;> simp [hx]

theorem State.nodup_lentBy (s : State) (b : Block) (n : Nat) : (s.lentBy b n).Nodup := by
  unfold State.lentBy
  split
  · split
    · exact s.nodup_freeLanes b _ _
    · exact List.nodup_nil
  · exact List.nodup_nil

/-- A lane that can be granted belongs to the recruiter's gang and has exited, or to a lender of the quad. -/
theorem State.mem_lendable {s : State} {b : Block} {g : Gang} {e : Nat × Nat} : e ∈ s.lendable b g ↔
    e ∈ s.freeLanes b g (fun l => g.exited.getLsbD l) ∨
      ∃ n ∈ b.gangs, (n ≠ g.num ∧ n ≠ 31 ∧ n % 4 = g.num % 4) ∧ e ∈ s.lentBy b n := by
  simp only [State.lendable_eq, List.mem_append, List.mem_flatMap, List.mem_filter, Bool.and_eq_true, decide_eq_true_eq, and_assoc]

section Numbered

variable {s : State} {b : Block} {g : Gang}

/-- Where a block's gangs bear their own numbers, no lane is offered twice. -/
theorem State.nodup_lendable (hb : b.gangs.Nodup) (hnum : ∀ k x, s.gang? (gangId b.bid k) = some x → x.num = k) : (s.lendable b g).Nodup := by
  have hfst : ∀ n e, e ∈ s.lentBy b n → e.1 = n := fun n e he => by
    obtain ⟨x, hx, -, hfree⟩ := State.mem_lentBy.mp he
    exact (State.mem_freeLanes.mp hfree).1.trans (hnum n x hx)
  rw [State.lendable_eq, List.nodup_append]
  refine ⟨s.nodup_freeLanes b g _, ?_, fun e he f hf hef => ?_⟩
  · rw [List.nodup_flatMap]
    exact ⟨fun n _ => s.nodup_lentBy b n, (hb.filter _).imp fun hne e he hf => hne ((hfst _ e he).symm.trans (hfst _ e hf))⟩
  · obtain ⟨n, hn, hlent⟩ := List.mem_flatMap.mp hf
    have hother := (List.mem_filter.mp hn).2
    simp only [Bool.and_eq_true, decide_eq_true_eq] at hother
    exact hother.1.1 ((hfst n f hlent).symm.trans (hef ▸ (State.mem_freeLanes.mp he).1))

/-- There the lanes offered are those of R192. -/
theorem State.mem_lendable_iff_grantable {cx : Cx} {own : Gang} (hnum : ∀ k x, s.gang? (gangId cx.b.bid k) = some x → x.num = k)
    (hown : s.gang? (gangId cx.b.bid cx.g.num) = some own) (hdead : own.dmask = cx.g.dmask) (hexit : own.exited = cx.g.exited)
    (e : Nat × Nat) : e ∈ s.lendable cx.b cx.g ↔ cx.grantable s e := by
  rw [State.mem_lendable, State.mem_freeLanes, Cx.grantable]
  constructor
  · rintro (⟨he, hl, hd, hout, hx⟩ | ⟨n, hn, ⟨hne, h31, hquad⟩, hlent⟩)
    · rw [he]
      exact ⟨own, hown, hl, hdead ▸ hd, hout, .inl ⟨rfl, hexit ▸ hx⟩⟩
    · obtain ⟨x, hx, hlender, hfree⟩ := State.mem_lentBy.mp hlent
      obtain ⟨he, hl, hd, hout, -⟩ := State.mem_freeLanes.mp hfree
      obtain rfl := hnum n x hx
      rw [he]
      exact ⟨x, hx, hl, hd, hout, .inr ⟨hne, hn, h31, hquad, hlender⟩⟩
  · rintro ⟨x, hx, hl, hd, hout, ⟨he, hexited⟩ | ⟨hne, hn, h31, hquad, hlender⟩⟩
    · rw [he, hown] at hx
      obtain rfl := Option.some.inj hx
      exact .inl ⟨he, hl, hdead ▸ hd, he ▸ hout, hexit ▸ hexited⟩
    · have hx' := hnum _ x hx
      exact .inr ⟨e.1, hn, ⟨hne, h31, hquad⟩, State.mem_lentBy.mpr ⟨x, hx, hlender,
        State.mem_freeLanes.mpr ⟨hx'.symm, hl, hd, hx'.symm ▸ hout, rfl⟩⟩⟩

end Numbered

/-! ### Recruitments changed before a result is written -/

/-- A gang with its recruitments changed. -/
def Gang.enlist (f : Tab Recruit → Tab Recruit) (g : Gang) : Gang := { g with recruits := f g.recruits }

theorem Gang.writes_enlist (f : Tab Recruit → Tab Recruit) (g : Gang) (cyc : Nat) (lat : Option Nat) (ws : List (Nat × Word)) :
    (g.enlist f).writes cyc lat ws = (g.writes cyc lat ws).enlist f := by
  induction ws generalizing g with
  | nil => rfl
  | cons e ws ih =>
    have hone : (g.enlist f).write cyc lat e.1 e.2 = (g.write cyc lat e.1 e.2).enlist f := by
      unfold Gang.write
      dsimp only [Gang.enlist]
      split <;> rfl
    exact (congrArg (Gang.writes · cyc lat ws) hone).trans (ih _)

/-- A state in which one gang's recruitments have changed, and nothing else. -/
structure Enlists (s t : State) (gid : Nat) (f : Tab Recruit → Tab Recruit) : Prop where
  gangs : ∀ k, t.gang? k = if gid = k then (s.gang? k).map (Gang.enlist f) else s.gang? k
  rest : t = { s with gangs := t.gangs }

theorem Enlists.modGang (s : State) (gid : Nat) (f : Tab Recruit → Tab Recruit) : Enlists s (s.modGang gid (Gang.enlist f)) gid f :=
  ⟨fun k => s.gang?_modGang gid k _, rfl⟩

theorem Enlists.refl (s : State) (gid : Nat) : Enlists s s gid id :=
  ⟨fun k => ((congrArg (fun o => if gid = k then o else s.gang? k) Option.map_id_apply).trans (ite_self _)).symm, rfl⟩

theorem Enlists.trans {s t u : State} {gid : Nat} {f h : Tab Recruit → Tab Recruit} (hst : Enlists s t gid f) (htu : Enlists t u gid h) :
    Enlists s u gid (h ∘ f) := by
  refine ⟨fun k => ?_, ?_⟩
  · rw [htu.gangs, hst.gangs]
    split
    · rw [Option.map_map]
      rfl
    · rfl
  · rw [htu.rest, hst.rest]

/-- A result for every active lane, written after recruitments have changed, and the issuer moved on. -/
theorem finish_uniform_of_enlists {cx : Cx} {i : Instr} {s t : State} (hc : cxOf i s = some cx) {f : Tab Recruit → Tab Recruit}
    (ht : Enlists s t cx.gid f) (d : Reg) (v : Nat) :
    Holds cx (cx.finish (cx.uniform t d 1 (fun _ => v))) (cx.g.expand cx.active) d 1 (fun _ => v) ∧
      OnlyRegs cx s (cx.finish (cx.uniform t d 1 (fun _ => v))) (cx.g.enlist f)
        (cx.keysIn (cx.g.expand cx.active) d 1) cx.next := by
  have hg := cxOf_gang hc
  have hd : d.toNat + 1 ≤ 256 := d.isLt
  let ws := (cx.g.expand cx.active).flatMap (fun p => cx.outs d.toNat 1 p v)
  have hkeys : ws.map Prod.fst = cx.keysIn (cx.g.expand cx.active) d 1 := by
    simp only [ws, List.map_flatMap, Cx.outs_keys]
    rfl
  have hu : ∀ k, (cx.put t ws).gang? k =
      if cx.gid = k then (s.gang? k).map (fun g => (g.writes cx.cyc cx.lat ws).enlist f) else s.gang? k := fun k => by
    rw [Cx.put_gang?, ht.gangs]
    split
    · rw [Option.map_map]
      exact congrArg (fun h => (s.gang? k).map h) (funext fun g => g.writes_enlist f cx.cyc cx.lat ws)
    · rfl
  have hcore : ∀ c, ∃ n, (cx.put t ws).core c = { s.core c with laneDeath := n } := fun c => by
    have hsame : t.core c = s.core c := by
      rw [ht.rest]
      rfl
    exact hsame ▸ cx.put_core t ws c
  have hrest : cx.put t ws = { s with
      gangs := (cx.put t ws).gangs
      cores := (cx.put t ws).cores } := by
    rw [cx.put_rest t, ht.rest]
  have honly := OnlyRegs.put hg ws (Gang.enlist f) hu hrest hcore cx.next cx.ready false (fun _ _ _ _ _ _ => rfl) rfl rfl rfl rfl rfl
  rw [← Cx.finish_eq, hkeys] at honly
  have hgang : (cx.finish (cx.put t ws)).gang? cx.gid = some
      (cx.moveGang cx.next cx.ready false ((cx.g.writes cx.cyc cx.lat ws).enlist f)) := by
    rw [Cx.finish_eq, State.gang?_modGang_self, hu, if_pos rfl, hg]
    rfl
  refine ⟨Holds.put hc hd _ (cx.g.expand_nodup _) (fun p hp => hp) _ hgang ?_ ?_, honly⟩ <;>
    (unfold Cx.moveGang Gang.modHelper; split <;> rfl)

/-! ### u.recruit and u.hrel (R193 to R196) -/

theorem Cx.low_lt (cx : Cx) : cx.low < 32 := by
  unfold Cx.low lowLane
  cases h : lanesOf cx.active with
  | nil => decide
  | cons l ls => exact (mem_lanesOf.mp (h ▸ List.mem_cons_self)).1

theorem Cx.getLsbD_low (cx : Cx) (l : Nat) : (maskOf [cx.low]).getLsbD l = decide (l = cx.low) := by
  rw [getLsbD_maskOf]
  by_cases h : l = cx.low
  · simp [h, cx.low_lt]
  · simp [h]

/-- The recruitments of a gang whose thread in the lowest lane has given its reserved helpers back. -/
def Cx.freed (cx : Cx) (rs : Tab Recruit) : Tab Recruit := rs.filter (fun r => r.1 ≠ cx.low || r.2.loop.isSome)

theorem Cx.dropReserved_low (cx : Cx) (g : Gang) : g.dropReserved (maskOf [cx.low]) = g.enlist cx.freed := by
  simp only [Gang.dropReserved, Gang.enlist, Cx.freed, Cx.getLsbD_low, decide_not]

theorem Tab.look_filter_of_key {α : Type} {t : Tab α} {p : Nat × α → Bool} {x : Nat} (h : ∀ v, p (x, v) = true) :
    Tab.look (t.filter p) x = Tab.look t x := by
  induction t with
  | nil => rfl
  | cons e t ih =>
    obtain ⟨k, v⟩ := e
    rw [List.filter_cons]
    by_cases hk : k = x
    · subst hk
      rw [if_pos (h v), Tab.look_cons, Tab.look_cons, if_pos rfl, if_pos rfl]
    · split
      · rw [Tab.look_cons, Tab.look_cons, if_neg hk, if_neg hk, ih]
      · rw [Tab.look_cons, if_neg hk, ih]

theorem Cx.look_freed (cx : Cx) (rs : Tab Recruit) {l : Nat} (h : l ≠ cx.low) : Tab.look (cx.freed rs) l = Tab.look rs l :=
  Tab.look_filter_of_key fun v => by simp [h]

/-- The state in which u.recruit looks for lanes: what its thread held has been given back, unless a body runs (R193, R195). -/
def Cx.beforeGrant (cx : Cx) (s : State) : State :=
  if cx.body.isSome then s else s.modGang cx.gid (fun g => g.dropReserved (maskOf [cx.low]))

/-- The lanes that a request for some number of them is granted, by gang and lane. -/
def Cx.granted (cx : Cx) (s : State) (count : Nat) : List (Nat × Nat) :=
  if cx.refused s count then [] else (s.lendable cx.b cx.g).take count

/-- The helpers that granted lanes become. -/
def helpersOf (got : List (Nat × Nat)) : List Helper := got.zipIdx.map (fun e => helperFresh (e.2 + 1) e.1.1 e.1.2)

/-- The recruitments after u.recruit, where a running body gives nothing back (R193). -/
def Cx.enrolled (cx : Cx) (got : List (Nat × Nat)) (rs : Tab Recruit) : Tab Recruit :=
  let kept := if cx.body.isSome then rs else cx.freed rs
  if got.isEmpty then kept else Tab.put kept cx.low ⟨helpersOf got, none⟩

/-- The helpers granted, if any, entered for the thread in the lowest lane. -/
def Cx.enroll (cx : Cx) (s : State) (got : List (Nat × Nat)) : State :=
  if got.isEmpty then s else s.modGang cx.gid (Gang.enlist (fun rs => Tab.put rs cx.low ⟨helpersOf got, none⟩))

theorem exec_uRecruit {d a : Reg} {cx : Cx} {s : State} (h : Clear (.uRecruit d a) cx s) :
    let got := cx.granted (cx.beforeGrant s) (min (cx.rd s cx.lowPhys a.toNat).toNat 31)
    exec (.uRecruit d a) s = .next (cx.finish (cx.uniform (cx.enroll (cx.beforeGrant s) got) d 1 (fun _ => got.length))) := by
  show execURecruit d a s = _
  unfold execURecruit
  exact run_clear h _

theorem Cx.enlists_beforeGrant (cx : Cx) (s : State) :
    Enlists s (cx.beforeGrant s) cx.gid (fun rs => if cx.body.isSome then rs else cx.freed rs) := by
  unfold Cx.beforeGrant
  cases cx.body.isSome with
  | true => exact Enlists.refl s cx.gid
  | false =>
    simp only [Bool.false_eq_true, if_false, Cx.dropReserved_low]
    exact Enlists.modGang s cx.gid cx.freed

theorem Cx.enlists_enroll (cx : Cx) (s : State) (got : List (Nat × Nat)) :
    Enlists s (cx.enroll (cx.beforeGrant s) got) cx.gid (cx.enrolled got) := by
  unfold Cx.enroll Cx.enrolled
  cases got.isEmpty with
  | true => exact cx.enlists_beforeGrant s
  | false =>
    simp only [Bool.false_eq_true, if_false]
    exact (cx.enlists_beforeGrant s).trans (Enlists.modGang _ cx.gid (fun rs => Tab.put rs cx.low ⟨helpersOf got, none⟩))

theorem Cx.look_enrolled_other (cx : Cx) (got : List (Nat × Nat)) (rs : Tab Recruit) {l : Nat} (h : l ≠ cx.low) :
    Tab.look (cx.enrolled got rs) l = Tab.look rs l := by
  have hkept : Tab.look (if cx.body.isSome then rs else cx.freed rs) l = Tab.look rs l := by
    split
    · rfl
    · exact cx.look_freed rs h
  unfold Cx.enrolled
  dsimp only
  split
  · exact hkept
  · rw [Tab.look_put, if_neg (Ne.symm h), hkept]

theorem Cx.granted_length_le (cx : Cx) (s : State) (count : Nat) : (cx.granted s count).length ≤ count := by
  unfold Cx.granted
  split
  · exact Nat.zero_le _
  · exact List.length_take_le _ _

theorem Cx.lendable_of_granted {cx : Cx} {s : State} {count : Nat} {e : Nat × Nat} (h : e ∈ cx.granted s count) : e ∈ s.lendable cx.b cx.g := by
  unfold Cx.granted at h
  split at h
  · cases h
  · exact List.mem_of_mem_take h

/-- Why R193 refuses a request for more than zero lanes. -/
theorem Cx.refused_iff (cx : Cx) (s : State) (count : Nat) : cx.refused s count = true ↔
    ((lanesOf cx.active).length ≠ 1 ∨ cx.g.prot = true ∨ cx.g.role = 2 ∨ cx.g.inHandler = true ∨ cx.body ≠ none ∨
      4 ≤ s.recruitments cx.core (cx.g.num % 4)) ∨ count = 0 := by
  simp only [Cx.refused, Bool.or_eq_true, decide_eq_true_eq, Option.isSome_iff_ne_none]
  tauto

theorem map_index_helpersOf (got : List (Nat × Nat)) : (helpersOf got).map Helper.index = (List.range got.length).map (· + 1) := by
  refine List.ext_getElem (by simp [helpersOf]) fun k _ _ => ?_
  simp [helpersOf, helperFresh]

theorem mem_helpersOf {got : List (Nat × Nat)} {h : Helper} (hh : h ∈ helpersOf got) : h.iter = none ∧ (h.gang, h.lane) ∈ got := by
  obtain ⟨e, he, rfl⟩ := List.mem_map.mp hh
  exact ⟨rfl, List.fst_mem_of_mem_zipIdx he⟩

/-- A lane that a gang without reserved helpers could grant can be granted by that gang as it was: what makes a lender does not rest on
its recruitments. -/
theorem Enlists.lendable {s t : State} {gid : Nat} {f : Tab Recruit → Tab Recruit} (ht : Enlists s t gid f) {b : Block} {g : Gang}
    {e : Nat × Nat} (he : e ∈ t.lendable b g) : (e.1 = g.num ∧ g.exited.getLsbD e.2 = true ∧ g.dmask.getLsbD e.2 = false) ∨
      ∃ n x, n ≠ g.num ∧ n % 4 = g.num % 4 ∧ s.gang? (gangId b.bid n) = some x ∧ x.num = e.1 ∧ x.lender = true ∧
        x.dmask.getLsbD e.2 = false := by
  rcases State.mem_lendable.mp he with hown | ⟨n, -, ⟨hne, -, hquad⟩, hlent⟩
  · obtain ⟨he, -, hd, -, hx⟩ := State.mem_freeLanes.mp hown
    exact .inl ⟨he, hx, hd⟩
  · obtain ⟨x, hx, hlender, hfree⟩ := State.mem_lentBy.mp hlent
    obtain ⟨he, -, hd, -, -⟩ := State.mem_freeLanes.mp hfree
    rw [ht.gangs] at hx
    split at hx
    · obtain ⟨y, hy, rfl⟩ := Option.map_eq_some_iff.mp hx
      exact .inr ⟨n, y, hne, hquad, hy, he.symm, hlender, hd⟩
    · exact .inr ⟨n, x, hne, hquad, hx, he.symm, hlender, hd⟩

/-- What u.recruit grants, enters and writes (R193, R194). -/
theorem exec_uRecruit_effect {d a : Reg} {cx : Cx} {s : State} (h : Clear (.uRecruit d a) cx s) :
    let got := cx.granted (cx.beforeGrant s) (min (cx.rd s cx.lowPhys a.toNat).toNat 31)
    ∃ t, exec (.uRecruit d a) s = .next t ∧
      OnlyRegs cx s t (cx.g.enlist (cx.enrolled got)) (cx.keysIn (cx.g.expand cx.active) d 1) cx.next ∧
      Holds cx t (cx.g.expand cx.active) d 1 (fun _ => got.length) := by
  intro got
  obtain ⟨hholds, honly⟩ := finish_uniform_of_enlists h.issued (cx.enlists_enroll s got) d got.length
  exact ⟨_, exec_uRecruit h, honly, hholds⟩

/-- A request that R193 does not refuse is granted as many of the lanes of R192 as it asks for, as far as they go. -/
theorem Cx.granted_length {cx : Cx} {s : State} {count : Nat} (hr : cx.refused s count = true → count = 0) {own : Gang} (hb : cx.b.gangs.Nodup)
    (hnum : ∀ k x, s.gang? (gangId cx.b.bid k) = some x → x.num = k) (hown : s.gang? (gangId cx.b.bid cx.g.num) = some own)
    (hdead : own.dmask = cx.g.dmask) (hexit : own.exited = cx.g.exited) {free : List (Nat × Nat)} (hn : free.Nodup)
    (hfree : ∀ e, e ∈ free ↔ cx.grantable s e) : (cx.granted s count).length = min count free.length := by
  have hperm : free.Perm (s.lendable cx.b cx.g) := (List.perm_ext_iff_of_nodup hn (State.nodup_lendable hb hnum)).mpr fun e =>
    (hfree e).trans (State.mem_lendable_iff_grantable hnum hown hdead hexit e).symm
  unfold Cx.granted
  split
  · next href => simp [hr href]
  · rw [List.length_take, hperm.length_eq]

theorem Cx.beforeGrant_of_body_none {cx : Cx} (h : cx.body = none) (s : State) :
    cx.beforeGrant s = s.modGang cx.gid (fun g => g.dropReserved (maskOf [cx.low])) := by
  unfold Cx.beforeGrant
  rw [h]
  rfl

/-- What u.recruit refuses, it refuses whatever its thread held before. -/
theorem Cx.refused_beforeGrant {cx : Cx} {s : State} {count : Nat}
    (h : (lanesOf cx.active).length ≠ 1 ∨ cx.g.prot = true ∨ cx.g.role = 2 ∨ cx.g.inHandler = true ∨ cx.body ≠ none ∨
      4 ≤ (s.modGang cx.gid (fun g => g.dropReserved (maskOf [cx.low]))).recruitments cx.core (cx.g.num % 4)) :
    cx.refused (cx.beforeGrant s) count = true := by
  by_cases hb : cx.body = none
  · rw [Cx.beforeGrant_of_body_none hb]
    exact (cx.refused_iff _ count).mpr (.inl h)
  · exact (cx.refused_iff _ count).mpr (.inl (.inr (.inr (.inr (.inr (.inl hb))))))

theorem Cx.granted_of_refused {cx : Cx} {s : State} {count : Nat} (h : cx.refused s count = true) : cx.granted s count = [] := if_pos h

/-- With lanes granted, they are the thread's helpers. -/
theorem Cx.look_enrolled {cx : Cx} {got : List (Nat × Nat)} (h : 0 < got.length) (rs : Tab Recruit) :
    Tab.look (cx.enrolled got rs) cx.low = some ⟨helpersOf got, none⟩ := by
  unfold Cx.enrolled
  rw [List.isEmpty_eq_false_iff.mpr (List.ne_nil_of_length_pos h)]
  exact Tab.look_put_self _ _ _

theorem exec_uHrel {cx : Cx} {s : State} (h : Clear .uHrel cx s) :
    exec .uHrel s = .next (cx.finish (s.modGang cx.gid (fun g => g.dropReserved (maskOf [cx.low])))) := by
  show execUHrel s = _
  unfold execUHrel
  exact run_clear h _

/-- u.hrel changes the recruitments of its gang alone (R195, R196). -/
theorem exec_uHrel_effect {cx : Cx} {s : State} (h : Clear .uHrel cx s) : ∃ t, exec .uHrel s = .next t ∧
    OnlyRegs cx s t (cx.g.enlist cx.freed) [] cx.next := by
  refine ⟨_, exec_uHrel h, ?_⟩
  rw [Cx.finish_eq]
  simp only [Cx.dropReserved_low]
  exact OnlyRegs.put (cxOf_gang h.issued) [] (Gang.enlist cx.freed) (fun k => s.gang?_modGang cx.gid k _) rfl (fun c => ⟨_, rfl⟩)
    cx.next cx.ready false (fun _ _ _ _ _ _ => rfl) rfl rfl rfl rfl rfl

/-! ### u.hloop (R197, R198) -/

/-- The loop that u.hloop enters. -/
def Cx.newLoop (cx : Cx) (s : State) (d a : Reg) (b : Src) : Loop :=
  ⟨cx.rd s cx.lowPhys a.toNat, cx.rd s cx.lowPhys (a.toNat + 1), (cx.srcWord s cx.lowPhys b).toNat, 0, 0, [], 0, 0, cx.next,
    pcBase cx.pc + BitVec.ofNat 64 (16 * d.toNat) + 4, none, cx.g.fmode, cx.g.ftrap, 0, false, [], cx.g.snapshot s cx.cyc cx.low,
    cx.g.layers.length⟩

/-- The helpers that the lowest lane has reserved. -/
def Cx.reserved (cx : Cx) : List Helper := ((Tab.look cx.g.recruits cx.low).map Recruit.helpers).getD []

/-- A gang whose lowest lane enters a loop. -/
def Cx.enterLoop (cx : Cx) (l : Loop) (g : Gang) : Gang := { g with recruits := Tab.put g.recruits cx.low ⟨cx.reserved, some l⟩ }

/-- A gang whose lowest lane takes iteration 0 of a loop. -/
def Cx.firstIteration (cx : Cx) (l : Loop) (g : Gang) : Gang :=
  ((cx.enterLoop l g).modLoop cx.low (fun y => { y with
    taken := 1
    iter0 := some 0 })).frame cx.low 0 l 0

theorem exec_uHloop {d a : Reg} {b : Src} {cx : Cx} {s : State} (h : Clear (.uHloop d a b) cx s) : exec (.uHloop d a b) s =
    .next (if (cx.newLoop s d a b).count = 0 then cx.goto (s.modGang cx.gid (cx.enterLoop (cx.newLoop s d a b))) (cx.newLoop s d a b).jpc
    else cx.finish (s.modGang cx.gid (fun g => (cx.firstIteration (cx.newLoop s d a b) g).deal cx.low (cx.cyc + 1)))) := by
  show execUHloop d a b s = _
  unfold execUHloop
  exact run_clear h _

theorem State.modGang_modGang (s : State) (gid : Nat) (f h : Gang → Gang) : (s.modGang gid f).modGang gid h = s.modGang gid (fun g => h (f g)) := by
  simp only [State.modGang, Tab.modify_modify]

section Moved

variable {cx : Cx} {s : State} {F : Gang → Gang} {g : Gang} {pc : Dword} {ready : Nat} {enter : Bool}

/-- Only the issuer's gang has changed, and of its registers only those of frames. -/
theorem OnlyGang.modGang (hg : s.gang? cx.gid = some cx.g) (hF : OtherFrames cx.g (F cx.g)) :
    OnlyGang cx s ((s.modGang cx.gid F).modGang cx.gid (cx.moveGang pc ready enter)) [] := by
  have hregs : (cx.moveGang pc ready enter (F cx.g)).regs = (F cx.g).regs := by
    unfold Cx.moveGang
    split <;> rfl
  refine ⟨fun k hk _ => ?_, fun k hk => ?_, fun c => ⟨_, rfl⟩, rfl⟩
  · rw [State.modGang_modGang, State.reg, State.reg, State.gang?_modGang_self, hg]
    exact (congrArg (Tab.getD · k 0) hregs).trans (hF.regs hk)
  · rw [State.modGang_modGang, State.gang?_modGang, if_neg (Ne.symm hk)]

theorem State.gang?_moved (hg : s.gang? cx.gid = some cx.g) :
    ((s.modGang cx.gid F).modGang cx.gid (cx.moveGang pc ready enter)).gang? cx.gid = some (cx.moveGang pc ready enter (F cx.g)) := by
  rw [State.modGang_modGang, State.gang?_modGang_self, hg, Option.map_some]

/-- A split that has moved on to a PC. -/
def Split.movedTo (x : Split) (pc : Dword) (ready : Nat) (enter : Bool) : Split :=
  { x with
    pc := pc
    readyAt := ready
    again := false
    packet := if enter then none else stay x.pc x.packet pc }

theorem Cx.moveGang_split (h : cx.index = 0) : cx.moveGang pc ready enter g =
    { g with tree := g.tree.modSplit cx.place (fun x => x.movedTo pc ready enter) } := by
  unfold Cx.moveGang
  rw [if_pos h]
  rfl

/-- The issuing split of a gang that differs in frames and recruitments stands at the PC it was moved to. -/
theorem SplitAt.moved (hg : s.gang? cx.gid = some cx.g) (h0 : cx.index = 0) (hF : OtherFrames cx.g (F cx.g)) {x : Split}
    (hx : Tab.look cx.g.tree.splits cx.place = some x) (hp : x.park = .ready) (hm : x.mask = cx.active) :
    SplitAt cx ((s.modGang cx.gid F).modGang cx.gid (cx.moveGang pc ready enter)) pc := by
  refine ⟨_, x.movedTo pc ready enter, State.gang?_moved hg, ?_, rfl, hp, hm⟩
  rw [Cx.moveGang_split h0, hF.tree]
  simp only [Tree.modSplit, Tab.look_modify, if_true, hx, Option.map_some]

theorem LoopIs.moved (hg : s.gang? cx.gid = some cx.g) (h0 : cx.index = 0) {lane : Nat} {hs : List Helper} {l : Loop}
    (h : Tab.look (F cx.g).recruits lane = some ⟨hs, some l⟩) :
    LoopIs ((s.modGang cx.gid F).modGang cx.gid (cx.moveGang pc ready enter)) cx.gid lane hs l :=
  ⟨_, State.gang?_moved hg, by rw [Cx.moveGang_split h0]; exact h⟩

theorem FrameIs.moved (hg : s.gang? cx.gid = some cx.g) (h0 : cx.index = 0) (hF : OtherFrames cx.g (F cx.g)) {lane index : Nat} {iter : Word}
    (h : (F cx.g).HasFrame lane index iter) :
    FrameIs cx ((s.modGang cx.gid F).modGang cx.gid (cx.moveGang pc ready enter)) lane index iter := fun p hp n hn => by
  rw [State.reg, State.gang?_moved hg, Cx.moveGang_split h0]
  exact (hF.hasFrame_iff lane index iter).mp h p hp n hn

end Moved

theorem Loop.indexOf_zero (l : Loop) : l.indexOf 0 = l.start := by
  simp [Loop.indexOf]

/-- After iteration 0 has begun. -/
def Loop.begun (l : Loop) : Loop := { l with
  taken := 1
  iter0 := some 0 }

theorem Cx.look_enterLoop (cx : Cx) (l : Loop) (g : Gang) :
    Tab.look (cx.enterLoop l g).recruits cx.low = some ⟨cx.reserved, some l⟩ := Tab.look_put_self _ _ _

theorem Cx.look_firstIteration (cx : Cx) (l : Loop) (g : Gang) :
    Tab.look (cx.firstIteration l g).recruits cx.low = some ⟨cx.reserved, some l.begun⟩ := by
  rw [Cx.firstIteration, Gang.frame_recruits]
  simp only [Gang.modLoop, Tab.look_modify, if_true, Cx.look_enterLoop, Option.map_some]
  rfl

theorem Cx.firstIteration_otherFrames (cx : Cx) (l : Loop) (g : Gang) : OtherFrames g (cx.firstIteration l g) :=
  ((OtherFrames.of_recruits g _).trans (OtherFrames.of_recruits _ _)).trans (Gang.frame_otherFrames _ _ _ _ _)

theorem Cx.enterLoop_otherFrames (cx : Cx) (l : Loop) (g : Gang) : OtherFrames g (cx.enterLoop l g) := OtherFrames.of_recruits g _

/-- With a count of zero the recruiter goes to the join (R197). -/
theorem exec_uHloop_none {d a : Reg} {b : Src} {cx : Cx} {s : State} (h : Clear (.uHloop d a b) cx s) (h0 : (cx.newLoop s d a b).count = 0) :
    ∃ t, exec (.uHloop d a b) s = .next t ∧ OnlyGang cx s t [] ∧ LoopIs t cx.gid cx.low cx.reserved (cx.newLoop s d a b) ∧
      ∀ x, Tab.look cx.g.tree.splits cx.place = some x → x.park = .ready → SplitAt cx t (cx.newLoop s d a b).jpc := by
  have hg := cxOf_gang h.issued
  obtain ⟨hindex, y, hy, hmask⟩ := cxOf_split_of_body_none h.issued (Cx.body_of_placed_uHloop h.placed)
  have hother := cx.enterLoop_otherFrames (cx.newLoop s d a b) cx.g
  refine ⟨_, (exec_uHloop h).trans (congrArg _ ((if_pos h0).trans (Cx.goto_eq ..))), OnlyGang.modGang hg hother,
    LoopIs.moved hg hindex (cx.look_enterLoop _ _), fun x hx hp => SplitAt.moved hg hindex hother hx hp ?_⟩
  obtain rfl := Option.some.inj (hy.symm.trans hx)
  exact hmask

/-- With a count above zero the recruiter takes iteration 0, and each helper the next one left (R197, R198). -/
theorem exec_uHloop_some {d a : Reg} {b : Src} {cx : Cx} {s : State} (h : Clear (.uHloop d a b) cx s) (h0 : (cx.newLoop s d a b).count ≠ 0) :
    ∃ t, exec (.uHloop d a b) s = .next t ∧ OnlyGang cx s t [] ∧
      ((∀ x ∈ cx.reserved, x.Free) → (cx.reserved.map Helper.index).Nodup →
        let l := cx.newLoop s d a b
        FrameIs cx t cx.low 0 l.start ∧
        (∃ served, LoopIs t cx.gid cx.low served (l.begun.takenTo (min l.count (cx.reserved.length + 1))) ∧
          served.map (fun x => (x.index, x.iter)) = (cx.reserved.zipIdx 1).map (dealt l.count)) ∧
        (∀ (k : Nat) (x : Helper), cx.reserved[k]? = some x → k + 1 < l.count → FrameIs cx t cx.low x.index (l.indexOf (k + 1))) ∧
        ∀ x, Tab.look cx.g.tree.splits cx.place = some x → x.park = .ready → SplitAt cx t cx.next) := by
  have hg := cxOf_gang h.issued
  obtain ⟨hindex, y, hy, hmask⟩ := cxOf_split_of_body_none h.issued (Cx.body_of_placed_uHloop h.placed)
  have hexec := (exec_uHloop h).trans (congrArg Host.Outcome.next ((if_neg h0).trans (Cx.finish_eq ..)))
  have hstop : (cx.newLoop s d a b).stopped = false := rfl
  generalize cx.newLoop s d a b = l at h0 hexec hstop ⊢
  have hother := (cx.firstIteration_otherFrames l cx.g).trans (Gang.deal_otherFrames _ cx.low (cx.cyc + 1))
  have hlook := cx.look_firstIteration l cx.g
  refine ⟨_, hexec, OnlyGang.modGang hg hother, fun hfree hnodup => ?_⟩
  obtain ⟨⟨served, hserved, hmap⟩, hframes, hkeep⟩ := Gang.foldl_dealOne (done := []) (todo := cx.reserved) hlook hstop
    (Nat.pos_of_ne_zero h0) hfree hnodup (cx.cyc + 1)
  have hdeal : (cx.firstIteration l cx.g).deal cx.low (cx.cyc + 1) = cx.reserved.foldl (Gang.dealOne cx.low (cx.cyc + 1))
      (cx.firstIteration l cx.g) := Gang.deal_of_look hlook _
  rw [← hdeal] at hserved hframes hkeep
  have hzero : 0 ∉ cx.reserved.map Helper.index := fun h => by
    obtain ⟨x, hx, hxi⟩ := List.mem_map.mp h
    have := (hfree x hx).2.2.1
    omega
  refine ⟨FrameIs.moved hg hindex hother (hkeep 0 _ hzero (l.indexOf_zero ▸ Gang.hasFrame_frame _ cx.low 0 l 0)),
    ⟨served, LoopIs.moved hg hindex ?_, hmap⟩, fun k x hx hk => FrameIs.moved hg hindex hother ?_,
    fun x hx hp => SplitAt.moved hg hindex hother hx hp ?_⟩
  · rw [Nat.add_comm cx.reserved.length 1]
    exact hserved
  · rw [Nat.add_comm k 1]
    exact hframes k x hx (Nat.add_comm k 1 ▸ hk)
  · obtain rfl := Option.some.inj (hy.symm.trans hx)
    exact hmask

/-- Settles O31: u.recruit changes recruitments before it writes the number of lanes granted; u.hloop deals iterations to a list of free
helpers one after the other. -/
theorem helperLoops : Obligations.HelperLoops := by
  refine fun cx s => ⟨fun d a h => ?_, exec_uHrel_effect, fun d a b h => ?_, fun d a b h hwhere => ?_⟩
  · intro freed asked refused
    obtain ⟨t, hexec, honly, hholds⟩ := exec_uRecruit_effect h
    refine ⟨t, _, _, hexec, honly, hholds, cx.granted_length_le _ _, fun hr => ?_, fun hr hgid hb hnum free hn hfree => ?_,
      fun l hl => cx.look_enrolled_other _ _ hl, fun hpos => ⟨_, Cx.look_enrolled hpos _, map_index_helpersOf _, fun x hx => ?_⟩⟩
    · rw [Cx.granted_of_refused (Cx.refused_beforeGrant hr)]
      rfl
    · have hbody : cx.body = none := by
        by_contra hne
        exact hr (.inr (.inr (.inr (.inr (.inl hne)))))
      rw [Cx.beforeGrant_of_body_none hbody]
      refine Cx.granted_length (fun href => (((cx.refused_iff _ _).mp href).resolve_left hr)) hb hnum
        (own := cx.g.dropReserved (maskOf [cx.low])) ?_ rfl rfl hn hfree
      rw [← hgid, State.gang?_modGang_self, cxOf_gang h.issued, Option.map_some]
    · obtain ⟨hiter, hgot⟩ := mem_helpersOf hx
      exact ⟨hiter, (cx.enlists_beforeGrant s).lendable (Cx.lendable_of_granted hgot)⟩
  · intro count start stride jpc hs
    by_cases h0 : count = 0
    · obtain ⟨t, hexec, honly, hloop, hat⟩ := exec_uHloop_none h h0
      exact ⟨t, cx.newLoop s d a b, hexec, honly, rfl, rfl, rfl, rfl, rfl, rfl, rfl, fun _ => ⟨hloop, rfl, hat⟩, fun hne => absurd h0 hne⟩
    · obtain ⟨t, hexec, honly, hrun⟩ := exec_uHloop_some h h0
      refine ⟨t, (cx.newLoop s d a b).begun.takenTo (min count (hs.length + 1)), hexec, honly, rfl, rfl, rfl, rfl, rfl, rfl, rfl,
        fun hz => absurd hz h0, fun _ hfree hn => ?_⟩
      obtain ⟨hframe, ⟨served, hloop, hmap⟩, hframes, hat⟩ := hrun hfree hn
      refine ⟨rfl, rfl, hframe, ⟨served, hloop, hmap.trans ?_⟩, hframes, hat⟩
      rw [List.zipIdx_eq_map_add, List.map_map]
      refine List.map_congr_left fun e _ => ?_
      simp only [Function.comp, dealt, Nat.add_comm 1]
      rfl
  · exact exec_of_trap rfl h.issued (h.hindrance_of_misplaced (Cx.misplaced_uHloop hwhere d a b))

end Sys2Proof.Machine
end

/-! Proofs/LoopJoins.lean: u.hjoin of a helper that bears the recruiter's own participant index 0 (R191, R202, R203). -/
section

namespace Sys2Proof.Machine

open Sys2Proof

/-- u.hjoin without a reduction, always, and two nops. -/
def joinPacket : Packet := ⟨0x10000, 0x0300C030, 0xBA000000, 0xF7000000, 0xF7000000⟩

/-- A loop of lane 0 over two iterations, both taken, that ends at 0x10004. -/
def takenLoop : Loop where
  start := 0
  stride := 1
  count := 2
  taken := 2
  done := 1
  acc := []
  op := 0
  accReg := 0
  first := 0x10004
  jpc := 0x10004
  iter0 := none
  fmode := 0
  ftrap := 0
  flags := 0
  stopped := false
  heldIters := []
  snap := []
  depth := 0

/-- Lane 5 as the helper of index 0 that runs iteration 1 and stands at the join. -/
def zerothHelper : Helper := ⟨0, 0, 5, some 1, 0x10004, some joinPacket, 0, false, false, 0, 0⟩

/-- The recruiter's gang: lane 0's split, at place 0, waits at its last u.hjoin. -/
def zerothGang : Gang :=
  { Gang.fresh 0 0 0 256 false false false 0x10004 0 0 0 with
    tree := (Tree.start 1 0x10004 0).modSplit 0 (fun x => { x with park := .loop })
    recruits := [(0, ⟨[zerothHelper], some takenLoop⟩)] }

def zerothS : State := { State.reset.placeWord 32 0xBA000000 with
  gangs := [(0, zerothGang)]
  issue := some ⟨0, 0, .helper 0 0⟩ }

def zerothCx : Cx where
  bid := 0
  gid := 0
  core := 0
  asid := 0
  g := zerothGang
  b := Block.fresh 0 0 0 0 0 0 false [0] 32768 0 0 false
  place := 200
  body := some 0
  index := 0
  hlane := 5
  pc := 0x10004
  kind := joinPacket.kind
  ctl := joinPacket.ctl 1
  active := 1
  perform := 1
  cyc := 0
  lat := (Instr.uHjoin 0 0 0).latency

theorem zeroth_clear : Clear (.uHjoin 0 0 0) zerothCx zerothS where
  issued := by decide +kernel
  wellFormed := rfl
  inBudget := by decide +kernel
  inBody := by decide +kernel
  inHandler := nofun
  returning := nofun
  unpredicated := by decide +kernel
  placed := by decide +kernel
  inBlock := rfl
  free := rfl
  sound := by decide +kernel
  performed := by decide
  legal := by decide +kernel
  role := rfl
  settled := by decide +kernel
  level := nofun
  agreed := by decide +kernel
  noHeldLoad := rfl
  noHeldMatrix := rfl
  noHeldCopy := rfl
  noWait := nofun

/-- The split at a place of a gang, in what an instruction leaves. -/
def splitLeft (o : Host.Outcome State Fault Refusal) (gid place : Nat) : Option Split :=
  match o with
  | .next t => (t.gang? gid).bind (fun g => Tab.look g.tree.splits place)
  | _ => none

/-- No split stands at the place that a helper's context names, before and after its u.hjoin. -/
theorem zeroth_left : splitLeft (exec (.uHjoin 0 0 0) zerothS) zerothCx.gid zerothCx.place = none := by decide +kernel

/-- Refutes O32: the statement takes every participant of index 0 for the recruiter (R191). A helper that bears this index has no split of its
own (R199): it waits for iterations still running, and no split is parked at its place. No run reaches such a state, as u.recruit numbers
helpers from 1 on; the statement does not ask for that. -/
theorem not_loopJoins : ¬ Obligations.LoopJoins := by
  intro h
  obtain ⟨-, hjoin⟩ := h 0 0 0 zerothCx zerothS
  obtain ⟨-, hgoes⟩ := hjoin 0 [zerothHelper] takenLoop 0 zeroth_clear rfl (by decide) rfl rfl rfl (by decide) (by decide +kernel)
  obtain ⟨-, hwaits, -⟩ := hgoes 0 0 rfl rfl (by decide)
  obtain ⟨t, -, hexec, -, -, -, -, -, g, y, hg, hy, -⟩ := hwaits rfl (by decide) ⟨zerothHelper, List.mem_singleton_self _, by decide⟩
  have hleft := zeroth_left
  rw [hexec, splitLeft, hg, Option.bind_some, hy] at hleft
  cases hleft

end Sys2Proof.Machine
end

/-! Proofs/TrapEntry.lean: a fault while another split of the gang has half of a 16-byte read of the cellar (R209, R212, R468). -/
section

namespace Sys2Proof.Machine

open Sys2Proof

/-- Entry to a handler drops what the host has returned of reads that are still to be completed: they issue again (R209, R468). -/
theorem Gang.halves_entered (g : Gang) (cyc : Nat) (t : Trap) (pc : Dword) : (g.entered cyc t pc).halves = [] := rfl

/-- The handler's gang that the statement describes has the halves of the gang before. -/
theorem Enters.halves {s t : State} {gid : Nat} {g : Gang} {b : Block} {cause : Nat} {lanes : Mask} {pc addr info : Dword} {place : Nat}
    {handler : Dword} {system : Bool} (h : Enters s t gid g b cause lanes pc addr info place handler system) :
    (t.gang? gid).map Gang.halves = some g.halves := by
  obtain ⟨hgang, -, -⟩ := h
  rw [hgang]
  rfl

/-- The first half of a 16-byte u.ld of the split at place 1, whose lowest lane is 16. -/
def firstHalf : HalfRead := ⟨(1, 0, 0), 16, 0x20000, [1, 2, 3, 4, 5, 6, 7, 8]⟩

/-- Two splits: that of lanes 0 to 15 issues, that of lanes 16 to 31 has to issue its u.ld again for the other half. -/
def halfReadGang : Gang :=
  { Gang.fresh 0 0 0 256 false false false 0x10004 0 0 0 with
    tree := { Tree.start (lowMask 32) 0x10004 0 with splits :=
      [(0, Split.new 0 (lowMask 16) 0x10004 0),
        (1, { Split.new 0 (lowMask 32 &&& ~~~lowMask 16) 0x10008 0 with again := true })] }
    halves := [firstHalf] }

/-- The issuing split stands at a word that is no instruction; the cellar is on the fallback mapping. -/
def halfReadS : State := { State.reset.placeWord 32 0xFF000000 with
  gangs := [(0, halfReadGang)]
  link := .fallback }

def halfReadBlock : Block := Block.fresh 0 0 0 0 0 0 false [0] 32768 0 0 false

def halfReadCx : Cx where
  bid := 0
  gid := 0
  core := 0
  asid := 0
  g := halfReadGang
  b := halfReadBlock
  place := 0
  body := none
  index := 0
  hlane := 0
  pc := 0x10004
  kind := 0
  ctl := 48
  active := lowMask 16
  perform := lowMask 16
  cyc := 0
  lat := none

theorem halfRead_opsBusy : halfReadGang.opsBusy = false := by decide

/-- The illegal word's trap is entered at the system level, and the half is gone. -/
theorem halfRead_fault :
    ((halfReadCx.fault halfReadS 0x01 (lowMask 16) 0 0).gang? 0).map Gang.halves = some [] := by
  obtain ⟨pc, hentered⟩ := State.takeTrap_gang? (s := halfReadS) (gid := 0) (t := ⟨0x01, lowMask 16, 0x10004, 0, 0, 0⟩)
    (g := halfReadGang) (b := halfReadBlock) rfl rfl rfl rfl rfl halfRead_opsBusy
  have hleft : ((halfReadCx.fault halfReadS 0x01 (lowMask 16) 0 0).gang? 0).map Gang.halves = _ := congrArg (Option.map Gang.halves) hentered
  rw [hleft, Option.map_some, Gang.halves_entered]

/-- Refutes O17: entry to a handler drops the first halves of the gang's 16-byte reads of the cellar (R468), as a read that is not complete
issues again (R209). The statement names everything that changes in the gang and leaves these as they were. -/
theorem not_trapEntry : ¬ Obligations.TrapEntry := by
  intro h
  obtain ⟨hfault, -⟩ := h
  have hquiet : (halfReadGang.cancelLater 0).opsBusy = false := by
    rw [Gang.cancelLater_idle _ _ halfRead_opsBusy, halfRead_opsBusy]
  obtain ⟨henters, -⟩ := hfault halfReadCx halfReadBlock halfReadS 0x01 (lowMask 16) 0 0 rfl rfl rfl rfl hquiet (by decide)
  obtain ⟨-, -, hsystem⟩ := henters (.inl rfl)
  have hkept := (hsystem fun hdelegated => absurd hdelegated (by decide)).halves
  exact absurd (halfRead_fault.symm.trans hkept) (by decide)

end Sys2Proof.Machine
end

/-! Proofs/HardwareErrors.lean: poisoned words, spoiled writes and reads, and the death of a gang (R56, R61, R219 to R223, R273, R457, R458). -/
section

namespace Sys2Proof.Machine

open Sys2Proof

/-! ### Poisoned words (R273, R457) -/

section Marks

variable (s : State)

/-- Marks of a line's words are cleared; the words of another line keep theirs. -/
theorem State.mark_clearMarks_other {line w : Nat} (h : w / 32 ≠ line) : (s.clearMarks line).mark w = s.mark w := by
  refine List.foldlRecOn (motive := fun t : State => t.mark w = s.mark w) _ _ rfl fun t ht x hx => ?_
  obtain ⟨i, hi, rfl⟩ := List.mem_map.mp hx
  have hne : line * 32 + i ≠ w := by
    have := List.mem_range.mp hi
    omega
  rw [State.mark_setMark, if_neg hne, ht]

theorem State.mark_atticAdd (slots : List Nat) (w : Nat) : (s.atticAdd slots).mark w = s.mark w :=
  foldl_keeps (fun t : State => t.mark w) _ (by intros; rfl) _ _

theorem State.mark_spillLine_other {line w : Nat} (h : w / 32 ≠ line) : (s.spillLine line).mark w = s.mark w := by
  have hclear : ((s.fillIn line).clearMarks line).mark w = s.mark w := State.mark_clearMarks_other _ h
  unfold State.spillLine
  split
  · exact (State.mark_atticAdd _ _ w).trans hclear
  · exact hclear

/-- A line that takes a shelf record drives others out, and keeps its own marks. -/
theorem State.mark_shelve (w : Nat) : (s.shelve (w / 32)).mark w = s.mark w := by
  have hspill : ∀ e : SliceEntry, ((e.lines.filter (· ≠ w / 32)).foldl State.spillLine s).mark w = s.mark w := fun e => by
    refine List.foldlRecOn (motive := fun t : State => t.mark w = s.mark w) _ _ rfl fun t ht l hl => ?_
    have hne : l ≠ w / 32 := by simpa using (List.mem_filter.mp hl).2
    rw [t.mark_spillLine_other hne.symm, ht]
  unfold State.shelve
  dsimp only
  split
  · rfl
  · split
    · exact hspill _
    · rfl

theorem State.mark_poisonWord (w : Nat) : (s.poisonWord w).mark w = { s.mark w with poison := true } := by
  have hset : (s.setMark w { s.mark w with poison := true }).mark w = { s.mark w with poison := true } := by
    rw [State.mark_setMark, if_pos rfl]
  unfold State.poisonWord
  dsimp only
  split
  · exact hset
  · rw [State.mark_shelve, hset]

end Marks

/-- An error in a stash word, or in a word whose line its slice holds, poisons the word; at most a hit is counted besides. -/
theorem exec_memoryPoison {s : State} {pa : Nat}
    (h : isStashKey pa = true ∨ (isHbm pa = true ∨ isCellar pa = true) ∧ s.holdsLine (pa / 128) = true) :
    ∃ u : State, exec (.memoryPoison pa) s = .next (u.poisonWord (pa / 4)) ∧ u.mark (pa / 4) = s.mark (pa / 4) ∧ u.mem = s.mem ∧
      u.gangs = s.gangs ∧ u.cores = s.cores := by
  show ∃ u : State, execMemoryPoison pa s = _ ∧ _
  unfold execMemoryPoison
  cases hstash : isStashKey pa with
  | true => exact ⟨s, rfl, rfl, rfl, rfl, rfl⟩
  | false =>
    obtain ⟨hmem, hheld⟩ := h.resolve_left (by simp [hstash])
    have hfill : s.fillHome 0 1 (pa / 128) = some (s.perf (homeDie (pa / 128)) 5 1) := by
      unfold State.fillHome
      simp only [hheld, if_true]
    have hplace : (!isHbm pa && !isCellar pa) = false := by
      rcases hmem with h | h <;> simp [h]
    refine ⟨s.perf (homeDie (pa / 128)) 5 1, ?_, rfl, rfl, rfl, rfl⟩
    simp only [hplace, hfill, Bool.false_eq_true, if_false]

/-! ### Parity errors (R458) -/

theorem State.errstat_raiseErr (s : State) (n : Nat) : (s.raiseErr n).errstat.testBit n = true := by
  unfold State.raiseErr
  split
  · assumption
  · next h =>
    show (s.errstat + 2 ^ n).testBit n = true
    rw [Nat.add_comm, Nat.testBit_two_pow_add_eq]
    simpa using h

theorem State.inbound_raiseErr (s : State) (n : Nat) : (s.raiseErr n).inbound = s.inbound :=
  (congrArg State.inbound (s.offMemory_raiseErr n) :)

theorem State.parityRead_raiseErr (s : State) (n : Nat) : (s.raiseErr n).parityRead = s.parityRead :=
  (congrArg State.parityRead (s.offMemory_raiseErr n) :)

/-- The only inbound write, and the one named: its word at the offset is spoiled. -/
theorem exec_ioParityError_hit {s : State} {x : Inbound} (h : s.inbound = [x]) (offset : Nat) : exec (.ioParityError x.id offset) s =
    .next (State.raiseErr { s with inbound := [{ x with spoiled := x.spoiled ++ [(x.base + offset) / 4] }] } 8) := by
  show execIoParityError x.id offset s = _
  unfold execIoParityError
  simp [h]

/-- No inbound write has the number: the next read from the cellar is lost. -/
theorem exec_ioParityError_miss {s : State} {id : Nat} (h : ∀ x ∈ s.inbound, x.id ≠ id) (offset : Nat) :
    exec (.ioParityError id offset) s = .next (State.raiseErr { s with parityRead := true } 8) := by
  have hmiss : s.inbound.any (fun x => x.id = id) = false := by simpa using h
  show execIoParityError id offset s = _
  unfold execIoParityError
  simp only [hmiss, Bool.false_eq_true, if_false]

/-! ### What the device's writes leave of the cores -/

def Core.offL1 (c : Core) : Core := { c with l1 := [] }

/-- The cores without their L1s. -/
def State.coresOffL1 (s : State) : Tab Core := s.cores.map (fun e => (e.1, e.2.offL1))

theorem State.laneDeath_of_coresOffL1 {s t : State} (h : t.coresOffL1 = s.coresOffL1) (c : Nat) :
    (t.core c).laneDeath = (s.core c).laneDeath := by
  have hdeath : ∀ u : State, (u.core c).laneDeath = ((Tab.look u.coresOffL1 c).getD Core.reset).laneDeath := fun u => by
    rw [State.coresOffL1, Tab.look_map_val (fun _ => Core.offL1)]
    unfold State.core Tab.getD
    cases Tab.look u.cores c <;> rfl
  rw [hdeath, hdeath, h]

theorem State.core_of_cores {s t : State} (h : t.cores = s.cores) (c : Nat) : t.core c = s.core c :=
  congrArg (fun cs => Tab.getD cs c Core.reset) h

theorem State.cores_of_offHomes {s t : State} (h : t.offHomes = s.offHomes) : t.cores = s.cores := (congrArg State.cores h :)
theorem State.gangs_of_offHomes {s t : State} (h : t.offHomes = s.offHomes) : t.gangs = s.gangs := (congrArg State.gangs h :)

theorem State.coresOffL1_of_offHomes {s t : State} (h : t.offHomes = s.offHomes) : t.coresOffL1 = s.coresOffL1 :=
  (congrArg State.coresOffL1 h :)

section CoresOffL1

variable (s : State)

@[simp] theorem State.coresOffL1_staleCopies (but : Option Nat) (a n : Nat) : (s.staleCopies but a n).coresOffL1 = s.coresOffL1 := by
  unfold State.staleCopies State.coresOffL1
  rw [List.map_map]
  refine List.map_congr_left fun e _ => ?_
  rw [Function.comp_apply]
  split <;> rfl

@[simp] theorem State.coresOffL1_raiseErr (n : Nat) : (s.raiseErr n).coresOffL1 = s.coresOffL1 := by
  unfold State.raiseErr
  split <;> rfl

@[simp] theorem State.coresOffL1_homeWrite (by_ : Option Nat) (a : Nat) (bs : List Byte) :
    (s.homeWrite by_ a bs).coresOffL1 = s.coresOffL1 := by
  unfold State.homeWrite
  dsimp only
  split
  · exact s.coresOffL1_staleCopies by_ a bs.length
  · exact (foldl_keeps State.coresOffL1 _ (fun t l => State.coresOffL1_of_offHomes (t.offHomes_unshare l)) _ _).trans
      (s.coresOffL1_staleCopies by_ a bs.length)

theorem State.coresOffL1_moved (old new : Nat) :
    (((s.moveRewritten old new).copyBytes (old * 128) (new * 128) 128).staleCopies none (new * 128) 128).coresOffL1 = s.coresOffL1 := by
  have hrewritten : (s.moveRewritten old new).coresOffL1 = s.coresOffL1 :=
    foldl_keeps State.coresOffL1 _ (by intros; rfl) _ _
  rw [State.coresOffL1_staleCopies, ← hrewritten]
  refine foldl_keeps State.coresOffL1 _ (fun t i => ?_) _ _
  split <;> rfl

@[simp] theorem State.coresOffL1_pull (m : Migration) (i : Nat) : (s.pull m i).coresOffL1 = s.coresOffL1 := by
  unfold State.pull
  extract_lets old new t missed s1 s2 s3 key s4 b
  have hmissed : missed.coresOffL1 = s.coresOffL1 := by
    unfold missed
    split <;> rfl
  have h1 : s1.coresOffL1 = s.coresOffL1 := by
    unfold s1
    split
    · rfl
    · split
      · exact hmissed
      · exact (State.coresOffL1_of_offHomes (missed.offHomes_unspillLine old)).trans hmissed
  clear_value s1
  have h2 : s2.coresOffL1 = s.coresOffL1 := (s1.coresOffL1_moved old new).trans h1
  clear_value s2
  have h3 : s3.coresOffL1 = s.coresOffL1 := (foldl_keeps State.coresOffL1 _ (by intros; rfl) _ s2).trans h2
  clear_value s3
  have h4 : s4.coresOffL1 = s.coresOffL1 := h3
  calc _ = ((s4.shelve new).homeWrite none (m.bitmap + i / 8) [b]).coresOffL1 := rfl
    _ = (s4.shelve new).coresOffL1 := State.coresOffL1_homeWrite _ _ _ _
    _ = s4.coresOffL1 := State.coresOffL1_of_offHomes (s4.offHomes_shelve new)
    _ = s.coresOffL1 := h4

@[simp] theorem State.coresOffL1_pullLines (a n : Nat) : (s.pullLines a n).coresOffL1 = s.coresOffL1 := by
  refine foldl_keeps State.coresOffL1 _ (fun t l => ?_) _ _
  unfold State.pullFirst
  split
  · rfl
  · split
    · rfl
    · exact t.coresOffL1_pull _ _

@[simp] theorem State.coresOffL1_deviceWrite (a : Nat) (bs : List Byte) : (s.deviceWrite a bs).coresOffL1 = s.coresOffL1 := by
  unfold State.deviceWrite
  split
  · split
    · rfl
    · rw [State.coresOffL1_homeWrite, State.coresOffL1_pullLines]
  · split
    · split
      · rfl
      · exact s.coresOffL1_raiseErr 6
    · split
      · rfl
      · split
        · exact s.coresOffL1_raiseErr 5
        · exact s.coresOffL1_homeWrite none a bs

/-- A record in a fault queue changes of the cores only copies in their L1s. -/
@[simp] theorem State.coresOffL1_faultRecord (asid kind : Nat) (ws : List Nat) : (s.faultRecord asid kind ws).coresOffL1 = s.coresOffL1 := by
  unfold State.faultRecord
  split
  · rfl
  · dsimp only
    split
    · unfold State.fqStore
      calc _ = (((s.pullLines _ 8).deviceWrite _ _).deviceWrite _ _).coresOffL1 := rfl
        _ = s.coresOffL1 := by simp
    · exact s.coresOffL1_pullLines _ 8

end CoresOffL1

/-! ### Gangs with the same lanes -/

/-- Two gangs that agree in everything that says which of their lanes live (R56, R59, R488). -/
structure SameLanes (g h : Gang) : Prop where
  role : h.role = g.role
  prot : h.prot = g.prot
  dmask : h.dmask = g.dmask
  exited : h.exited = g.exited
  ended : h.ended = g.ended

theorem SameLanes.refl (g : Gang) : SameLanes g g := ⟨rfl, rfl, rfl, rfl, rfl⟩

theorem SameLanes.trans ⦃g h k : Gang⦄ (hgh : SameLanes g h) (hhk : SameLanes h k) : SameLanes g k :=
  ⟨hhk.role.trans hgh.role, hhk.prot.trans hgh.prot, hhk.dmask.trans hgh.dmask, hhk.exited.trans hgh.exited, hhk.ended.trans hgh.ended⟩

theorem SameLanes.live {g h : Gang} (hgh : SameLanes g h) : h.live = g.live := by
  obtain ⟨hrole, hprot, hdmask, hexited, -⟩ := hgh
  simp only [Gang.live, Gang.dead, Gang.width, Gang.phys, hrole, hprot, hdmask, hexited]

/-- Dropping dead lanes' accesses changes a gang's pending loads and their counters. -/
theorem Gang.dropLoads_frame (g : Gang) (phys : List Nat) : ∃ ldas acs, g.dropLoads phys = { g with ldas := ldas, acs := acs } := by
  have hclose : ∀ (x : Gang) (id : Nat), ∃ ldas acs, x.closeLda id = { x with ldas := ldas, acs := acs } := fun x id => by
    unfold Gang.closeLda
    split
    · exact ⟨_, _, rfl⟩
    · split
      · exact ⟨_, _, rfl⟩
      · dsimp only
        split <;> split <;> exact ⟨_, _, rfl⟩
  refine List.foldlRecOn (motive := fun x : Gang => ∃ ldas acs, x = { g with ldas := ldas, acs := acs }) _ _ ⟨_, _, rfl⟩ ?_
  rintro x ⟨_, _, rfl⟩ l -
  obtain ⟨_, _, h⟩ := hclose (Gang.modLda { g with ldas := _, acs := _ } l.id (fun y => { y with
    pending := y.pending.filter (fun lw => !phys.contains lw.1),
    held := y.held.filter (fun e => !phys.contains e.1) })) l.id
  exact ⟨_, _, h⟩

/-- Setting flags leaves every gang its lanes. -/
theorem State.sameLanes_setFlags (s : State) (gid cyc : Nat) (ws : FlagWrites) : GangsRel SameLanes s (s.setFlags gid cyc ws) := by
  unfold State.setFlags
  split
  · exact GangsRel.refl SameLanes.refl s
  · next g hg =>
    refine GangsRel.trans SameLanes.trans (t := s.countLatent gid _ _) ?_ (GangsRel.modGang SameLanes.refl fun x => ?_)
    · exact fun k x hx => ⟨x, (s.countLatent_gang? _ _ _ k).trans hx, SameLanes.refl x⟩
    · obtain ⟨_, _, _, _, _, _, hw⟩ := x.writes_frame _ cyc none
      rw [hw]
      exact ⟨rfl, rfl, rfl, rfl, rfl⟩

/-- A gang whose registers hold no error has none to log (R219). -/
theorem State.setFlags_cores_of_sound {s : State} {gid : Nat} {g : Gang} (hg : s.gang? gid = some g) (hbad : g.bad = []) (cyc : Nat)
    (ws : FlagWrites) : (s.setFlags gid cyc ws).cores = s.cores := by
  unfold State.setFlags
  simp only [hg]
  show (s.countLatent gid _ _).cores = s.cores
  simp [State.countLatent, State.addLatent, hg, hbad]

theorem State.sameLanes_helperFault (s : State) (gid lane index : Nat) (t : Trap) :
    GangsRel SameLanes s (s.helperFault gid lane index t) :=
  GangsRel.modGang SameLanes.refl fun _ => ⟨rfl, rfl, rfl, rfl, rfl⟩

/-- The loss of lent lanes changes recruitments only (R208). -/
theorem State.loseHelpers_spec (s : State) (b : Block) (num : Nat) (phys : List Nat) :
    (s.loseHelpers b num phys).offGangs = s.offGangs ∧ GangsRel SameLanes s (s.loseHelpers b num phys) := by
  unfold State.loseHelpers
  constructor
  · refine foldl_keeps State.offGangs _ (fun t n => ?_) _ _
    dsimp only
    split
    · rfl
    · exact foldl_keeps State.offGangs _ (fun u e => by split <;> rfl) _ _
  · refine GangsRel.foldl SameLanes.refl SameLanes.trans (fun t n => ?_) _ _
    dsimp only
    split
    · exact GangsRel.refl SameLanes.refl t
    · refine GangsRel.foldl SameLanes.refl SameLanes.trans (fun u e => ?_) _ _
      split
      · exact u.sameLanes_helperFault _ _ _ _
      · exact GangsRel.modGang SameLanes.refl fun _ => ⟨rfl, rfl, rfl, rfl, rfl⟩

/-! ### The death of every live lane (R56, R220, R222, R223) -/

theorem Gang.width_le (g : Gang) : g.width ≤ 32 := by
  unfold Gang.width
  split
  · decide
  · split <;> decide

/-- A visible lane is live where the gang has it, no copy of it is dead, and it has not exited. -/
theorem Gang.getLsbD_live (g : Gang) (l : Nat) : g.live.getLsbD l = true ↔
    l < g.width ∧ (∀ p ∈ g.phys l, g.dmask.getLsbD p = false) ∧ g.exited.getLsbD l = false := by
  have hw := g.width_le
  have hlow : (lowMask g.width).getLsbD l = decide (l < g.width) := by
    rw [lowMask, BitVec.getLsbD_ofNat, Nat.testBit_two_pow_sub_one]
    by_cases hl : l < g.width
    · simp [hl, Nat.lt_of_lt_of_le hl hw]
    · simp [hl]
  by_cases hl : l < g.width
  · have h32 := Nat.lt_of_lt_of_le hl hw
    have hdead : g.dead.getLsbD l = (g.phys l).any (fun p => g.dmask.getLsbD p) := by
      rw [Gang.dead, getLsbD_maskOf, Bool.eq_iff_iff]
      simp [hl, h32]
    rw [Gang.live, BitVec.getLsbD_and, BitVec.getLsbD_and, BitVec.getLsbD_not, BitVec.getLsbD_not, hlow, hdead]
    simp [hl, h32]
  · simp [Gang.live, hlow, hl]

/-- Lanes of a live visible lane are among the 32 of the gang. -/
theorem Gang.lt_of_mem_expand_live {g : Gang} {p : Nat} (h : p ∈ g.expand g.live) : p < 32 := by
  obtain ⟨l, hl, hp⟩ := List.mem_flatMap.mp h
  obtain ⟨hwidth, -, -⟩ := (g.getLsbD_live l).mp (mem_lanesOf.mp hl).2
  have hw := g.width_le
  unfold Gang.phys at hp
  unfold Gang.width at hwidth
  split at hp
  · next hprot =>
    simp only [Bool.and_eq_true, decide_eq_true_eq] at hprot
    simp only [hprot.2, hprot.1, if_false, if_true] at hwidth
    simp only [List.mem_cons, List.not_mem_nil, or_false] at hp
    omega
  · simp only [List.mem_singleton] at hp
    unfold Gang.width at hw
    omega

/-- The copies of the visible lanes that some physical lanes carry, as a mask. -/
def Gang.bodies (g : Gang) (phys : List Nat) : Mask := maskOf (phys.flatMap (fun p => g.phys (g.vis p)))

theorem Gang.getLsbD_bodies_live (g : Gang) {p : Nat} (h : p ∈ g.expand g.live) : (g.bodies (g.expand g.live)).getLsbD p = true := by
  obtain ⟨-, hown⟩ := Gang.mem_expand h
  rw [Gang.bodies, getLsbD_maskOf, Bool.and_eq_true, decide_eq_true_eq, decide_eq_true_eq]
  exact ⟨Gang.lt_of_mem_expand_live h, List.mem_flatMap.mpr ⟨p, h, hown⟩⟩

/-- A gang all of whose live lanes have died. -/
def Gang.allDead (g : Gang) : Gang := { g with dmask := g.dmask ||| g.bodies (g.expand g.live) }

theorem Gang.live_allDead (g : Gang) : g.allDead.live = 0 := by
  refine BitVec.eq_of_getLsbD_eq fun l hl => ?_
  refine (Bool.eq_false_iff.mpr fun hlive => ?_).trans BitVec.getLsbD_zero.symm
  obtain ⟨hwidth, hphys, hexited⟩ := (g.allDead.getLsbD_live l).mp hlive
  have hsound : ∀ p ∈ g.phys l, g.dmask.getLsbD p = false ∧ (g.bodies (g.expand g.live)).getLsbD p = false := fun p hp => by
    simpa [Gang.allDead] using hphys p hp
  have hbefore : g.live.getLsbD l = true := (g.getLsbD_live l).mpr ⟨hwidth, fun p hp => (hsound p hp).1, hexited⟩
  obtain ⟨p, hp⟩ : ∃ p, p ∈ g.phys l := by
    unfold Gang.phys
    split <;> exact ⟨_, List.mem_cons_self⟩
  have hmem : p ∈ g.expand g.live := List.mem_flatMap.mpr ⟨l, mem_lanesOf.mpr ⟨hl, hbefore⟩, hp⟩
  exact absurd ((hsound p hp).2.symm.trans (g.getLsbD_bodies_live hmem)) (by decide)

/-- What a gang is that ends (R47, R57). -/
def Gang.atEnd (g : Gang) : Gang := { g with
  ended := true
  tree := ⟨[], [], 0, 0⟩
  layers := []
  pending := none
  recruits := g.recruits.filter (fun r => r.2.helpers.any (fun h => h.iter.isSome)) }

/-- A gang whose splits at a rendezvous look again (R362). -/
def Gang.looksAgain (cyc : Nat) (g : Gang) : Gang := { g with tree := { g.tree with splits := g.tree.splits.map (fun p =>
  (p.1, if p.2.park.meets then { p.2 with park := .ready, since := cyc, readyAt := cyc + 1 } else p.2)) } }

/-- The partners of a gang in its quartet look again. -/
def State.partnersLook (s : State) (g : Gang) (b : Block) (cyc : Nat) : State :=
  b.gangs.foldl (fun t n =>
    if g.role = 1 && n / 4 = g.num / 4 && n ≠ g.num then t.modGang (gangId b.bid n) (Gang.looksAgain cyc) else t) s

theorem State.partnersLook_spec (s : State) (g : Gang) (b : Block) (cyc : Nat) :
    GangsRel SameLanes s (s.partnersLook g b cyc) ∧ (s.partnersLook g b cyc).cores = s.cores := by
  refine ⟨GangsRel.foldl SameLanes.refl SameLanes.trans (fun t n => ?_) _ _, foldl_keeps State.cores _ (fun t n => ?_) _ _⟩
  · split
    · exact GangsRel.modGang SameLanes.refl fun _ => ⟨rfl, rfl, rfl, rfl, rfl⟩
    · exact GangsRel.refl SameLanes.refl t
  · split <;> rfl

/-- The end of a gang leaves every gang its lanes and the cores as they are; its team may end with it. -/
theorem State.endGang_spec {s : State} {gid : Nat} {g : Gang} (hg : s.gang? gid = some g) (cyc : Nat) :
    GangsRel SameLanes (s.modGang gid Gang.atEnd) (s.endGang gid cyc) ∧ (s.endGang gid cyc).cores = s.cores := by
  unfold State.endGang
  simp only [hg]
  split
  · exact ⟨GangsRel.refl SameLanes.refl _, rfl⟩
  · next b _ => split <;> exact (s.modGang gid Gang.atEnd).partnersLook_spec g b cyc

theorem State.settleGang_of_no_live {s : State} {gid : Nat} {g : Gang} (hg : s.gang? gid = some g) (he : g.ended = false) (hl : g.live = 0)
    (cyc : Nat) : s.settleGang gid cyc = s.endGang gid cyc := by
  unfold State.settleGang
  simp [hg, he, hl]

/-- What dying lanes leave of their gang's tree and of the gangs that had them lent (R56, R208). -/
theorem State.dropLanes_spec {s : State} {gid : Nat} {g : Gang} (hg : s.gang? gid = some g) (cyc : Nat) (m : Mask) :
    GangsRel SameLanes s (s.dropLanes gid cyc m) ∧ (g.bad = [] → (s.dropLanes gid cyc m).cores = s.cores) := by
  unfold State.dropLanes
  simp only [hg]
  constructor
  · refine GangsRel.trans SameLanes.trans ?_ (State.sameLanes_setFlags _ _ _ _)
    exact GangsRel.modGang SameLanes.refl fun _ => ⟨rfl, rfl, rfl, rfl, rfl⟩
  · intro hbad
    refine State.setFlags_cores_of_sound ((State.gang?_modGang_self ..).trans (congrArg (Option.map _) hg)) ?_ _ _
    exact hbad

/-- A gang some of whose visible lanes have died, with their copies. -/
def Gang.struck (vis gone : Mask) (g : Gang) : Gang :=
  { (g.loseRecruits vis).dropLoads (lanesOf gone) with
    dmask := g.dmask ||| gone
    tmask := if g.inHandler then g.tmask &&& ~~~vis else g.tmask }

theorem Gang.struck_spec (g : Gang) (vis gone : Mask) :
    SameLanes { g with dmask := g.dmask ||| gone } (g.struck vis gone) ∧ (g.struck vis gone).bad = g.bad := by
  obtain ⟨_, _, h⟩ := (g.loseRecruits vis).dropLoads_frame (lanesOf gone)
  unfold Gang.struck
  rw [h]
  exact ⟨⟨rfl, rfl, rfl, rfl, rfl⟩, rfl⟩

/-- Lanes have died, each with its record and counted in the core; whether the gang ends is still to be seen (R56, R223). -/
def State.strikeLanes (s : State) (gid : Nat) (g : Gang) (b : Block) (kind : Nat) (phys : List (Nat × Nat)) (pc : Dword) : State :=
  let vis := maskOf (phys.map (fun p => g.vis p.1))
  let gone := g.bodies (phys.map Prod.fst)
  let u := ((s.modGang gid (Gang.struck vis gone)).dropLanes gid (s.cycle b.core) vis).loseHelpers b g.num (lanesOf gone)
  (phys.foldl (fun t p => t.faultRecord b.asid 3 (deathWords kind b.slot g.num p.1 p.2 pc)) u).modCore b.core
    (fun c => { c with laneDeath := satAdd 32 c.laneDeath phys.length })

section Death

variable {s : State} {gid : Nat} {g : Gang} {b : Block}

theorem State.killLanes_eq (hg : s.gang? gid = some g) (hb : s.block? g.bid = some b) (kind : Nat) (phys : List (Nat × Nat)) (pc : Dword) :
    s.killLanes gid kind phys pc = (s.strikeLanes gid g b kind phys pc).settleGang gid (s.cycle b.core) := by
  unfold State.killLanes State.strikeLanes Gang.bodies
  simp only [hg, hb, List.flatMap_map]
  rfl

/-- The gang has its new dead lanes; where none of its registers held an error, the core counts these deaths alone. -/
theorem State.strikeLanes_spec (hg : s.gang? gid = some g) (kind : Nat) (phys : List (Nat × Nat)) (pc : Dword) :
    let t := s.strikeLanes gid g b kind phys pc
    (∃ h, t.gang? gid = some h ∧ SameLanes { g with dmask := g.dmask ||| g.bodies (phys.map Prod.fst) } h) ∧
      (g.bad = [] → (t.core b.core).laneDeath = satAdd 32 (s.core b.core).laneDeath phys.length) := by
  unfold State.strikeLanes
  extract_lets vis gone u
  obtain ⟨hlanes, hbad⟩ := g.struck_spec vis gone
  have hstruck : (s.modGang gid (Gang.struck vis gone)).gang? gid = some (g.struck vis gone) := by
    rw [State.gang?_modGang_self, hg, Option.map_some]
  obtain ⟨hdrop, hcores⟩ := State.dropLanes_spec hstruck (s.cycle b.core) vis
  obtain ⟨hoff, hlose⟩ := State.loseHelpers_spec ((s.modGang gid (Gang.struck vis gone)).dropLanes gid (s.cycle b.core) vis) b g.num
    (lanesOf gone)
  let records : State := phys.foldl (fun t p => t.faultRecord b.asid 3 (deathWords kind b.slot g.num p.1 p.2 pc)) u
  constructor
  · obtain ⟨h, hh, hsame⟩ := GangsRel.trans SameLanes.trans hdrop hlose gid _ hstruck
    have hgangs : records.gangs = u.gangs :=
      State.gangs_of_offMemory (foldl_keeps State.offMemory _ (fun t p => t.offMemory_faultRecord _ _ _) _ u)
    refine ⟨h, ?_, SameLanes.trans hlanes hsame⟩
    exact (congrArg (fun gs => Tab.look gs gid) hgangs).trans hh
  · intro hsound
    have hlost := (congrArg State.cores hoff :)
    have hu : u.cores = s.cores := hlost.trans (hcores (hbad.trans hsound))
    have hrecords : (records.core b.core).laneDeath = (u.core b.core).laneDeath :=
      State.laneDeath_of_coresOffL1 (foldl_keeps State.coresOffL1 _ (fun t p => t.coresOffL1_faultRecord _ _ _) _ u) b.core
    rw [State.core_modCore, if_pos rfl]
    show satAdd 32 (records.core b.core).laneDeath phys.length = _
    rw [hrecords, State.core_of_cores hu]

/-- What is left of a gang and its core where every live lane has died. -/
def State.Extinct (s t : State) (gid core : Nat) (g : Gang) : Prop :=
  ∃ h, t.gang? gid = some h ∧ h.ended = true ∧ (∀ p ∈ g.expand g.live, h.dmask.getLsbD p = true) ∧
    (g.bad = [] → (t.core core).laneDeath = satAdd 32 (s.core core).laneDeath (g.expand g.live).length)

/-- Every live lane of a gang dies, whatever the error: the gang ends. -/
theorem State.killLanes_live (hg : s.gang? gid = some g) (hb : s.block? g.bid = some b) (he : g.ended = false) (kind reg : Nat) (pc : Dword) :
    s.Extinct (s.killLanes gid kind ((g.expand g.live).map (fun p => (p, reg))) pc) gid b.core g := by
  obtain ⟨⟨h, hh, hsame⟩, hdeaths⟩ := State.strikeLanes_spec (b := b) hg kind ((g.expand g.live).map (fun p => (p, reg))) pc
  rw [List.map_map] at hsame
  have hids : (g.expand g.live).map (Prod.fst ∘ fun p => (p, reg)) = g.expand g.live := List.map_id _
  rw [hids] at hsame
  rw [State.killLanes_eq hg hb, State.settleGang_of_no_live hh (hsame.ended.trans he) (hsame.live.trans g.live_allDead)]
  obtain ⟨hrel, hcores⟩ := State.endGang_spec hh (s.cycle b.core)
  obtain ⟨h', hh', hend⟩ := hrel gid h.atEnd ((State.gang?_modGang_self ..).trans (congrArg _ hh))
  refine ⟨h', hh', hend.ended, fun p hp => ?_, fun hsound => ?_⟩
  · have hmask : h'.dmask = g.dmask ||| g.bodies (g.expand g.live) := hend.dmask.trans hsame.dmask
    rw [hmask, BitVec.getLsbD_or, g.getLsbD_bodies_live hp, Bool.or_true]
  · rw [State.core_of_cores hcores, hdeaths hsound, List.length_map]

end Death

/-! ### Errors in a gang's state, and squashes (R61, R220, R222) -/

theorem exec_gangStateError {s : State} {bid n : Nat} {g : Gang} (hg : s.gang? (gangId bid n) = some g) (he : g.ended = false) :
    ∃ pc, exec (.gangStateError bid n) s =
      .next (s.killLanes (gangId bid n) 1 ((g.expand g.live).map (fun p => (p, 0x1FF))) pc) := by
  show ∃ pc, execGangStateError bid n s = _
  unfold execGangStateError
  simp only [hg, he, Bool.false_eq_true, if_false]
  exact ⟨_, rfl⟩

/-- One squash more in a core's count, and a change of the split that was squashed. -/
def State.squashed (s : State) (gid core place : Nat) (f : Split → Split) : State :=
  (s.modCore core (fun c => { c with squash := satAdd 32 c.squash 1 })).modSplit gid place f

theorem State.squashed_gang? {s : State} {gid : Nat} {g : Gang} (hg : s.gang? gid = some g) (core place : Nat) (f : Split → Split) :
    (s.squashed gid core place f).gang? gid = some { g with tree := g.tree.modSplit place f } := by
  rw [State.squashed, State.gang?_modSplit, State.gang?_modCore, hg, Option.map_some]

theorem State.squashed_core (s : State) (gid core place : Nat) (f : Split → Split) :
    (s.squashed gid core place f).core core = { s.core core with squash := satAdd 32 (s.core core).squash 1 } := by
  rw [State.squashed, State.modSplit, State.core_modGang, State.core_modCore, if_pos rfl]

section Squash

variable {s : State} {bid n place : Nat} {g : Gang} {b : Block} {x : Split}
variable (hg : s.gang? (gangId bid n) = some g) (hb : s.block? bid = some b) (hx : Tab.look g.tree.splits place = some x)
  (hp : g.prot = true)

include hg hb hx hp

theorem exec_scoreboardSquash_counts (hn : x.squash < 15) : exec (.scoreboardSquash bid n place) s =
    .next (s.squashed (gangId bid n) b.core place (fun y => { y with squash := y.squash + 1 })) := by
  show execScoreboardSquash bid n place s = _
  unfold execScoreboardSquash
  simp only [hg, hb, hx, hp, hn, Bool.not_true, Bool.false_eq_true, if_false, if_true]
  rfl

/-- The sixteenth squash in a row is fatal. -/
theorem exec_scoreboardSquash_kills (hn : x.squash = 15) : exec (.scoreboardSquash bid n place) s =
    .next ((s.squashed (gangId bid n) b.core place (fun y => { y with squash := 0 })).killLanes (gangId bid n) 2
      ((g.expand g.live).map (fun q => (q, 0x1FF))) x.pc) := by
  show execScoreboardSquash bid n place s = _
  unfold execScoreboardSquash
  simp only [hg, hb, hx, hp, hn, Bool.not_true, Bool.false_eq_true, if_false, Nat.lt_irrefl]
  rfl

end Squash

/-- A squash changes nothing that the death of the gang's lanes rests on. -/
theorem State.Extinct.of_squashed {s t : State} {gid core place : Nat} {g : Gang} {f : Split → Split}
    (h : (s.squashed gid core place f).Extinct t gid core { g with tree := g.tree.modSplit place f }) : s.Extinct t gid core g := by
  obtain ⟨g', hg', hended, hmask, hdeath⟩ := h
  rw [State.squashed_core] at hdeath
  exact ⟨g', hg', hended, hmask, hdeath⟩

theorem Tree.look_modSplit (t : Tree) (place q : Nat) (f : Split → Split) :
    Tab.look (t.modSplit place f).splits q = if q = place then (Tab.look t.splits q).map f else Tab.look t.splits q := by
  rw [Tree.modSplit, Tab.look_modify]
  exact if_congr eq_comm rfl rfl

/-- Settles O55: poison by what a poisoned word's mark and its line's shelf record are, parity errors by the inbound write they name, and the
death of a gang by `State.killLanes_live`, for an error in its state as for the sixteenth squash. -/
theorem hardwareErrors : Obligations.HardwareErrors := by
  refine fun s => ⟨fun pa hpa => ?_, fun id offset => ⟨fun x hx hid => ?_, fun hmiss => ?_⟩,
    fun bid n g b hg hb he => ⟨?_, fun x place hbid hx hp => ⟨fun hn => ?_, fun hn => ?_⟩⟩⟩
  · obtain ⟨u, hexec, hmark, hmem, hgangs, hcores⟩ := exec_memoryPoison hpa
    have hoff := u.offHomes_poisonWord (pa / 4)
    refine ⟨_, hexec, ?_, ?_, (State.mem_of_offHomes hoff).trans hmem,
      (State.gangs_of_offHomes hoff).trans hgangs, (State.cores_of_offHomes hoff).trans hcores⟩
    · rw [State.mark_poisonWord]
    · rw [State.mark_poisonWord, hmark]
  · subst hid
    exact ⟨_, exec_ioParityError_hit hx offset, State.errstat_raiseErr _ 8, State.inbound_raiseErr _ 8, State.parityRead_raiseErr _ 8⟩
  · exact ⟨_, exec_ioParityError_miss hmiss offset, State.errstat_raiseErr _ 8, State.inbound_raiseErr _ 8, State.parityRead_raiseErr _ 8⟩
  · obtain ⟨pc, hexec⟩ := exec_gangStateError hg he
    obtain ⟨h, hdead⟩ := State.killLanes_live hg hb he 1 0x1FF pc
    exact ⟨_, h, hexec, hdead⟩
  · refine ⟨_, _, exec_scoreboardSquash_counts hg hbid hx hp hn, State.squashed_gang? hg _ _ _, fun q => ?_, rfl,
      s.squashed_core _ _ _ _, fun k hk => State.gang?_modSplit_other _ hk _ _, rfl⟩
    rw [Tree.look_modSplit]
    split
    · next hq => rw [hq, hx, Option.map_some]
    · rfl
  · obtain ⟨h, hdead⟩ := (State.killLanes_live (State.squashed_gang? hg _ _ _) hb he 2 0x1FF x.pc).of_squashed
    exact ⟨_, h, exec_scoreboardSquash_kills hg hbid hx hp hn, hdead⟩

end Sys2Proof.Machine
end

/-! Proofs/MemoryForm.lean: what it takes to keep memory in its one form (R237, R239, R487), and that tables, homes and L1s do (R242 to R273,
R285, R435, R465). -/
section

namespace Sys2Proof.Machine

open Sys2Proof

/-! ### Results that carry states, all of them with memory in its one form -/

/-- An outcome that leaves memory in its one form. -/
def OutcomeKept : Host.Outcome State Fault Refusal → Prop
  | .next t => MemoryKept t
  | _ => True

/-- A state that may be missing. -/
def SomeKept : Option State → Prop
  | some t => MemoryKept t
  | none => True

section

variable {s t : State}

theorem MemoryKept.of_mem (h : MemoryKept s) (e : t.mem = s.mem) : MemoryKept t := by rwa [MemoryKept, e]

theorem MemoryKept.ite {c : Prop} {_ : Decidable c} (hs : MemoryKept s) (ht : MemoryKept t) : MemoryKept (if c then s else t) := by
  split <;> assumption

theorem MemoryKept.elim {α : Type} {o : Option α} {f : α → State} (h : MemoryKept s) (hf : ∀ a, MemoryKept (f a)) :
    MemoryKept (o.elim s f) := by
  cases o
  · exact h
  · exact hf _

theorem MemoryKept.foldl {α : Type} {f : State → α → State} {l : List α} (h : MemoryKept s)
    (hf : ∀ t x, MemoryKept t → MemoryKept (f t x)) : MemoryKept (l.foldl f s) := by
  induction l generalizing s with
  | nil => exact h
  | cons x l ih => exact ih (hf s x h)

/-- The state in the first place of a pair, folded over a list. -/
theorem MemoryKept.foldl_fst {α β : Type} {f : State × β → α → State × β} {l : List α} {a : State × β} (h : MemoryKept a.1)
    (hf : ∀ a x, MemoryKept a.1 → MemoryKept (f a x).1) : MemoryKept (l.foldl f a).1 := by
  induction l generalizing a with
  | nil => exact h
  | cons x l ih => exact ih (hf a x h)

theorem SomeKept.get {o : Option State} (h : SomeKept o) (e : o = some t) : MemoryKept t := by rwa [e] at h

theorem SomeKept.getD {o : Option State} (h : SomeKept o) (hs : MemoryKept s) : MemoryKept (o.getD s) := by
  cases o
  · exact hs
  · exact h

theorem SomeKept.map {o : Option State} {f : State → State} (h : SomeKept o) (hf : ∀ t, MemoryKept t → MemoryKept (f t)) :
    SomeKept (o.map f) := by
  cases o
  · trivial
  · exact hf _ h

theorem SomeKept.bind {o : Option State} {f : State → Option State} (h : SomeKept o) (hf : ∀ t, MemoryKept t → SomeKept (f t)) :
    SomeKept (o.bind f) := by
  cases o
  · trivial
  · exact hf _ h

theorem SomeKept.ite {c : Prop} {_ : Decidable c} {o p : Option State} (ho : SomeKept o) (hp : SomeKept p) :
    SomeKept (if c then o else p) := by
  split <;> assumption

end

section

variable {s : State} {a n k w line core asid hint bid slot va event pa : Nat} {bs : List Byte} (h : MemoryKept s)

include h

/-! ### What is changed beside memory -/

theorem MemoryKept.modGang {f : Gang → Gang} : MemoryKept (s.modGang k f) := h
theorem MemoryKept.modBlock {f : Block → Block} : MemoryKept (s.modBlock k f) := h
theorem MemoryKept.modTeam {f : Team → Team} : MemoryKept (s.modTeam k f) := h
theorem MemoryKept.modCore {f : Core → Core} : MemoryKept (s.modCore k f) := h
theorem MemoryKept.modDie {f : Die → Die} : MemoryKept (s.modDie k f) := h
theorem MemoryKept.modStack {f : Stack → Stack} : MemoryKept (s.modStack k f) := h
theorem MemoryKept.modQueue {f : Queue → Queue} : MemoryKept (s.modQueue k f) := h
theorem MemoryKept.modBoard {f : Board → Board} : MemoryKept (s.modBoard k f) := h
theorem MemoryKept.setMark {m : Mark} : MemoryKept (s.setMark w m) := h
theorem MemoryKept.perf : MemoryKept (s.perf k event n) := h
theorem MemoryKept.logReplay {e : LogEntry} : MemoryKept (s.logReplay e) := h
theorem MemoryKept.raiseErr : MemoryKept (s.raiseErr n) := .ite h h

theorem MemoryKept.countRelease : MemoryKept (s.countRelease bid) := by
  unfold State.countRelease
  split <;> exact h

theorem MemoryKept.install {x : Walk} : MemoryKept (s.install core asid va x) := by
  unfold State.install
  split <;> exact h

theorem MemoryKept.installAll {v : Viewer} : MemoryKept (s.installAll v va n) := .ite h (h.foldl fun _ _ ht => ht.install)

/-! ### Bytes in memory -/

theorem MemoryKept.writeBytes : MemoryKept (s.writeBytes a bs) := Memory.wf_writes a bs h

/-- Memory without some of its cells, in a state that else may be any. -/
theorem MemoryKept.filter {t : State} (p : Host.Cell → Bool) (e : t.mem = s.mem.filter p) : MemoryKept t := by
  rw [MemoryKept, e]
  exact Memory.wf_filter p h

theorem MemoryKept.copyBytes : MemoryKept (s.copyBytes a k n) := by
  refine h.foldl fun t i ht => ?_
  split
  · exact Memory.wf_write _ _ ht
  · show Memory.wf (if _ then _ else _)
    split
    · exact Memory.wf_write _ _ ht
    · exact Memory.wf_erase _ ht

/-! ### Home slices (R245, R246, R258, R268 to R273) -/

theorem MemoryKept.spillLine : MemoryKept (s.spillLine line) := h.of_mem (State.mem_of_offHomes (s.offHomes_spillLine line))
theorem MemoryKept.unspillLine : MemoryKept (s.unspillLine line) := h.of_mem (State.mem_of_offHomes (s.offHomes_unspillLine line))
theorem MemoryKept.shelve : MemoryKept (s.shelve line) := h.of_mem (State.mem_of_offHomes (s.offHomes_shelve line))
theorem MemoryKept.unshare : MemoryKept (s.unshare line) := h.of_mem (State.mem_of_offHomes (s.offHomes_unshare line))
theorem MemoryKept.clearPend : MemoryKept (s.clearPend core w) := h.of_mem (State.mem_of_offHomes (s.offHomes_clearPend core w))
theorem MemoryKept.poisonWord : MemoryKept (s.poisonWord w) := h.of_mem (State.mem_of_offHomes (s.offHomes_poisonWord w))
theorem MemoryKept.atticSub {l : List Nat} : MemoryKept (s.atticSub l) := h.of_mem (State.mem_of_offHomes (s.offHomes_atticSub l))
theorem MemoryKept.fillIn : MemoryKept (s.fillIn line) := h
theorem MemoryKept.hollowOut : MemoryKept (s.hollowOut line) := h

theorem MemoryKept.dropEntry {e : SliceEntry} : MemoryKept (s.dropEntry k e) :=
  h.of_mem (State.mem_of_offHomes (s.offHomes_spillLines e.lines))

theorem MemoryKept.leaveSlice : MemoryKept (s.leaveSlice line) := h.spillLine

theorem MemoryKept.snoopOut : MemoryKept (s.snoopOut line) := .ite h (.ite h.leaveSlice h)

theorem MemoryKept.duel : MemoryKept (s.duel asid hint line) := .ite h (.ite h (.ite h h))

theorem MemoryKept.fillHome : SomeKept (s.fillHome asid hint line) := by
  unfold State.fillHome
  extract_lets die moved key s2 set young place
  have hmoved : ∀ {t : State}, MemoryKept t → MemoryKept (moved t) := fun ht => .ite ht ht
  have hplace : ∀ {t : State}, MemoryKept t → MemoryKept (place t) := fun ht => ht
  have h2 : MemoryKept s2 := hmoved h.duel.perf.unspillLine.fillIn
  clear_value moved s2 place
  split
  · exact h
  · split
    · trivial
    · split
      · exact hmoved h.duel.perf
      · split
        · exact hplace h2
        · split
          · exact h2
          · split
            · exact hplace h2.dropEntry
            · trivial

theorem MemoryKept.tagHome : SomeKept (s.tagHome line) := by
  unfold State.tagHome
  extract_lets key s1 place set
  have h1 : MemoryKept s1 := h.unspillLine
  have hplace : ∀ {t : State}, MemoryKept t → MemoryKept (place t) := fun ht => ht
  clear_value s1 place
  split
  · trivial
  · split
    · exact h
    · split
      · exact hplace h1
      · cases set.reverse.find? (fun e => e.lines.all s1.mayLeave) with
        | none => trivial
        | some e => exact hplace h1.dropEntry

theorem MemoryKept.wantRoom {l : List (Nat × Bool)} : MemoryKept (s.wantRoom bid l) := h

theorem MemoryKept.announceAs {t : Toucher} {pend : Option Nat} {stores : Bool} : MemoryKept (s.announceAs t a n pend stores) :=
  have hmarked := h.foldl fun _ _ ht => ht.setMark
  .ite hmarked.perf (hmarked.perf.foldl fun _ _ ht => ht.shelve)

theorem MemoryKept.announce {t : Toucher} {pend : Option Nat} : MemoryKept (s.announce t a n pend) := h.announceAs

theorem MemoryKept.staleCopies {but : Option Nat} : MemoryKept (s.staleCopies but a n) := h

theorem MemoryKept.homeWrite {by_ : Option Nat} : MemoryKept (s.homeWrite by_ a bs) :=
  have hwritten := h.staleCopies.writeBytes
  .ite hwritten (hwritten.foldl fun _ _ ht => ht.unshare)

theorem MemoryKept.homeBack {xs : List (Option Byte)} : MemoryKept (s.homeBack core w xs) := by
  refine MemoryKept.unshare (MemoryKept.clearPend (h.staleCopies.foldl fun t p ht => ?_))
  split
  · exact ht.writeBytes
  · exact Memory.wf_erase _ ht

theorem MemoryKept.forgetSeen : MemoryKept (s.forgetSeen slot) := h
theorem MemoryKept.purgeSlot : MemoryKept (s.purgeSlot slot) := h
theorem MemoryKept.openSlot : MemoryKept (s.openSlot slot) := h

/-! ### Lines of pages that migrate, and the device's own accesses (R286, R435, R465) -/

theorem MemoryKept.moveRewritten : MemoryKept (s.moveRewritten a n) := by
  unfold State.moveRewritten
  exact h.foldl fun _ _ ht => ht

theorem MemoryKept.pull {m : Migration} {i : Nat} : MemoryKept (s.pull m i) := by
  unfold State.pull
  extract_lets old new t missed s1 s2 s3 key s4 b
  have hmissed : MemoryKept missed := .ite h h
  have h1 : MemoryKept s1 := .ite h (.ite hmissed hmissed.unspillLine)
  have h3 : MemoryKept s3 := h1.moveRewritten.copyBytes.staleCopies.foldl fun _ _ ht => ht.setMark.setMark
  clear_value s3
  have h4 : MemoryKept s4 := h3
  exact h4.shelve.homeWrite.perf

theorem MemoryKept.pullFirst : MemoryKept (s.pullFirst line) := by
  unfold State.pullFirst
  split
  · exact h
  · exact .ite h h.pull

theorem MemoryKept.pullAll {ls : List Nat} : MemoryKept (ls.foldl State.pullFirst s) := h.foldl fun _ _ ht => ht.pullFirst

theorem MemoryKept.useTables {v : Viewer} : MemoryKept (s.useTables v va n) := h.pullAll.installAll
theorem MemoryKept.pullFetched {v : Viewer} {pc : Dword} : MemoryKept (s.pullFetched v pc) := h.pullAll
theorem MemoryKept.pullLines : MemoryKept (s.pullLines pa n) := h.pullAll

theorem MemoryKept.deviceWrite : MemoryKept (s.deviceWrite pa bs) :=
  .ite (.ite h h.pullLines.homeWrite) (.ite (.ite h h.raiseErr) (.ite h (.ite h.raiseErr h.homeWrite)))

theorem MemoryKept.flushHeld : MemoryKept s.flushHeld := by
  unfold State.flushHeld
  exact MemoryKept.foldl h fun _ _ ht => ht.deviceWrite

theorem MemoryKept.atHome : SomeKept (s.atHome asid hint line) := by
  unfold State.atHome
  split
  · trivial
  · exact h.fillHome.map fun _ ht => ht.pullFirst

theorem MemoryKept.atHomes {ls : List (Nat × Bool)} : SomeKept (s.atHomes asid hint ls) := by
  induction ls generalizing s with
  | nil => exact h
  | cons l ls ih =>
    refine SomeKept.bind ?_ fun t ht => ih ht
    exact .ite h.atHome (.ite trivial (h.tagHome.map fun _ ht => ht.pullFirst))

/-! ### L1s (R244, R248, R254, R255, R264, R266, R277) -/

theorem MemoryKept.setL1 {f : L1Line → L1Line} : MemoryKept (s.setL1 core line f) := h
theorem MemoryKept.dropL1 : MemoryKept (s.dropL1 core line) := h
theorem MemoryKept.invalidateL1 : MemoryKept (s.invalidateL1 core) := h
theorem MemoryKept.forgetL1 : MemoryKept (s.forgetL1 core a n) := h

theorem MemoryKept.backWord {x : L1Line} {i : Nat} : MemoryKept (s.backWord core x i) := .ite h.clearPend.raiseErr h.homeBack

theorem MemoryKept.backLine {x : L1Line} : MemoryKept (s.backLine core x) := (h.foldl fun _ _ ht => ht.backWord).setL1

theorem MemoryKept.evictL1 : MemoryKept (s.evictL1 core line) := by
  unfold State.evictL1
  split
  · exact h
  · exact h.backLine.dropL1

theorem MemoryKept.writeBackL1 : MemoryKept (s.writeBackL1 core) := h.foldl fun _ _ ht => ht.backLine

theorem MemoryKept.fillL1 : MemoryKept (s.fillL1 core hint a n) := by
  unfold State.fillL1
  extract_lets line
  split
  · exact .ite h h
  · exact MemoryKept.modCore (.ite h.perf (MemoryKept.elim h.perf fun _ => h.perf.evictL1))

theorem MemoryKept.refreshL1 : MemoryKept (s.refreshL1 core a n) := by
  unfold State.refreshL1
  split
  · exact h
  · exact .ite h h

theorem MemoryKept.touchWord : MemoryKept (s.touchWord core slot w) := by
  unfold State.touchWord
  split
  · exact h
  · exact .ite (.ite h.refreshL1 h) (MemoryKept.ite h.refreshL1 h).setL1

theorem MemoryKept.yieldL1 : MemoryKept (s.yieldL1 core a n) := by
  unfold State.yieldL1
  split
  · exact h
  · exact .ite h.evictL1 h

theorem MemoryKept.l1Read {salt : Nat} : MemoryKept (s.l1Read salt core slot hint a n).1 := by
  unfold State.l1Read
  extract_lets dirty s1 s2
  split
  · exact h.refreshL1
  · exact h.fillL1.foldl fun _ _ ht => ht.touchWord

theorem MemoryKept.l1Write : MemoryKept (s.l1Write core hint a bs).1 := by
  unfold State.l1Write
  split
  · exact h.yieldL1.homeWrite.forgetL1
  · exact h.fillL1.setL1

/-! ### Mapped stash lines and boundaries (R255, R307, R308, R385) -/

variable {b : Block}

theorem MemoryKept.backMapped : MemoryKept (s.backMapped b w) := by
  unfold State.backMapped
  split
  · exact h
  · exact (MemoryKept.ite h.clearPend.raiseErr (h.atHome.getD h).homeBack).modBlock

theorem MemoryKept.writeBackMapped {lo hi : Nat} : MemoryKept (s.writeBackMapped bid lo hi) := by
  unfold State.writeBackMapped
  split
  · exact h
  · exact h.foldl fun _ _ ht => ht.backMapped

theorem MemoryKept.releaseHalf : MemoryKept (s.releaseHalf b) := h.writeBackL1.writeBackMapped
theorem MemoryKept.acquireHalf : MemoryKept (s.acquireHalf b) := h.invalidateL1.modBlock
theorem MemoryKept.advance : MemoryKept (s.advance b) := MemoryKept.modBlock (.ite h h.modBoard)
theorem MemoryKept.askWrap : MemoryKept (s.askWrap b) := .ite h.modBlock h
theorem MemoryKept.emptyParams : MemoryKept (s.emptyParams b) := h.modCore
theorem MemoryKept.split : MemoryKept (s.split b) := h.releaseHalf.advance.acquireHalf.emptyParams

theorem MemoryKept.storeParams {v : Viewer} : MemoryKept (s.storeParams b v va bs) := by
  refine h.foldl fun t c ht => ?_
  split
  · exact ht.modCore
  · exact ht

end

end Sys2Proof.Machine
end

/-! Proofs/MemoryFormAccess.lean: accesses, records of the fault queue and traps keep memory in its one form (R34, R209 to R219, R242, R281 to
R296, R346 to R352, R428). -/
section

namespace Sys2Proof.Machine

open Sys2Proof

section

variable {s : State} {a n k va core asid bid gid place cyc kind event pa attr : Nat} {bs : List Byte} {b : Block} {v : Viewer}
  {how : How} {p : Piece} {ps : List Piece} {pc : Dword} {m : Mask} (h : MemoryKept s)

include h

/-! ### Records of the fault queue (R351, R352, R428) -/

theorem MemoryKept.fqStore {d : Descriptor} {ws : List Nat} : MemoryKept (s.fqStore asid kind d ws) := by
  unfold State.fqStore
  dsimp only [MemoryKept]
  exact h.deviceWrite.deviceWrite

theorem MemoryKept.fqLost : MemoryKept (s.fqLost asid) := h

theorem MemoryKept.faultRecord {ws : List Nat} : MemoryKept (s.faultRecord asid kind ws) := by
  unfold State.faultRecord
  split
  · exact h.fqLost
  · exact .ite h.pullLines.fqStore h.pullLines.fqLost

theorem MemoryKept.storeTranslation {r : TransRec} : MemoryKept (s.storeTranslation r) := by
  unfold State.storeTranslation
  -- how much room the queue has is no matter, and too much for the kernel to evaluate
  obtain ⟨room, hroom⟩ : ∃ f, State.fqRoom = f := ⟨_, rfl⟩
  rw [hroom]
  split
  · exact h
  · extract_lets t keep
    have hkeep : ∀ {u : State} {ws : List Nat}, MemoryKept u → MemoryKept (keep u ws) := fun hu => hu
    have ht : MemoryKept t := h.pullLines
    clear_value t keep
    split
    · exact hkeep ht.fqStore
    · exact ht
    · exact hkeep ht.fqLost

theorem MemoryKept.flushTranslations : MemoryKept s.flushTranslations := h.foldl fun _ _ ht => ht.storeTranslation

theorem MemoryKept.missRecord {level reason slot gang agent : Nat} {write exec user : Bool} :
    MemoryKept (s.missRecord asid va level reason write exec user slot gang core agent pc).2 := by
  unfold State.missRecord
  extract_lets same
  split
  · exact h
  · refine MemoryKept.storeTranslation ?_
    exact h

/-! ### Traces (R346 to R350, R476 to R480) -/

theorem MemoryKept.traceUnits {us : List Nat} : MemoryKept (s.traceUnits core us) := by
  induction us generalizing s with
  | nil => exact h
  | cons u us ih => exact ih h.deviceWrite.modCore

theorem MemoryKept.writeSync {xs : List (Nat × Nat × Nat)} {before : List Nat} : MemoryKept (s.writeSync core xs before) :=
  h.modCore.traceUnits

theorem MemoryKept.tracePacket {timed : Bool} : MemoryKept (s.tracePacket gid timed n) := by
  unfold State.tracePacket
  (repeat' split) <;> exact h

theorem MemoryKept.compareTrace : MemoryKept (s.compareTrace core a gid n) := by
  unfold State.compareTrace
  extract_lets recorded
  split
  · split
    · exact h
    · split
      · exact h
      · split
        · exact h
        · refine MemoryKept.faultRecord ?_
          exact h
  · exact h

theorem MemoryKept.traceWrite {xs : List (Nat × Nat × Nat)} {due : Bool} {ps : List (Nat × Nat × Bool × Nat)} :
    MemoryKept (s.traceWrite core xs due ps) := by
  induction ps generalizing s due with
  | nil => exact h
  | cons p ps ih =>
    unfold State.traceWrite
    extract_lets t set before units s1 dt s2
    have h1 : MemoryKept s1 := .ite h.writeSync h
    split
    · exact ih h1.compareTrace.traceUnits.modCore
    · exact ih h.modCore

theorem MemoryKept.traceFlush : MemoryKept (s.traceFlush core) := .ite h (MemoryKept.ite h.traceWrite h).modCore
theorem MemoryKept.traceSnap : MemoryKept (s.traceSnap core) := h.modCore
theorem MemoryKept.traceBranch {num : Nat} : MemoryKept (s.traceBranch gid num place m) := h.tracePacket
theorem MemoryKept.traceTarget {num : Nat} : MemoryKept (s.traceTarget gid num pc) := h.tracePacket
theorem MemoryKept.unsync : MemoryKept (s.unsync gid core) := h.modCore

/-! ### Registers, splits and joins (R82, R219, R402 to R412) -/

theorem MemoryKept.addLatent : MemoryKept (s.addLatent core n) := .ite h h.modCore
theorem MemoryKept.countLatent {keys : List Nat} : MemoryKept (s.countLatent gid core keys) := h.addLatent
theorem MemoryKept.writeGang {f : Gang → Gang} : MemoryKept (s.writeGang gid core f) := h.addLatent.modGang
theorem MemoryKept.writeRegs {lat : Option Nat} {ws : List (Nat × Word)} : MemoryKept (s.writeRegs gid core cyc lat ws) :=
  h.countLatent.modGang

theorem MemoryKept.modSplit {f : Split → Split} : MemoryKept (s.modSplit gid place f) := h.modGang
theorem MemoryKept.wake : MemoryKept (s.wake gid place cyc) := h.modSplit
theorem MemoryKept.wakeNext : MemoryKept (s.wakeNext gid place cyc) := h.modSplit

theorem MemoryKept.setFlags {ws : FlagWrites} : MemoryKept (s.setFlags gid cyc ws) := by
  unfold State.setFlags
  split
  · exact h
  · exact h.writeRegs

theorem MemoryKept.abortTeam {tid slot gang : Nat} {trap : Option Trap} : MemoryKept (s.abortTeam tid slot gang trap) := h.modTeam

theorem MemoryKept.endGang : MemoryKept (s.endGang gid cyc) := by
  unfold State.endGang
  split
  · exact h
  · extract_lets s1
    have h1 : MemoryKept s1 := h.modGang
    clear_value s1
    split
    · exact h1
    · next b' _ =>
      have h2 : ∀ {f : State → Nat → State}, (∀ t n, MemoryKept t → MemoryKept (f t n)) → MemoryKept (b'.gangs.foldl f s1) := h1.foldl
      split
      · exact (h2 fun _ _ ht => .ite ht.modGang ht).abortTeam
      · exact h2 fun _ _ ht => .ite ht.modGang ht

theorem MemoryKept.settleGang : MemoryKept (s.settleGang gid cyc) := by
  unfold State.settleGang
  split
  · exact h
  · exact .ite h.endGang h

theorem MemoryKept.dropLanes : MemoryKept (s.dropLanes gid cyc m) := by
  unfold State.dropLanes
  split
  · exact h
  · exact h.modGang.setFlags

/-! ### Traps and deaths of lanes (R205 to R219) -/

theorem MemoryKept.helperFault {lane index : Nat} {t : Trap} : MemoryKept (s.helperFault gid lane index t) := h.modGang

theorem MemoryKept.loseHelpers {num : Nat} {phys : List Nat} : MemoryKept (s.loseHelpers b num phys) := by
  refine h.foldl fun t n ht => ?_
  dsimp only
  split
  · exact ht
  · refine ht.foldl fun u e hu => ?_
    split
    · exact hu.helperFault
    · exact hu.modGang

theorem MemoryKept.killLanes {phys : List (Nat × Nat)} : MemoryKept (s.killLanes gid kind phys pc) := by
  unfold State.killLanes
  split
  · exact h
  · split
    · exact h
    · exact (h.modGang.dropLanes.loseHelpers.foldl fun _ _ ht => ht.faultRecord).modCore.settleGang

theorem MemoryKept.trapEntry {t : Trap} : MemoryKept (s.trapEntry gid t) := by
  unfold State.trapEntry
  split
  · exact h
  · split
    · exact h
    · exact .ite h.abortTeam h.modGang

theorem MemoryKept.takeTrap {t : Trap} : MemoryKept (s.takeTrap gid t) := by
  unfold State.takeTrap
  split
  · exact h
  · exact .ite h.modGang.modGang h.modGang.trapEntry

theorem MemoryKept.takeEarlier {t : Trap} : MemoryKept (s.takeEarlier gid t) := by
  unfold State.takeEarlier
  split
  · exact h
  · extract_lets issued
    split
    · exact .ite h.modGang h
    · exact h.takeTrap

theorem MemoryKept.trapReturn : MemoryKept (s.trapReturn gid pc) := by
  unfold State.trapReturn
  split
  · exact h
  · split
    · exact h.modGang.unsync
    · exact h

end

/-! ### What the issuer does -/

section

variable {s : State} {cx : Cx} {n w va : Nat} {d : Reg} {pc : Dword} {m : Mask} (h : MemoryKept s)

include h

theorem MemoryKept.put {ws : List (Nat × Word)} : MemoryKept (cx.put s ws) := h.writeRegs
theorem MemoryKept.lanewise {f : Nat → Option Nat} : MemoryKept (cx.lanewise s d w f) := h.put
theorem MemoryKept.uniform {f : Nat → Nat} : MemoryKept (cx.uniform s d w f) := h.put
theorem MemoryKept.move {enter : Bool} : MemoryKept (cx.move s pc n enter) := .ite h.modSplit h.modGang
theorem MemoryKept.finish : MemoryKept (cx.finish s) := h.move
theorem MemoryKept.goto : MemoryKept (cx.goto s pc) := h.move
theorem MemoryKept.again : MemoryKept (cx.again s) := .ite h.modSplit h.modGang
theorem MemoryKept.park {p : Park} : MemoryKept (cx.park s p) := .ite h.modSplit h.again
theorem MemoryKept.fault {cause addr info : Nat} : MemoryKept (cx.fault s cause m addr info) := .ite h.takeTrap h.helperFault
theorem MemoryKept.fault1A {addr reason base : Nat} : MemoryKept (cx.fault1A s addr reason base) := h.fault

theorem MemoryKept.untranslated {write exec : Bool} {level reason agent : Nat} :
    MemoryKept (cx.untranslated s write exec va level reason agent m) := .ite h.fault h.missRecord.park

theorem MemoryKept.helperDies {keys : List (Nat × Nat)} : MemoryKept (cx.helperDies s keys) := h.modGang.killLanes.fault

theorem MemoryKept.stop {x : Stop} : MemoryKept (cx.stop s x) := by
  cases x with
  | trap => exact h.fault
  | die phys =>
    unfold Cx.stop
    dsimp only
    split
    · exact h.helperDies
    · exact h.killLanes.again
  | skip => exact h.finish
  | again => exact h.again

theorem MemoryKept.takeHeld {i : Instr} : SomeKept (cx.takeHeld i s) := by
  unfold Cx.takeHeld
  split
  · extract_lets x s1
    split
    · exact h.again
    · exact h.modGang.fault
  · split
    · exact h.modGang.fault
    · split
      · exact h.modGang.fault
      · trivial

/-- An instruction keeps memory in its one form where its own effect does (R217). -/
theorem MemoryKept.run {i : Instr} {body : Cx → State → State} (hbody : ∀ cx, MemoryKept (body cx s)) :
    OutcomeKept (run i s body) := by
  unfold Machine.run
  split
  · trivial
  · split
    · exact h.takeHeld.getD h.finish
    · exact h.stop
    · split
      · next e => exact h.takeHeld.get e
      · split
        · exact h.askWrap.again
        · exact hbody _

theorem MemoryKept.vectorOp {i : Instr} {f : Lanes → Nat → Nat} : OutcomeKept (vectorOp i d w s f) := h.run fun _ => h.lanewise.finish
theorem MemoryKept.uniformOp {i : Instr} {f : Lanes → Nat → Nat} : OutcomeKept (uniformOp i d w s f) := h.run fun _ => h.uniform.finish

theorem MemoryKept.raiseFlags {fs : List (Nat × Nat)} : MemoryKept (cx.raiseFlags s fs) := .ite h.modGang h.modGang
theorem MemoryKept.fpu {f : Nat → Nat × Flags5} : MemoryKept (cx.fpu s d w f) := .ite h.put.raiseFlags.finish h.put.raiseFlags.fault
theorem MemoryKept.fpOp {i : Instr} {f : Lanes → Nat → Nat × Flags5} : OutcomeKept (fpOp i d w s f) := h.run fun _ => h.fpu

end

/-! ### The checks of accesses, and what is read and written (R217, R281 to R286, R468) -/

/-- What the checks of accesses leave has memory in its one form. -/
def Checked.Kept : Checked → Prop
  | .go t _ => MemoryKept t
  | .fault t _ => MemoryKept t
  | .untranslated t _ _ _ _ _ => MemoryKept t
  | .wait t => MemoryKept t

section

variable {c : Checked} {t : State} (h : c.Kept)

include h

theorem Checked.Kept.go {ps : List (Req × List Piece)} (e : c = .go t ps) : MemoryKept t := by rwa [e] at h
theorem Checked.Kept.fault {f : Found} (e : c = .fault t f) : MemoryKept t := by rwa [e] at h
theorem Checked.Kept.untranslated {va level reason agent : Nat} {m : Mask} (e : c = .untranslated t va level reason agent m) :
    MemoryKept t := by rwa [e] at h
theorem Checked.Kept.wait (e : c = .wait t) : MemoryKept t := by rwa [e] at h

end

section

variable {s : State} {a n k va core event pa attr : Nat} {bs : List Byte} {b : Block} {v : Viewer} {how : How} {t : Toucher} {p : Piece}
  {ps : List Piece} {cx : Cx} (h : MemoryKept s)

include h

theorem MemoryKept.parityMet : MemoryKept (s.parityMet ps) := .ite h h

theorem MemoryKept.startFills : MemoryKept (s.startFills ps) := by
  refine h.foldl fun t p ht => ?_
  split
  · exact .ite ht.modBlock ht
  · exact ht

theorem MemoryKept.check {tou : Nat → Toucher} {races : Bool} {own : State → Req → List Piece → Option (Nat × Nat × Nat)} {rs : List Req} :
    (s.check v how tou races own rs).Kept := by
  unfold State.check
  extract_lets as_ ps store s1 every
  have h1 : MemoryKept s1 := h.foldl fun _ _ ht => ht.useTables
  split
  · exact h
  · split
    · exact h
    · split
      · exact h
      · split
        · exact h1
        · split
          · exact h
          · clear_value s1
            split
            · exact h1
            · split
              · exact h1
              · split
                · exact h1.startFills
                · split
                  · exact h1.wantRoom
                  · next s2 e =>
                    have h2 := h1.atHomes.get e
                    split
                    · exact h2.perf
                    · split
                      · exact h2.parityMet
                      · (repeat' split) <;> exact h2

theorem MemoryKept.announcePiece {pend : Option Nat} : MemoryKept (s.announcePiece v t p pend) := by
  unfold State.announcePiece
  split
  · exact h
  · split
    · exact h.announce
    · exact h

theorem MemoryKept.uncachedLine : MemoryKept (s.uncachedLine event pa attr) := .ite h.perf h

theorem MemoryKept.readPiece : MemoryKept (s.readPiece v how t p).1 := by
  unfold State.readPiece
  extract_lets s1 far
  have h1 : MemoryKept s1 := h.announcePiece
  have hfar : ∀ pa attr, MemoryKept (far pa attr).1 := fun pa attr => by
    unfold far
    split
    · exact h1.l1Read
    · exact h1.yieldL1.refreshL1.uncachedLine
  clear_value s1 far
  split
  · exact h1
  · exact h1
  · exact hfar _ _
  · exact hfar _ _
  · exact h1

theorem MemoryKept.writePiece : MemoryKept (s.writePiece v how t p bs) := by
  unfold State.writePiece
  extract_lets far
  have hfar : ∀ pa attr, MemoryKept (far pa attr) := fun pa attr =>
    .ite h.announcePiece.l1Write h.announcePiece.yieldL1.homeWrite.forgetL1.uncachedLine
  clear_value far
  split
  · exact h.announcePiece.homeWrite
  · exact h.announcePiece.writeBytes.modBlock
  · exact hfar _ _
  · exact .ite h.announcePiece.raiseErr (hfar _ _)
  · exact h.announcePiece.modCore

theorem MemoryKept.firstHalves {reader : Nat × Nat × Nat} {qs : List (Req × List Piece)} :
    MemoryKept (s.firstHalves core reader qs).1 := by
  refine MemoryKept.foldl_fst h fun a e ha => ?_
  dsimp only
  split
  · exact ha
  · exact ha.yieldL1

theorem MemoryKept.readAt : MemoryKept (State.readAt v how t s ps).1 := by
  induction ps generalizing s with
  | nil => exact h
  | cons p ps ih => exact ih h.readPiece

theorem MemoryKept.writeAt : MemoryKept (State.writeAt v how t s ps bs) := by
  induction ps generalizing s bs with
  | nil => exact h
  | cons p ps ih => exact ih h.writePiece

/-! ### Memory instructions (R255, R256, R285 to R296) -/

variable {bound : Bound} {qs : List (Req × List Piece)} {d : Reg} {x : Access}

theorem MemoryKept.boundBefore : MemoryKept (cx.boundBefore s bound) := by
  have h1 := h.releaseHalf (b := cx.b)
  exact .ite (MemoryKept.advance (.ite (MemoryKept.modCore (.ite h1 h)) (.ite h1 h))) (.ite (MemoryKept.modCore (.ite h1 h)) (.ite h1 h))

theorem MemoryKept.boundAfter : MemoryKept (cx.boundAfter s bound) :=
  .ite (MemoryKept.emptyParams (.ite h.acquireHalf h)) (.ite h.acquireHalf h)

theorem MemoryKept.storeParamsOf {r : Req} : MemoryKept (cx.storeParams s r bs) := .ite h.storeParams h

theorem MemoryKept.takeHalves : MemoryKept (cx.takeHalves s qs) := h.firstHalves.modGang.again

/-- The accesses of an instruction keep memory in its one form where what is done with them does. -/
theorem MemoryKept.access {own : State → Req → List Piece → Option (Nat × Nat × Nat)} {rs : List Req}
    {f : State → List (Req × List Piece) → State} (hf : ∀ t ps, MemoryKept t → MemoryKept (f t ps)) :
    MemoryKept (cx.access s how bound own rs f) := by
  unfold Cx.access
  split
  · next e => exact (h.check.fault e).fault
  · next e => exact (h.check.untranslated e).untranslated
  · next e => exact (h.check.wait e).park
  · next e =>
    have ht := h.check.go e
    split
    · exact h.again
    · split
      · exact ht.takeHalves
      · split
        · exact ht.fault
        · exact (hf _ _ ht.boundBefore).boundAfter

theorem MemoryKept.deliver {uniform : Bool} {w : Nat} {vs : List (Req × Nat)} : MemoryKept (cx.deliver s uniform d w vs) :=
  .ite h.uniform h.put

theorem MemoryKept.counted {counts : Bool} : MemoryKept (cx.counted s counts) := .ite h.countRelease h

theorem MemoryKept.readAll : MemoryKept (cx.readAll how s qs).1 := by
  induction qs generalizing s with
  | nil => exact h
  | cons e qs ih => exact ih h.readAt

theorem MemoryKept.readLoad : MemoryKept (cx.readLoad how s qs).1 := by
  unfold Cx.readLoad
  dsimp only
  split
  · exact h.readAll.modGang
  · exact h.readAll

theorem MemoryKept.loadOp {i : Instr} {uniform : Bool} {a : Reg} : OutcomeKept (loadOp i uniform d a x s) :=
  h.run fun _ => h.access fun _ _ ht => ht.readLoad.deliver.finish

theorem MemoryKept.storeOp {i : Instr} {uniform : Bool} {a : Reg} : OutcomeKept (storeOp i uniform d a x s) := by
  refine h.run fun cx => ?_
  dsimp only
  split
  · exact h.stop
  · exact h.access fun _ _ ht => (MemoryKept.counted (ht.foldl fun _ _ hu => hu.writeAt.storeParamsOf)).finish

theorem MemoryKept.update {r : Req} {f : Nat → Option Nat} : MemoryKept (cx.update how f s r ps).1 := by
  unfold Cx.update
  extract_lets t a old
  have ha : MemoryKept a.1 := h.readAt
  clear_value a
  split
  · exact ha
  · refine MemoryKept.storeParamsOf (.ite ha.writeAt (.ite (ha.writeAt.foldl fun _ _ ht => ht.snoopOut) ?_))
    exact ha.writeAt.of_mem rfl

theorem MemoryKept.remote {r : Req} : MemoryKept (cx.remote s r ps).1 := by
  have h1 := h.foldl (f := fun q p => q.announcePiece cx.viewer (cx.toucher 0 false false r.phys) p none) (l := ps)
    fun _ _ ht => ht.announcePiece
  exact h1.of_mem rfl

theorem MemoryKept.updateAll {f : Req → Nat → Option Nat} : MemoryKept (cx.updateAll how f s qs).1 := by
  induction qs generalizing s with
  | nil => exact h
  | cons e qs ih =>
    unfold Cx.updateAll
    split
    · exact ih (h.foldl fun _ _ ht => ht.announcePiece).remote
    · exact ih (.ite h h.update)

theorem MemoryKept.completeAtomic {uniform counts : Bool} {vs : List (Req × Nat)} :
    MemoryKept (cx.completeAtomic s uniform d x counts vs) := h.deliver.counted.finish

theorem MemoryKept.atomicOp {i : Instr} {uniform isOp : Bool} {a b : Reg} {data : List (Reg × Nat)}
    {f : Cx → State → Req → Nat → Option Nat} : OutcomeKept (atomicOp i uniform d a b x isOp data f s) := by
  unfold Machine.atomicOp
  extract_lets
  refine h.run fun cx => ?_
  dsimp only
  split
  · exact h.stop
  · refine h.access fun u ps hu => ?_
    split
    · exact hu.updateAll.park
    · split
      · exact hu.updateAll.fault
      · exact hu.updateAll.completeAtomic

theorem MemoryKept.atomOp {i : Instr} {uniform : Bool} {a b : Reg} : OutcomeKept (atomOp i uniform d a b x s) := by
  unfold Machine.atomOp
  exact h.atomicOp

theorem MemoryKept.casOp {i : Instr} {uniform : Bool} {a b : Reg} : OutcomeKept (casOp i uniform d a b x s) := by
  unfold Machine.casOp
  exact h.atomicOp

end

end Sys2Proof.Machine
end

/-! Proofs/MemoryFormInstr.lean: barriers, control flow, tiles, helper loops and special registers keep memory in its one form (R157, R158,
R192 to R208, R299 to R308, R325 to R328, R407 to R415, R441, R442). -/
section

namespace Sys2Proof.Machine

open Sys2Proof

section

variable {s : State} {cx : Cx} {how : How} {bound : Bound} {scope : Nat} {d a : Reg} {b : Src} {imm : BitVec 16} {bid g place : Nat}
  (h : MemoryKept s)

include h

/-! ### Barriers, fences and waits (R299 to R305, R400) -/

theorem MemoryKept.barUpdate {f : Nat → Except Nat Nat} {k : State → Nat → State} (hk : ∀ t x, MemoryKept t → MemoryKept (k t x)) :
    MemoryKept (cx.barUpdate s a how bound f k) := by
  refine h.access fun t ps ht => ?_
  dsimp only
  split
  · split
    · exact hk _ _ ht.writeAt
    · exact ht
  · exact ht

theorem MemoryKept.execBarInit {d : BitVec 8} : OutcomeKept (execBarInit d a b s) :=
  h.run fun _ => h.barUpdate fun _ _ ht => ht.counted.finish

theorem MemoryKept.execBarArrive {d : BitVec 8} : OutcomeKept (execBarArrive d a b s) :=
  h.run fun _ => h.barUpdate fun _ _ ht => ht.counted.finish

theorem MemoryKept.acquired {read : State → State} (hread : ∀ t, MemoryKept t → MemoryKept (read t)) :
    MemoryKept (cx.acquired s scope read) := (hread _ h.advance).boundAfter

theorem MemoryKept.execBarWait {d : BitVec 8} : OutcomeKept (execBarWait d a b s) :=
  h.run fun _ => h.access fun _ _ hu => .ite (hu.acquired fun _ ht => ht.readAll).finish (MemoryKept.park hu.readAll)

theorem MemoryKept.execBarSync {d : BitVec 8} : OutcomeKept (execBarSync d a b s) :=
  h.run fun _ => h.barUpdate fun _ _ ht => .ite (ht.counted.acquired fun _ hu => hu).finish ht.counted.park

theorem MemoryKept.execFence {scope : BitVec 3} : OutcomeKept (execFence scope s) := by
  refine h.run fun cx => .ite (.ite h.again h.finish) (.ite h.again ?_)
  split
  · exact h.fault
  · exact h.boundBefore.boundAfter.finish

theorem MemoryKept.execUIsplit : OutcomeKept (execUIsplit s) := h.run fun _ => h.split.finish

theorem MemoryKept.execUWaitring {d : BitVec 8} : OutcomeKept (execUWaitring d a b s) := by
  refine h.run fun cx => ?_
  extract_lets past how rs v
  split
  · next e => exact .ite (h.access fun _ _ ht => ht.readAll.finish) (h.check.go e).park
  · exact h.access fun _ _ ht => ht.finish

theorem MemoryKept.execWaitc : OutcomeKept (execWaitc d imm s) := h.run fun _ => .ite h.finish h.park

/-! ### Wakes (R242, R303, R305, R400, R405, R429, R446) -/

theorem MemoryKept.wakeAt {f : Gang → Block → Split → State} (hf : ∀ y b x, MemoryKept (f y b x)) :
    OutcomeKept (wakeAt bid g place s f) := by
  unfold Machine.wakeAt
  split
  · split
    · exact hf _ _ _
    · exact h
  · exact h

theorem MemoryKept.execBarrierWaitWake : OutcomeKept (execBarrierWaitWake bid g place s) := by
  refine h.wakeAt fun y b x => ?_
  split
  · split
    · exact h
    · extract_lets v l t how
      split
      · exact h
      · split
        · exact h.askWrap
        · split
          · next e => exact .ite h (h.check.fault e).wake.takeTrap
          · exact h
          · next e => exact h.check.wait e
          · next u qs e =>
            have hread := ((h.check.go e).advance (b := b)).readAt (v := v) (how := how) (t := t) (ps := qs.flatMap Prod.snd)
            exact MemoryKept.wakeNext (.ite (MemoryKept.emptyParams (.ite hread.acquireHalf hread)) (.ite hread.acquireHalf hread))
  · exact h

theorem MemoryKept.execWaitcWake : OutcomeKept (execWaitcWake bid g place s) := by
  refine h.wakeAt fun y b x => ?_
  split
  · exact .ite h.wake (.ite h.wakeNext h)
  · exact h

theorem MemoryKept.execWaitringWake : OutcomeKept (execWaitringWake bid g place s) := by
  refine h.wakeAt fun y b x => ?_
  split
  · split
    · exact h
    · exact .ite h.wake h
  · exact h

theorem MemoryKept.execResourceWake : OutcomeKept (execResourceWake bid g place s) := by
  refine h.wakeAt fun y b x => ?_
  extract_lets gid
  split
  · exact h.wake
  · exact .ite h h.wake.takeTrap
  · exact .ite h.wake h
  · exact h

theorem MemoryKept.execSleepExpiry : OutcomeKept (execSleepExpiry bid g place s) := by
  refine h.wakeAt fun y b x => ?_
  split
  · exact .ite h.wakeNext h
  · exact h

theorem MemoryKept.execFirstTouchFill {line : Nat} : OutcomeKept (execFirstTouchFill bid line s) := by
  unfold Machine.execFirstTouchFill
  split
  · exact h
  · split
    · exact h
    · split
      · exact h.modBlock
      · split
        · exact h.modBlock
        · split
          · exact h
          · next e => exact (h.atHome.get e).yieldL1.copyBytes.modBlock.modBlock

/-! ### Control flow (R407 to R415, R446) -/

variable {m : Mask} {t : BitVec 12}

theorem MemoryKept.traced : MemoryKept (cx.traced s m) := h.traceBranch

theorem MemoryKept.retree {f : Tree → Tree × FlagWrites} : MemoryKept (cx.retree s f) := by
  unfold Cx.retree
  split
  · exact h
  · exact h.modGang.setFlags

theorem MemoryKept.diverge {join : Option Dword} {groups : List (Mask × Dword)} : MemoryKept (cx.diverge s join groups) := h.retree

theorem MemoryKept.execBra {j : BitVec 12} : OutcomeKept (execBra t j s) :=
  h.run fun _ => .ite h.traced.finish (.ite h.traced.goto h.traced.finish.diverge)

theorem MemoryKept.execBrx {x : Bool} : OutcomeKept (execBrx x a b s) := by
  refine h.run fun cx => ?_
  extract_lets target lanes bad mixed u1 u2 rest goes join
  have h1 : MemoryKept u1 := h.traced
  clear_value goes bad
  have h2 : MemoryKept u2 := by
    unfold u2
    cases lanes with
    | nil => exact h1
    | cons l ls => exact h1.traceTarget
  clear_value u2
  split
  · exact h.fault
  · split
    · exact h.fault
    · split
      · exact h2.finish
      · exact .ite h2.goto (.ite h2.finish.diverge h2.goto.diverge)

theorem MemoryKept.execCall : OutcomeKept (execCall t a s) := h.run fun _ => h.traced.uniform.goto

theorem MemoryKept.execRet : OutcomeKept (execRet a s) := h.run fun _ => .ite h.fault (.ite h.fault h.traced.traceTarget.goto)

theorem MemoryKept.joins {wait : Option (Nat × Nat)} : MemoryKept (cx.joins s wait) := by
  unfold Cx.joins
  split
  · exact h.traced.finish
  · exact h.traced.retree

theorem MemoryKept.execJoin : OutcomeKept (execJoin s) := h.run fun _ => h.joins
theorem MemoryKept.execJoinw : OutcomeKept (execJoinw d imm s) := h.run fun _ => h.joins

theorem MemoryKept.execJoinwTimeout : OutcomeKept (execJoinwTimeout bid g place s) := by
  unfold Machine.execJoinwTimeout
  extract_lets gid
  split
  · extract_lets cyc
    split
    · split
      · exact h.modGang.setFlags
      · exact h
    · exact h
  · exact h

theorem MemoryKept.yields : MemoryKept (cx.yields s) := h.move.modSplit
theorem MemoryKept.execYield : OutcomeKept (execYield s) := h.run fun _ => h.yields
theorem MemoryKept.execSleep : OutcomeKept (execSleep imm s) := h.run fun _ => .ite h.yields h.park
theorem MemoryKept.execExit : OutcomeKept (execExit s) := h.run fun _ => .ite h.traced.finish h.traced.finish.modGang.dropLanes.settleGang
theorem MemoryKept.execTrap : OutcomeKept (execTrap imm s) := h.run fun _ => h.fault
theorem MemoryKept.execBrk : OutcomeKept (execBrk imm s) := h.run fun _ => h.fault
theorem MemoryKept.execEmsave : OutcomeKept (execEmsave d s) := h.run fun _ => h.uniform.finish

theorem MemoryKept.emset : MemoryKept (cx.emset s m) := by
  unfold Cx.emset
  split
  · exact h
  · exact h.finish.retree.settleGang

theorem MemoryKept.execEmset : OutcomeKept (execEmset a s) := h.run fun _ => h.emset
theorem MemoryKept.execNop : OutcomeKept (execNop s) := h.run fun _ => h.finish

end

/-! ### Tiles (R319, R320, R325 to R328) -/

/-- What the checks of the stash leave has memory in its one form. -/
def Stash.Kept : Stash → Prop
  | .stop t => MemoryKept t
  | .go t u => MemoryKept t ∧ MemoryKept u

/-- The state of the best fault found so far. -/
def BestKept (o : Option (Nat × State)) : Prop := ∀ r t, o = some (r, t) → MemoryKept t

section

variable {x : Stash} {t u : State} (h : x.Kept)

include h

theorem Stash.Kept.stop (e : x = .stop t) : MemoryKept t := by rwa [e] at h
theorem Stash.Kept.go (e : x = .go t u) : MemoryKept t ∧ MemoryKept u := by rwa [e] at h

end

section

variable {s : State} {cx : Cx} {n core off : Nat} {bs : List Byte} {blk : Block} {d a : Reg} {b : Src} {acc : Access} {dead : Mask}
  (h : MemoryKept s)

include h

theorem MemoryKept.stashChecks {as : List (Bool × List (Nat × Nat))} {done : List (Bool × Req × List Piece)}
    {best : Option (Nat × State)} (hbest : BestKept best) : (cx.stashChecks dead s as done best).Kept := by
  induction as generalizing s done best with
  | nil =>
    cases best with
    | none =>
      unfold Cx.stashChecks
      split
      · exact h.fault
      · exact ⟨h, h.foldl fun _ _ hu => hu.foldl fun _ _ hq => hq.announcePiece⟩
    | some r => exact hbest r.1 r.2 rfl
  | cons e rest ih =>
    unfold Cx.stashChecks
    extract_lets better
    have hbetter : ∀ r t, MemoryKept t → BestKept (better r t) := by
      intro r t ht r' t' e
      unfold better at e
      split at e
      · split at e
        · exact hbest _ _ e
        · cases e
          exact ht
      · cases e
        exact ht
    clear_value better
    split
    · next e => exact ih h (hbetter _ _ (h.check.fault e).fault)
    · next e => exact ih h (hbetter _ _ (h.check.untranslated e).untranslated)
    · next e => exact ih h (hbetter _ _ (h.check.wait e).park)
    · next e => exact ih (h.check.go e) hbest

theorem MemoryKept.stashCheck {as : List (Bool × List (Nat × Nat))} : (cx.stashCheck s dead as).Kept := by
  unfold Cx.stashCheck
  split
  · exact h.again
  · exact h.stashChecks fun _ _ e => nomatch e

theorem MemoryKept.stashWrite : MemoryKept (s.stashWrite blk off bs) := h.homeWrite
theorem MemoryKept.countCorr : MemoryKept (s.countCorr core n) := h.modCore
theorem MemoryKept.countRecomp : MemoryKept (s.countRecomp core) := h.modCore

theorem MemoryKept.loadFrame {k f : Nat} {hd : Header} {nostrip recomp : Bool} :
    MemoryKept (cx.loadFrame s k f hd nostrip recomp) := by
  unfold Cx.loadFrame
  extract_lets off parts
  split
  · exact h.fault
  · split
    · exact h.again
    · split
      · exact h.fault
      · split
        · next e => exact h.stashCheck.stop e
        · next v u e =>
          obtain ⟨hv, hu⟩ := h.stashCheck.go e
          extract_lets rd
          split
          · exact hv.fault
          · exact MemoryKept.finish (.ite hu.countCorr.writeGang.countRecomp hu.countCorr.writeGang)

theorem MemoryKept.execTld : OutcomeKept (execTld d a acc s) := by
  refine h.run fun cx => ?_
  extract_lets f off me
  split
  · exact h.fault
  · split
    · exact h.fault
    · split
      · next e => exact (h.check.fault e).fault
      · next e => exact (h.check.untranslated e).untranslated
      · next e => exact (h.check.wait e).park
      · split
        · split
          · next e => exact h.stashCheck.stop e
          · next e => exact (h.stashCheck.go e).1.fault1A
        · exact h.loadFrame

/-- What tst leaves once its header and its parts are known. -/
theorem MemoryKept.tstDone {off n : Nat} {parts : List (Nat × List Byte)} {again : Bool} :
    let y := (parts.foldl (fun q e => q.stashWrite cx.b (off + e.1) e.2) s).countCorr cx.core n
    MemoryKept (cx.finish (if again then y.countRecomp cx.core else y)) := by
  have hx : MemoryKept (parts.foldl (fun q e => q.stashWrite cx.b (off + e.1) e.2) s) := h.foldl fun _ _ ht => ht.stashWrite
  exact MemoryKept.finish (.ite hx.countCorr.countRecomp hx.countCorr)

theorem MemoryKept.execTst {b : Reg} : OutcomeKept (execTst d a b acc s) := by
  refine h.run fun cx => ?_
  extract_lets f off me nostrip geom hd tag scoff known rd w
  split
  · exact h.fault
  · split
    · exact h.fault
    · split
      · next e => exact h.stashCheck.stop e
      · next v u e =>
        obtain ⟨hv, hu⟩ := h.stashCheck.go e
        split
        · exact hv.fault1A
        · split
          · exact hv.fault1A
          · split
            · exact hv.fault
            · exact hu.tstDone

theorem MemoryKept.execCksum : OutcomeKept (execCksum d b s) := by
  refine h.run fun cx => ?_
  extract_lets geom tag bx scoff known w
  split
  · next e => exact h.stashCheck.stop e
  · next v u e =>
    obtain ⟨hv, hu⟩ := h.stashCheck.go e
    exact .ite hv.fault1A hu.writeGang.finish

theorem MemoryKept.execCkchk : OutcomeKept (execCkchk d s) := by
  refine h.run fun cx => ?_
  split
  · exact h.fault1A
  · extract_lets geom
    split
    · next e => exact h.stashCheck.stop e
    · next v u e =>
      obtain ⟨hv, hu⟩ := h.stashCheck.go e
      extract_lets w
      split
      · exact hv.fault1A
      · split
        · exact hv.fault
        · exact hu.countCorr.writeGang.finish

theorem MemoryKept.execCkinj : OutcomeKept (execCkinj d a b s) := by
  refine h.run fun cx => ?_
  extract_lets p
  split
  · exact h.fault1A
  · exact .ite h.fault h.writeGang.modCore.finish

/-! ### Helper loops (R192 to R208) -/

theorem MemoryKept.execURecruit : OutcomeKept (execURecruit d a s) := by
  refine h.run fun cx => ?_
  extract_lets count t1 got t2
  have h1 : MemoryKept t1 := .ite h h.modGang
  have h2 : MemoryKept t2 := .ite h1 h1.modGang
  exact h2.uniform.finish

theorem MemoryKept.execUHrel : OutcomeKept (execUHrel s) := h.run fun _ => h.modGang.finish
theorem MemoryKept.execUHloop : OutcomeKept (execUHloop d a b s) := h.run fun _ => .ite h.modGang.goto h.modGang.finish

variable {gid lane : Nat}

theorem MemoryKept.uniteFlags : MemoryKept (cx.uniteFlags s lane) := h.modGang

theorem MemoryKept.nextIteration : MemoryKept (cx.nextIteration s) := by
  unfold Cx.nextIteration
  extract_lets lane
  split
  · exact h
  · split
    · exact h
    · exact .ite h.modGang.goto h.modGang.park

theorem MemoryKept.completeLoop : MemoryKept (s.completeLoop gid lane) := by
  unfold State.completeLoop
  split
  · exact h
  · split
    · split
      · exact h
      · split
        · exact .ite h.modGang h
        · split
          · exact h
          · extract_lets cyc vd s1
            have h1 : MemoryKept s1 := h.writeRegs.modGang
            split
            · exact h1.wakeNext
            · exact h1
    · exact h

theorem MemoryKept.helperJoins : MemoryKept (cx.helperJoins s) := h.modGang.completeLoop

theorem MemoryKept.execUHjoin {b : Reg} : OutcomeKept (execUHjoin d a b s) := by
  refine h.run fun cx => ?_
  split
  · exact h.finish
  · extract_lets lane op performs accs xs rs raised acc t1 t2
    have h1 : MemoryKept t1 := .ite h.raiseFlags h
    have h2 : MemoryKept t2 := h1.uniteFlags.modGang
    exact .ite h.fault (.ite h2.nextIteration.completeLoop h2.helperJoins)

theorem MemoryKept.execTrapEntry {bid g : Nat} : OutcomeKept (execTrapEntry bid g s) := by
  unfold Machine.execTrapEntry
  extract_lets gid
  split
  · exact h
  · split
    · split
      · exact h
      · exact h.trapEntry
    · split
      · exact h
      · exact h.countLatent.modGang.takeTrap

theorem MemoryKept.execHelperForcedRelease {bid g : Nat} : OutcomeKept (execHelperForcedRelease bid g s) := by
  unfold Machine.execHelperForcedRelease
  split
  · split
    · exact h
    · exact MemoryKept.foldl h fun _ _ ht => .ite ht ht.modGang
  · exact h

end

end Sys2Proof.Machine
end

/-! Proofs/MemoryFormEngine.lean: operations across lanes, special registers, and copies by the copy engine keep memory in its one form
(R135, R153 to R165, R379 to R397, R440 to R444). -/
section

namespace Sys2Proof.Machine

open Sys2Proof

section

variable {s : State} {cx : Cx} {d a : Reg} {b : Src} {imm : BitVec 16} {n core : Nat} (h : MemoryKept s)

include h

/-! ### Operations across lanes (R153, R154, R159 to R165, R356) -/

theorem MemoryKept.shuffle {i : Instr} {f : SourceLane} : OutcomeKept (shuffle i d a b f s) := h.run fun _ => h.lanewise.modGang.finish
theorem MemoryKept.execVmask : OutcomeKept (execVmask d a s) := h.run fun _ => h.lanewise.finish
theorem MemoryKept.execVgroup : OutcomeKept (execVgroup d a s) := h.run fun _ => h.lanewise.finish

theorem MemoryKept.execLred {imm8 : BitVec 8} : OutcomeKept (execLred d a imm8 s) :=
  h.run fun _ => .ite h.lanewise.modGang.finish h.lanewise.finish

theorem MemoryKept.execMovx : OutcomeKept (execMovx d a b s) := h.run fun _ => h.put.finish
theorem MemoryKept.execMovxr {b : Reg} : OutcomeKept (execMovxr d a b s) := h.run fun _ => h.lanewise.finish
theorem MemoryKept.execSetshape : OutcomeKept (execSetshape d a s) := h.run fun _ => h.modGang.uniform.finish

/-! ### Special registers and counters (R135, R157, R158, R440 to R442) -/

theorem MemoryKept.readClock : MemoryKept (cx.readClock s).1 := by
  unfold Cx.readClock
  split
  · exact h
  · split
    · exact h
    · exact .ite h.logReplay h

theorem MemoryKept.execSread : OutcomeKept (execSread d imm s) := h.run fun _ => .ite h.readClock.lanewise.finish h.lanewise.finish

theorem MemoryKept.execSwrite : OutcomeKept (execSwrite d imm s) := by
  refine h.run fun cx => ?_
  extract_lets n p v v2 mod
  have hmod (f : Gang → Gang) : MemoryKept (mod f) := h.modGang.finish
  clear_value mod
  exact .ite h.emset (.ite (hmod _) (.ite (hmod _) (.ite (hmod _) (.ite (hmod _) (.ite (hmod _) (hmod _))))))

theorem MemoryKept.execLocq : OutcomeKept (execLocq d a s) := h.run fun _ => h.uniform.finish
theorem MemoryKept.settleCounter : MemoryKept (s.settleCounter n) := .ite h.perf h
theorem MemoryKept.execCntrd : OutcomeKept (execCntrd d imm s) := h.run fun _ => h.settleCounter.uniform.finish

theorem MemoryKept.setCounter {v : Nat} : MemoryKept (cx.setCounter s n v) := by
  unfold Cx.setCounter
  extract_lets i w mod
  have hmod (f : Core → Core) : MemoryKept (mod f) := h
  clear_value mod
  exact .ite h.modGang (.ite (hmod _) (.ite (hmod _) (.ite (hmod _) (.ite (hmod _) (.ite (hmod _) (.ite (hmod _) (.ite (hmod _)
    (.ite h.modDie (.ite h (.ite h.modStack h.modDie))))))))))

theorem MemoryKept.execCntset : OutcomeKept (execCntset d imm s) := h.run fun _ => h.setCounter.finish

end

/-! ### The copy engine's accesses (R377, R390, R395, R431) -/

/-- What a step of an engine leaves has memory in its one form. -/
def Moved.Kept {α : Type} : Moved α → Prop
  | .ok t _ => MemoryKept t
  | .fault t _ => MemoryKept t
  | .wait t => MemoryKept t
  | .missed t _ => MemoryKept t

section

variable {α : Type} {r : Moved α} {t : State} (h : r.Kept)

include h

theorem Moved.Kept.ok {x : α} (e : r = .ok t x) : MemoryKept t := by rwa [e] at h
theorem Moved.Kept.fault {f : Held} (e : r = .fault t f) : MemoryKept t := by rwa [e] at h
theorem Moved.Kept.wait (e : r = .wait t) : MemoryKept t := by rwa [e] at h
theorem Moved.Kept.missed {k : Nat} (e : r = .missed t k) : MemoryKept t := by rwa [e] at h

end

section

variable {s : State} {m : Mover} {how : How} {t : Toucher} {va n core bid : Nat} {l : List (Nat × Nat)} {bs : List Byte} (h : MemoryKept s)

include h

theorem MemoryKept.engineCheckAs : (s.engineCheckAs m how t va n).Kept := by
  unfold State.engineCheckAs
  extract_lets write r a ps far verdict s1
  have h1 : MemoryKept s1 := h.useTables
  split
  · exact h
  · split
    · exact h.useTables.missRecord
    · split
      · exact h
      · clear_value s1
        split
        · exact h1
        · split
          · exact h1
          · split
            · exact h1
            · split
              · exact h1
              · split
                · exact h1.startFills
                · split
                  · exact h1.wantRoom
                  · next s2 e =>
                    have h2 := h1.atHomes.get e
                    split
                    · exact h2.perf
                    · split
                      · exact h2.parityMet
                      · exact h2

theorem MemoryKept.engineCheck {write : Bool} : (s.engineCheck m write va n).Kept := h.engineCheckAs

theorem MemoryKept.engineUpdate {label : Nat} {isOp : Bool} {interval : Option Nat} {f : Nat → Nat} :
    (s.engineUpdate m label isOp interval va n f).Kept := by
  unfold State.engineUpdate
  extract_lets _ how tou
  have hc : (s.engineCheckAs m how tou va n).Kept := h.engineCheckAs
  split
  · next s1 ps e =>
    have h1 := hc.ok e
    split
    · exact h1
    · split
      · extract_lets seq s2 s3
        have h2 : MemoryKept s2 := h1.foldl fun _ _ ht => ht.announcePiece
        clear_value s2
        split <;> exact h2
      · exact h1.readAt.writeAt
  · next e => exact hc.fault e
  · next e => exact hc.wait e
  · next e => exact hc.missed e

theorem MemoryKept.engineRead : (State.engineRead m l s).Kept := by
  induction l generalizing s with
  | nil => exact h
  | cons x l ih =>
    unfold State.engineRead
    split
    · next e =>
      extract_lets r
      have hr : (State.engineRead m l r.1).Kept := ih (h.engineCheck.ok e).readAt
      split
      · next e => exact hr.ok e
      · next e => exact hr.fault e
      · next e => exact hr.wait e
      · next e => exact hr.missed e
    · next e => exact h.engineCheck.fault e
    · next e => exact h.engineCheck.wait e
    · next e => exact h.engineCheck.missed e

theorem MemoryKept.engineWrite : (s.engineWrite m va bs).Kept := by
  unfold State.engineWrite
  split
  · next e => exact (h.engineCheck.ok e).writeAt
  · next e => exact h.engineCheck.fault e
  · next e => exact h.engineCheck.wait e
  · next e => exact h.engineCheck.missed e

theorem MemoryKept.engineArrive {off scope : Nat} : (s.engineArrive m off scope).Kept := by
  unfold State.engineArrive
  extract_lets how r t
  split
  · next e => exact h.check.fault e
  · next e => exact h.check.untranslated e
  · next e => exact h.check.wait e
  · next e =>
    extract_lets p
    split
    · exact (h.check.go e).writeAt
    · exact h.check.go e

theorem MemoryKept.lockAll {es : List (Nat × RangeLock)} : MemoryKept (s.lockAll core es) := h
theorem MemoryKept.unlock {es : List Nat} : MemoryKept (s.unlock core es) := h
theorem MemoryKept.wakeMeeting : MemoryKept (s.wakeMeeting core) := h

theorem MemoryKept.holdCopyFault {f : Held} : MemoryKept (s.holdCopyFault bid f) := by
  unfold State.holdCopyFault
  split
  · exact .ite h.abortTeam h.modGang
  · exact h

end

/-! ### Copies at issue (R379, R382 to R393) -/

section

variable {s : State} {cx : Cx} {kind pa slot bar bid opid core : Nat} {d a b : Reg} {w : List Word} {hs : List Nat} {bl : Block} {c : Copy}
  (h : MemoryKept s)

include h

theorem MemoryKept.dataRead {rs : List Req} {onFault : State → Found → State} {k : State → List Byte → State}
    (hfault : ∀ t f, MemoryKept t → MemoryKept (onFault t f)) (hk : ∀ t x, MemoryKept t → MemoryKept (k t x)) :
    MemoryKept (cx.dataRead s rs onFault k) := by
  unfold Cx.dataRead
  split
  · next e => exact hfault _ _ (h.check.fault e)
  · next e => exact (h.check.untranslated e).untranslated
  · next e => exact (h.check.wait e).park
  · next e => exact .ite h.again (hk _ _ (h.check.go e).readAll)

theorem MemoryKept.snapshot {tag : Nat} {bs : List Byte} : MemoryKept (s.snapshot bl tag bs).2 := by
  unfold State.snapshot
  split <;> exact h

theorem MemoryKept.clearPresence {l : List (Nat × Nat)} : MemoryKept (s.clearPresence l) := h.foldl fun _ _ ht => ht.modBlock
theorem MemoryKept.setPresence {l : List (Nat × Nat)} : MemoryKept (s.setPresence l) := h.foldl fun _ _ ht => ht.modBlock

theorem MemoryKept.queueCopy : MemoryKept (cx.queueCopy s d w pa slot bar hs) := by
  unfold Cx.queueCopy
  extract_lets ws b locks lines fresh
  split
  · exact h.park
  · split
    · exact h.modBlock.park
    · split
      · exact h.park
      · exact h.lockAll.modBlock.clearPresence.modCore.counted.uniform.finish

theorem MemoryKept.checkCopy : MemoryKept (cx.checkCopy s kind d w pa slot bar hs) := by
  unfold Cx.checkCopy
  extract_lets ws bad rest
  have hbad {t : State} {reason : Nat} (ht : MemoryKept t) : MemoryKept (bad t reason) := ht.fault
  have hrest {t : State} (ht : MemoryKept t) : MemoryKept (rest t) := by
    refine .ite (hbad ht) (.ite (hbad ht) (.ite ht.queueCopy ?_))
    split
    · exact ht.fault1A
    · exact .ite ht.fault1A ht.queueCopy
  clear_value bad rest
  exact .ite (hbad h) (.ite (hbad h) (.ite (hbad h) (.ite (hbad h) (.ite (hbad h) (.ite (hrest h) (.ite (hbad h)
    (h.dataRead (fun _ _ ht => hbad ht) fun _ _ ht => .ite (hbad ht) (hrest ht))))))))

theorem MemoryKept.issueCopy : MemoryKept (cx.issueCopy s kind d a b) :=
  .ite h.fault (.ite h.fault (h.dataRead (fun _ _ ht => ht.fault) fun _ _ ht =>
    .ite ht.snapshot.checkCopy (ht.snapshot.dataRead (fun _ _ hu => hu.fault) fun _ _ hu => hu.checkCopy)))

theorem MemoryKept.runCopy {i : Instr} : OutcomeKept (Machine.run i s fun cx t => cx.issueCopy t kind d a b) :=
  h.run fun _ => h.issueCopy

/-! ### Copies in the engine (R241, R387 to R397) -/

theorem MemoryKept.modCopy {f : Copy → Copy} : MemoryKept (s.modCopy core bid opid f) := h
theorem MemoryKept.withCopy : MemoryKept (s.withCopy core c) := h

theorem MemoryKept.readFrame {x : Header} : MemoryKept (s.readFrame c bl x).1 := by
  unfold State.readFrame
  extract_lets w src parts
  split
  · next e => exact h.engineRead.fault e
  · next e => exact h.engineRead.wait e
  · next e => exact h.engineRead.missed e
  · next e =>
    have ht := h.engineRead.ok e
    extract_lets at_
    split
    · exact ht
    · exact .ite ht.countCorr.countRecomp ht.countCorr

theorem MemoryKept.readIndices : MemoryKept (s.readIndices c bl).1 := by
  unfold State.readIndices
  extract_lets w
  split
  · next e => exact h.engineRead.fault e
  · next e => exact h.engineRead.wait e
  · next e => exact h.engineRead.missed e
  · next e =>
    dsimp only
    split <;> exact h.engineRead.ok e

theorem MemoryKept.execCopyStart : OutcomeKept (execCopyStart bid opid s) := by
  unfold Machine.execCopyStart
  dsimp only [OutcomeKept]
  split
  · exact h
  · split
    · exact h
    · refine MemoryKept.withCopy ?_
      split
      · split
        · exact h.readFrame
        · exact h
      · split
        · exact h.readIndices
        · exact h

theorem MemoryKept.execCopySourceRelease : OutcomeKept (execCopySourceRelease bid opid s) := by
  unfold Machine.execCopySourceRelease
  dsimp only [OutcomeKept]
  split
  · exact h
  · split
    · exact h
    · exact h.unlock.withCopy.wakeMeeting

theorem MemoryKept.convBytes {m : Mover} {ws l : List Nat} {r : Nat} : (State.convBytes m ws r l s).Kept := by
  induction l generalizing s with
  | nil => exact h
  | cons column l ih =>
    unfold State.convBytes
    extract_lets next
    have hnext {t : State} {bs : List Byte} (ht : MemoryKept t) : (next t bs).Kept := by
      unfold next
      split
      · next e => exact (ih ht).ok e
      · exact ih ht
    clear_value next
    split
    · exact hnext h
    · split
      · next e => exact hnext (h.engineRead.ok e)
      · exact h.engineRead

theorem MemoryKept.reduce {m : Mover} {ws : List Nat} {l : List (Nat × Nat)} : (State.reduce m ws l s).Kept := by
  induction l generalizing s with
  | nil => exact h
  | cons x l ih =>
    unfold State.reduce
    dsimp only
    split
    · next e => exact ih (h.engineUpdate.ok e)
    · exact h.engineUpdate

theorem MemoryKept.moveChunk {va n : Nat} : (s.moveChunk c bl va n).Kept := by
  unfold State.moveChunk
  extract_lets w m src size skip count
  split
  · split
    · next e => exact (h.convBytes.ok e).engineWrite
    · next e => exact h.convBytes.fault e
    · next e => exact h.convBytes.wait e
    · next e => exact h.convBytes.missed e
  · split
    · next e =>
      split
      · exact (h.engineRead.ok e).reduce
      · exact (h.engineRead.ok e).engineWrite
    · next e => exact h.engineRead.fault e
    · next e => exact h.engineRead.wait e
    · next e => exact h.engineRead.missed e

theorem MemoryKept.setPresent {l : List (Nat × Nat)} : MemoryKept (s.setPresent c l) := h.setPresence

theorem MemoryKept.movePiece : MemoryKept (s.movePiece c bl) := by
  unfold State.movePiece
  extract_lets w piece va n r
  have hr : r.Kept := by
    unfold r
    cases piece
    · exact h.moveChunk
    · exact h.engineWrite
  clear_value r
  split
  · exact hr
  · exact hr
  · exact hr
  · exact .ite (MemoryKept.withCopy hr) (MemoryKept.withCopy hr).setPresent

theorem MemoryKept.execCopyLineArrival : OutcomeKept (execCopyLineArrival bid opid s) := by
  unfold Machine.execCopyLineArrival
  dsimp only [OutcomeKept]
  split
  · exact h
  · exact .ite h h.movePiece

theorem MemoryKept.cancelCopies : MemoryKept (s.cancelCopies core bid opid) := h

theorem MemoryKept.execCopyFault : OutcomeKept (execCopyFault bid opid s) := by
  unfold Machine.execCopyFault
  dsimp only [OutcomeKept]
  split
  · exact h
  · split
    · exact h
    · exact h.withCopy.cancelCopies.holdCopyFault

theorem MemoryKept.copyStep {n : Nat} : (s.copyStep c bl n).Kept := by
  unfold State.copyStep
  extract_lets w m ring at_ bs s1
  have h1 : MemoryKept s1 := .ite h.releaseHalf h
  clear_value s1
  split
  · split
    · exact h
    · split
      · next e => exact (h.engineWrite.ok e).engineWrite
      · exact h.engineWrite
  · split
    · split
      · split
        · exact h
        · split
          · exact h
          · exact h1.modCore.advance
      · exact h1.advance
    · split
      · split
        · exact h
        · exact h.engineUpdate
      · split
        · exact h
        · exact h.engineArrive

theorem MemoryKept.copySteps {fuel : Nat} : MemoryKept (State.copySteps core fuel c bl s).1 := by
  induction fuel generalizing s c bl with
  | zero => exact h
  | succ fuel ih =>
    unfold State.copySteps
    extract_lets n next b1 off
    split
    · exact h
    · split
      · exact h.askWrap
      · split
        · next e => exact ih (h.copyStep.ok e).withCopy
        · next e => exact h.copyStep.wait e
        · next e => exact (h.copyStep.missed e).withCopy
        · next e => exact ih (h.copyStep.fault e).withCopy.cancelCopies.holdCopyFault

theorem MemoryKept.acknowledged {v : Viewer} : MemoryKept (s.acknowledged core v c) := h

theorem MemoryKept.execCopyComplete : OutcomeKept (execCopyComplete bid opid s) := by
  unfold Machine.execCopyComplete
  dsimp only [OutcomeKept]
  split
  · exact h
  · split
    · exact h
    · refine .ite (MemoryKept.copySteps ?_).wakeMeeting (MemoryKept.copySteps ?_).modCore.modBlock.wakeMeeting
      all_goals exact .ite (MemoryKept.ite h.setPresent h).unlock.acknowledged.withCopy h

end

end Sys2Proof.Machine
end

/-! Proofs/MemoryFormMatrix.lean: the matrix engine keeps memory in its one form (R361 to R377). -/
section

namespace Sys2Proof.Machine

open Sys2Proof

/-! ### Posts (R361 to R374) -/

section

variable {s : State} {cx : Cx} {addr bar : Nat} {d a b : Reg} {w : List Nat} {ms : List Member} (h : MemoryKept s)

include h

theorem MemoryKept.quartetFault {cause info : Nat} : MemoryKept (cx.quartetFault s ms cause addr info) :=
  h.foldl fun _ _ ht => .ite ht.fault ht.takeTrap

theorem MemoryKept.parkAll : MemoryKept (cx.parkAll s ms) := h.foldl fun _ _ ht => .ite ht.park ht.modSplit

theorem MemoryKept.enqueueOp {o : MatOp} {src dst : List RangeLock} : MemoryKept (cx.enqueue s ms o src dst) := by
  unfold Cx.enqueue
  split
  · exact h.parkAll
  · extract_lets o1 s1 s2 s3
    have h3 : MemoryKept s3 := h.lockAll.modCore.modBlock.foldl fun _ _ ht => ht.modGang
    exact h3.foldl fun _ _ ht => .ite ht.finish ht.wakeNext

theorem MemoryKept.postMma : MemoryKept (cx.postMma s ms w addr bar) := by
  unfold Cx.postMma
  extract_lets shape f m n k cgeom bgeom cregs bregs
  split
  · exact h.quartetFault
  · split
    · exact h.quartetFault
    · split
      · exact h.quartetFault
      · split
        · exact h.quartetFault
        · exact h.enqueueOp

theorem MemoryKept.postGather : MemoryKept (cx.postGather s ms w addr bar) := by
  unfold Cx.postGather
  extract_lets shape d n k geom none_ regs
  split
  · exact h.quartetFault
  · split
    · exact h.quartetFault
    · exact h.enqueueOp

theorem MemoryKept.postDrain {bits_ : Nat} : MemoryKept (cx.postDrain s ms bits_ addr bar) := by
  unfold Cx.postDrain
  extract_lets shape
  split
  · exact h.enqueueOp
  · split
    · exact h.quartetFault
    · extract_lets geom cf
      split
      · exact h.quartetFault
      · exact .ite h.quartetFault h.enqueueOp

theorem MemoryKept.postZero {cf : Nat} : MemoryKept (cx.postZero s ms cf bar) := h.enqueueOp

theorem MemoryKept.quartetPost {me : Member} : MemoryKept (cx.quartetPost s me ms) := by
  unfold Cx.quartetPost
  extract_lets shape op addr bar size al hasBar hasAddr again g0 tou
  have hagain : MemoryKept again := h.parkAll
  clear_value again
  refine .ite h.quartetFault (.ite h.quartetFault (.ite h.quartetFault (.ite h.quartetFault (.ite h.quartetFault (.ite hagain
    (.ite h.postDrain (.ite h.postZero ?_)))))))
  split
  · next e => exact (h.check.fault e).quartetFault
  · exact hagain
  · exact hagain
  · next e =>
    extract_lets u w
    have hu : MemoryKept u := (h.check.go e).foldl fun _ _ ht => ht.foldl fun _ _ hv => hv.announcePiece
    clear_value u
    exact .ite hu.postMma hu.postGather

theorem MemoryKept.post {op d b : Nat} : MemoryKept (cx.post s op d b w) := by
  unfold Cx.post
  dsimp only
  split
  · exact h.fault
  · exact h.park
  · exact h.quartetPost

theorem MemoryKept.execMma : OutcomeKept (execMma d a b s) := h.run fun _ => h.post
theorem MemoryKept.execMgath : OutcomeKept (execMgath d a s) := h.run fun _ => h.post
theorem MemoryKept.execMdrain {clear recomp : Bool} : OutcomeKept (execMdrain d a clear recomp s) := h.run fun _ => h.post
theorem MemoryKept.execMzero : OutcomeKept (execMzero d a b s) := h.run fun _ => h.post

end

/-! ### The engine's reads (R364, R374, R431) -/

section

variable {s : State} {core : Nat} {o : MatOp} {b : Block} {m : Mover} {q : Nat} (h : MemoryKept s)

include h

theorem MemoryKept.readParts {l : List (List (Nat × Nat))} : (State.readParts m l s).Kept := by
  induction l generalizing s with
  | nil => exact h
  | cons p l ih =>
    unfold State.readParts
    split
    · next e =>
      have hr := ih (h.engineRead.ok e)
      split
      · next e => exact hr.ok e
      · next e => exact hr.fault e
      · next e => exact hr.wait e
      · next e => exact hr.missed e
    · next e => exact h.engineRead.fault e
    · next e => exact h.engineRead.wait e
    · next e => exact h.engineRead.missed e

theorem MemoryKept.readGather : (s.readGather o b q).Kept := by
  unfold State.readGather
  extract_lets d m fit p0
  split
  · next e =>
    have h1 := h.readParts.ok e
    extract_lets ptr lo n c0 v0
    split
    · next e => exact h1.readParts.ok e
    · exact h1.readParts
  · next e => exact h.readParts.ok e
  · exact h.readParts

theorem MemoryKept.readQuad : (s.readQuad o b q).Kept := by
  unfold State.readQuad
  split
  · exact h
  · split
    · split
      · exact h.readParts
      · exact h
    · split
      · exact h.readGather
      · exact h

theorem MemoryKept.readQuads {l : List Nat} : (State.readQuads o b l s).Kept := by
  induction l generalizing s with
  | nil => exact h
  | cons q l ih =>
    unfold State.readQuads
    split
    · next e =>
      have hr := ih (h.readQuad.ok e)
      split
      · next e => exact hr.ok e
      · exact hr
    · exact h.readQuad

theorem MemoryKept.modHead {f : MatOp → MatOp} : MemoryKept (s.modHead core f) := h

theorem MemoryKept.execMatrixOpStart : OutcomeKept (execMatrixOpStart core s) := by
  unfold Machine.execMatrixOpStart
  dsimp only [OutcomeKept]
  split
  · exact h
  · split
    · exact h
    · refine .ite h (.ite h (.ite h.modHead (.ite h.modHead ?_)))
      split
      · next e => exact (h.readQuads.ok e).modHead
      · next e => exact (h.readQuads.fault e).modHead
      · next e => exact h.readQuads.wait e
      · next e => exact (h.readQuads.missed e).modHead

theorem MemoryKept.execMatrixSourceRelease {range : Nat} : OutcomeKept (execMatrixSourceRelease core range s) := by
  unfold Machine.execMatrixSourceRelease
  dsimp only [OutcomeKept]
  split
  · exact h
  · exact .ite h.unlock.modHead.wakeMeeting h

end

/-! ### Completion (R368 to R373, R376, R377) -/

/-- What an operation of the matrix engine leaves, where it does not fail, has memory in its one form. -/
def DoneKept : Except Held State → Prop
  | .ok t => MemoryKept t
  | .error _ => True

/-- The same of an operation that may have to wait. -/
def MayDoneKept : Option (Except Held State) → Prop
  | some r => DoneKept r
  | none => True

theorem DoneKept.ok {r : Except Held State} {t : State} (h : DoneKept r) (e : r = .ok t) : MemoryKept t := by rwa [e] at h

theorem MayDoneKept.get {o : Option (Except Held State)} {r : Except Held State} (h : MayDoneKept o) (e : o = some r) : DoneKept r := by
  rwa [e] at h

section

variable {s : State} {core : Nat} {o : MatOp} {b : Block} (h : MemoryKept s)

include h

theorem MemoryKept.engineDeaths : MemoryKept (s.engineDeaths o) := by
  refine .ite h (h.foldl fun t q ht => ?_)
  split
  · exact ht
  · exact .ite ht ht.killLanes

theorem MemoryKept.eachQuad {f : State → Nat → Gang → Except Held State} {l : List Nat}
    (hf : ∀ t q g, MemoryKept t → DoneKept (f t q g)) :
    DoneKept (State.eachQuad o f l s) := by
  induction l generalizing s with
  | nil => exact h
  | cons q l ih =>
    unfold State.eachQuad
    split
    · exact ih h
    · split
      · next e => exact ih ((hf _ _ _ h).ok e)
      · trivial

theorem MemoryKept.noteClamp {q : Nat} {out : QuadOut} : MemoryKept (s.noteClamp core o q out) := .ite h.modCore h.modCore.modGang

theorem MemoryKept.mmaDone : DoneKept (s.mmaDone core o) := by
  unfold State.mmaDone
  extract_lets cyc f gang bs good b s1
  split
  · exact h
  · split
    · split
      · trivial
      · exact h.foldl fun _ _ ht => ht.writeGang
    · split
      · trivial
      · split
        · trivial
        · have h1 : MemoryKept s1 := h.perf.foldl fun _ _ ht => .ite ht.writeGang.countCorr.countRecomp ht.writeGang.countCorr
          clear_value s1
          refine h1.eachQuad fun t q g ht => ?_
          split
          · trivial
          · exact .ite ht.countCorr.writeGang ht.countCorr.writeGang.noteClamp

theorem MemoryKept.mzeroDone : DoneKept (s.mzeroDone core o) := by
  unfold State.mzeroDone
  split
  · exact h
  · split
    · trivial
    · exact h.foldl fun _ _ ht => ht.writeGang

theorem MemoryKept.mgathDone : DoneKept (s.mgathDone core o b) := by
  unfold State.mgathDone
  extract_lets d rows quad last
  split
  · exact h
  · split
    · trivial
    · exact h.foldl fun _ _ ht => ht.writeGang

/-- Writes of an engine, one after another as long as none fails. -/
theorem MemoryKept.engineWrites {l : List (Nat × Nat × List Byte)} {m : Nat → Mover} :
    (l.foldl (fun (acc : Moved Unit) e => match acc with
      | .ok t _ => t.engineWrite (m e.1) e.2.1 e.2.2
      | x => x) (.ok s ())).Kept := by
  suffices H : ∀ acc : Moved Unit, acc.Kept → (l.foldl (fun (acc : Moved Unit) e => match acc with
      | .ok t _ => t.engineWrite (m e.1) e.2.1 e.2.2
      | x => x) acc).Kept from H _ h
  induction l with
  | nil => exact fun _ ha => ha
  | cons e l ih =>
    refine fun acc ha => ih _ ?_
    cases acc with
    | ok t _ => exact MemoryKept.engineWrite ha
    | fault | wait | missed => exact ha

theorem MemoryKept.drainFrame {c : Tile} : (s.drainFrame o b c).Kept := h.engineWrites

theorem MemoryKept.mdrainDone : MayDoneKept (s.mdrainDone core o b) := by
  unfold State.mdrainDone
  extract_lets cyc quads bad good cleared rebuilt dead
  clear_value dead good bad
  split
  · exact h
  · split
    · cases dead <;> trivial
    · split
      · trivial
      · split
        · trivial
        · trivial
        · trivial
        · next e => exact (h.drainFrame.ok e).foldl fun _ _ ht => (MemoryKept.ite ht.countCorr.countRecomp ht.countCorr).writeGang

theorem MemoryKept.failOp {f : Held} : MemoryKept (s.failOp core o f) := h.modCore.foldl fun _ _ ht => ht.modGang

theorem MemoryKept.opDone : MayDoneKept (s.opDone core o b) := by
  unfold State.opDone
  split
  · trivial
  · split
    · exact h
    · split
      · exact h.mmaDone
      · split
        · exact h.mgathDone
        · split
          · exact h.mdrainDone
          · exact h.mzeroDone

theorem MemoryKept.popOp : MemoryKept (s.popOp core o) := h.modCore.modBlock.wakeMeeting

/-- The arrival that an operation ends with, and what follows it (R376, R377). -/
theorem MemoryKept.arriveAndPop {u : State} {m : Mover} {off bid : Nat} {f : State → Held → State} (hu : MemoryKept u)
    (hf : ∀ t e, MemoryKept t → MemoryKept (f t e)) :
    MemoryKept (match s.engineArrive m off 0 with
      | .ok t _ => (t.countRelease bid).popOp core o
      | .fault t e => (f t e).popOp core o
      | .wait _ => u
      | .missed _ _ => u) := by
  split
  · next e => exact (h.engineArrive.ok e).countRelease.popOp
  · next e => exact (hf _ _ (h.engineArrive.fault e)).popOp
  · exact hu
  · exact hu

theorem MemoryKept.execMatrixOpComplete : OutcomeKept (execMatrixOpComplete core s) := by
  unfold Machine.execMatrixOpComplete
  dsimp only [OutcomeKept]
  split
  · exact h
  · next o _ _ =>
    split
    · exact h
    · refine .ite h (.ite h.askWrap ?_)
      have h0 : MemoryKept (s.engineDeaths o) := h.engineDeaths
      generalize s.engineDeaths o = s0 at h0 ⊢
      split
      · exact h
      · next r e =>
        cases r with
        | ok t =>
          have ht : MemoryKept t := h0.opDone.get e
          exact .ite ht.unlock.popOp (ht.unlock.advance.arriveAndPop h fun _ _ ht => .ite ht ht.failOp)
        | error f =>
          exact .ite h0.failOp.unlock.popOp (h0.failOp.unlock.advance.arriveAndPop h fun _ _ ht => .ite ht ht.failOp)

end

end Sys2Proof.Machine
end

/-! Proofs/MemoryFormQueues.lean: pending loads, mapped ranges, queues, messages and trace keep memory in its one form (R287, R297, R298, R306,
R307, R329 to R350, R428, R456, R480). -/
section

namespace Sys2Proof.Machine

open Sys2Proof

/-- What the races of an announced range leave has memory in its one form. -/
def Announced.Kept : Announced → Prop
  | .ok t => MemoryKept t
  | .race t _ _ => MemoryKept t
  | .wait t => MemoryKept t

theorem Announced.Kept.ok {c : Announced} {t : State} (h : c.Kept) (e : c = .ok t) : MemoryKept t := by rwa [e] at h
theorem Announced.Kept.race {c : Announced} {t : State} {x y : Nat} (h : c.Kept) (e : c = .race t x y) : MemoryKept t := by rwa [e] at h
theorem Announced.Kept.wait {c : Announced} {t : State} (h : c.Kept) (e : c = .wait t) : MemoryKept t := by rwa [e] at h

/-! ### Prefetches, evictions and pending loads (R287, R288, R297, R298) -/

section

variable {s : State} {cx : Cx} {d a b : Reg} {acc : Access} {gid key bid g id lane word : Nat} {ps : List Piece} {bl : Block}
  (h : MemoryKept s)

include h

theorem MemoryKept.prefetch {r : Req} : MemoryKept (cx.prefetch acc s r) := by
  unfold Cx.prefetch
  split
  · exact h
  · exact h
  · next e => exact h.check.wait e
  · next e =>
    refine (h.check.go e).foldl fun u p hu => ?_
    split
    · exact .ite hu.fillL1 hu
    · exact .ite hu.fillL1 hu
    · exact hu

theorem MemoryKept.execPf : OutcomeKept (execPf a acc s) :=
  h.run fun _ => MemoryKept.finish (h.foldl fun _ _ ht => ht.prefetch)

theorem MemoryKept.evictLine {keep : Bool} {r : Req} : MemoryKept (cx.evictLine keep s r) := by
  unfold Cx.evictLine
  extract_lets out
  have hout (pa : Nat) : MemoryKept (out pa) := .ite (h.elim fun _ => h.backLine) h.evictL1
  clear_value out
  split
  · exact .ite h (hout _)
  · exact .ite h (hout _)
  · exact h

theorem MemoryKept.execEvict : OutcomeKept (execEvict a acc s) :=
  h.run fun _ => MemoryKept.finish (h.foldl fun _ _ ht => ht.evictLine)

theorem MemoryKept.pendLoad {ps : List (Req × List Piece)} : MemoryKept (cx.pendLoad s d b acc ps) := h.modGang

theorem MemoryKept.execLda : OutcomeKept (execLda d a b acc s) := by
  refine h.run fun cx => .ite h.modGang.finish (.ite (h.access fun _ _ ht => ht.readLoad.deliver.modGang.finish) ?_)
  split
  · next e => exact (h.check.fault e).fault
  · next e => exact (h.check.untranslated e).untranslated
  · next e => exact (h.check.wait e).park
  · next e => exact (h.check.go e).pendLoad.finish

theorem MemoryKept.performLda {y : Gang} {x : Lda} {q : Nat} {t : State} {f : Option Held} (e : s.performLda gid y bl x q = some (t, f)) :
    MemoryKept t := by
  have hp : SomeKept ((s.performLda gid y bl x q).map Prod.fst) := by
    unfold State.performLda
    extract_lets how v
    split
    · trivial
    · split
      · trivial
      · next e =>
        have h1 := h.atHomes.get e
        split
        · exact h1.perf
        · split
          · exact h1.parityMet
          · extract_lets me early half
            split
            · exact h1.firstHalves.modGang
            · exact h1.readAt.modGang
  rwa [e] at hp

theorem MemoryKept.retire : MemoryKept (s.retire gid key) := by
  unfold State.retire
  split
  · exact h.completeLoop
  · exact h

theorem MemoryKept.replied {keys : List Nat} {f : Gang → Gang} :
    MemoryKept (((s.countLatent gid lane keys).modGang gid f).retire gid key) := h.countLatent.modGang.retire

theorem MemoryKept.execLdaReply : OutcomeKept (execLdaReply bid g id lane word s) := by
  unfold Machine.execLdaReply
  extract_lets gid
  dsimp only [OutcomeKept]
  split
  · next y b _ _ =>
    split
    · exact h
    · split
      · exact h.replied
      · split
        · exact h
        · split
          · exact h.startFills.wantRoom
          · next e =>
            split
            · exact h.performLda e
            · exact .ite (h.performLda e).replied (h.performLda e)
          · next e => exact (h.performLda e).modGang.retire
  · exact h

/-! ### Ranges of the stash that are mapped (R306, R307) -/

theorem MemoryKept.announceRange : MemoryKept (cx.announceRange s ps) := by
  refine h.foldl fun u p hu => ?_
  extract_lets put w
  have hw : MemoryKept w := hu.elim fun _ => hu.announceAs
  clear_value w
  split
  · exact hw.announceAs
  · exact hw

theorem MemoryKept.unmapEntry {n : Nat} {e : MapEntry} : MemoryKept (s.unmapEntry bid n e) := h.writeBackMapped.modBlock

theorem MemoryKept.checkRange : (cx.checkRange s ps).Kept := by
  unfold Cx.checkRange
  split
  · exact h.wantRoom
  · next e =>
    split
    · exact (h.atHomes.get e).perf
    · exact h.atHomes.get e

theorem MemoryKept.backed {o : Option MapEntry} {k : State → State} (hk : ∀ t, MemoryKept t → MemoryKept (k t)) :
    MemoryKept (cx.backed s o ps k) := by
  unfold Cx.backed
  split
  · exact h.untranslated
  · refine .ite h.again ?_
    split
    · next e => exact (h.checkRange.wait e).park
    · next e => exact (h.checkRange.race e).fault
    · next e => exact hk _ (h.checkRange.ok e)

theorem MemoryKept.unmap {n : Nat} {e : MapEntry} : MemoryKept (cx.unmap s n e) := h.announceRange.unmapEntry

theorem MemoryKept.execSmap : OutcomeKept (execSmap a b acc s) := by
  refine h.run fun cx => h.backed fun t ht => .ite ht.fault (.ite ht.fault ?_)
  split
  · exact ht.fault
  · exact (MemoryKept.announceRange (ht.elim fun _ => ht.unmap)).modBlock.finish

theorem MemoryKept.execSunmap : OutcomeKept (execSunmap acc s) := by
  refine h.run fun cx => ?_
  dsimp only
  split
  · exact h.finish
  · exact h.backed fun _ ht => ht.unmap.finish

theorem MemoryKept.execSflush : OutcomeKept (execSflush acc s) := by
  refine h.run fun cx => ?_
  split
  · exact h.finish
  · exact h.backed fun _ ht => ht.writeBackMapped.finish

end

/-! ### Launch queues (R329 to R341) -/

/-- What the arrival of a packet leaves has memory in its one form. -/
def Offer.Kept : Offer → Prop
  | .taken t => MemoryKept t
  | .dropped t => MemoryKept t
  | .waits => True

theorem Offer.Kept.taken {o : Offer} {t : State} (h : o.Kept) (e : o = .taken t) : MemoryKept t := by rwa [e] at h
theorem Offer.Kept.dropped {o : Offer} {t : State} (h : o.Kept) (e : o = .dropped t) : MemoryKept t := by rwa [e] at h

section

variable {s : State} {asid token queue value core : Nat} {d a : Reg} {b : Src} {ws : List Word} {m : Message} (h : MemoryKept s)

include h

theorem MemoryKept.pullVirt {va n : Nat} : MemoryKept (s.pullVirt asid va n) := by
  refine h.foldl fun t c ht => ?_
  split
  · exact .ite ht.pullFirst ht
  · exact ht

theorem MemoryKept.pullImage {p : Launch} : MemoryKept (s.pullImage asid p) := .ite h h.pullVirt

theorem MemoryKept.pendToken : SomeKept (s.pendToken asid token) := by
  unfold State.pendToken
  extract_lets key enter
  have henter (t : Tab Bool) : SomeKept (enter t) := h
  clear_value enter
  split
  · exact h
  · split
    · exact henter _
    · split
      · exact henter _
      · trivial

theorem MemoryKept.overrun : MemoryKept (s.overrun queue) := by
  unfold State.overrun
  extract_lets s1
  have h1 : MemoryKept s1 := h.modQueue.raiseErr
  clear_value s1
  split
  · exact h1
  · exact h1.faultRecord

theorem MemoryKept.enqueue : MemoryKept (s.enqueue queue ws) := .ite h.modQueue.logReplay h.modQueue

theorem MemoryKept.offer : (s.offer queue ws).Kept := by
  unfold State.offer
  split
  · exact h.overrun
  · split
    · exact h.overrun
    · split
      · next e => exact (h.pendToken.get e).enqueue
      · trivial

theorem MemoryKept.drainFrom {l : List (Nat × List Word)} : MemoryKept (State.drainFrom l s) := by
  induction l generalizing s with
  | nil => exact h
  | cons x l ih =>
    unfold State.drainFrom
    refine ih (.ite h ?_)
    split
    · next e => exact h.offer.taken e
    · next e => exact h.offer.dropped e
    · exact h

theorem MemoryKept.drainPorts : MemoryKept s.drainPorts := by
  unfold State.drainPorts
  refine MemoryKept.drainFrom ?_
  exact h

theorem MemoryKept.finishToken : MemoryKept (s.finishToken asid token) := by
  refine .ite h (MemoryKept.drainPorts ?_)
  exact h

theorem MemoryKept.execLaunchPortWrite {offset : Nat} {data : List Byte} : OutcomeKept (execLaunchPortWrite queue offset data s) :=
  MemoryKept.ite h (.ite h.modQueue.raiseErr h.drainFrom)

theorem MemoryKept.execTokenEvict : OutcomeKept (execTokenEvict asid token s) := by
  unfold Machine.execTokenEvict
  dsimp only [OutcomeKept]
  split
  · refine MemoryKept.drainPorts ?_
    exact h
  · exact h

theorem MemoryKept.qcmd : MemoryKept (s.qcmd queue value) := .ite h h.modQueue
theorem MemoryKept.execQcmdNop : OutcomeKept (execQcmdNop queue value s) := MemoryKept.ite h.qcmd h
theorem MemoryKept.execQcmdBind : OutcomeKept (execQcmdBind queue value s) := MemoryKept.ite h.qcmd h
theorem MemoryKept.execQcmdUnbind : OutcomeKept (execQcmdUnbind queue value s) := MemoryKept.ite h.qcmd h
theorem MemoryKept.execQcmdEnable : OutcomeKept (execQcmdEnable queue value s) := MemoryKept.ite h.qcmd h
theorem MemoryKept.execQcmdDisable : OutcomeKept (execQcmdDisable queue value s) := MemoryKept.ite h.qcmd h
theorem MemoryKept.execQstatWrite : OutcomeKept (execQstatWrite queue value s) := MemoryKept.ite h h.modQueue
theorem MemoryKept.execQspillWrite : OutcomeKept (execQspillWrite queue value s) := MemoryKept.ite h h.modQueue

theorem MemoryKept.resetQueue : MemoryKept (s.resetQueue queue) := by
  refine .ite h (MemoryKept.drainPorts ?_)
  exact h

theorem MemoryKept.execLaunch : OutcomeKept (execLaunch d a b s) := by
  refine h.run fun cx => ?_
  refine h.access fun u ps hu => ?_
  extract_lets r ws code
  have hr : MemoryKept r.1 := hu.readAll
  have hcode {v : State} {c : Nat} (hv : MemoryKept v) : MemoryKept (code v c) := hv.countRelease.uniform.finish
  clear_value r code
  refine .ite (hcode hr) (.ite (hcode hr) (.ite h.park ?_))
  split
  · next e => exact hcode (hr.offer.taken e)
  · next e => exact hcode (hr.offer.dropped e)
  · exact h.park

/-! ### Active messages (R342 to R344, R456) -/

theorem MemoryKept.pullHandler : MemoryKept (s.pullHandler core m) := h.pullAll
theorem MemoryKept.dropMessage : MemoryKept (s.dropMessage m) := h.faultRecord
theorem MemoryKept.deliverMessage : MemoryKept (State.deliver s m) := .ite h.pullHandler.dropMessage h.pullHandler.modCore

theorem MemoryKept.execAmsend : OutcomeKept (execAmsend d a b s) := by
  refine h.run fun cx => ?_
  extract_lets p dst ctl len core remote peer bound
  refine .ite h.fault ?_
  split
  · exact h.fault
  · refine .ite h.fault (.ite h.again ?_)
    split
    · exact h.fault
    · have hu := h.boundBefore (cx := cx) (bound := bound) |>.countRelease (bid := cx.bid)
      refine .ite h.park (.ite h.again (MemoryKept.finish (.ite hu (MemoryKept.deliverMessage ?_))))
      exact hu

theorem MemoryKept.messageIn : MemoryKept (s.messageIn m) := .ite h h

theorem MemoryKept.execMessageArrival {id : Nat} : OutcomeKept (execMessageArrival id s) := by
  unfold Machine.execMessageArrival
  dsimp only [OutcomeKept]
  split
  · exact h
  · refine .ite h (MemoryKept.deliverMessage (.ite (MemoryKept.logReplay ?_) ?_)) <;> exact h

theorem MemoryKept.execHandlerSpawn : OutcomeKept (execHandlerSpawn core s) := by
  unfold Machine.execHandlerSpawn
  dsimp only [OutcomeKept]
  split
  · exact h
  · next m rest _ =>
    refine .ite h ?_
    have h1 : MemoryKept (s.pullHandler core m) := h.pullHandler
    generalize s.pullHandler core m = s1 at h1 ⊢
    split
    · exact h1.modCore.dropMessage
    · split
      · exact h1
      · refine .ite h1 (MemoryKept.acquireHalf ?_)
        exact h1

/-! ### Trace and control registers (R346 to R349, R480) -/

theorem MemoryKept.execTrctl {on_ : Bool} : OutcomeKept (execTrctl on_ s) := h.run fun _ => h.modGang.finish
theorem MemoryKept.execTrmark {imm : BitVec 16} : OutcomeKept (execTrmark imm s) := h.run fun _ => h.tracePacket.finish
theorem MemoryKept.execTracePeriodicSync : OutcomeKept (execTracePeriodicSync core s) := MemoryKept.ite h (.ite h.writeSync h.modCore)
theorem MemoryKept.execTraceLossWrite : OutcomeKept (execTraceLossWrite core s) := MemoryKept.ite h.writeSync h
theorem MemoryKept.execTrrpWrite : OutcomeKept (execTrrpWrite core value s) := MemoryKept.ite h h.modCore
theorem MemoryKept.execRegisterWrite {offset : Nat} : OutcomeKept (execRegisterWrite offset value s) := MemoryKept.ite h.modCore h

end

end Sys2Proof.Machine
end

/-! Proofs/MemoryFormTeams.lean: the scheduler, the ends of blocks and teams, and saves and restores keep memory in its one form (R34, R45 to
R51, R224 to R235, R239, R335 to R340, R353). -/
section

namespace Sys2Proof.Machine

open Sys2Proof

/-! ### Teams and blocks come and go (R34, R45 to R51, R235, R248, R335 to R340) -/

section

variable {s : State} {queue tid value asid core bid slot base team : Nat} {b : Block} {t : Team} {p : Launch} (h : MemoryKept s)

include h

theorem MemoryKept.popPacket : MemoryKept (s.popPacket queue tid) := h.modQueue

theorem MemoryKept.storeVirt {va : Nat} {bs : List Byte} : MemoryKept (s.storeVirt asid va bs) := by
  refine h.foldl fun t c ht => ?_
  split
  · exact ht.deviceWrite
  · exact ht

theorem MemoryKept.releaseAll : MemoryKept s.releaseAll := by
  have h1 := h.foldl (f := fun u (c : Nat × Core) => u.writeBackL1 c.1) (l := s.cores) fun _ _ ht => ht.writeBackL1
  exact h1.of_mem rfl

theorem MemoryKept.unstage : MemoryKept (s.unstage bid) := h

theorem MemoryKept.endTeam : MemoryKept (s.endTeam tid value) := by
  unfold State.endTeam
  split
  · exact h
  · extract_lets p s1 s2 _ s3 s4 s5
    have h2 : MemoryKept s2 := .ite h.releaseAll h.releaseAll.storeVirt
    clear_value s2
    have h3 : MemoryKept s3 := (h2.foldl fun _ _ ht => ht.unstage).of_mem rfl
    clear_value s3
    refine MemoryKept.finishToken ?_
    unfold s5
    split
    · exact h3.popPacket.faultRecord
    · exact h3.popPacket

theorem MemoryKept.chooseFor : MemoryKept (s.chooseFor tid) := by
  unfold State.chooseFor
  split
  · exact h
  · exact .ite h h.modTeam

theorem MemoryKept.execSchedulerTake : OutcomeKept (execSchedulerTake s) := by
  unfold Machine.execSchedulerTake
  dsimp only [OutcomeKept]
  split
  · exact h
  · next q _ =>
    split
    · next ws _ asid _ _ =>
      refine .ite h ?_
      have h0 : MemoryKept (s.pullImage asid (launchOf ws)) := h.pullImage
      generalize s.pullImage asid (launchOf ws) = s0 at h0 ⊢
      split
      · refine MemoryKept.endTeam (MemoryKept.faultRecord (MemoryKept.popPacket ?_))
        exact h0
      · refine .ite (MemoryKept.endTeam (MemoryKept.popPacket ?_)) (.ite (MemoryKept.popPacket ?_) (MemoryKept.chooseFor ?_)) <;> exact h0
    · exact h

theorem MemoryKept.drainCore : MemoryKept (s.drainCore core) := h.writeBackL1.modCore

theorem MemoryKept.placeBlock {i : Nat} : MemoryKept (s.placeBlock t p i core base) := by
  unfold State.placeBlock
  split
  · exact h
  · extract_lets c s1 s2 b
    have h1 : MemoryKept s1 := .ite h h.drainCore.modCore
    clear_value s1
    exact h1

theorem MemoryKept.placeAll {l : List (Nat × Nat)} {i : Nat} : MemoryKept (State.placeAll t p l i s) := by
  induction l generalizing s i with
  | nil => exact h
  | cons x l ih => exact ih h.placeBlock

theorem MemoryKept.execBlockPlace : OutcomeKept (execBlockPlace team s) := by
  unfold Machine.execBlockPlace
  dsimp only [OutcomeKept]
  split
  · exact h
  · split
    · exact h
    · exact .ite h (.ite h.placeAll.modTeam.popPacket h.placeAll.modTeam)

theorem MemoryKept.discardAt : MemoryKept (s.discardAt core) := by
  unfold State.discardAt
  split
  · exact h
  · exact .ite h h.modCore

theorem MemoryKept.execBoundaryDrain : OutcomeKept (execBoundaryDrain core s) := MemoryKept.ite h.discardAt.drainCore h.discardAt

theorem MemoryKept.execContextStage : OutcomeKept (execContextStage core bid s) := by
  refine MemoryKept.ite h.discardAt ?_
  split
  · exact h.discardAt
  · exact .ite h.discardAt.modCore h.discardAt

theorem MemoryKept.clearStash : MemoryKept (s.clearStash b) := h.filter _ rfl

theorem MemoryKept.execBlockStart : OutcomeKept (execBlockStart bid s) := by
  unfold Machine.execBlockStart
  dsimp only [OutcomeKept]
  split
  · exact h
  · split
    · exact h
    · refine .ite h (.ite h (.ite ?_ (.ite (MemoryKept.modTeam ?_) (MemoryKept.acquireHalf (MemoryKept.modTeam ?_)))))
      all_goals exact MemoryKept.clearStash (.ite h h.pullImage)

theorem MemoryKept.retireSlot : MemoryKept (s.retireSlot slot) := h.purgeSlot.modBoard

theorem MemoryKept.removeBlock : MemoryKept (s.removeBlock b) := by
  unfold State.removeBlock
  refine MemoryKept.retireSlot ?_
  exact h

theorem MemoryKept.settleMapped : MemoryKept (s.settleMapped b).1 := by
  unfold State.settleMapped
  extract_lets s1
  have h1 : MemoryKept s1 := h.writeBackMapped
  clear_value s1
  split
  · exact h1
  · exact h1.missRecord

theorem MemoryKept.settleAll {bs : List Block} : MemoryKept (s.settleAll bs).1 := MemoryKept.foldl_fst h fun _ _ ha => ha.settleMapped

theorem MemoryKept.execBlockEnd : OutcomeKept (execBlockEnd bid s) := by
  unfold Machine.execBlockEnd
  dsimp only [OutcomeKept]
  split
  · exact h
  · split
    · exact h
    · exact .ite h (.ite h.settleMapped (.ite h.settleMapped.removeBlock.modTeam.endTeam h.settleMapped.removeBlock.modTeam))

theorem MemoryKept.execTeamAbort : OutcomeKept (execTeamAbort team s) := by
  unfold Machine.execTeamAbort
  dsimp only [OutcomeKept]
  split
  · exact h
  · refine .ite h (.ite h.settleAll (MemoryKept.endTeam (MemoryKept.faultRecord ?_)))
    exact h.settleAll.foldl fun _ _ ht => ht.releaseHalf.removeBlock

/-! ### Requests, saves and restores (R224 to R235, R295, R353) -/

theorem MemoryKept.stopTimers : MemoryKept (s.stopTimers tid) := by
  unfold State.stopTimers
  split
  · exact h
  · exact .ite h (h.foldl fun _ _ ht => ht.foldl fun _ _ hu => hu.modGang)

theorem MemoryKept.answerRemote {g place : Nat} {expired : Bool} : MemoryKept (s.answerRemote bid g place expired) := by
  unfold State.answerRemote
  extract_lets gid
  split
  · split
    · exact h
    · split
      · extract_lets cyc rs
        split
        · exact h.modSplit
        · split
          · exact h.wake.takeEarlier
          · exact MemoryKept.wakeNext (.ite h.writeRegs.countRelease h.writeRegs)
      · exact h
  · exact h

theorem MemoryKept.settleRemotes : MemoryKept (s.settleRemotes tid) := by
  refine h.foldl fun _ b ht => ht.foldl fun v n hv => ?_
  split
  · exact hv
  · refine hv.foldl fun w x hw => ?_
    split
    · exact .ite hw.modSplit (hw.foldl fun _ _ hq => hq.answerRemote)
    · exact hw

theorem MemoryKept.execPreemptRequest {deadline area : Nat} {nodrain nodiscard : Bool} :
    OutcomeKept (execPreemptRequest team deadline area nodrain nodiscard s) := by
  unfold Machine.execPreemptRequest
  dsimp only [OutcomeKept]
  split
  · exact h
  · refine .ite h ?_
    have hu : MemoryKept (s.settleRemotes team) := h.settleRemotes
    generalize s.settleRemotes team = u at hu ⊢
    split
    · exact hu
    · refine MemoryKept.stopTimers ?_
      exact hu

theorem MemoryKept.execRestoreRequest {area : Nat} : OutcomeKept (execRestoreRequest team area s) := by
  unfold Machine.execRestoreRequest
  dsimp only [OutcomeKept]
  split
  · exact h
  · exact .ite h h.modTeam

theorem MemoryKept.execEndRequest : OutcomeKept (execEndRequest team s) := MemoryKept.ite h h.abortTeam

theorem MemoryKept.answerRequest {choice : Nat} : MemoryKept (s.answerRequest t choice) := by
  unfold State.answerRequest
  split
  · exact h.faultRecord
  · exact h

theorem MemoryKept.dropDirty : MemoryKept (s.dropDirty core slot) := h.modCore

theorem MemoryKept.execTeamDiscard : OutcomeKept (execTeamDiscard team s) := by
  unfold Machine.execTeamDiscard
  dsimp only [OutcomeKept]
  split
  · exact h
  · have h1 := fun bs : List Block => h.foldl (f := fun u b => (u.dropDirty b.core b.slot).removeBlock b) (l := bs)
      fun _ _ ht => ht.dropDirty.removeBlock
    refine .ite h (MemoryKept.answerRequest (.ite ?_ (MemoryKept.modQueue ?_))) <;> exact (h1 _).of_mem rfl

theorem MemoryKept.saveBlock {at_ : Nat} : MemoryKept (s.saveBlock t at_ b).1 := by
  unfold State.saveBlock
  extract_lets p s0 s1 b1 image gangs lo stash s2
  have h1 : MemoryKept s1 := h.split.modBlock.foldl fun _ _ ht => ht.modGang
  clear_value s1
  exact h1.deviceWrite.removeBlock.modTeam

theorem MemoryKept.requeueBlock : MemoryKept (s.requeueBlock b) := h.removeBlock.modTeam

theorem MemoryKept.moveImages : MemoryKept (s.moveImages t).1 := MemoryKept.foldl_fst h fun _ _ ha => ha.deviceWrite.modTeam

theorem MemoryKept.stopAll {queued started : List Block} :
    MemoryKept (started.foldl (fun u b => b.gangs.foldl (fun v n => v.modGang (gangId b.bid n) Gang.stopLoops) u)
      (queued.foldl State.requeueBlock s)) :=
  (h.foldl fun _ _ ht => ht.requeueBlock).foldl fun _ _ ht => ht.foldl fun _ _ hu => hu.modGang

theorem MemoryKept.saveAll {bs : List Block} :
    MemoryKept (bs.foldl (fun (u : State × Nat) b => u.1.saveBlock t u.2 ((u.1.block? b.bid).getD b)) (s.moveImages t)).1 :=
  MemoryKept.foldl_fst h.moveImages fun _ _ ha => ha.saveBlock

theorem MemoryKept.execTeamSave : OutcomeKept (execTeamSave team s) := by
  unfold Machine.execTeamSave
  dsimp only [OutcomeKept]
  split
  · exact h
  · exact .ite h (.ite h.stopAll (.ite h.stopAll.settleAll (.ite (h.stopAll.settleAll.foldl fun _ _ ht => ht.askWrap)
      h.stopAll.settleAll.saveAll.modTeam.answerRequest)))

theorem MemoryKept.restoreBlock {x : SavedBlock} {xs : List Section} : MemoryKept (s.restoreBlock t x xs core base) := by
  unfold State.restoreBlock
  dsimp only
  split
  · exact h
  · refine MemoryKept.foldl ?_ fun _ _ ht => ht.modGang.unsync
    dsimp only [MemoryKept]
    refine MemoryKept.writeBytes (MemoryKept.clearStash ?_)
    dsimp only [MemoryKept]
    exact h.placeBlock

theorem MemoryKept.placeQueued {l : List (Nat × (Nat × Nat))} : MemoryKept (State.placeQueued t p l s) := by
  induction l generalizing s with
  | nil => exact h
  | cons x l ih => exact ih h.placeBlock

/-- Saved blocks on their new cores, once their images have been read. -/
theorem MemoryKept.restoreAll {saved out : List SavedBlock} {at_ : List ((SavedBlock × Option (List Section)) × Nat × Nat)} :
    MemoryKept (out.foldl (fun u x => u.unstage x.block.bid)
      (at_.foldl (fun u e => u.restoreBlock t e.1.1 (e.1.2.getD []) e.2.1 e.2.2)
        (saved.foldl (fun u x => u.pullLines x.at_ x.image.length) s))) :=
  ((h.foldl fun _ _ ht => ht.pullLines).foldl fun _ _ ht => ht.restoreBlock).foldl fun _ _ ht => ht.unstage

theorem MemoryKept.execTeamRestore : OutcomeKept (execTeamRestore team s) := by
  unfold Machine.execTeamRestore
  dsimp only [OutcomeKept]
  split
  · exact h
  · split
    · exact h
    · exact .ite h (.ite (.ite (MemoryKept.faultRecord (h.modTeam.foldl fun _ _ ht => ht.unstage)) h) (.ite h
        (.ite h.restoreAll.placeQueued.modTeam.faultRecord h.restoreAll.placeQueued.modTeam)))

end

end Sys2Proof.Machine
end

/-! Proofs/MemoryFormPackage.lean: the host, peers, management and the memory devices keep memory in its one form (R28 to R35, R273, R295,
R350, R445 to R475, R487). -/
section

namespace Sys2Proof.Machine

open Sys2Proof

section

variable {s : State} {pa id offset value stack die line n peer queue bid g place : Nat} {bs : List Byte} (h : MemoryKept s)

include h

/-! ### Writes and reads from outside (R295, R451 to R455, R467, R472 to R475) -/

theorem MemoryKept.outsideWrite : SomeKept (s.outsideWrite pa bs) :=
  h.atHomes.map fun _ ht => (ht.writeBytes.foldl fun _ _ hu => .ite hu.setMark hu).foldl fun _ _ hu => hu.unshare

theorem MemoryKept.recordInbound : MemoryKept (s.recordInbound pa bs) := .ite h.logReplay h
theorem MemoryKept.sendInbound : MemoryKept s.sendInbound := h

theorem MemoryKept.acceptInbound {source : Option Nat} {relaxed : Bool} : MemoryKept (s.acceptInbound source relaxed pa bs) := by
  refine MemoryKept.sendInbound ?_
  exact h.recordInbound.of_mem rfl

theorem MemoryKept.hostRead : SomeKept (s.hostRead offset n) := h.atHomes.map fun _ ht => ht

theorem MemoryKept.hostRequest {last : Nat} {r : HostRequest} : MemoryKept (s.hostRequest last r).1 := by
  unfold State.hostRequest
  extract_lets waits held
  have hheld (x : HostRequest) : MemoryKept (held x).1 := h
  clear_value held
  split
  · split
    · exact hheld _
    · exact h.acceptInbound
  · extract_lets first
    split
    · exact hheld _
    · split
      · next e => exact h.hostRead.get e
      · exact hheld _

theorem MemoryKept.serveHost : MemoryKept s.serveHost := .ite h (MemoryKept.foldl_fst h fun _ _ ha => ha.hostRequest)

theorem MemoryKept.fromHost {rs : List HostRequest} : MemoryKept (s.fromHost rs) := by
  refine MemoryKept.serveHost ?_
  exact h

theorem MemoryKept.execInboundWrite {relaxed : Bool} : OutcomeKept (execInboundWrite offset relaxed bs s) := by
  refine MemoryKept.ite h (MemoryKept.fromHost ?_)
  exact h

theorem MemoryKept.performPiece {spoiled : List Nat} {p : Nat × List Byte} : SomeKept (s.performPiece spoiled p) :=
  h.outsideWrite.map fun _ ht => ht.foldl fun _ _ hu => hu.poisonWord

theorem MemoryKept.performRoute {spoiled : List Nat} {ps : List (Nat × List Byte)} : SomeKept (State.performRoute spoiled ps s) := by
  induction ps generalizing s with
  | nil => exact h
  | cons p ps ih => exact h.performPiece.bind fun _ ht => ih ht

theorem MemoryKept.earlyPiece : SomeKept s.earlyPiece := by
  unfold State.earlyPiece
  split
  · trivial
  · split
    · trivial
    · exact h.performPiece.map fun _ ht => ht

theorem MemoryKept.execInboundRouteAck {span : Nat} : OutcomeKept (execInboundRouteAck id span s) := by
  unfold Machine.execInboundRouteAck
  dsimp only [OutcomeKept]
  split
  · exact h
  · refine .ite h ?_
    split
    · exact h
    · next e =>
      have ht := h.performRoute.get e
      refine MemoryKept.serveHost (MemoryKept.sendInbound ?_)
      exact ht

theorem MemoryKept.execHostBar2Read : OutcomeKept (execHostBar2Read offset n s) := MemoryKept.ite h h.fromHost

theorem MemoryKept.execHostSnoop {data : Option (List Byte)} : OutcomeKept (execHostSnoop pa n data s) := by
  refine MemoryKept.ite h ?_
  split
  · exact h
  · extract_lets t
    have ht : MemoryKept t := .ite (h.foldl fun _ _ hu => hu.snoopOut) h
    clear_value t
    exact .ite ht ht.writeBytes

theorem MemoryKept.execRemoteWriteArrival : OutcomeKept (execRemoteWriteArrival peer pa bs s) := MemoryKept.ite h h.acceptInbound

theorem MemoryKept.execRemoteAtomicArrival {seq op x y : Nat} {replay : Bool} :
    OutcomeKept (execRemoteAtomicArrival peer seq replay pa n op x y s) := by
  refine MemoryKept.ite h ?_
  dsimp only
  split
  · exact h
  · next e => exact (h.pullLines.outsideWrite.get e).of_mem rfl

theorem MemoryKept.execRemoteAtomicRetry {expired : Bool} : OutcomeKept (execRemoteAtomicRetry bid g place expired s) := h.answerRemote

/-! ### The links (R447 to R450, R454, R455, R458) -/

theorem MemoryKept.execLinkUp {coherent : Bool} : OutcomeKept (execLinkUp coherent s) := MemoryKept.ite h h

theorem MemoryKept.linkLost : MemoryKept s.linkLost := by
  refine .ite h (MemoryKept.raiseErr ?_)
  exact h

theorem MemoryKept.execLinkDown : OutcomeKept (execLinkDown s) := h.linkLost
theorem MemoryKept.resetLink : MemoryKept s.resetLink := h.linkLost
theorem MemoryKept.execErrstatWrite : OutcomeKept (execErrstatWrite value s) := MemoryKept.ite h h
theorem MemoryKept.execFrameResend {port : Nat} : OutcomeKept (execFrameResend id port s) := MemoryKept.ite h h
theorem MemoryKept.losePosted {acked : Nat} : MemoryKept (s.losePosted peer acked) := .ite h (MemoryKept.raiseErr h)

theorem MemoryKept.execRouteTableWrite {iodie acked : Nat} {route : Option Route} :
    OutcomeKept (execRouteTableWrite iodie peer route acked s) := by
  refine MemoryKept.ite h (.ite h (MemoryKept.losePosted (.ite (MemoryKept.raiseErr ?_) ?_))) <;> exact h

theorem MemoryKept.execIoParityError : OutcomeKept (execIoParityError id offset s) := by
  refine MemoryKept.raiseErr (.ite ?_ ?_) <;> exact h

/-! ### Management (R28 to R35, R350, R462 to R464) -/

theorem MemoryKept.execMgmtQueueDisable : OutcomeKept (execMgmtQueueDisable queue s) := MemoryKept.ite h h.modQueue
theorem MemoryKept.execMgmtQueueEnable : OutcomeKept (execMgmtQueueEnable queue s) := MemoryKept.ite h h.modQueue

theorem MemoryKept.lostRecord {slots : List Nat} : MemoryKept (s.lostRecord slots line) := by
  refine .ite h (MemoryKept.atticSub ?_)
  exact h

theorem MemoryKept.loseDie {state : Nat} : MemoryKept (s.loseDie die state) := by
  unfold State.loseDie
  extract_lets bs slots s1 dirty s2 s3 s4 stash s5
  have h1 : MemoryKept s1 := h.foldl fun _ _ ht => ht.abortTeam
  have h2 : MemoryKept s2 := h1
  have h3 : MemoryKept s3 := h2.foldl fun _ _ ht => ht.lostRecord
  have h4 : MemoryKept s4 := (h3.foldl fun _ _ ht => ht.poisonWord).foldl fun _ _ ht => ht.removeBlock
  clear_value s4
  have h5 : MemoryKept s5 := h4.filter _ rfl
  clear_value s5
  exact h5.foldl fun _ _ ht => ht.chooseFor

theorem MemoryKept.execMgmtDieReset {disable : Bool} : OutcomeKept (execMgmtDieReset die disable s) := MemoryKept.ite h h.loseDie
theorem MemoryKept.execMgmtDieEnable : OutcomeKept (execMgmtDieEnable die s) := MemoryKept.ite h h.modDie

theorem MemoryKept.execMgmtFaultQueueRead {asid : Nat} : OutcomeKept (execMgmtFaultQueueRead asid s) := by
  unfold Machine.execMgmtFaultQueueRead
  dsimp only [OutcomeKept]
  split
  · exact h
  · exact .ite h h

theorem MemoryKept.execBallastWrite : OutcomeKept (execBallastWrite value s) := MemoryKept.ite h h
theorem MemoryKept.execGovernorTest {power : Nat} : OutcomeKept (execGovernorTest power s) := MemoryKept.ite h h
theorem MemoryKept.readBar0 : MemoryKept (s.readBar0 offset) := .ite h h
theorem MemoryKept.execPowerUp : OutcomeKept (execPowerUp s) := h.filter _ rfl

theorem MemoryKept.execFirmwareImageLoad {target version : Nat} {ecdsa lms : Bool} :
    OutcomeKept (execFirmwareImageLoad target version ecdsa lms s) := MemoryKept.ite h h

theorem MemoryKept.execSpdmRequest {request : Nat} : OutcomeKept (execSpdmRequest request s) := MemoryKept.ite h h

theorem MemoryKept.execRecordingControl {queues : List Nat} {windows : List (Nat × Nat)} {on_ : Bool} :
    OutcomeKept (execRecordingControl queues windows on_ s) := MemoryKept.ite h h

/-! ### Stacks, heat and errors (R29, R33, R61, R219 to R222, R273, R459 to R466) -/

theorem MemoryKept.execHbmRateChange {rate : Nat} : OutcomeKept (execHbmRateChange stack rate s) :=
  MemoryKept.ite h (.ite h.modStack (.ite h.modStack h.modStack))

theorem MemoryKept.execRetrainingDeferralExpiry : OutcomeKept (execRetrainingDeferralExpiry stack s) := by
  unfold Machine.execRetrainingDeferralExpiry
  dsimp only [OutcomeKept]
  split
  · exact h
  · exact .ite h h.modStack

theorem MemoryKept.execHbmRetrainDone {outcome : Nat} : OutcomeKept (execHbmRetrainDone stack outcome s) :=
  MemoryKept.ite h (MemoryKept.flushHeld (.ite h.modStack (.ite h.modStack h.modStack.raiseErr))).serveHost

theorem MemoryKept.execHbmStackReset : OutcomeKept (execHbmStackReset stack s) := by
  refine MemoryKept.ite h (MemoryKept.serveHost (MemoryKept.flushHeld (MemoryKept.modStack ?_)))
  exact h.atticSub.filter _ rfl

theorem MemoryKept.holdDie : MemoryKept (s.holdDie die) := .ite h h.loseDie

theorem MemoryKept.execSensorSample {sensor : Nat} {temp : Int} {valid : Bool} : OutcomeKept (execSensorSample sensor temp valid s) := by
  unfold Machine.execSensorSample
  extract_lets t old new s1 s2 hot s3 held
  have h1 : MemoryKept s1 := h
  clear_value s1
  have h2 : MemoryKept s2 := .ite h1.raiseErr h1
  clear_value s2
  have h3 : MemoryKept s3 := h2
  clear_value s3
  have hheld : MemoryKept held := h3.foldl fun _ _ ht => ht.holdDie
  clear_value held
  refine MemoryKept.ite h (.ite h1 (.ite h2.modStack (.ite (.ite (MemoryKept.raiseErr ?_) h3) h2)))
  exact hheld

theorem MemoryKept.execThermalDecision : OutcomeKept (execThermalDecision die s) := by
  unfold Machine.execThermalDecision
  dsimp only [OutcomeKept]
  split
  · exact h
  · exact .ite h (.ite h.holdDie.raiseErr (.ite h.modDie.raiseErr (.ite h h.modDie)))

theorem MemoryKept.execClockChange : OutcomeKept (execClockChange die s) := h.modDie

theorem MemoryKept.execMemoryPoison : OutcomeKept (execMemoryPoison pa s) := by
  refine MemoryKept.ite h.poisonWord (.ite h ?_)
  split
  · next e => exact (h.fillHome.get e).poisonWord
  · exact h

theorem MemoryKept.execGangStateError : OutcomeKept (execGangStateError bid g s) := by
  unfold Machine.execGangStateError
  dsimp only [OutcomeKept]
  split
  · exact h
  · exact .ite h h.killLanes

theorem MemoryKept.execScoreboardSquash : OutcomeKept (execScoreboardSquash bid g place s) := by
  unfold Machine.execScoreboardSquash
  dsimp only [OutcomeKept]
  split
  · split
    · exact h
    · exact .ite h (.ite h.modCore.modSplit h.modCore.modSplit.killLanes)
  · exact h

end

end Sys2Proof.Machine
end

/-! Proofs/MemoryFormSystem.lean: issue, slot ids, traps, translations, migrations and the passing of time keep memory in its one form
(R3, R55, R68, R85, R214, R219, R222, R268 to R272, R345, R350, R353, R426 to R436, R440 to R444, R478). -/
section

namespace Sys2Proof.Machine

open Sys2Proof

/-- What an issuer's packet leaves has memory in its one form. -/
def Entry.Kept : Entry → Prop
  | .ready t _ _ _ => MemoryKept t
  | .stopped t => MemoryKept t
  | .nobody => True

theorem Entry.Kept.ready {e : Entry} {t : State} {p : Packet} {pc : Dword} {m : Mask} (h : e.Kept) (he : e = .ready t p pc m) :
    MemoryKept t := by rwa [he] at h

theorem Entry.Kept.stopped {e : Entry} {t : State} (h : e.Kept) (he : e = .stopped t) : MemoryKept t := by rwa [he] at h

section

variable {s : State} {core quad line bid asid ticket pa n : Nat} {u : Issue} {cx : Cx} {d a b : Reg} (h : MemoryKept s)

include h

/-! ### Selection and slot ids (R55, R85, R268 to R272, R345) -/

theorem MemoryKept.starveOthers {cs : List Cand} : MemoryKept (s.starveOthers cs u) := by
  refine h.foldl fun t c ht => .ite ht ?_
  split
  · exact ht.modSplit
  · exact ht.modGang

theorem MemoryKept.choose {cyc : Nat} {c : Cand} : MemoryKept (s.choose cyc c) := by
  unfold State.choose
  extract_lets gid
  split
  · exact h
  · split <;> exact h

theorem MemoryKept.selectFrom {cs : List Cand} : MemoryKept (s.selectFrom core quad cs) := by
  unfold State.selectFrom
  extract_lets s0
  have h0 : MemoryKept s0 := h
  clear_value s0
  split
  · exact h
  · split
    · exact h0
    · exact h0.starveOthers.choose

theorem MemoryKept.execIssueSelect : OutcomeKept (execIssueSelect core quad s) := h.selectFrom
theorem MemoryKept.execStarvationLimit : OutcomeKept (execStarvationLimit core quad s) := MemoryKept.ite h h.selectFrom

theorem MemoryKept.compactLine : MemoryKept (s.compactLine line) := by
  unfold State.compactLine
  extract_lets s1
  have h1 : MemoryKept s1 := h.foldl fun _ _ ht => ht.setMark
  clear_value s1
  exact .ite h1 h

theorem MemoryKept.execCloseRequest {span slice : Nat} : OutcomeKept (execCloseRequest span slice s) := by
  unfold Machine.execCloseRequest
  extract_lets n src s1
  have hsrc : MemoryKept src := h.foldl fun _ _ ht => ht.compactLine
  clear_value src
  have h1 : MemoryKept s1 := hsrc
  clear_value s1
  refine MemoryKept.ite h ?_
  split
  · exact h1
  · exact .ite h1 h1.modBlock.perf

theorem MemoryKept.execImplicitSplit : OutcomeKept (execImplicitSplit bid s) := by
  unfold Machine.execImplicitSplit
  dsimp only [OutcomeKept]
  split
  · exact h
  · exact .ite h (.ite h.askWrap h.split.modBlock)

theorem MemoryKept.execLineEvict : OutcomeKept (execLineEvict line s) := MemoryKept.ite h h.leaveSlice

theorem MemoryKept.execSlotRenewal : OutcomeKept (execSlotRenewal bid s) := by
  unfold Machine.execSlotRenewal
  dsimp only [OutcomeKept]
  split
  · exact h
  · refine .ite h ?_
    split
    · exact h
    · exact h.openSlot.retireSlot.modBlock.modCore.modDie

theorem MemoryKept.execSlotPurge : OutcomeKept (execSlotPurge bid s) := by
  unfold Machine.execSlotPurge
  dsimp only [OutcomeKept]
  split
  · exact h
  · exact .ite h (.ite h.modBoard h.purgeSlot.forgetSeen.modBoard.modBlock)

theorem MemoryKept.execAtticSweep : OutcomeKept (execAtticSweep line s) := by
  unfold Machine.execAtticSweep
  extract_lets r gone t
  have ht : MemoryKept t := .ite h.perf h
  clear_value t
  refine MemoryKept.ite h (.ite ht (MemoryKept.perf (MemoryKept.atticSub ?_)))
  exact ht

/-! ### Leaving a handler, and translations (R214, R426 to R429) -/

theorem MemoryKept.leave {retry : Bool} {pc : Dword} : MemoryKept (cx.leave s retry pc) := .ite h.fault h.modGang.trapReturn.traceTarget
theorem MemoryKept.execTretRetry : OutcomeKept (execTretRetry s) := h.run fun _ => h.leave
theorem MemoryKept.execTretSkip : OutcomeKept (execTretSkip s) := h.run fun _ => h.leave
theorem MemoryKept.execTretEnd : OutcomeKept (execTretEnd s) := h.run fun _ => h.abortTeam
theorem MemoryKept.dropTlb {p : TlbEntry → Bool} : MemoryKept (s.dropTlb p) := h

theorem MemoryKept.invalidate {ids : Nat → Bool} {p : TlbEntry → Bool} : MemoryKept (cx.invalidate s ids p) :=
  .ite h.again h.writeBackL1.dropTlb.finish

theorem MemoryKept.execTlbinvPage : OutcomeKept (execTlbinvPage a b s) := h.run fun _ => h.invalidate
theorem MemoryKept.execTlbinvAsid : OutcomeKept (execTlbinvAsid b s) := h.run fun _ => h.invalidate
theorem MemoryKept.execTlbinvAll : OutcomeKept (execTlbinvAll s) := h.run fun _ => h.invalidate
theorem MemoryKept.pullDesc : MemoryKept (s.pullDesc pa) := .ite h.pullLines h

theorem MemoryKept.setIdentifier {id : Nat} : MemoryKept (s.setIdentifier pa id).2 := by
  unfold State.setIdentifier
  split
  · exact h
  · have h0 : MemoryKept (s.pullDesc pa) := h.pullDesc
    generalize s.pullDesc pa = s0 at h0 ⊢
    dsimp only
    split
    · exact h0
    · split
      · split <;> exact h0
      · split
        · split
          · exact .ite h0.pullLines h0
          · exact (MemoryKept.ite h0.dropTlb.pullLines h0.dropTlb).of_mem rfl
        · exact h0.dropTlb.deviceWrite.of_mem rfl

theorem MemoryKept.execAsidset : OutcomeKept (execAsidset d a b s) := h.run fun _ => .ite h.again h.setIdentifier.uniform.finish

theorem MemoryKept.execResumeRetry : OutcomeKept (execResumeRetry asid ticket s) := by
  unfold Machine.execResumeRetry
  dsimp only [OutcomeKept]
  split <;> exact h

theorem MemoryKept.execResumeRefuse : OutcomeKept (execResumeRefuse asid ticket s) := by
  unfold Machine.execResumeRefuse
  dsimp only [OutcomeKept]
  split <;> exact h

theorem MemoryKept.releaseCopies {f : Copy → Copy} {g : MatOp → MatOp} : MemoryKept (s.releaseCopies asid ticket f g) := h
theorem MemoryKept.dropRecord : MemoryKept (s.dropRecord asid ticket) := h

theorem MemoryKept.execResumeEnd : OutcomeKept (execResumeEnd asid ticket s) := by
  unfold Machine.execResumeEnd
  dsimp only [OutcomeKept]
  split
  · exact h
  · have h1 := h.dropRecord (asid := asid) (ticket := ticket) |>.foldl
      (f := fun t w => t.abortTeam w.1 w.2.1 w.2.2.1 (some w.2.2.2)) (l := s.waitersOf asid ticket) fun _ _ ht => ht.abortTeam
    refine MemoryKept.releaseCopies ((h1.foldl fun t o ht => ?_).foldl fun t c ht => ?_)
    all_goals
      split
      · exact .ite ht.abortTeam ht
      · exact ht

/-! ### Migrations (R434 to R436) -/

theorem MemoryKept.flushPage {size : Nat} : MemoryKept (s.flushPage pa size) := h.foldl fun _ _ ht => ht.foldl fun _ _ hu => hu.evictL1

theorem MemoryKept.startMigration : MemoryKept (cx.startMigration s pa).2 := by
  unfold Cx.startMigration
  have h0 : MemoryKept (s.pullDesc pa) := h.pullDesc
  generalize s.pullDesc pa = s0 at h0 ⊢
  dsimp only
  split
  · exact h0
  · next m pte new _ =>
    have h1 : MemoryKept (s0.pullLines pte 8) := h0.pullLines
    generalize s0.pullLines pte 8 = s1 at h1 ⊢
    split
    · exact h1
    · split
      · exact h1
      · exact h1.writeBackL1.dropTlb.flushPage.deviceWrite.deviceWrite.of_mem rfl

theorem MemoryKept.execMgate : OutcomeKept (execMgate d a s) := h.run fun _ => .ite h.again h.startMigration.uniform.finish

theorem MemoryKept.execMigrationFiller {entry : Nat} : OutcomeKept (execMigrationFiller entry s) := by
  unfold Machine.execMigrationFiller
  dsimp only [OutcomeKept]
  split
  · exact h
  · next m _ =>
    refine .ite h ?_
    split
    · next i rest _ =>
      rw [List.getD_eq_getElem?_getD]
      cases e : (((i :: rest).filterMap fun k => (s.fillHome m.asid 0 (m.newPa / 128 + k)).map fun t => t.pull m k))[
          s.pick 103 ((i :: rest).filterMap fun k => (s.fillHome m.asid 0 (m.newPa / 128 + k)).map fun t => t.pull m k).length]? with
      | none => exact h
      | some t =>
        obtain ⟨k, _, hk⟩ := List.mem_filterMap.mp (List.mem_of_getElem? e)
        exact (h.fillHome.map fun _ ht => ht.pull).get hk
    · exact h.deviceWrite.of_mem rfl

/-! ### Packets and stimuli (R68, R219, R222, R350, R353) -/

theorem MemoryKept.entryFault {pc : Dword} {lanes : Mask} {cause addr info : Nat} :
    MemoryKept (s.entryFault u pc lanes cause addr info) := by
  unfold State.entryFault
  dsimp only
  split
  · exact h.takeTrap
  · exact h.helperFault

theorem MemoryKept.enter : (s.enter u).Kept := by
  unfold State.enter
  extract_lets gid keep
  have hkeep {t : State} {p : Packet} (ht : MemoryKept t) : MemoryKept (keep t p) := by
    unfold keep
    split
    · exact ht.modSplit
    · exact ht.modGang
  clear_value keep
  split
  · next g b _ _ =>
    extract_lets found
    clear_value found
    split
    · trivial
    · exact h
    · split
      · exact h
      · split
        · split
          · exact h.pullFetched.missRecord.modSplit
          · exact h.entryFault
        · exact h.entryFault
        · split
          · exact MemoryKept.entryFault h.pullFetched.install
          · split
            · exact MemoryKept.entryFault h.pullFetched.install
            · exact hkeep h.pullFetched.install
  · trivial

theorem MemoryKept.clearSquash : MemoryKept (s.clearSquash u) := by
  unfold State.clearSquash
  split
  · exact h.modSplit
  · exact h

theorem MemoryKept.countIssue : MemoryKept (s.countIssue u) := by
  unfold State.countIssue
  split
  · exact h
  · exact .ite h.clearSquash h.clearSquash.modCore.perf

theorem MemoryKept.preemptPort {bs : List Byte} : OutcomeKept (preemptPort bs s) := by
  unfold Machine.preemptPort
  extract_lets team area flags
  split
  · exact h
  · split
    · exact h.execPreemptRequest
    · split
      · exact h.execRestoreRequest
      · split
        · exact h.execEndRequest
        · exact h

theorem MemoryKept.stimulate {x : Stimulus} : OutcomeKept (stimulate x s) := by
  cases x with
  | registerError gid key => exact h.modGang
  | peerMessage m => exact h.messageIn
  | queueReset q => exact h.resetQueue
  | preemptPort bs => exact h.preemptPort
  | rerun r => exact h
  | bar0Read offset => exact h.readBar0
  | linkReset => exact h.resetLink

theorem MemoryKept.inject {r : Rerun} {e : LogEntry} : MemoryKept (s.inject r e) := by
  cases e with
  | launch c tid ws =>
    refine MemoryKept.drainFrom ?_
    exact h
  | inbound c pa bs =>
    refine MemoryKept.fromHost ?_
    exact h
  | message c m =>
    refine MemoryKept.messageIn ?_
    exact h
  | clock c v => exact h

theorem MemoryKept.nextInput : SomeKept s.nextInput := by
  unfold State.nextInput
  split
  · split
    · exact .ite h.inject trivial
    · trivial
  · trivial

/-! ### Time (R3, R428, R440 to R444, R460, R478) -/

variable {die : Nat}

theorem MemoryKept.tickSpawns : MemoryKept (s.tickSpawns die) := h
theorem MemoryKept.dieTraces : MemoryKept (s.dieTraces die) := h.foldl fun _ _ ht => ht.traceFlush
theorem MemoryKept.dieSnaps : MemoryKept (s.dieSnaps die) := h.foldl fun _ _ ht => ht.traceSnap
theorem MemoryKept.startCounts : MemoryKept (s.startCounts die) := h

theorem MemoryKept.tickDie : MemoryKept (s.tickDie die) := by
  unfold State.tickDie
  extract_lets d s0 s1 s2
  have h1 : MemoryKept s1 := h.dieTraces.modDie
  clear_value s1
  have h2 : MemoryKept s2 := (MemoryKept.ite h1.perf h1).tickSpawns.dieSnaps.startCounts
  clear_value s2
  exact .ite h.modDie h2

theorem MemoryKept.tick : MemoryKept s.tick := by
  refine MemoryKept.serveHost (MemoryKept.flushTranslations (MemoryKept.foldl ?_ fun _ _ ht => ht.tickDie))
  exact h

end

end Sys2Proof.Machine
end

/-! Proofs/MemoryFormStep.lean: every instruction, every event and so every step keeps memory in its one form (O59). -/
section

namespace Sys2Proof.Machine

open Sys2Proof

section

variable {s : State} {u : Issue} {o : Host.Outcome State Fault Refusal} (h : MemoryKept s)

theorem OutcomeKept.next {t : State} (ho : OutcomeKept o) (e : o = .next t) : MemoryKept t := by rwa [e] at ho

theorem OutcomeKept.afterIssue (ho : OutcomeKept o) : OutcomeKept (afterIssue o) := by
  cases o with
  | next t => exact ho
  | fault | refused => trivial

include h

theorem MemoryKept.execCvt {d a : Reg} {ovr : Bool} {rm : BitVec 2} {conv : BitVec 5} : OutcomeKept (execCvt d a ovr rm conv s) := by
  unfold Machine.execCvt
  extract_lets n
  exact h.fpOp

/-- Every instruction and every event keeps memory in its one form. -/
theorem MemoryKept.exec {i : Instr} : OutcomeKept (exec i s) := by
  cases i with
  | add | sub | mul | mulhiI32 | mulhiN32 | mad | addI64 | subI64 | mulwI32 | mulwN32 | minI32 | maxI32 | minN32 | maxN32 | addi | ldi
    | and | or | xor | andn | shl | shrN32 | shrI32 | shli | shriN32 | shriI32 | bfeN32 | bfeI32 | bfi | popc | clz | brev | seteq |
    setne | setltI32 | setleI32 | setltN32 | setleN32 | setltI64 | seteqI64 | mov | movI64 | sel | movh =>
    unfold Machine.exec
    exact h.vectorOp
  | uAdd | uSub | uMul | uMulhiI32 | uMulhiN32 | uMad | uAddI64 | uSubI64 | uMulwI32 | uMulwN32 | uMinI32 | uMaxI32 | uMinN32 |
    uMaxN32 | uAddi | uLdi | uAnd | uOr | uXor | uAndn | uShl | uShrN32 | uShrI32 | uShli | uShriN32 | uShriI32 | uBfeN32 | uBfeI32 |
    uBfi | uPopc | uClz | uBrev =>
    unfold Machine.exec
    exact h.uniformOp
  | xchAt | xchBelow | xchAbove | xchMirror =>
    unfold Machine.exec
    exact h.shuffle
  | faddF32 | fsubF32 | fmulF32 | ffmaF32 | fminF32 | fmaxF32 | fdivF32 | fsqrtF32 | fseteqF32 | fsetltF32 | fsetleF32 | fsetunF32 |
    faddiF32 | fmuliF32 | fclassF32 | fnmaF32 | faddF64 | fsubF64 | fmulF64 | ffmaF64 | fminF64 | fmaxF64 | fdivF64 | fsqrtF64 |
    fseteqF64 | fsetltF64 | fsetleF64 | fsetunF64 | faddiF64 | fmuliF64 | fclassF64 | fnmaF64 | haddF16x2 | hmulF16x2 | hfmaF16x2 |
    haddBf16x2 | hmulBf16x2 | hfmaBf16x2 | qbx | frcpF32 | frsqF32 | fexp2F32 | flog2F32 | fsinF32 | fcosF32 | frcpF64 | frsqF64 =>
    unfold Machine.exec
    exact h.fpOp
  | cvt => exact h.execCvt
  | ld | uLd =>
    unfold Machine.exec
    exact h.loadOp
  | st | uSt =>
    unfold Machine.exec
    exact h.storeOp
  | atom | uAtom =>
    unfold Machine.exec
    exact h.atomOp
  | cas | cas2 | uCas =>
    unfold Machine.exec
    exact h.casOp
  | copy | copyTile | copyGath | copyScat | copyRed | copyConv =>
    unfold Machine.exec
    exact h.runCopy
  | preemptDiscardedOp | resumeDiscarded | mgmtControllerReset | mgmtControllerResetRelease =>
    exact h
  | vmask => exact h.execVmask
  | vgroup => exact h.execVgroup
  | lred => exact h.execLred
  | lda => exact h.execLda
  | pf => exact h.execPf
  | evict => exact h.execEvict
  | movx => exact h.execMovx
  | movxr => exact h.execMovxr
  | sread => exact h.execSread
  | swrite => exact h.execSwrite
  | bra => exact h.execBra
  | brx => exact h.execBrx
  | call => exact h.execCall
  | ret => exact h.execRet
  | joinw => exact h.execJoinw
  | trap => exact h.execTrap
  | brk => exact h.execBrk
  | emsave => exact h.execEmsave
  | emset => exact h.execEmset
  | barInit => exact h.execBarInit
  | barArrive => exact h.execBarArrive
  | barWait => exact h.execBarWait
  | fence => exact h.execFence
  | waitc => exact h.execWaitc
  | uWaitring => exact h.execUWaitring
  | barSync => exact h.execBarSync
  | uRecruit => exact h.execURecruit
  | uHloop => exact h.execUHloop
  | uHjoin => exact h.execUHjoin
  | setshape => exact h.execSetshape
  | mma => exact h.execMma
  | mgath => exact h.execMgath
  | mdrain => exact h.execMdrain
  | mzero => exact h.execMzero
  | tld => exact h.execTld
  | tst => exact h.execTst
  | cksum => exact h.execCksum
  | ckchk => exact h.execCkchk
  | ckinj => exact h.execCkinj
  | launch => exact h.execLaunch
  | amsend => exact h.execAmsend
  | trctl => exact h.execTrctl
  | trmark => exact h.execTrmark
  | smap => exact h.execSmap
  | sunmap => exact h.execSunmap
  | sflush => exact h.execSflush
  | locq => exact h.execLocq
  | tlbinvPage => exact h.execTlbinvPage
  | tlbinvAsid => exact h.execTlbinvAsid
  | asidset => exact h.execAsidset
  | mgate => exact h.execMgate
  | cntrd => exact h.execCntrd
  | cntset => exact h.execCntset
  | sleep => exact h.execSleep
  | trapEntry => exact h.execTrapEntry
  | joinwTimeout => exact h.execJoinwTimeout
  | starvationLimit => exact h.execStarvationLimit
  | issueSelect => exact h.execIssueSelect
  | sleepExpiry => exact h.execSleepExpiry
  | barrierWaitWake => exact h.execBarrierWaitWake
  | waitcWake => exact h.execWaitcWake
  | waitringWake => exact h.execWaitringWake
  | resourceWake => exact h.execResourceWake
  | firstTouchFill => exact h.execFirstTouchFill
  | ldaReply => exact h.execLdaReply
  | helperForcedRelease => exact h.execHelperForcedRelease
  | matrixOpStart => exact h.execMatrixOpStart
  | matrixSourceRelease => exact h.execMatrixSourceRelease
  | matrixOpComplete => exact h.execMatrixOpComplete
  | copyStart => exact h.execCopyStart
  | copySourceRelease => exact h.execCopySourceRelease
  | copyLineArrival => exact h.execCopyLineArrival
  | copyComplete => exact h.execCopyComplete
  | copyFault => exact h.execCopyFault
  | blockPlace => exact h.execBlockPlace
  | contextStage => exact h.execContextStage
  | blockStart => exact h.execBlockStart
  | blockEnd => exact h.execBlockEnd
  | teamAbort => exact h.execTeamAbort
  | handlerSpawn => exact h.execHandlerSpawn
  | messageArrival => exact h.execMessageArrival
  | teamDiscard => exact h.execTeamDiscard
  | teamSave => exact h.execTeamSave
  | teamRestore => exact h.execTeamRestore
  | closeRequest => exact h.execCloseRequest
  | implicitSplit => exact h.execImplicitSplit
  | slotRenewal => exact h.execSlotRenewal
  | slotPurge => exact h.execSlotPurge
  | atticSweep => exact h.execAtticSweep
  | migrationFiller => exact h.execMigrationFiller
  | inboundRouteAck => exact h.execInboundRouteAck
  | tracePeriodicSync => exact h.execTracePeriodicSync
  | remoteAtomicRetry => exact h.execRemoteAtomicRetry
  | clockChange => exact h.execClockChange
  | retrainingDeferralExpiry => exact h.execRetrainingDeferralExpiry
  | join => exact h.execJoin
  | yield => exact h.execYield
  | exit => exact h.execExit
  | uIsplit => exact h.execUIsplit
  | uHrel => exact h.execUHrel
  | tretRetry => exact h.execTretRetry
  | tretSkip => exact h.execTretSkip
  | tretEnd => exact h.execTretEnd
  | tlbinvAll => exact h.execTlbinvAll
  | nop => exact h.execNop
  | gangStateError => exact h.execGangStateError
  | scoreboardSquash => exact h.execScoreboardSquash
  | boundaryDrain => exact h.execBoundaryDrain
  | schedulerTake => exact h.execSchedulerTake
  | tokenEvict => exact h.execTokenEvict
  | launchPortWrite => exact h.execLaunchPortWrite
  | qcmdNop => exact h.execQcmdNop
  | qcmdBind => exact h.execQcmdBind
  | qcmdUnbind => exact h.execQcmdUnbind
  | qcmdEnable => exact h.execQcmdEnable
  | qcmdDisable => exact h.execQcmdDisable
  | qstatWrite => exact h.execQstatWrite
  | qspillWrite => exact h.execQspillWrite
  | preemptRequest => exact h.execPreemptRequest
  | restoreRequest => exact h.execRestoreRequest
  | endRequest => exact h.execEndRequest
  | resumeRetry => exact h.execResumeRetry
  | resumeRefuse => exact h.execResumeRefuse
  | resumeEnd => exact h.execResumeEnd
  | lineEvict => exact h.execLineEvict
  | inboundWrite => exact h.execInboundWrite
  | hostBar2Read => exact h.execHostBar2Read
  | hostSnoop => exact h.execHostSnoop
  | linkUp => exact h.execLinkUp
  | linkDown => exact h.execLinkDown
  | errstatWrite => exact h.execErrstatWrite
  | trrpWrite => exact h.execTrrpWrite
  | registerWrite => exact h.execRegisterWrite
  | traceLossWrite => exact h.execTraceLossWrite
  | remoteWriteArrival => exact h.execRemoteWriteArrival
  | remoteAtomicArrival => exact h.execRemoteAtomicArrival
  | frameResend => exact h.execFrameResend
  | routeTableWrite => exact h.execRouteTableWrite
  | mgmtQueueDisable => exact h.execMgmtQueueDisable
  | mgmtQueueEnable => exact h.execMgmtQueueEnable
  | mgmtDieReset => exact h.execMgmtDieReset
  | mgmtDieEnable => exact h.execMgmtDieEnable
  | mgmtFaultQueueRead => exact h.execMgmtFaultQueueRead
  | ballastWrite => exact h.execBallastWrite
  | hbmRateChange => exact h.execHbmRateChange
  | hbmRetrainDone => exact h.execHbmRetrainDone
  | hbmStackReset => exact h.execHbmStackReset
  | sensorSample => exact h.execSensorSample
  | thermalDecision => exact h.execThermalDecision
  | governorTest => exact h.execGovernorTest
  | powerUp => exact h.execPowerUp
  | firmwareImageLoad => exact h.execFirmwareImageLoad
  | spdmRequest => exact h.execSpdmRequest
  | memoryPoison => exact h.execMemoryPoison
  | ioParityError => exact h.execIoParityError
  | recordingControl => exact h.execRecordingControl

theorem MemoryKept.issueStep : OutcomeKept (issueStep s u) := by
  unfold Machine.issueStep
  split
  · exact h
  · next e => exact (h.enter.stopped e).of_mem rfl
  · next e =>
    have h1 := (h.enter.ready e).countIssue (u := u)
    dsimp only
    split
    · exact h1.entryFault.of_mem rfl
    · exact h1.exec.afterIssue

theorem MemoryKept.ownStep : OutcomeKept (ownStep s) := by
  unfold Machine.ownStep
  split
  · next e => exact h.earlyPiece.get e
  · split
    · exact h.exec
    · exact h.tick

theorem MemoryKept.stimulusStep : OutcomeKept (stimulusStep s) := by
  unfold Machine.stimulusStep
  split
  · next t x rest _ =>
    split
    · exact h.ownStep
    · refine MemoryKept.stimulate ?_
      exact h
  · split
    · next e => exact h.nextInput.get e
    · exact h.ownStep

theorem MemoryKept.outsideStep : OutcomeKept (outsideStep s) := by
  unfold Machine.outsideStep
  split
  · split
    · exact h.stimulusStep
    · split
      · refine MemoryKept.exec ?_
        exact h
      · exact h
  · exact h.stimulusStep

theorem MemoryKept.step : OutcomeKept (step s) := by
  unfold Machine.step
  split
  · exact MemoryKept.issueStep (h.of_mem rfl)
  · exact MemoryKept.outsideStep (h.of_mem rfl)

end

/-- Settles O59: what is written to memory is written through `Memory.write`, `Memory.writes` and `Memory.erase`, or drops cells of it, and
each of these keeps the form. -/
theorem memoryForm : Obligations.MemoryForm := by
  unfold Obligations.MemoryForm
  intro s t h e
  exact h.step.next e

end Sys2Proof.Machine
end

/-! Proofs/Boundaries.lean: an interval boundary of a block leaves its core's L1 empty, every byte that the core sees as it was, and the next
interval open (R255, R256, R299, R300, R308). -/
section

namespace Sys2Proof.Machine

open Sys2Proof

/-! ### What memory accesses leave alone -/

/-- A state without what memory accesses may change. -/
def State.offAccess (s : State) : State := { s.offHomes with
  mem := []
  rewritten := []
  narrow := []
  wants := []
  selectors := []
  cores := []
  gangs := []
  blocks := []
  teams := []
  clusterTlbs := []
  peerSeq := [] }

/-- A core without what they may change. -/
def Core.offAccess (c : Core) : Core := { c with
  l1 := []
  tlb := []
  laneDeath := 0
  pbcache := []
  peerWrites := [] }

theorem memoryOnly_iff {s t : State} :
    MemoryOnly s t ↔ t.offAccess = s.offAccess ∧ ∀ c, (t.core c).offAccess = (s.core c).offAccess := by
  constructor
  · rintro ⟨hstate, hcores⟩
    exact ⟨(congrArg State.offAccess hstate :), fun c => (congrArg Core.offAccess (hcores c) :)⟩
  · rintro ⟨hstate, hcores⟩
    refine ⟨congrArg (fun u : State => { u with
      mem := t.mem
      rewritten := t.rewritten
      narrow := t.narrow
      hollow := t.hollow
      wants := t.wants
      side := t.side
      marks := t.marks
      slices := t.slices
      selectors := t.selectors
      boards := t.boards
      cores := t.cores
      gangs := t.gangs
      blocks := t.blocks
      teams := t.teams
      clusterTlbs := t.clusterTlbs
      dies := t.dies
      peerSeq := t.peerSeq }) hstate, fun c => congrArg (fun k : Core => { k with
      l1 := (t.core c).l1
      tlb := (t.core c).tlb
      laneDeath := (t.core c).laneDeath
      pbcache := (t.core c).pbcache
      peerWrites := (t.core c).peerWrites }) (hcores c)⟩

theorem MemoryOnly.refl (s : State) : MemoryOnly s s := memoryOnly_iff.mpr ⟨rfl, fun _ => rfl⟩

theorem MemoryOnly.trans {s t u : State} (h : MemoryOnly s t) (k : MemoryOnly t u) : MemoryOnly s u := by
  rw [memoryOnly_iff] at *
  exact ⟨k.1.trans h.1, fun c => (k.2 c).trans (h.2 c)⟩

theorem MemoryOnly.of_cores {s t : State} (h : t.offAccess = s.offAccess) (hc : t.cores = s.cores) : MemoryOnly s t :=
  memoryOnly_iff.mpr ⟨h, fun c => congrArg Core.offAccess (State.core_of_cores hc c)⟩

theorem MemoryOnly.modCore (s : State) (core : Nat) {f : Core → Core} (hf : ∀ k, (f k).offAccess = k.offAccess) :
    MemoryOnly s (s.modCore core f) := by
  refine memoryOnly_iff.mpr ⟨rfl, fun c => ?_⟩
  rw [State.core_modCore]
  split
  · next h => rw [hf, h]
  · rfl

theorem MemoryOnly.modBlock (s : State) (bid : Nat) (f : Block → Block) : MemoryOnly s (s.modBlock bid f) := .of_cores rfl rfl
theorem MemoryOnly.modGang (s : State) (gid : Nat) (f : Gang → Gang) : MemoryOnly s (s.modGang gid f) := .of_cores rfl rfl

/-! ### Dirty words that go to their homes, and the cores (R244, R266) -/

theorem Tab.look_map_fixed {α : Type} {f : Nat × α → Nat × α} {x : Nat} (hkey : ∀ e, (f e).1 = e.1) (hx : ∀ v, f (x, v) = (x, v))
    (t : Tab α) : Tab.look (t.map f) x = Tab.look t x := by
  induction t with
  | nil => rfl
  | cons e t ih =>
    obtain ⟨k, v⟩ := e
    by_cases h : k = x
    · subst h
      rw [List.map_cons, hx, Tab.look_cons, Tab.look_cons, if_pos rfl, if_pos rfl]
    · have hne : (f (k, v)).1 ≠ x := by rwa [hkey]
      calc Tab.look ((f (k, v)) :: t.map f) x = Tab.look (t.map f) x := if_neg hne
        _ = Tab.look t x := ih
        _ = Tab.look ((k, v) :: t) x := (if_neg h).symm

section

variable (s : State) (core : Nat)

/-- A write by a core makes the copies of others older, and not its own. -/
theorem State.core_staleCopies_self (a n : Nat) : (s.staleCopies (some core) a n).core core = s.core core := by
  refine congrArg (Option.getD · Core.reset) (Tab.look_map_fixed (fun e => ?_) (fun v => if_pos rfl) s.cores)
  split <;> rfl

theorem State.core_homeBack_self (w : Nat) (bs : List (Option Byte)) : (s.homeBack core w bs).core core = s.core core := by
  unfold State.homeBack
  dsimp only
  rw [State.core_of_cores (State.cores_of_offHomes (State.offHomes_unshare _ _)),
    State.core_of_cores (State.cores_of_offHomes (State.offHomes_clearPend _ _ _)), ← s.core_staleCopies_self core (4 * w) 4]
  refine foldl_keeps (fun t : State => t.core core) _ (fun t p => ?_) _ _
  split <;> rfl

theorem State.core_backWord_self (x : L1Line) (i : Nat) : (s.backWord core x i).core core = s.core core := by
  unfold State.backWord
  split
  · refine Eq.trans ?_ (State.core_of_cores (State.cores_of_offHomes (s.offHomes_clearPend core (x.line * 32 + i))) core)
    unfold State.raiseErr
    split <;> rfl
  · exact s.core_homeBack_self core _ _

theorem State.l1_backLine (x : L1Line) : ((s.backLine core x).core core).l1 =
    (s.core core).l1.map (fun y => if y.line = x.line then { y with dirty := 0 } else y) := by
  have hwords := foldl_keeps (fun t : State => t.core core) (fun t i => t.backWord core x i)
    (fun t i => t.core_backWord_self core x i) (lanesOf x.dirty) s
  rw [State.backLine, State.setL1, State.core_modCore, if_pos rfl, hwords]

end

/-- A line that is still dirty after others have gone back was so before, and is none of them. -/
theorem State.dirty_backLines {s : State} {core : Nat} {ls : List L1Line} {y : L1Line}
    (hy : y ∈ ((ls.foldl (fun t x => t.backLine core x) s).core core).l1) (hd : y.dirty ≠ 0) :
    y ∈ (s.core core).l1 ∧ ∀ x ∈ ls, x.line ≠ y.line := by
  induction ls generalizing s with
  | nil => exact ⟨hy, by simp⟩
  | cons x ls ih =>
    obtain ⟨hmem, hls⟩ := ih hy
    rw [State.l1_backLine] at hmem
    obtain ⟨z, hz, rfl⟩ := List.mem_map.mp hmem
    split at hd
    · exact absurd rfl hd
    · next hne =>
      rw [if_neg hne] at hls ⊢
      exact ⟨hz, List.forall_mem_cons.mpr ⟨Ne.symm hne, hls⟩⟩

/-- An L1 that is written back holds no dirty word (R255). -/
theorem State.clean_writeBackL1 (s : State) (core : Nat) : ∀ y ∈ ((s.writeBackL1 core).core core).l1, y.dirty = 0 := by
  intro y hy
  by_contra hd
  obtain ⟨hmem, hnone⟩ := State.dirty_backLines hy hd
  exact hnone y (List.mem_filter.mpr ⟨hmem, decide_eq_true hd⟩) rfl

theorem State.offAccess_of_offHomes {s t : State} (h : t.offHomes = s.offHomes) : t.offAccess = s.offAccess := by
  rw [State.offAccess, h, State.offAccess]

theorem State.offAccess_homeBack (s : State) (core w : Nat) (bs : List (Option Byte)) :
    (s.homeBack core w bs).offAccess = s.offAccess := by
  unfold State.homeBack
  dsimp only
  rw [State.offAccess_of_offHomes (State.offHomes_unshare _ _), State.offAccess_of_offHomes (State.offHomes_clearPend _ _ _)]
  refine foldl_keeps State.offAccess _ (fun t p => ?_) _ _
  split <;> rfl

theorem State.coresOffL1_homeBack (s : State) (core w : Nat) (bs : List (Option Byte)) :
    (s.homeBack core w bs).coresOffL1 = s.coresOffL1 := by
  unfold State.homeBack
  dsimp only
  rw [State.coresOffL1_of_offHomes (State.offHomes_unshare _ _), State.coresOffL1_of_offHomes (State.offHomes_clearPend _ _ _),
    ← s.coresOffL1_staleCopies (some core) (4 * w) 4]
  refine foldl_keeps State.coresOffL1 _ (fun t p => ?_) _ _
  split <;> rfl

theorem State.core_offL1_of_coresOffL1 {s t : State} (h : t.coresOffL1 = s.coresOffL1) (c : Nat) :
    (t.core c).offL1 = (s.core c).offL1 := by
  have hcore : ∀ u : State, (u.core c).offL1 = (Tab.look u.coresOffL1 c).getD Core.reset := fun u => by
    rw [State.coresOffL1, Tab.look_map_val (fun _ => Core.offL1)]
    unfold State.core Tab.getD
    cases Tab.look u.cores c <;> rfl
  rw [hcore, hcore, h]

theorem MemoryOnly.homeBack (s : State) (core w : Nat) (bs : List (Option Byte)) : MemoryOnly s (s.homeBack core w bs) :=
  memoryOnly_iff.mpr ⟨s.offAccess_homeBack core w bs, fun c =>
    (congrArg Core.offAccess (State.core_offL1_of_coresOffL1 (s.coresOffL1_homeBack core w bs) c) :)⟩

theorem MemoryOnly.link {s t : State} (h : MemoryOnly s t) : t.link = s.link := (congrArg State.link h.1 :)

theorem MemoryOnly.backWord {s : State} (hl : s.link ≠ .down) (core : Nat) (x : L1Line) (i : Nat) :
    MemoryOnly s (s.backWord core x i) := by
  have hlink : (isCellar (x.line * 128) && decide (s.link = .down)) = false := by rw [decide_eq_false hl, Bool.and_false]
  rw [State.backWord, hlink, if_neg Bool.false_ne_true]
  exact .homeBack ..

theorem MemoryOnly.backLine {s : State} (hl : s.link ≠ .down) (core : Nat) (x : L1Line) : MemoryOnly s (s.backLine core x) := by
  refine MemoryOnly.trans (List.foldlRecOn (motive := MemoryOnly s) _ _ (.refl s) fun t ht i _ => ?_)
    (.modCore _ core (fun _ => rfl))
  exact ht.trans (.backWord (by rwa [ht.link]) core x i)

/-- While the link is up, an L1 is written back with memory, marks and slices changed alone (R255, R448). -/
theorem MemoryOnly.writeBackL1 {s : State} (hl : s.link ≠ .down) (core : Nat) : MemoryOnly s (s.writeBackL1 core) := by
  refine List.foldlRecOn (motive := MemoryOnly s) _ _ (.refl s) fun t ht x _ => ?_
  exact ht.trans (.backLine (by rwa [ht.link]) core x)

/-! ### Intervals (R256, R267) -/

section

variable (s : State) (slot : Nat)

/-- A line that leaves its slice is counted for its slots, whose intervals stay (R269). -/
theorem State.interval_atticAdd (l : List Nat) : ((s.atticAdd l).board slot).interval = (s.board slot).interval := by
  refine foldl_keeps (fun t : State => (t.board slot).interval) _ (fun t k => ?_) _ _
  rw [State.board_modBoard]
  split
  · next h => rw [h]
  · rfl

theorem State.board_clearMarks (line : Nat) : (s.clearMarks line).board slot = s.board slot :=
  foldl_keeps (fun t : State => t.board slot) _ (by intros; rfl) _ _

theorem State.interval_spillLine (line : Nat) : ((s.spillLine line).board slot).interval = (s.board slot).interval := by
  have hclear : ((s.fillIn line).clearMarks line).board slot = s.board slot := State.board_clearMarks _ slot line
  unfold State.spillLine
  split
  · exact (State.interval_atticAdd _ slot _).trans (congrArg Board.interval hclear)
  · exact congrArg Board.interval hclear

theorem State.interval_unshare (line : Nat) : ((s.unshare line).board slot).interval = (s.board slot).interval := by
  unfold State.unshare
  dsimp only
  split
  · rfl
  · split
    · rfl
    · exact foldl_keeps (fun t : State => (t.board slot).interval) _ (fun t l => t.interval_spillLine slot l) _ s

theorem State.board_clearPend (core w : Nat) : (s.clearPend core w).board slot = s.board slot := by
  unfold State.clearPend
  dsimp only
  split <;> rfl

theorem State.interval_homeBack (core w : Nat) (bs : List (Option Byte)) :
    ((s.homeBack core w bs).board slot).interval = (s.board slot).interval := by
  unfold State.homeBack
  dsimp only
  rw [State.interval_unshare, State.board_clearPend]
  refine congrArg Board.interval (foldl_keeps (fun t : State => t.board slot) _ (fun t p => ?_) _ (s.staleCopies (some core) (4 * w) 4))
  split <;> rfl

theorem State.interval_backWord (core : Nat) (x : L1Line) (i : Nat) :
    ((s.backWord core x i).board slot).interval = (s.board slot).interval := by
  unfold State.backWord
  split
  · refine Eq.trans ?_ (congrArg Board.interval (s.board_clearPend slot core (x.line * 32 + i)))
    unfold State.raiseErr
    split <;> rfl
  · exact s.interval_homeBack slot core _ _

theorem State.interval_backLine (core : Nat) (x : L1Line) : ((s.backLine core x).board slot).interval = (s.board slot).interval :=
  foldl_keeps (fun t : State => (t.board slot).interval) (fun t i => t.backWord core x i) (fun t i => t.interval_backWord slot core x i)
    (lanesOf x.dirty) s

/-- A write-back opens no interval. -/
theorem State.interval_writeBackL1 (core : Nat) : ((s.writeBackL1 core).board slot).interval = (s.board slot).interval :=
  foldl_keeps (fun t : State => (t.board slot).interval) (fun t x => t.backLine core x) (fun t x => t.interval_backLine slot core x) _ s

end

/-! ### The two halves of a boundary (R255, R308) -/

/-- A block's dirty words have gone to their homes: those of its core's L1, and of its mapped lines. -/
structure Flushed (s u : State) (b : Block) : Prop where
  home : ∀ a, Memory.byte? u.mem a = s.seen b.core a
  clean : ∀ y ∈ (u.core b.core).l1, y.dirty = 0
  interval : (u.board b.slot).interval = (s.board b.slot).interval
  block : u.block? b.bid = some b
  gangs : u.gangs = s.gangs
  memory : MemoryOnly s u

theorem State.releaseHalf_of_clean {s : State} {b : Block} (hb : s.block? b.bid = some b) (hd : b.dirty = []) :
    s.releaseHalf b = s.writeBackL1 b.core := by
  have hblocks : (s.writeBackL1 b.core).blocks = s.blocks := State.blocks_of_offMemory (s.offMemory_writeBackL1 b.core)
  refine State.writeBackMapped_of_clean (fun c hc => ?_) _ _
  rw [State.block?, hblocks] at hc
  rw [← Option.some.inj (hb.symm.trans hc), hd]

theorem State.flushed_releaseHalf {s : State} {b : Block} (ho : Orderly s b.core) (hb : s.block? b.bid = some b) (hd : b.dirty = []) :
    Flushed s (s.releaseHalf b) b := by
  rw [State.releaseHalf_of_clean hb hd]
  have hoff := s.offMemory_writeBackL1 b.core
  exact ⟨State.byte?_writeBackL1 ho, s.clean_writeBackL1 b.core, s.interval_writeBackL1 b.slot b.core,
    (congrArg (Tab.look · b.bid) (State.blocks_of_offMemory hoff)).trans hb, State.gangs_of_offMemory hoff,
    .writeBackL1 ho.linked b.core⟩

/-- What a release of system scope forgets of writes to peers lies beside (R455). -/
theorem Flushed.forgetPeers {s u : State} {b : Block} (h : Flushed s u b) (core : Nat) :
    Flushed s (u.modCore core (fun c => { c with peerWrites := [] })) b := by
  refine { h with
    clean := fun y hy => h.clean y ?_
    memory := h.memory.trans (.modCore u core (fun _ => rfl)) }
  rw [State.core_modCore] at hy
  split at hy
  · next he => rwa [he] at hy
  · exact hy

/-- A block has made a boundary: its core sees what it saw, from an empty L1, and the next interval is open unless a wrap or a renewal
had opened it (R255, R256, R271). -/
structure BoundaryMade (s t : State) (b : Block) : Prop where
  seen : ∀ a, t.seen b.core a = s.seen b.core a
  emptied : (t.core b.core).l1 = []
  interval : b.opened = false → (t.board b.slot).interval = ((s.board b.slot).interval + 1) % 2 ^ 18
  block : ∃ c, t.block? b.bid = some c ∧ c.impSplits = b.impSplits ∧ c.closeReq = false
  gangs : t.gangs = s.gangs
  memory : MemoryOnly s t

theorem State.l1_invalidateL1 {s : State} {core : Nat} (h : ∀ y ∈ (s.core core).l1, y.dirty = 0) :
    ((s.invalidateL1 core).core core).l1 = [] := by
  have hnone : (s.core core).l1.filter (fun y => y.dirty ≠ 0) = [] :=
    List.filter_eq_nil_iff.mpr (fun y hy => by simpa using h y hy)
  rw [State.invalidateL1, State.core_modCore, if_pos rfl, hnone, List.map_nil]

theorem State.seen_of_empty {s : State} {core : Nat} (h : (s.core core).l1 = []) (a : Nat) : s.seen core a = Memory.byte? s.mem a :=
  State.seen_of_absent (by rw [State.l1Line, h, List.find?_nil])

theorem State.advance_keeps (s : State) (b : Block) : (s.advance b).mem = s.mem ∧ (s.advance b).cores = s.cores ∧
    (s.advance b).gangs = s.gangs ∧ (s.advance b).offAccess = s.offAccess := by
  unfold State.advance
  dsimp only
  split <;> exact ⟨rfl, rfl, rfl, rfl⟩

theorem State.interval_advance {s : State} {b : Block} (h : b.opened = false) :
    ((s.advance b).board b.slot).interval = ((s.board b.slot).interval + 1) % 2 ^ 18 := by
  have hboard := s.board_modBoard b.slot b.slot (fun x => { x with interval := (x.interval + 1) % 2 ^ 18 })
  rw [if_pos rfl] at hboard
  rw [State.advance, if_neg (by rw [h]; exact Bool.false_ne_true)]
  exact congrArg Board.interval hboard

/-- Where the next interval opens, no boundary is asked for any more (R270, R271). -/
theorem State.block?_advance {s : State} {b : Block} (h : s.block? b.bid = some b) : (s.advance b).block? b.bid = some { b with
    opened := false
    wrapping := false
    closeReq := false
    closeSeen := false } := by
  unfold State.advance
  dsimp only
  rw [State.block?_modBlock, if_pos rfl]
  split
  · rw [h, Option.map_some]
  · exact congrArg (Option.map _) h

theorem Flushed.boundaryMade {s u : State} {b : Block} (h : Flushed s u b) : BoundaryMade s ((u.advance b).acquireHalf b) b := by
  obtain ⟨hmem, hcores, hgangs, hoff⟩ := u.advance_keeps b
  have hempty : (((u.advance b).acquireHalf b).core b.core).l1 = [] := by
    have hacquire : ((u.advance b).acquireHalf b).cores = ((u.advance b).invalidateL1 b.core).cores := by
      simp only [State.acquireHalf, State.modBlock]
    rw [State.core_of_cores hacquire]
    exact State.l1_invalidateL1 (fun y hy => h.clean y (by rwa [State.core_of_cores hcores] at hy))
  have hblock := (u.advance b).block?_modBlock b.bid b.bid Block.unmapClean
  rw [if_pos rfl, State.block?_advance h.block, Option.map_some] at hblock
  refine ⟨fun a => ?_, hempty, fun ho => ?_, ⟨_, hblock, rfl, rfl⟩, hgangs.trans h.gangs, ?_⟩
  · rw [State.seen_of_empty hempty, ← h.home a, ← hmem]
    rfl
  · exact (State.interval_advance ho).trans (by rw [h.interval])
  · have hadvance : MemoryOnly u (u.advance b) := .of_cores hoff hcores
    have hinvalidate : MemoryOnly (u.advance b) ((u.advance b).invalidateL1 b.core) := .modCore _ _ (fun _ => rfl)
    exact ((h.memory.trans hadvance).trans hinvalidate).trans (.modBlock ..)

/-- The parameter blocks that a copy-role gang's acquire drops lie beside (R385). -/
theorem BoundaryMade.emptyParams {s t : State} {b : Block} (h : BoundaryMade s t b) : BoundaryMade s (t.emptyParams b) b := by
  have hempty : ((t.emptyParams b).core b.core).l1 = [] := by
    rw [State.emptyParams, State.core_modCore, if_pos rfl]
    exact h.emptied
  refine { h with
    seen := fun a => ?_
    emptied := hempty
    memory := h.memory.trans (.modCore _ _ (fun _ => rfl)) }
  rw [State.seen_of_empty hempty, ← h.seen a, State.seen_of_empty h.emptied]
  rfl

/-! ### The instructions that make one (R299, R300) -/

theorem State.boundaryMade_split {s : State} {b : Block} (ho : Orderly s b.core) (hb : s.block? b.bid = some b) (hd : b.dirty = []) :
    BoundaryMade s (s.split b) b := (State.flushed_releaseHalf ho hb hd).boundaryMade.emptyParams

theorem Cx.boundaryMade_fence {cx : Cx} {s : State} {n : Nat} (ho : Orderly s cx.b.core) (hb : s.block? cx.b.bid = some cx.b)
    (hd : cx.b.dirty = []) (hn : 1 ≤ n) :
    BoundaryMade s (cx.boundAfter (cx.boundBefore s ⟨true, true, n⟩) ⟨true, true, n⟩) cx.b := by
  have hflushed := State.flushed_releaseHalf ho hb hd
  have hbefore : ∃ u, Flushed s u cx.b ∧ cx.boundBefore s ⟨true, true, n⟩ = u.advance cx.b := by
    simp only [Cx.boundBefore, hn, decide_true, Bool.true_and, Bool.true_or, if_true]
    split
    · exact ⟨_, hflushed.forgetPeers cx.core, rfl⟩
    · exact ⟨_, hflushed, rfl⟩
  obtain ⟨u, hu, hu2⟩ := hbefore
  simp only [hu2, Cx.boundAfter, hn, decide_true, Bool.true_and, if_true]
  split
  · exact hu.boundaryMade.emptyParams
  · exact hu.boundaryMade

theorem cxOf_core {i : Instr} {s : State} {cx : Cx} (h : cxOf i s = some cx) : cx.core = cx.b.core := by
  unfold cxOf at h
  repeat' split at h
  · cases h
  · obtain ⟨p, -, rfl⟩ := Option.map_eq_some_iff.mp h
    rfl
  · cases h
  · obtain ⟨p, -, rfl⟩ := Option.map_eq_some_iff.mp h
    rfl
  · cases h
  · cases h

theorem exec_uIsplit {cx : Cx} {s : State} (h : Clear .uIsplit cx s) : exec .uIsplit s = .next (cx.finish (s.split cx.b)) :=
  run_clear h (fun cx t => cx.finish (t.split cx.b))

/-- The effect of a fence behind the checks of R217 (R299, R455). -/
def Cx.fenced (cx : Cx) (scope : BitVec 3) (t : State) : State :=
  let b : Bound := ⟨true, true, scope.toNat⟩
  if scope = 0 then (if t.loadsOut cx.b then cx.again t else cx.finish t)
  else if cx.remoteOut t b then cx.again t
  else match cx.peerLost t b with
  | some a => cx.fault t 9 cx.perform a 0
  | none => cx.finish (cx.boundAfter (cx.boundBefore t b) b)

theorem exec_fence {cx : Cx} {s : State} {scope : BitVec 3} (h : Clear (.fence scope) cx s) :
    exec (.fence scope) s = .next (cx.fenced scope s) := run_clear h (fun cx t => cx.fenced scope t)

theorem GangMoves.finish {cx : Cx} {s u : State} (hg : s.gang? cx.gid = some cx.g) (hu : u.gangs = s.gangs) :
    GangMoves cx s (cx.finish u) cx.g [] := by
  have hgang : ∀ k, u.gang? k = s.gang? k := fun k => congrArg (Tab.look · k) hu
  rw [Cx.finish_eq]
  refine ⟨⟨cx.moveGang cx.next cx.ready false cx.g, ?_, cx.moveGang_frame .., cx.moveGang_moved ..⟩, fun k hk => ?_⟩
  · rw [State.gang?_modGang_self, hgang, hg, Option.map_some]
  · rw [State.gang?_modGang, if_neg hk.symm, hgang]

/-- Settles O28: u.isplit and a fence at cluster scope or wider write back, advance and empty in this order, and then move on. -/
theorem boundaries : Obligations.Boundaries := by
  intro i cx s h
  have hg := cxOf_gang h.issued
  refine ⟨?_, fun hi ho hb hd => ?_⟩
  · rintro rfl hout
    refine ⟨_, exec_fence h, ?_⟩
    rw [Cx.fenced, if_pos rfl, hout, if_neg Bool.false_ne_true]
    exact OnlyRegs.finish hg
  · have hcore := cxOf_core h.issued
    rw [hcore] at ho
    have hmade : ∃ u, exec i s = .next (cx.finish u) ∧ BoundaryMade s u cx.b := by
      rcases hi with rfl | ⟨scope, hscope, rfl, hlost, hout⟩
      · exact ⟨_, exec_uIsplit h, State.boundaryMade_split ho hb hd⟩
      · have hn : 1 ≤ scope.toNat := Nat.one_le_iff_ne_zero.mpr (fun e => hscope (BitVec.eq_of_toNat_eq e))
        refine ⟨_, (exec_fence h).trans ?_, Cx.boundaryMade_fence ho hb hd hn⟩
        simp only [Cx.fenced, if_neg hscope, hout, Bool.false_eq_true, if_false, hlost]
    obtain ⟨u, hexec, hu⟩ := hmade
    rw [hcore]
    refine ⟨_, hexec, ?_, ?_, ?_, GangMoves.finish hg hu.gangs, ?_⟩ <;> rw [Cx.finish_eq]
    · exact hu.seen
    · exact hu.emptied
    · exact hu.interval
    · exact hu.memory.trans (.modGang ..)

end Sys2Proof.Machine
end

/-! Proofs/Intervals.lean: the events that keep the interval board: close requests and implicit splits, lines that leave their slices, slot
renewals, purges and attic sweeps (R266 to R272, R465). -/
section

namespace Sys2Proof.Machine

open Sys2Proof

/-! ### Marks and boards after one change each -/

theorem State.mark_foldl_setMark (m : Nat → Mark) (ws : List Nat) (s : State) (w : Nat) :
    (ws.foldl (fun t v => t.setMark v (m v)) s).mark w = if w ∈ ws then m w else s.mark w := by
  induction ws generalizing s with
  | nil => rfl
  | cons v ws ih =>
    rw [List.foldl_cons, ih, State.mark_setMark]
    by_cases hmem : w ∈ ws
    · rw [if_pos hmem, if_pos (List.mem_cons_of_mem v hmem)]
    · by_cases hv : v = w
      · rw [if_neg hmem, if_pos hv, if_pos (by rw [hv]; exact List.mem_cons_self), hv]
      · rw [if_neg hmem, if_neg hv, if_neg (fun h => (List.mem_cons.mp h).elim (fun e => hv e.symm) hmem)]

theorem State.board_foldl_modBoard (f : Board → Board) {l : List Nat} (hl : l.Nodup) (s : State) (k : Nat) :
    (l.foldl (fun t j => t.modBoard j f) s).board k = if k ∈ l then f (s.board k) else s.board k := by
  induction l generalizing s with
  | nil => rfl
  | cons j l ih =>
    obtain ⟨hj, hl⟩ := List.nodup_cons.mp hl
    rw [List.foldl_cons, ih hl, State.board_modBoard]
    by_cases hk : j = k
    · subst hk
      rw [if_neg hj, if_pos rfl, if_pos List.mem_cons_self]
    · simp only [if_neg hk, List.mem_cons, Ne.symm hk, false_or]

/-! ### A slice that runs short (R268, R270) -/

/-- What the slice does by itself: shelf records that fit are compacted, and lines that have been brought in are no longer waited for. -/
def State.compacted (s : State) (n : Nat) : State :=
  { (s.shelfLines n).foldl State.compactLine s with
    wants := s.wants.filter (fun k => k.set / 1024 ≠ n || (!s.resident k.line && s.someWaits k.bid)) }

/-- Then it asks the block of the oldest open stamp, once in an interval. -/
def State.askClose (s : State) (die n : Nat) : State :=
  match (s.oldestSlot (s.shelfLines n)).bind (fun k => s.blocks.find? (fun b => b.2.slot = k)) with
  | none => s
  | some (bid, b) =>
    if b.closeSeen then s else (s.modBlock bid (fun x => { x with closeReq := true, closeSeen := true })).perf die 11 1

theorem exec_closeRequest (s : State) (span slice : Nat) : exec (.closeRequest span slice) s =
    .next (if 1024 ≤ s.freeTags (span * 16 + slice) && !s.stuckSet (span * 16 + slice) then s
      else (s.compacted (span * 16 + slice)).askClose (span / 2) (span * 16 + slice)) := by
  show execCloseRequest span slice s = _
  unfold execCloseRequest State.compacted State.askClose
  rfl

theorem exec_closeRequest_short {s : State} {span slice : Nat}
    (h : s.freeTags (span * 16 + slice) < 1024 ∨ s.stuckSet (span * 16 + slice) = true) :
    exec (.closeRequest span slice) s = .next ((s.compacted (span * 16 + slice)).askClose (span / 2) (span * 16 + slice)) := by
  rw [exec_closeRequest, if_neg]
  rcases h with h | h
  · simp [Nat.not_le.mpr h]
  · simp [h]

theorem State.mark_askClose (s : State) (die n w : Nat) : (s.askClose die n).mark w = s.mark w := by
  unfold State.askClose
  split
  · rfl
  · split <;> rfl

/-- A stamp of a compact mark has lost its thread, and is live (R268). -/
theorem State.stamp_compactMark {s : State} {w : Nat} {x : Stamp} (h : (s.compactMark w).w = some x ∨ (s.compactMark w).r = some x) :
    x.who = .unknown ∧ s.stampLive x = true := by
  have hkeep : ∀ o : Option Stamp, (o.filter s.stampLive).map (fun y => { y with who := Who.unknown }) = some x →
      x.who = .unknown ∧ s.stampLive x = true := by
    intro o ho
    obtain ⟨y, hy, rfl⟩ := Option.map_eq_some_iff.mp ho
    exact ⟨rfl, (Option.filter_eq_some_iff.mp hy).2⟩
  exact h.elim (hkeep _) (hkeep _)

theorem State.mark_compactLine {s : State} {line w : Nat} (hh : isHbm (line * 128) = true) (hf : s.fits line = true)
    (hw : w ∈ lineWords line) : (s.compactLine line).mark w = s.compactMark w := by
  have hset := State.mark_foldl_setMark s.compactMark (lineWords line) s w
  rw [if_pos hw] at hset
  rw [State.compactLine, if_pos (Bool.and_eq_true_iff.mpr ⟨hh, hf⟩)]
  extract_lets s1
  have hmark : s1.mark w = s.compactMark w := hset
  clear_value s1
  exact hmark

theorem State.compactLine_of_not_fits {s : State} {line : Nat} (h : s.fits line = false) : s.compactLine line = s := by
  rw [State.compactLine, h, Bool.and_false, if_neg Bool.false_ne_true]

/-- The older of a stamp and another; the first of two that were born at once. -/
def older (a : Option Stamp) (e : Nat × Stamp × Bool) : Option Stamp :=
  match a with
  | none => some e.2.1
  | some x => if e.2.1.born < x.born then some e.2.1 else some x

theorem State.oldestSlot_eq (s : State) (lines : List Nat) :
    s.oldestSlot lines = ((lines.flatMap s.openMarks).foldl older none).map Stamp.slot := rfl

section

variable {m : Stamp}

/-- A stamp of m's slot that is as old as m. -/
def AsOld (m : Stamp) (a : Option Stamp) : Prop := ∃ y, a = some y ∧ y.slot = m.slot ∧ y.born ≤ m.born

/-- No stamp of another slot that is as old as m. -/
def NoneOlder (m : Stamp) (a : Option Stamp) : Prop := ∀ y, a = some y → y.slot = m.slot ∨ m.born < y.born

theorem NoneOlder.older {a : Option Stamp} {e : Nat × Stamp × Bool} (ha : NoneOlder m a) (he : NoneOlder m (some e.2.1)) :
    NoneOlder m (older a e) := by
  cases a with
  | none => exact he
  | some x =>
    unfold Machine.older
    dsimp only
    split
    · exact he
    · exact ha

theorem AsOld.older {a : Option Stamp} {e : Nat × Stamp × Bool} (ha : AsOld m a) (he : NoneOlder m (some e.2.1)) :
    AsOld m (older a e) := by
  obtain ⟨y, rfl, hslot, hborn⟩ := ha
  unfold Machine.older
  dsimp only
  split
  · next hlt => exact ⟨_, rfl, (he _ rfl).resolve_right (by omega), by omega⟩
  · exact ⟨y, rfl, hslot, hborn⟩

theorem asOld_older_self {a : Option Stamp} {e : Nat × Stamp × Bool} (he : e.2.1 = m) (ha : NoneOlder m a) : AsOld m (older a e) := by
  subst he
  cases a with
  | none => exact ⟨_, rfl, rfl, Nat.le_refl _⟩
  | some x =>
    unfold Machine.older
    dsimp only
    split
    · exact ⟨_, rfl, rfl, Nat.le_refl _⟩
    · next hle => exact ⟨x, rfl, (ha x rfl).resolve_right hle, Nat.not_lt.mp hle⟩

theorem asOld_foldl_older {es : List (Nat × Stamp × Bool)} (hes : ∀ e ∈ es, NoneOlder m (some e.2.1)) {a : Option Stamp}
    (ha : NoneOlder m a) (hm : AsOld m a ∨ ∃ e ∈ es, e.2.1 = m) : AsOld m (es.foldl older a) := by
  induction es generalizing a with
  | nil => exact hm.resolve_right (by simp)
  | cons e es ih =>
    obtain ⟨he, hes⟩ := List.forall_mem_cons.mp hes
    refine ih hes (ha.older he) ?_
    rcases hm with hm | ⟨f, hf, hfm⟩
    · exact .inl (hm.older he)
    · rcases List.mem_cons.mp hf with rfl | hf
      · exact .inl (asOld_older_self hfm ha)
      · exact .inr ⟨f, hf, hfm⟩

end

/-- The slot of the oldest open stamp, where all stamps that are as old are of one slot. -/
theorem State.oldestSlot_of_oldest {s : State} {lines : List Nat} {m : Nat × Stamp × Bool} (hm : ∃ l ∈ lines, m ∈ s.openMarks l)
    (hold : ∀ l ∈ lines, ∀ e ∈ s.openMarks l, e.2.1.slot = m.2.1.slot ∨ m.2.1.born < e.2.1.born) :
    s.oldestSlot lines = some m.2.1.slot := by
  have hall : ∀ e ∈ lines.flatMap s.openMarks, NoneOlder m.2.1 (some e.2.1) := by
    rintro e he y ⟨⟩
    obtain ⟨l, hl, hel⟩ := List.mem_flatMap.mp he
    exact hold l hl e hel
  obtain ⟨y, hy, hslot, -⟩ := asOld_foldl_older hall (a := none) (fun _ h => nomatch h) (.inr ⟨m, List.mem_flatMap.mpr hm, rfl⟩)
  rw [State.oldestSlot_eq, hy, Option.map_some, hslot]

theorem State.askClose_of_oldest {s : State} {die n bid slot : Nat} {b : Block} (hold : s.oldestSlot (s.shelfLines n) = some slot)
    (hmem : (bid, b) ∈ s.blocks) (hslot : b.slot = slot) (hone : ∀ e ∈ s.blocks, e.2.slot = slot → e = (bid, b))
    (hseen : b.closeSeen = false) :
    s.askClose die n = (s.modBlock bid (fun x => { x with closeReq := true, closeSeen := true })).perf die 11 1 := by
  have hfind : s.blocks.find? (fun e => e.2.slot = slot) = some (bid, b) := by
    cases h : s.blocks.find? (fun e => e.2.slot = slot) with
    | none => exact absurd (decide_eq_true hslot) (List.find?_eq_none.mp h _ hmem)
    | some e => rw [hone e (List.mem_of_find?_eq_some h) (of_decide_eq_true (List.find?_some h :))]
  simp only [State.askClose, hold, Option.bind_some, hfind, hseen, Bool.false_eq_true, if_false]

/-- A slice whose shelf records do not fit asks the block of the oldest open stamp, and changes nothing else but what waits for it. -/
theorem exec_closeRequest_asks {s : State} {span slice bid : Nat} {b : Block} {m : Nat × Stamp × Bool}
    (hshort : s.freeTags (span * 16 + slice) < 1024 ∨ s.stuckSet (span * 16 + slice) = true)
    (hfits : ∀ l ∈ s.shelfLines (span * 16 + slice), s.fits l = false)
    (hm : ∃ l ∈ s.shelfLines (span * 16 + slice), m ∈ s.openMarks l)
    (hold : ∀ l ∈ s.shelfLines (span * 16 + slice), ∀ e ∈ s.openMarks l, e.2.1.slot = m.2.1.slot ∨ m.2.1.born < e.2.1.born)
    (hmem : (bid, b) ∈ s.blocks) (hslot : b.slot = m.2.1.slot) (hone : ∀ e ∈ s.blocks, e.2.slot = b.slot → e = (bid, b))
    (hseen : b.closeSeen = false) : ∃ ws, exec (.closeRequest span slice) s =
      .next ((State.modBlock { s with wants := ws } bid (fun x => { x with closeReq := true, closeSeen := true })).perf (span / 2) 11 1) := by
  have hcompact : ∃ ws, s.compacted (span * 16 + slice) = { s with wants := ws } := by
    rw [State.compacted, foldl_fixed (fun l hl => State.compactLine_of_not_fits (hfits l hl))]
    exact ⟨_, rfl⟩
  obtain ⟨ws, hws⟩ := hcompact
  have hoff : State.oldestSlot { s with wants := ws } (State.shelfLines { s with wants := ws } (span * 16 + slice)) = some m.2.1.slot :=
    State.oldestSlot_of_oldest (s := s) hm hold
  refine ⟨ws, (exec_closeRequest_short hshort).trans ?_⟩
  rw [hws, State.askClose_of_oldest hoff hmem hslot (fun e he hes => hone e he (hes.trans hslot.symm)) hseen]

/-! ### The end of a slot's numbers (R271) -/

/-- A slot is free for a block when no record names it, so that it is none that records still name. -/
theorem State.attic_of_freeSlot {s : State} {slot : Nat} (h : s.freeSlot = some slot) : (s.board slot).attic = 0 := by
  have hfree : s.slotFree slot = true := List.find?_some h
  rw [State.slotFree, Bool.and_eq_true, decide_eq_true_eq, decide_eq_true_eq] at hfree
  exact hfree.2

/-- No mark has a stamp of a slot that has been purged (R271, R272). -/
theorem State.stamp_purgeSlot {s : State} {slot w : Nat} {x : Stamp}
    (h : ((s.purgeSlot slot).mark w).w = some x ∨ ((s.purgeSlot slot).mark w).r = some x) : x.slot ≠ slot := by
  unfold State.mark Tab.getD at h
  cases hl : Tab.look (s.purgeSlot slot).marks w with
  | none => simp [hl, Mark.empty] at h
  | some m =>
    obtain ⟨e, -, he⟩ := List.mem_map.mp (List.mem_filter.mp (Tab.mem_of_look hl)).1
    obtain ⟨-, rfl⟩ := Prod.mk.inj he
    rw [hl, Option.getD_some] at h
    rcases h with h | h <;> simpa using (Option.filter_eq_some_iff.mp h).2

theorem State.core_forgetSeen_eq (s : State) (slot c : Nat) : (s.forgetSeen slot).core c = { s.core c with
    l1 := (s.core c).l1.map (fun l => { l with seen := l.seen.filter (fun q => q.1 ≠ slot) }) } :=
  s.core_map (f := fun c => { c with l1 := c.l1.map (fun x => { x with seen := x.seen.filter (fun q => q.1 ≠ slot) }) }) rfl c

/-- No L1 keeps a first touch of a slot that begins again (R266). -/
theorem State.seen_forgetSeen {s : State} {slot c : Nat} {l : L1Line} (hl : l ∈ ((s.forgetSeen slot).core c).l1) {q : Nat × Nat × Nat}
    (hq : q ∈ l.seen) : q.1 ≠ slot := by
  rw [State.core_forgetSeen_eq] at hl
  obtain ⟨y, -, rfl⟩ := List.mem_map.mp hl
  exact of_decide_eq_true (List.mem_filter.mp hq).2

section

variable (s : State) (b : Block) (bid : Nat)

/-- A block that goes on under a fresh slot: its old one is retired, and what its core has locked goes with it. -/
def State.renewed (slot : Nat) : State :=
  let s1 := ((s.openSlot slot).retireSlot b.slot).modBlock bid (fun x => { x with slot := slot, opened := true, wrapping := false })
  let s2 := s1.modCore b.core (fun c => { c with locks := c.locks.map (fun e => (e.1, e.2.renamed b.slot slot)) })
  s2.modDie (dieOf b.core) (fun d => { d with renew := satAdd 32 d.renew 1 })

/-- A block that begins again under its own slot, whose marks are purged. -/
def State.restarted : State :=
  (((s.purgeSlot b.slot).forgetSeen b.slot).modBoard b.slot (fun x => { x with interval := 0, state := 1 })).modBlock bid
    (fun x => { x with opened := true, wrapping := false })

end

section

variable {s : State} {bid slot : Nat} {b : Block} (hb : s.block? bid = some b) (hw : b.wrapping = true) (hs : s.wraps b = true)

include hb hw hs

theorem exec_slotRenewal (ha : (s.board b.slot).attic ≠ 0) : exec (.slotRenewal bid) s = .next (s.freeSlot.elim s (s.renewed b bid)) := by
  have hgo : ¬ (!b.wrapping || !s.wraps b || decide ((s.board b.slot).attic = 0)) = true := by simp [hw, hs, ha]
  show execSlotRenewal bid s = _
  rw [execSlotRenewal, hb]
  dsimp only
  rw [if_neg hgo]
  cases s.freeSlot <;> rfl

theorem exec_slotRenewal_free (ha : (s.board b.slot).attic ≠ 0) (hslot : s.freeSlot = some slot) :
    exec (.slotRenewal bid) s = .next (s.renewed b bid slot) := by
  rw [exec_slotRenewal hb hw hs ha, hslot, Option.elim_some]

theorem exec_slotRenewal_full (ha : (s.board b.slot).attic ≠ 0) (hslot : s.freeSlot = none) : exec (.slotRenewal bid) s = .next s := by
  rw [exec_slotRenewal hb hw hs ha, hslot, Option.elim_none]

theorem exec_slotPurge (ha : (s.board b.slot).attic = 0) : exec (.slotPurge bid) s =
    .next (if (s.board b.slot).state ≠ 2 then s.modBoard b.slot (fun x => { x with state := 2 }) else s.restarted b bid) := by
  have hgo : ¬ (!b.wrapping || !s.wraps b || decide ((s.board b.slot).attic ≠ 0)) = true := by simp [hw, hs, ha]
  show execSlotPurge bid s = _
  rw [execSlotPurge, hb]
  dsimp only
  rw [if_neg hgo]
  rfl

end

section

variable {s : State} {bid slot : Nat} {b : Block}

theorem State.mem_renewed : (s.renewed b bid slot).mem = s.mem := by
  simp only [State.renewed, State.modDie, State.modCore, State.modBlock, State.retireSlot, State.modBoard, State.purgeSlot, State.openSlot,
    State.forgetSeen]

theorem State.gangs_renewed : (s.renewed b bid slot).gangs = s.gangs := by
  simp only [State.renewed, State.modDie, State.modCore, State.modBlock, State.retireSlot, State.modBoard, State.purgeSlot, State.openSlot,
    State.forgetSeen]

theorem State.block?_renewed (hb : s.block? bid = some b) : (s.renewed b bid slot).block? bid = some { b with
    slot := slot
    opened := true
    wrapping := false } := by
  have hblocks : (s.renewed b bid slot).blocks =
      Tab.modify s.blocks bid (fun x => { x with slot := slot, opened := true, wrapping := false }) := by
    simp only [State.renewed, State.modDie, State.modCore, State.modBlock, State.retireSlot, State.modBoard, State.purgeSlot,
      State.openSlot, State.forgetSeen]
  rw [State.block?] at hb
  rw [State.block?, hblocks, Tab.look_modify, if_pos rfl, hb, Option.map_some]

theorem State.renew_renewed : ((s.renewed b bid slot).die (dieOf b.core)).renew = satAdd 32 (s.die (dieOf b.core)).renew 1 := by
  unfold State.renewed
  extract_lets s1 s2
  have hdies : s2.dies = s.dies := by
    simp only [s2, s1, State.modCore, State.modBlock, State.retireSlot, State.modBoard, State.purgeSlot, State.openSlot, State.forgetSeen]
  rw [State.die_modDie, if_pos rfl, State.die, hdies, State.die]

theorem State.board_renewed (hne : slot ≠ b.slot) (ha : (s.board b.slot).attic ≠ 0) :
    ((s.renewed b bid slot).board slot).interval = 0 ∧ ((s.renewed b bid slot).board slot).state = 1 ∧
      ((s.renewed b bid slot).board b.slot).state = 3 := by
  have hboard : ∀ k, (s.renewed b bid slot).board k = ((s.openSlot slot).retireSlot b.slot).board k := fun k => by
    simp only [State.board, State.renewed, State.modDie, State.modCore, State.modBlock]
  have hpurge : ∀ k, ((s.openSlot slot).purgeSlot b.slot).board k = (s.openSlot slot).board k := fun _ => rfl
  have hopen : (s.openSlot slot).board b.slot = s.board b.slot := by
    rw [State.openSlot, State.board_modBoard, if_neg hne]
    rfl
  obtain ⟨hstate, hinterval⟩ := s.board_openSlot slot
  simp only [hboard, State.retireSlot, State.board_modBoard, if_neg hne.symm, if_true, hpurge, hopen, if_neg ha, and_true]
  exact ⟨hinterval, hstate⟩

theorem State.stamp_renewed {w : Nat} {x : Stamp}
    (h : ((s.renewed b bid slot).mark w).w = some x ∨ ((s.renewed b bid slot).mark w).r = some x) : x.slot ≠ b.slot := by
  have hmarks : (s.renewed b bid slot).marks = ((s.openSlot slot).purgeSlot b.slot).marks := by
    simp only [State.renewed, State.modDie, State.modCore, State.modBlock, State.retireSlot, State.modBoard]
  rw [State.mark, hmarks] at h
  exact State.stamp_purgeSlot (s := s.openSlot slot) h

/-- No L1 keeps a first touch of the fresh slot. -/
theorem State.seen_renewed {c : Nat} {l : L1Line} (hl : l ∈ ((s.renewed b bid slot).core c).l1) {q : Nat × Nat × Nat}
    (hq : q ∈ l.seen) : q.1 ≠ slot := by
  unfold State.renewed at hl
  extract_lets s1 s2 at hl
  have hcores : s1.cores = (s.forgetSeen slot).cores := rfl
  have h2 : (s2.core c).l1 = (s1.core c).l1 := by
    unfold s2
    rw [State.core_modCore]
    split
    · next h => rw [h]
    · rfl
  have hl2 : l ∈ (s2.core c).l1 := hl
  rw [h2, State.core_of_cores hcores c] at hl2
  exact State.seen_forgetSeen hl2 hq

theorem State.block?_restarted (hb : s.block? bid = some b) : (s.restarted b bid).block? bid = some { b with
    opened := true
    wrapping := false } := by
  rw [State.restarted, State.block?_modBlock, if_pos rfl]
  exact congrArg (Option.map _) hb

theorem State.board_restarted : ((s.restarted b bid).board b.slot).interval = 0 ∧ ((s.restarted b bid).board b.slot).state = 1 := by
  have hboard := ((s.purgeSlot b.slot).forgetSeen b.slot).board_modBoard b.slot b.slot (fun x => { x with interval := 0, state := 1 })
  rw [if_pos rfl] at hboard
  exact ⟨congrArg Board.interval hboard, congrArg Board.state hboard⟩

theorem State.stamp_restarted {w : Nat} {x : Stamp}
    (h : ((s.restarted b bid).mark w).w = some x ∨ ((s.restarted b bid).mark w).r = some x) : x.slot ≠ b.slot :=
  State.stamp_purgeSlot (s := s) h

theorem State.core_restarted (c : Nat) : (s.restarted b bid).core c = { s.core c with
    l1 := (s.core c).l1.map (fun l => { l with seen := l.seen.filter (fun q => q.1 ≠ b.slot) }) } :=
  (s.purgeSlot b.slot).core_forgetSeen_eq b.slot c

theorem State.rest_restarted : s.restarted b bid = { s with
    cores := (s.restarted b bid).cores
    marks := (s.restarted b bid).marks
    boards := (s.restarted b bid).boards
    blocks := (s.restarted b bid).blocks } := rfl

end

/-! ### A line that leaves its slice (R269) -/

theorem recordSlots_nodup (r : Nat) : (recordSlots r).Nodup := by
  unfold recordSlots
  split
  · exact List.nodup_nil
  · exact List.nodup_dedup _

section

variable (s : State) (line : Nat)

theorem State.slices_spillLine : (s.spillLine line).slices = s.slices := by
  have hclear : ((s.fillIn line).clearMarks line).slices = s.slices := foldl_keeps State.slices _ (by intros; rfl) _ _
  unfold State.spillLine
  split
  · exact (foldl_keeps State.slices _ (by intros; rfl) _ _).trans hclear
  · exact hclear

theorem State.mark_spillLine {w : Nat} (hw : w ∈ lineWords line) : (s.spillLine line).mark w = Mark.empty := by
  have hclear : ((s.fillIn line).clearMarks line).mark w = Mark.empty :=
    (State.mark_foldl_setMark (fun _ => Mark.empty) (lineWords line) (s.fillIn line) w).trans (if_pos hw)
  unfold State.spillLine
  split
  · exact (State.mark_atticAdd _ _ w).trans hclear
  · exact hclear

theorem State.side_spillLine (h : isHbm (line * 128) = true) : Tab.getD (s.spillLine line).side line 0 = s.record line := by
  rw [State.spillLine, if_pos h]
  exact (Tab.getD_set _ _ _ _ _).trans (if_pos rfl)

theorem State.attic_spillLine (h : isHbm (line * 128) = true) {k : Nat} (hk : k ∈ recordSlots (s.record line).toNat) :
    ((s.spillLine line).board k).attic = ((s.board k).attic + 1) % 2 ^ 32 := by
  have hadd := State.board_foldl_modBoard (fun b => { b with attic := (b.attic + 1) % 2 ^ 32 })
    (recordSlots_nodup (s.record line).toNat) ((s.fillIn line).clearMarks line) k
  rw [if_pos hk, State.board_clearMarks] at hadd
  rw [State.spillLine, if_pos h]
  exact congrArg Board.attic hadd

end

/-- What stays of an entry of a slice when a line leaves. -/
def SliceEntry.without (e : SliceEntry) (line : Nat) : Option SliceEntry :=
  if e.line = line then e.second.map (fun x => ⟨x, none, false⟩)
  else if e.second = some line then some { e with second := none }
  else some e

theorem State.leaveSlice_eq (s : State) (line : Nat) : s.leaveSlice line = { s.spillLine line with
    slices := Tab.modify (s.spillLine line).slices (setKey line) (fun l => l.filterMap (fun e => e.without line)) } := rfl

theorem SliceEntry.holds_without {e f : SliceEntry} {line : Nat} (h : e.without line = some f)
    (hsecond : e.line = line → e.second ≠ some line) : f.holds line = false := by
  unfold SliceEntry.without at h
  split at h
  · next hline =>
    obtain ⟨x, hx, rfl⟩ := Option.map_eq_some_iff.mp h
    have hne : x ≠ line := fun hx' => hsecond hline (by rw [hx, hx'])
    simp [SliceEntry.holds, hne]
  · next hline =>
    split at h
    · obtain rfl := Option.some.inj h
      simp [SliceEntry.holds, hline]
    · next hshared =>
      obtain rfl := Option.some.inj h
      simp [SliceEntry.holds, hline, hshared]

theorem State.resident_leaveSlice {s : State} {line : Nat}
    (h : ∀ e ∈ Tab.getD s.slices (setKey line) [], e.line = line → e.second ≠ some line) :
    (s.leaveSlice line).resident line = false := by
  rw [State.leaveSlice_eq, State.resident, Tab.getD, Tab.look_modify, if_pos rfl, s.slices_spillLine line]
  cases hl : Tab.look s.slices (setKey line) with
  | none => rfl
  | some l =>
    rw [Tab.getD, hl, Option.getD_some] at h
    rw [Option.map_some, Option.getD_some, List.any_eq_false]
    intro f hf
    obtain ⟨e, he, hef⟩ := List.mem_filterMap.mp hf
    exact Bool.eq_false_iff.mp (SliceEntry.holds_without hef (h e he))

/-! ### Attic sweeps (R272) -/

theorem mem_recordSlots {r k : Nat} (h : isPoisonRecord r = false) :
    k ∈ recordSlots r ↔ (bits r 95 64 ≠ 0 ∧ k = bits r 13 0) ∨ (bits r 127 96 ≠ 0 ∧ k = bits r 45 32) := by
  rw [recordSlots, h, if_neg Bool.false_ne_true, List.mem_dedup, List.mem_append, List.mem_ite_nil_right, List.mem_ite_nil_right,
    List.mem_singleton, List.mem_singleton]

/-- A record of write and read stamps and of their words, taken apart again (R268). -/
theorem bits_of_record {w r ws rs : Nat} (hw : w < 2 ^ 32) (hr : r < 2 ^ 32) (hws : ws < 2 ^ 32) (hrs : rs < 2 ^ 32) :
    let n := (BitVec.ofNat 128 (w + ws * 2 ^ 64 + (r * 2 ^ 32 + rs * 2 ^ 96))).toNat
    bits n 13 0 = w % 2 ^ 14 ∧ bits n 95 64 = ws ∧ bits n 45 32 = r % 2 ^ 14 ∧ bits n 63 32 = r ∧ bits n 127 96 = rs := by
  simp only [bits, BitVec.toNat_ofNat]
  omega

theorem bits_lt (x hi lo : Nat) : bits x hi lo < 2 ^ (hi + 1 - lo) := Nat.mod_lt _ (Nat.two_pow_pos _)

/-- A record of which only some parts are kept names the slots of these. -/
theorem mem_recordSlots_kept (r k : Nat) {a b : Bool} (hb : b = true → bits r 127 96 ≠ 0) :
    k ∈ recordSlots (BitVec.ofNat 128 ((if a then bits r 31 0 + bits r 95 64 * 2 ^ 64 else 0) +
        (if b then bits r 63 32 * 2 ^ 32 + bits r 127 96 * 2 ^ 96 else 0))).toNat ↔
      (a = true ∧ bits r 95 64 ≠ 0 ∧ k = bits r 13 0) ∨ (b = true ∧ bits r 127 96 ≠ 0 ∧ k = bits r 45 32) := by
  let kept := fun (c : Bool) (x : Nat) => if c then x else 0
  have hlt : ∀ c hi lo, hi + 1 - lo ≤ 32 → kept c (bits r hi lo) < 2 ^ 32 := fun c hi lo h => by
    have hx := (bits_lt r hi lo).trans_le (Nat.pow_le_pow_right (by decide) h)
    unfold kept
    split <;> omega
  have hsum : (if a then bits r 31 0 + bits r 95 64 * 2 ^ 64 else 0) + (if b then bits r 63 32 * 2 ^ 32 + bits r 127 96 * 2 ^ 96 else 0) =
      kept a (bits r 31 0) + kept a (bits r 95 64) * 2 ^ 64 + (kept b (bits r 63 32) * 2 ^ 32 + kept b (bits r 127 96) * 2 ^ 96) := by
    cases a <;> cases b <;> simp [kept]
  obtain ⟨hw, hws, hr, hstamp, hrs⟩ := bits_of_record (hlt a 31 0 (by decide)) (hlt b 63 32 (by decide)) (hlt a 95 64 (by decide))
    (hlt b 127 96 (by decide))
  have hwslot : bits r 13 0 = bits r 31 0 % 2 ^ 14 := by
    simp only [bits]
    omega
  have hrslot : bits r 45 32 = bits r 63 32 % 2 ^ 14 := by
    simp only [bits]
    omega
  rw [hsum, mem_recordSlots, hw, hws, hr, hrs]
  · cases a <;> cases b <;> simp [kept, hwslot, hrslot]
  · rw [isPoisonRecord, hstamp, hrs]
    cases b with
    | false => simp [kept]
    | true => simp [kept, hb]

/-- A swept record names the slots of the record before that are not retired. -/
theorem State.mem_recordSlots_swept (s : State) {r : Nat} (h : isPoisonRecord r = false) (k : Nat) :
    k ∈ recordSlots (BitVec.ofNat 128 (s.sweptRecord r)).toNat ↔ k ∈ recordSlots r ∧ (s.board k).state ≠ 3 := by
  rw [State.sweptRecord, mem_recordSlots_kept r k (fun hb => by simpa using (Bool.and_eq_true_iff.mp hb).1), mem_recordSlots h]
  simp only [Bool.and_eq_true, decide_eq_true_eq, Bool.not_eq_true', decide_eq_false_iff_not]
  constructor
  · rintro (⟨⟨hws, hlive⟩, -, rfl⟩ | ⟨⟨hrs, hlive⟩, -, rfl⟩)
    · exact ⟨.inl ⟨hws, rfl⟩, hlive⟩
    · exact ⟨.inr ⟨hrs, rfl⟩, hlive⟩
  · rintro ⟨⟨hws, rfl⟩ | ⟨hrs, rfl⟩, hlive⟩
    · exact .inl ⟨⟨hws, hlive⟩, hws, rfl⟩
    · exact .inr ⟨⟨hrs, hlive⟩, hrs, rfl⟩

/-- The sweep of a record: what it counts, and the retired slots that the record named and no longer names. -/
theorem exec_atticSweep (s : State) (line : Nat) : exec (.atticSweep line) s = .next (
    let r := (Tab.getD s.side line 0).toNat
    let gone := (recordSlots r).filter (fun k => (s.board k).state = 3)
    let t := if isHbm (line * 128) then s.perf (homeDie line) 7 1 else s
    if isHbm (line * 128) && (s.stack (stackOf line)).retraining then s
    else if isPoisonRecord r || gone.isEmpty then t
    else (State.atticSub { t with side := Tab.set t.side line (BitVec.ofNat 128 (s.sweptRecord r)) 0 } gone).perf (homeDie line) 8 1) := rfl

/-- A line's record has been swept: it names the slots that it named and that are not retired, and each retired one counts it no more. -/
def Swept (s t : State) (line : Nat) : Prop :=
  let r := (Tab.getD s.side line 0).toNat
  (∀ k, k ∈ recordSlots (Tab.getD t.side line 0).toNat ↔ k ∈ recordSlots r ∧ (s.board k).state ≠ 3) ∧
  (∀ k ∈ recordSlots r, (s.board k).state = 3 →
    t.board k = ⟨(s.board k).interval, if (s.board k).attic ≤ 1 then 0 else 3, (s.board k).attic - 1⟩) ∧
  t = { s with
    side := t.side
    boards := t.boards
    dies := t.dies }

theorem State.rest_atticSub (s : State) (l : List Nat) : ∃ bs, s.atticSub l = { s with boards := bs } := by
  refine List.foldlRecOn (motive := fun t : State => ∃ bs, t = { s with boards := bs }) _ _ ⟨s.boards, rfl⟩ fun t ht k _ => ?_
  obtain ⟨bs, rfl⟩ := ht
  exact ⟨_, rfl⟩

/-- A record that names no retired slot is swept as it stands. -/
theorem swept_of_dies {s : State} {line : Nat} (h : ∀ k ∈ recordSlots (Tab.getD s.side line 0).toNat, (s.board k).state ≠ 3)
    (d : Tab Die) : Swept s { s with dies := d } line :=
  ⟨fun k => ⟨fun hk => ⟨hk, h k hk⟩, And.left⟩, fun k hk h3 => absurd h3 (h k hk), rfl⟩

theorem swept_of_gone {s : State} {line : Nat} (h : isPoisonRecord (Tab.getD s.side line 0).toNat = false) (d : Tab Die) :
    let r := (Tab.getD s.side line 0).toNat
    Swept s ((State.atticSub { s with
      dies := d
      side := Tab.set s.side line (BitVec.ofNat 128 (s.sweptRecord r)) 0 } ((recordSlots r).filter (fun k => (s.board k).state = 3))).perf
        (homeDie line) 8 1) line := by
  intro r
  let u : State := { s with
    dies := d
    side := Tab.set s.side line (BitVec.ofNat 128 (s.sweptRecord r)) 0 }
  let gone := (recordSlots r).filter (fun k => (s.board k).state = 3)
  obtain ⟨bs, hrest⟩ := u.rest_atticSub gone
  refine ⟨fun k => ?_, fun k hk h3 => ?_, ?_⟩
  · have hside : (u.atticSub gone).side = u.side := (congrArg State.side hrest :)
    have hrecord : Tab.getD (u.atticSub gone).side line 0 = BitVec.ofNat 128 (s.sweptRecord r) := by
      rw [hside]
      exact (Tab.getD_set _ _ _ _ _).trans (if_pos rfl)
    show k ∈ recordSlots (Tab.getD (u.atticSub gone).side line 0).toNat ↔ _
    rw [hrecord]
    exact s.mem_recordSlots_swept h k
  · have hboard := State.board_foldl_modBoard (fun b => { b with
      attic := b.attic - 1
      state := if b.state = 3 ∧ b.attic ≤ 1 then 0 else b.state }) ((recordSlots_nodup r).filter (fun k => (s.board k).state = 3)) u k
    rw [if_pos (List.mem_filter.mpr ⟨hk, decide_eq_true h3⟩)] at hboard
    refine hboard.trans ?_
    have hk3 : (u.board k).state = 3 := h3
    simp only [hk3, true_and]
    rfl
  · show (u.atticSub gone).perf (homeDie line) 8 1 = { s with
      side := ((u.atticSub gone).perf (homeDie line) 8 1).side
      boards := ((u.atticSub gone).perf (homeDie line) 8 1).boards
      dies := ((u.atticSub gone).perf (homeDie line) 8 1).dies }
    rw [hrest]
    rfl

theorem exec_atticSweep_swept {s : State} {line : Nat} (h : isPoisonRecord (Tab.getD s.side line 0).toNat = false)
    (ht : isHbm (line * 128) = true → (s.stack (stackOf line)).retraining = false) :
    ∃ t, exec (.atticSweep line) s = .next t ∧ Swept s t line := by
  refine ⟨_, exec_atticSweep s line, ?_⟩
  extract_lets r gone t
  have hdies : ∃ d, t = { s with dies := d } := by
    unfold t
    split
    · exact ⟨_, rfl⟩
    · exact ⟨s.dies, rfl⟩
  obtain ⟨d, hd⟩ := hdies
  have hserves : ¬ (isHbm (line * 128) && (s.stack (stackOf line)).retraining) = true := by
    rw [Bool.and_eq_true]
    exact fun hw => Bool.false_ne_true ((ht hw.1).symm.trans hw.2)
  rw [if_neg hserves, h, Bool.false_or, hd]
  split
  · next hnone =>
    refine swept_of_dies (fun k hk h3 => ?_) d
    exact List.filter_eq_nil_iff.mp (List.isEmpty_iff.mp hnone) k hk (decide_eq_true h3)
  · exact swept_of_gone h d

/-! ### The interval board -/

theorem exec_implicitSplit {s : State} {bid : Nat} {b : Block} (hb : s.block? bid = some b) (hc : b.closeReq = true)
    (hw : s.boundaryWaits b = false) : exec (.implicitSplit bid) s =
      .next ((s.split b).modBlock bid (fun x => { x with impSplits := satAdd 32 x.impSplits 1 })) := by
  show execImplicitSplit bid s = _
  unfold execImplicitSplit
  simp only [hb, hc, hw, Bool.not_true, Bool.false_eq_true, if_false]

theorem exec_lineEvict (s : State) (line : Nat) : exec (.lineEvict line) s =
    .next (if !s.resident line || !s.mayLeave line then s else s.leaveSlice line) := rfl

/-- Settles O48, event by event: a close request compacts or asks, the block that is asked makes a boundary as u.isplit does, a slot is
renewed or purged, a line leaves with its record, and a sweep drops retired slots. -/
theorem intervals : Obligations.Intervals := by
  intro s span slice bid line b n short
  refine ⟨fun h => ?_, fun h hline hhbm hfits => ?_, fun m h hfits hm hold hb hmem hslot hone hseen => ?_, fun hb hbid => ⟨?_, ?_⟩,
    fun hres hsecond => ⟨fun hleave => ?_, fun hleave => ?_⟩, fun hhbm hwait => ?_, fun hpoison htrained => ?_⟩
  · obtain ⟨hfree, hstuck⟩ := not_or.mp h
    rw [exec_closeRequest, if_pos]
    rw [Bool.and_eq_true, decide_eq_true_eq, Bool.not_eq_true']
    exact ⟨Nat.not_lt.mp hfree, Bool.eq_false_iff.mpr hstuck⟩
  · refine ⟨_, exec_closeRequest_short h, fun w hw x hx => State.stamp_compactMark (w := w) ?_⟩
    have hmark : (s.compacted n).mark w = s.compactMark w := by
      rw [State.compacted, hline]
      exact State.mark_compactLine hhbm hfits hw
    rwa [State.mark_askClose, hmark] at hx
  · obtain ⟨ws, hexec⟩ := exec_closeRequest_asks h hfits hm hold hmem hslot hone hseen
    refine ⟨_, hexec, ?_, fun k hk => ?_, rfl⟩
    · exact (State.block?_modBlock _ bid bid _).trans (by rw [if_pos rfl]; exact congrArg (Option.map _) hb)
    · exact (State.block?_modBlock _ bid k _).trans (if_neg hk.symm)
  · intro hc hw ho hd
    subst hbid
    have hmade := State.boundaryMade_split ho hb hd
    have hexec := exec_implicitSplit hb hc hw
    generalize s.split b = t at hmade hexec
    obtain ⟨c, hblock, himp, hclose⟩ := hmade.block
    refine ⟨_, { c with impSplits := satAdd 32 c.impSplits 1 }, hexec, ?_, congrArg (satAdd 32 · 1) himp, hclose,
      hmade.seen, hmade.emptied, hmade.interval, hmade.gangs, hmade.memory.trans (.modBlock ..)⟩
    rw [State.block?_modBlock, if_pos rfl, hblock, Option.map_some]
  · intro hw hs
    refine ⟨fun slot ha hslot => ?_, fun ha hslot => ?_, fun ha h2 => ?_, fun ha h2 => ?_⟩
    · have hne : slot ≠ b.slot := fun e => ha (by rw [← e]; exact State.attic_of_freeSlot hslot)
      obtain ⟨hinterval, hlive, hretired⟩ := State.board_renewed (bid := bid) hne ha
      exact ⟨s.renewed b bid slot, exec_slotRenewal_free hb hw hs ha hslot, State.block?_renewed hb, hinterval, hlive, hretired,
        fun _ _ hl _ hq => State.seen_renewed hl hq, fun _ _ hx => State.stamp_renewed hx, State.renew_renewed, State.mem_renewed,
        State.gangs_renewed⟩
    · exact exec_slotRenewal_full hb hw hs ha hslot
    · refine ⟨_, (exec_slotPurge hb hw hs ha).trans (by rw [if_pos h2]), ?_, fun k hk => ?_, rfl⟩
      · rw [State.board_modBoard, if_pos rfl]
      · rw [State.board_modBoard, if_neg hk.symm]
    · obtain ⟨hinterval, hlive⟩ := State.board_restarted (s := s) (bid := bid) (b := b)
      exact ⟨s.restarted b bid, (exec_slotPurge hb hw hs ha).trans (by rw [if_neg (not_not_intro h2)]), State.block?_restarted hb,
        hinterval, hlive, fun _ _ hx => State.stamp_restarted hx, fun c => State.core_restarted c, State.rest_restarted⟩
  · rw [exec_lineEvict, hleave, Bool.not_false, Bool.or_true, if_pos rfl]
  · refine ⟨s.leaveSlice line, ?_, State.resident_leaveSlice hsecond, State.mem_of_offHomes (s.offHomes_spillLine line),
      fun w hw => s.mark_spillLine line hw, fun hhbm => ⟨s.side_spillLine line hhbm, fun k hk => s.attic_spillLine line hhbm hk⟩⟩
    rw [exec_lineEvict, hres, hleave, Bool.not_true, Bool.or_self, if_neg Bool.false_ne_true]
  · have hstop : (isHbm (line * 128) && (s.stack (stackOf line)).retraining) = true := by rw [hhbm, hwait, Bool.and_self]
    rw [exec_atticSweep]
    simp only [hstop, if_true]
  · obtain ⟨t, hexec, hswept⟩ := exec_atticSweep_swept hpoison htrained
    exact ⟨t, hexec, hswept⟩

end Sys2Proof.Machine
end
